-- ==== Sys2Proof/Word.lean ====
section
/-!
DEFINITION. The register word and the byte, as R6 of spec/00_scope.md fixes them: control-space registers are
64 bits wide; memory is addressed by bytes.
-/

namespace Sys2Proof

/-- A control-space register word (R6). -/
abbrev W64 := BitVec 64

/-- A byte of memory. -/
abbrev Byte := BitVec 8

end Sys2Proof
end

