-- ==== Sys2Proof/Syntax.lean ====
section
/-!
DEFINITION. The commands of the block: one constructor per row of spec/opcode_table.json, with the row's operands.
A command is an event that reaches the device or falls due in one of its units; what the event is about (a store's
value, an arriving flit, a tick of the timebase, a count of cycles, a tile) is its operand.
-/

namespace Sys2Proof

/-- Who makes an access (R43, R329): its privilege and its ingress number follow. -/
inductive Who where
  /-- A control core, 0–15, and its mode: 0 user, 1 supervisor, 3 machine. -/
  | core (n mode : Nat)
  /-- The management core. -/
  | mgmt
  /-- A request of another device that arrived on an Agxis port and virtual lane. -/
  | remote (dev port vl : Nat)
  /-- An Ethernet port's engine. -/
  | eth (port : Nat)
  /-- A unit of compute die d. -/
  | die (d : Nat)
  /-- A unit inside a wellhead die. -/
  | well
deriving DecidableEq, Repr

/-- A flit as it arrives or leaves: the header fields of Table 7.2 and the 240 payload bytes (R136). -/
structure Flit where
  ftype : Nat
  ackV : Bool
  ackSeq : Nat
  nak : Bool
  seq : Nat
  dest : Nat
  src : Nat
  crPool : Nat
  crCnt : Nat
  hops : Nat
  ind : Bool
  mcast : Bool
  poison : Bool
  len : Nat
  first : Bool
  last : Bool
  rsp : Bool
  vl : Nat
  crc : Nat
  payload : List Byte
deriving DecidableEq, Repr

/-- The number of what a command is about (a port, a flit, a request), and the count told with it: a tick, cycles or beats. -/
structure Told where
  n : Nat
  count : Nat
deriving DecidableEq, Repr

/-- What a port may send now: flit times left in the open window, and flits of one packet. -/
structure SendSpan where
  left : Nat
  flits : Nat
deriving DecidableEq, Repr

/-- Cycles told with a step: those left in the beat, those for which a port waited at a bank, and those for which window
accesses waited for a step. -/
structure StepSpan where
  left : Nat
  bank : Nat
  window : Nat
deriving DecidableEq, Repr

/-- The lanes as training ends: the mask of those that did not train, and the codewords by which each is behind the earliest. -/
structure Trained where
  bad : Nat
  skew : List Nat
deriving DecidableEq, Repr

/-- The commands. Each constructor's row of spec/opcode_table.json is named in LAWS.json. -/
inductive Instr where
  /-- BEAT_ENABLE (R28). -/
  | beatEnable (w : Who) (v : Nat)
  /-- BEAT_DISABLE (R28). -/
  | beatDisable (w : Who) (v : Nat)
  /-- BEAT_PERIOD_WRITE (R26). -/
  | beatPeriodWrite (w : Who) (v : Nat)
  /-- BEAT_MARK (R27). -/
  | beatMark (t tod : Nat)
  /-- MARK (R152). -/
  | markFlit (k t tod : Nat)
  /-- MARK_MISSING (R28). -/
  | markMissing (tod : Nat)
  /-- BEAT_BOUNDARY (R41). -/
  | beatBoundary (tod : Nat)
  /-- HOLDOVER_MAX_REACHED (R28). -/
  | holdoverMaxReached
  /-- BEAT_ENTRY_WRITE (R32). -/
  | beatEntryWrite (w : Who) (e k v : Nat)
  /-- BEAT_PAGE_BASE_WRITE (R35). -/
  | beatPageBaseWrite (w : Who) (n v : Nat)
  /-- PAGE_SWAP_ARM (R35). -/
  | pageSwapArm (w : Who) (v : Nat)
  /-- PAGE_SWAP_WITHDRAW (R35). -/
  | pageSwapWithdraw (w : Who) (v : Nat)
  /-- ENTRY_START (R33). -/
  | entryStart (e fill urg full sealw : Nat)
  /-- FILLER_START (R36). -/
  | fillerStart (e left sealw : Nat)
  /-- OP_COMPLETE (R74). -/
  | opComplete (id : Nat)
  /-- SEAL_SEND (R151). -/
  | sealSend (p : Nat)
  /-- SEAL_STAGE_SEND (R151). -/
  | sealStageSend (p : Nat)
  /-- BEAT_SEAL (R39). -/
  | beatSeal (k : Nat)
  /-- SEAL_WAIT_RELEASE (R40). -/
  | sealWaitRelease (k : Told)
  /-- VL0_SLOT_START (R156). -/
  | vl0SlotStart (n : Nat)
  /-- IMG_LOAD_GO (R59). -/
  | imgLoadGo (w : Who) (v : Nat)
  /-- IMG_LOAD_RESTAGE (R61). -/
  | imgLoadRestage (w : Who) (v : Nat)
  /-- IMG_LOAD_DONE (R59). -/
  | imgLoadDone
  /-- ACTIVATION_START (R62). -/
  | activationStart
  /-- STRENGTH_REFORMAT (R62). -/
  | strengthReformat
  /-- IMG_SWAP_ARM (R63). -/
  | imgSwapArm (w : Who) (v : Nat)
  /-- IMG_SWAP_WITHDRAW (R63). -/
  | imgSwapWithdraw (w : Who) (v : Nat)
  /-- IMG_UNLOAD (R63). -/
  | imgUnload (w : Who) (v : Nat)
  /-- SWAP_RECONFIG (R63). -/
  | swapReconfig
  /-- IMG_SLOT_FREE (R61). -/
  | imgSlotFree (w : Who) (v : Nat)
  /-- IMG_PAGE_COPY (R55). -/
  | imgPageCopy (w : Who) (v : Nat)
  /-- PAGE_COPY_DONE (R55). -/
  | pageCopyDone
  /-- IMG_RETILE (R66). -/
  | imgRetile (w : Who) (v : Nat)
  /-- STEP_ISSUE (R72). -/
  | stepIssue (t stall exec array exposed : Nat) (left : StepSpan)
  /-- TILE_FAULT_CLEAR (R85). -/
  | tileFaultClear (w : Who) (t v : Nat)
  /-- TILE_INJECT_POISON_OUT (R88). -/
  | tileInjectPoisonOut (w : Who) (t v : Nat)
  /-- TILE_INJECT_SHADOW_PARITY (R88). -/
  | tileInjectShadowParity (w : Who) (t v : Nat)
  /-- MATMUL (R75). -/
  | matmul (t : Nat)
  /-- MATMUL_GROUPED (R75). -/
  | matmulGrouped (t : Nat)
  /-- MATMUL_WGRAD (R75). -/
  | matmulWgrad (t : Nat)
  /-- ATTN_FWD (R179). -/
  | attnFwd (t : Nat)
  /-- ATTN_BWD (R197). -/
  | attnBwd (t : Nat)
  /-- ATTN_DECODE (R195). -/
  | attnDecode (t : Nat)
  /-- ATTN_MERGE (R199). -/
  | attnMerge (t : Nat)
  /-- ATTN_INJECT_MISPREDICT (R201). -/
  | attnInjectMispredict (w : Who) (t v : Nat)
  /-- ATTN_INJECT_FORCE_RECOVER (R201). -/
  | attnInjectForceRecover (w : Who) (t v : Nat)
  /-- VEC_PROGRAM (R83). -/
  | vecProgram (t : Nat)
  /-- REDUCE_LOCAL (R83). -/
  | reduceLocal (t : Nat)
  /-- CONVERT (R83). -/
  | convertOp (t : Nat)
  /-- COPY_GATHER (R83). -/
  | copyGather (t : Nat)
  /-- ROUTE_TOPK (R227). -/
  | routeTopk (t : Nat)
  /-- DISPATCH_SEND (R234). -/
  | dispatchSend (t : Nat)
  /-- DISPATCH_PLAN (R238). -/
  | dispatchPlan (t : Nat)
  /-- DISPATCH_PREFETCH (R239). -/
  | dispatchPrefetch (t : Nat)
  /-- COMBINE_RETURN (R244). -/
  | combineReturn (t : Nat)
  /-- COMBINE_GATHER (R244). -/
  | combineGather (t : Nat)
  /-- UPDATE (R264). -/
  | updateOp (t : Nat)
  /-- KAT (R312). -/
  | kat (t : Nat) (ms : List (Nat × Nat))
  /-- END (R266). -/
  | endProg (t : Nat)
  /-- LDP (R266). -/
  | ldp (t : Nat)
  /-- LDG (R266). -/
  | ldg (t : Nat)
  /-- LDS (R266). -/
  | lds (t : Nat)
  /-- LDW (R266). -/
  | ldw (t : Nat)
  /-- RSTEP (R266). -/
  | rstep (t : Nat)
  /-- STP (R266). -/
  | stp (t : Nat)
  /-- STS (R266). -/
  | sts (t : Nat)
  /-- STW (R266). -/
  | stw (t : Nat)
  /-- ADD (R266). -/
  | addV (t : Nat)
  /-- SUB (R266). -/
  | subV (t : Nat)
  /-- MUL (R266). -/
  | mulV (t : Nat)
  /-- FMA (R266). -/
  | fma (t : Nat)
  /-- MAX (R266). -/
  | maxV (t : Nat)
  /-- MIN (R266). -/
  | minV (t : Nat)
  /-- ABS (R266). -/
  | absV (t : Nat)
  /-- ADDS (R266). -/
  | adds (t : Nat)
  /-- MULS (R266). -/
  | muls (t : Nat)
  /-- FMAS (R266). -/
  | fmas (t : Nat)
  /-- BCAST (R266). -/
  | bcast (t : Nat)
  /-- EXP2 (R266). -/
  | exp2 (t : Nat)
  /-- LOG2 (R266). -/
  | log2 (t : Nat)
  /-- RSQRT (R266). -/
  | rsqrt (t : Nat)
  /-- RCP (R266). -/
  | rcp (t : Nat)
  /-- RSUMSQ (R267). -/
  | rsumsq (t : Nat)
  /-- RSUM (R267). -/
  | rsum (t : Nat)
  /-- RMAXABS (R267). -/
  | rmaxabs (t : Nat)
  /-- SADD (R266). -/
  | sadd (t : Nat)
  /-- SSUB (R266). -/
  | ssub (t : Nat)
  /-- SMUL (R266). -/
  | smul (t : Nat)
  /-- SMAX (R266). -/
  | smax (t : Nat)
  /-- SMIN (R266). -/
  | smin (t : Nat)
  /-- SRSQRT (R266). -/
  | srsqrt (t : Nat)
  /-- SRCP (R266). -/
  | srcp (t : Nat)
  /-- SEXP2 (R266). -/
  | sexp2 (t : Nat)
  /-- SLOG2 (R266). -/
  | slog2 (t : Nat)
  /-- SIMM (R266). -/
  | simm (t : Nat)
  /-- SCHED (R270). -/
  | sched (t : Nat)
  /-- PASS (R267). -/
  | passPhase (t : Nat)
  /-- MGRAM (R268). -/
  | mgram (t : Nat)
  /-- MMUL (R268). -/
  | mmul (t : Nat)
  /-- LOOP (R266). -/
  | loopProg (t : Nat)
  /-- STREAM_PRIME (R117). -/
  | streamPrime (t e : Nat)
  /-- WATCH_GRANT (R122). -/
  | watchGrant (t : Nat)
  /-- PIECE_ISSUE (R115). -/
  | pieceIssue (t : Nat)
  /-- PIECE_ARRIVE (R114). -/
  | pieceArrive (t r : Nat)
  /-- PUMP_INJECT_ADDR_ERR (R129). -/
  | pumpInjectAddrErr (w : Who) (t v : Nat)
  /-- PUMP_INJECT_STALE (R129). -/
  | pumpInjectStale (w : Who) (t v : Nat)
  /-- NEAR_CACHE_INV (R126). -/
  | nearCacheInv (w : Who) (t v : Nat)
  /-- NEAR_CACHE_INV_DONE (R126). -/
  | nearCacheInvDone (t : Nat)
  /-- CISTERN_WINDOW_ACCESS (R87). -/
  | cisternWindowAccess (w : Who) (l o n : Nat) (wr : Bool) (d : List Byte)
  /-- AGX_PORT_ENABLE (R321). -/
  | agxPortEnable (w : Who) (p v : Nat)
  /-- AGX_PORT_DISABLE (R321). -/
  | agxPortDisable (w : Who) (p v : Nat)
  /-- AGX_LOOP (R154). -/
  | agxLoop (w : Who) (p v : Nat)
  /-- AGX_PORT_CTL_WRITE (R135). -/
  | agxPortCtlWrite (w : Who) (p v : Nat)
  /-- PORT_DRAIN_DONE (R135). -/
  | portDrainDone (p : Nat)
  /-- TRAIN_DONE (R135). -/
  | trainDone (p : Nat) (bad : Trained)
  /-- TRAIN_TIMEOUT (R135). -/
  | trainTimeout (p bad : Nat)
  /-- DOWN_RETRY (R135). -/
  | downRetry (p : Nat)
  /-- LINK_ID (R135). -/
  | linkId (k : Told)
  /-- IDENTIFY_TIMEOUT (R135). -/
  | identifyTimeout (p : Nat)
  /-- LANE_FAIL (R138). -/
  | laneFail (p lane corr unc : Nat)
  /-- SPARE_REQ (R138). -/
  | spareReq (k : Nat)
  /-- SPARE_ACK (R138). -/
  | spareAck (k : Nat)
  /-- RETRAIN_DONE (R135). -/
  | retrainDone (p : Told)
  /-- LOCK_LOST (R135). -/
  | lockLost (p : Nat)
  /-- FLIT_RECEIVE (R137). -/
  | flitReceive (p : Nat) (f : Flit)
  /-- REPLAY_TIMEOUT (R137). -/
  | replayTimeout (p : Nat)
  /-- PACKET_SEND (R140). -/
  | packetSend (p : Nat) (left : SendSpan)
  /-- RTT_PROBE_TIMER (R152). -/
  | rttProbeTimer (p t : Nat)
  /-- RTT_PROBE (R152). -/
  | rttProbe (k : Nat)
  /-- RTT_ECHO (R152). -/
  | rttEcho (k t : Nat)
  /-- LOOP_REQ (R154). -/
  | loopReq (k : Nat)
  /-- LOOP_EXIT (R154). -/
  | loopExit (k : Nat)
  /-- AGX_PORT_INJECT_CRC (R155). -/
  | agxPortInjectCrc (w : Who) (p v : Nat)
  /-- LANE_FAIL_NOW (R138). -/
  | laneFailNow (w : Who) (p v : Nat)
  /-- AGX_ROUTE_SWAP (R148). -/
  | agxRouteSwap (w : Who) (v : Nat)
  /-- ROUTE_FENCE_TIMEOUT (R150). -/
  | routeFenceTimeout (d : Nat)
  /-- READ (R143). -/
  | readReq (k : Nat)
  /-- WRITE (R143). -/
  | writeReq (k : Nat)
  /-- WRITE_POSTED (R143). -/
  | writePosted (k : Nat)
  /-- FP32_ADD (R147). -/
  | fp32Add (k : Nat)
  /-- INT64_ADD (R147). -/
  | int64Add (k : Nat)
  /-- FP32_MAX (R147). -/
  | fp32Max (k : Nat)
  /-- CAS64 (R147). -/
  | cas64 (k : Nat)
  /-- REDUCE_PUT (R160). -/
  | reducePut (k : Nat)
  /-- REDUCE_PUT_ADD (R160). -/
  | reducePutAdd (t : Nat)
  /-- MULTICAST_WRITE (R163). -/
  | multicastWrite (k : Nat)
  /-- COMPLETION (R144). -/
  | completion (k : Nat)
  /-- READ_DATA (R144). -/
  | readData (k : Nat)
  /-- NP_TIMEOUT (R145). -/
  | npTimeout (tag : Nat)
  /-- TAG_QUARANTINE_END (R145). -/
  | tagQuarantineEnd (tag : Nat)
  /-- BRANCH_PRUNE (R164). -/
  | branchPrune (n : Nat) (p : Told)
  /-- MC_ACK (R165). -/
  | mcAck (k : Nat)
  /-- MC_PRUNE (R165). -/
  | mcPrune (k : Nat)
  /-- MC_PRUNED (R165). -/
  | mcPruned (k : Nat)
  /-- MC_PULLED (R165). -/
  | mcPulled (k : Nat)
  /-- MC_END (R165). -/
  | mcEnd (k : Nat)
  /-- MC_PULL_DONE (R165). -/
  | mcPullDone (n : Nat)
  /-- PULL_DONE (R165). -/
  | pullDone (w : Who) (n v : Nat)
  /-- PULL_DROP (R172). -/
  | pullDrop (w : Who) (n v : Nat)
  /-- MC_TREE_WRITE (R172). -/
  | mcTreeWrite (w : Who) (n k v : Nat)
  /-- PORT_SILENT (R167). -/
  | portSilent (p : Nat)
  /-- AGX_FENCE_ARM (R168). -/
  | agxFenceArm (w : Who) (v : Nat)
  /-- FENCE_NOTE (R169). -/
  | fenceNote (k : Nat)
  /-- ALLOC (R211). -/
  | alloc (c : Nat)
  /-- SHARE (R211). -/
  | sharePage (c : Nat)
  /-- COW (R213). -/
  | cow (c : Nat)
  /-- FREE (R211). -/
  | freeFrame (c : Nat)
  /-- PIN (R211). -/
  | pin (c : Nat)
  /-- UNPIN (R211). -/
  | unpin (c : Nat)
  /-- SEAL (R211). -/
  | sealPage (c : Nat)
  /-- APPEND (R212). -/
  | appendKv (c : Nat)
  /-- PFX_MATCH (R218). -/
  | pfxMatch (c : Nat)
  /-- PFX_INSERT (R219). -/
  | pfxInsert (c : Nat)
  /-- PFX_EVICT (R219). -/
  | pfxEvict (c : Nat)
  /-- KVP_CMDQ_ADMIT (R208). -/
  | kvpCmdqAdmit (q : Nat)
  /-- SEALING_DONE (R211). -/
  | sealingDone (f : Nat)
  /-- COW_COPY_DONE (R213). -/
  | cowCopyDone (f : Nat)
  /-- FREE_LIST_REBUILD_DONE (R204). -/
  | freeListRebuildDone
  /-- KVP_FLUSH (R204). -/
  | kvpFlush (w : Who) (v : Nat)
  /-- KVP_WALK_INV (R207). -/
  | kvpWalkInv (w : Who) (v : Nat)
  /-- KVP_FRAME_RD (R204). -/
  | kvpFrameRd (w : Who) (v : Nat)
  /-- PAGE_TRANSLATE (R206). -/
  | pageTranslate (t c pg : Nat)
  /-- PFX_CLEAR (R214). -/
  | pfxClear (w : Who) (v : Nat)
  /-- ADMIT (R221). -/
  | seqAdmit (c : Nat)
  /-- PARK (R221). -/
  | park (c : Nat)
  /-- ACTIVATE (R221). -/
  | activate (c : Nat)
  /-- SEQ_RELEASE (R221). -/
  | seqRelease (c : Nat)
  /-- FORK (R222). -/
  | fork (c : Nat)
  /-- CONTEXT_RESTORE (R221). -/
  | contextRestore (h : Nat)
  /-- EXP_DIR_UPD_ARM (R231). -/
  | expDirUpdArm (w : Who) (v : Nat)
  /-- WIDEN_FETCH_DONE (R241). -/
  | widenFetchDone (r : Nat)
  /-- WGQ_SLICE_START (R252). -/
  | wgqSliceStart (n left : Nat)
  /-- WGQ_DRAIN (R254). -/
  | wgqDrain (w : Who) (v : Nat)
  /-- WGQ_COMPLETE (R255). -/
  | wgqComplete (n : Nat)
  /-- VOTE (R278). -/
  | vote (w : Who) (v : Nat)
  /-- VOTE_SEND (R278). -/
  | voteSend
  /-- REVOTE (R278). -/
  | revote (w : Who) (v : Nat)
  /-- STAGED (R279). -/
  | staged
  /-- MIDNIGHT (R278). -/
  | midnight
  /-- ABORT (R278). -/
  | abortMsg
  /-- FLIPPED (R279). -/
  | flipped
  /-- RELEASE (R278). -/
  | release
  /-- DECIDE_TIMEOUT (R278). -/
  | decideTimeout
  /-- VOTE_DEADLINE (R279). -/
  | voteDeadline
  /-- ABORT_NOW (R279). -/
  | abortNow (w : Who) (v : Nat)
  /-- FLIP_BACK (R276). -/
  | flipBack (w : Who) (v : Nat)
  /-- SET (R276). -/
  | setBank (w : Who) (v : Nat)
  /-- HBM_REREAD (R293). -/
  | hbmReread (a syms : Nat)
  /-- AGE_CAP (R289). -/
  | ageCap (pc : Nat)
  /-- HBM_REFRESH (R290). -/
  | hbmRefresh (pc : Nat)
  /-- SCRUB_GO (R302). -/
  | scrubGo (w : Who) (v : Nat)
  /-- SCRUB_CODEWORD (R303). -/
  | scrubCodeword
  /-- SCRUB_PASS_DONE (R303). -/
  | scrubPassDone
  /-- ECC_SELFTEST (R300). -/
  | eccSelftest (w : Who) (v : Nat)
  /-- ECC_SELFTEST_DONE (R300). -/
  | eccSelftestDone (hbm tiles : Nat)
  /-- HBM_CORR (R301). -/
  | hbmCorr (w : Who) (v : Nat)
  /-- HBM_UNCORR (R301). -/
  | hbmUncorr (w : Who) (v : Nat)
  /-- CIST_ROW (R301). -/
  | cistRow (w : Who) (v : Nat)
  /-- CIST_GROUP (R301). -/
  | cistGroup (w : Who) (v : Nat)
  /-- HBM_PPR (R304). -/
  | hbmPpr (w : Who) (n v : Nat)
  /-- HBM_PPR_DONE (R304). -/
  | hbmPprDone (n st : Nat)
  /-- COLUMN_SWEEP (R298). -/
  | columnSweep (t g : Nat) (bad near : Bool)
  /-- ROW_REBUILD_DONE (R298). -/
  | rowRebuildDone (t line : Nat)
  /-- DAWN (R308). -/
  | dawn (plim boot : Nat) (rom : Bool)
  /-- DAWN_READY (R308). -/
  | dawnReady (ms : Nat) (bad : List (Nat × Nat)) (trained : Nat)
  /-- WARM_RESET (R316). -/
  | warmReset
  /-- MORNING (R316). -/
  | morning (rom : Bool)
  /-- MORNING_READY (R316). -/
  | morningReady (ms : Nat) (bad : List (Nat × Nat)) (trained : Nat)
  /-- COLD_RESET (R379). -/
  | coldReset
  /-- PWR_OK_DEASSERT (R380). -/
  | pwrOkDeassert
  /-- UNDERVOLTAGE (R380). -/
  | undervoltage
  /-- VIN_AUX_LOSS (R380). -/
  | vinAuxLoss
  /-- BEAT_REF_LOSS (R382). -/
  | beatRefLoss
  /-- DUSK (R319). -/
  | dusk (w : Who) (v : Nat)
  /-- DUSK_DRAIN_DONE (R319). -/
  | duskDrainDone
  /-- NIGHT_ENTER (R319). -/
  | nightEnter
  /-- WAKE (R320). -/
  | wake (w : Who) (v : Nat)
  /-- WAKE_DONE (R320). -/
  | wakeDone
  /-- DRAIN_COMPLETE (R321). -/
  | drainComplete (u : Nat)
  /-- OFF_TIME_MET (R321). -/
  | offTimeMet (u : Nat)
  /-- TILE_POWER_READY (R309). -/
  | tilePowerReady (t : Nat) (ok : Bool)
  /-- TILE_CLOCK_GATE (R322). -/
  | tileClockGate (t : Nat)
  /-- POWER_SAMPLE (R324). -/
  | powerSample (mw : Nat)
  /-- CLOCK_STEP_DOWN (R324). -/
  | clockStepDown
  /-- FLOOR_HOLD (R324). -/
  | floorHold
  /-- THERMAL_STEP (R325). -/
  | thermalStep (tj die : Nat)
  /-- THERM_95 (R325). -/
  | therm95 (tj die : Nat)
  /-- THERMAL_TRIP (R325). -/
  | thermalTrip (tj die : Nat)
  /-- PWR_RPR_GO (R315). -/
  | pwrRprGo (w : Who) (v : Nat)
  /-- REPAIR_RECORD_WRITE (R315). -/
  | repairRecordWrite (ok : Bool)
  /-- CORE_RESET (R328). -/
  | coreReset (w : Who) (n v : Nat)
  /-- C2M_FULL (R330). -/
  | c2mFull (w : Who) (v : Nat)
  /-- M2C_FULL (R330). -/
  | m2cFull (w : Who) (v : Nat)
  /-- RING_AGE_INTERRUPT (R331). -/
  | ringAgeInterrupt (n : Nat)
  /-- SVN_ADVANCE (R337). -/
  | svnAdvance (w : Who) (v : Nat)
  /-- CFG_APPLY (R340). -/
  | cfgApply (w : Who) (v : Nat)
  /-- ENTDAA (R351). -/
  | entdaa (a : Nat)
  /-- MCTP_CONTROL (R351). -/
  | mctpControl (m : List Byte)
  /-- PLDM_SENSOR (R352). -/
  | pldmSensor (m : List Byte)
  /-- FIRMWARE (R352). -/
  | firmwareXfer (o : Nat) (d : List Byte)
  /-- CONFIG (R352). -/
  | configXfer (o : Nat) (d : List Byte)
  /-- REPAIR (R352). -/
  | repairXfer (o : Nat) (d : List Byte)
  /-- VERIFY_COMPLETE (R352). -/
  | verifyComplete
  /-- APPLY_COMPLETE (R352). -/
  | applyComplete
  /-- GET_CERT (R343). -/
  | getCert (m : List Byte)
  /-- GET_REPORT (R343). -/
  | getReport (m : List Byte)
  /-- GET_CHUNK (R343). -/
  | getChunk (m : List Byte)
  /-- REPORT_SIGNED (R342). -/
  | reportSigned (h : Nat)
  /-- REPORT_HANDLE_FREE (R343). -/
  | reportHandleFree (h : Nat)
  /-- ETH_PORT_ENABLE (R321). -/
  | ethPortEnable (w : Who) (p v : Nat)
  /-- ETH_LOOP (R345). -/
  | ethLoop (w : Who) (p v : Nat)
  /-- ETH_LINK_UP (R345). -/
  | ethLinkUp (p : Nat)
  /-- ETH_LINK_DOWN (R345). -/
  | ethLinkDown (p : Nat)
  /-- ETH_FRAME (R345). -/
  | ethFrame (p : Nat) (d : List Byte) (full : Bool)
  /-- ROCE_PACKET (R347). -/
  | rocePacket (k : Nat) (free gap : Bool) (rtt : Nat)
  /-- SEND (R348). -/
  | send (i : Nat)
  /-- SEND_IMM (R348). -/
  | sendImm (i : Nat)
  /-- RDMA_WRITE (R348). -/
  | rdmaWrite (i : Nat)
  /-- WRITE_IMM (R348). -/
  | writeImm (i : Nat)
  /-- RDMA_READ (R348). -/
  | rdmaRead (i : Nat)
  /-- XFER_RELEASE (R349). -/
  | xferRelease (n : Nat)
  /-- WR_COMPLETE (R348). -/
  | wrComplete (i : Nat)
  /-- ROCE_RETRANSMIT_TIMEOUT (R347). -/
  | roceRetransmitTimeout (q : Nat)
  /-- CNP (R350). -/
  | cnp (k : Nat)
  /-- CC_INTERVAL (R350). -/
  | ccInterval
  /-- BASE_RTT_RESET (R350). -/
  | baseRttReset
  /-- PTP_STEP (R346). -/
  | ptpStep (w : Who) (p v : Nat)
  /-- BYPASS (R353). -/
  | bypass (d : Nat)
  /-- IDCODE (R353). -/
  | idcode
  /-- SAMPLE_PRELOAD (R353). -/
  | samplePreload (d : Nat)
  /-- EXTEST (R353). -/
  | extest (d : Nat)
  /-- EXTEST_PULSE (R353). -/
  | extestPulse (d : Nat)
  /-- EXTEST_TRAIN (R353). -/
  | extestTrain (d : Nat)
  /-- SCAN_DEBUG (R353). -/
  | scanDebug (d : Nat)
  /-- CORE_DEBUG (R353). -/
  | coreDebug (d : Nat)
  /-- IEEE_1500_ACCESS (R353). -/
  | ieee1500Access (n d : Nat)
  /-- REGISTER_WRITE (R7). -/
  | registerWrite (w : Who) (o n : Nat) (d : List Byte)
  /-- REGION_INIT_DONE (R63). -/
  | regionInitDone
  /-- APPEND_DONE (R209). -/
  | appendDone (i : Nat)
  /-- STACK_FAILURE (R285). -/
  | stackFailure (st : Nat)
  /-- VIN_AUX_3V3_RISE (R378). -/
  | vinAux3v3Rise
  /-- PLDM_TYPE_0 (R351). -/
  | pldmType0 (m : List Byte)
  /-- ACKNOWLEDGEMENT_INTERVAL (R137). -/
  | acknowledgementInterval (p : Nat)
  /-- ON_DIE_ECC_STATUS_READ (R284). -/
  | onDieEccStatusRead (st : List (Nat × Nat))
deriving DecidableEq, Repr

end Sys2Proof
end

