-- ==== Sys2Proof/Decode.lean ====
section
/-!
DEFINITION. Commands from words. The spec gives no command an encoding, and no row of spec/opcode_table.json has fields, so
no word spells a command.
-/

namespace Sys2Proof

/-- The command that a word of `nbits` bits spells by the table: none, since the table gives no row bits. -/
def decodeTableWord (_nbits _w : Nat) : Option Instr := none

end Sys2Proof
end

