-- ==== Sys2Proof/Config.lean ====
section
/-!
DEFINITION. What one part or one configuration fixes and the spec's rules leave open: constants and functions
without a body, so that no proof can see a value of one (the free values), and the few numbers the spec states
for a choice between parts.
-/

namespace Sys2Proof.Config

/-- R1, Table 0.1: the ordering code. 0 is FDX-9624-48 (16-high stacks), 1 is FDX-9624-36 (12-high stacks). Open: log entry 5. -/
opaque variant : Nat

/-- GLB_ID.STEPPING, set by hardware; the spec states no value. Log entry 6. -/
opaque stepping : Nat

/-- R97: the 16 bits that stochastic rounding draws, from SR_SEED, group rank, step number and element index. Log entry 7. -/
opaque srDraw : Nat → Nat → Nat → Nat → Nat

/-- R100, Table 5.5: the choice the special-function unit makes within its error bound, per function and operand. Log entry 8. -/
opaque sfuChoice : Nat → Nat → Nat

/-- R301: the symbol error that ECC_INJECT plants, by kind, strength and byte of the codeword. Log entry 9. -/
opaque injectByte : Nat → Nat → Nat → Nat

/-- R367, R369: the cycle within the beat at which a record is written, one per record. Log entry 10. -/
opaque cycleStamp : Nat → Nat

/-- R221: which free handle ADMIT and FORK return, per admission. Log entry 12. -/
opaque pickHandle : Nat → Nat

/-- R336: the parts of a firmware body, whose layout the spec does not give: 0 RSA key, 1 SLH-DSA key, 2 the bytes before
the signatures, 3 and 4 the signatures. Log entry 14. -/
opaque fwPart : Nat → List (BitVec 8) → List (BitVec 8)

/-- R342: the device's signature over a report's digest: 0 RSA, 1 SLH-DSA. Log entry 15. -/
opaque sign : Nat → List (BitVec 8) → List (BitVec 8)

/-- R342: the fuse array as the fuse measurement reads it, from the fuse map and owner banks. Log entry 16. -/
opaque fuseArray : Nat → List (List (BitVec 8)) → List Nat → List (BitVec 8)

/-- R353: version and maker's identity code of the test port's IDCODE. Log entry 18. -/
opaque idVersion : Nat
opaque idMaker : Nat

/-- R316: the CRC-32C of the 24 stacks' device IDs. Log entry 18. -/
opaque hbmStamp : Nat

/-- A value that the spec leaves open: draw k, item i (log entry 13). -/
opaque freeWord : Nat → Nat → Nat

end Sys2Proof.Config
end

