-- ==== Sys2Proof/Machine/Bits.lean ====
section
/-!
DEFINITION. Bit ranges and byte order (R6 of spec/00_scope.md: registers, descriptors, records and flits are
little-endian; a bit range [hi:lo] includes both ends), beat-number comparison (R31 of spec/02_beat.md).
-/

namespace Sys2Proof.Machine

/-- Bits [hi:lo] of a number. -/
def bits (w hi lo : Nat) : Nat := (w >>> lo) % 2 ^ (hi + 1 - lo)

/-- Bit `i` of a number. -/
def bitAt (w i : Nat) : Bool := bits w i i = 1

/-- 1 for true, 0 for false. -/
def b2n (b : Bool) : Nat := if b then 1 else 0

/-- `n` little-endian bytes of `v`. -/
def leBytes : Nat → Nat → List Byte
  | 0, _ => []
  | n + 1, v => BitVec.ofNat 8 v :: leBytes n (v / 256)

/-- The number that little-endian bytes hold. -/
def leNat : List Byte → Nat
  | [] => 0
  | b :: r => b.toNat + 256 * leNat r

/-- `n` big-endian bytes of `v`, for the network formats. -/
def beBytes (n v : Nat) : List Byte := (leBytes n v).reverse

/-- Bytes `o` to `o + n - 1` of a record, as a little-endian number. -/
def recNat (r : List Byte) (o n : Nat) : Nat := leNat ((r.drop o).take n)

/-- The first `n` bytes of a list, padded with zeros. -/
def padTo (n : Nat) (l : List Byte) : List Byte := (l ++ List.replicate (n - l.length) 0).take n

/-- Saturating addition to `m`. -/
def satAdd (m a b : Nat) : Nat := min m (a + b)

/-- Upward-rounding division; 0 when the divisor is 0. -/
def ceilDiv (a b : Nat) : Nat := if b = 0 then 0 else (a + b - 1) / b

/-- R31: beat a is at or after beat b when (a − b) mod 2^48 < 2^47. -/
def beatGe (a b : Nat) : Bool := decide ((a % 2 ^ 48 + 2 ^ 48 - b % 2 ^ 48) % 2 ^ 48 < 2 ^ 47)

/-- Strictly after, under R31. -/
def beatGt (a b : Nat) : Bool := beatGe a b && decide (a % 2 ^ 48 ≠ b % 2 ^ 48)

/-- a − b modulo 2^48. -/
def beatSub (a b : Nat) : Nat := (a % 2 ^ 48 + 2 ^ 48 - b % 2 ^ 48) % 2 ^ 48

/-- a + n modulo 2^48 (R31). -/
def beatAdd (a n : Nat) : Nat := (a + n) % 2 ^ 48

/-- a − b modulo 2^32, for ring pointers (R331, R360). -/
def sub32 (a b : Nat) : Nat := (a % 2 ^ 32 + 2 ^ 32 - b % 2 ^ 32) % 2 ^ 32

/-- Two ranges [a, a+n) and [b, b+m) share a byte. -/
def overlap (a n b m : Nat) : Bool := decide (0 < n) && decide (0 < m) && decide (a < b + m) && decide (b < a + n)

/-- The set bits of a mask below `n`, ascending. -/
def setBits (n m : Nat) : List Nat := (List.range n).filter (fun i => m.testBit i)

end Sys2Proof.Machine
end

