-- ==== Sys2Proof/Machine/RegMap.lean ====
section
/-!
DEFINITION. The control-space map (R387, R392 and Table 19.1 of spec/19_register_map.md) and every register of the
field tables of spec/, with the bits, access type and reset value of each field. A register is named by its control
offset; a register of a repeated block or an indexed register is a function of the instance and index. A field is a
bit range of a register word. "HW" and "—" in a Reset column (R8) stand as 0 here: log entry 2.
-/

namespace Sys2Proof.Machine

/-- A field: bits [hi:lo] of the register word at control offset `reg`. -/
structure Fld where
  reg : Nat
  hi : Nat
  lo : Nat
deriving DecidableEq, Repr

/-- The access types of Table 0.4 (R7). -/
inductive Acc where
  | ro | rw | w1c | wo | rws | rwi
deriving DecidableEq, Repr

/-- One field of a field table: its bits, its access type and its reset value. -/
structure FldRow where
  f : Fld
  acc : Acc
  rst : Nat
deriving DecidableEq, Repr

/-- One register of a field table: the control offset of its first instance, the strides and counts of its instances
and indices, its fields (reserved fields are those not listed), and whether it is staged (R16) or latched (R358). -/
structure RegRow where
  off : Nat
  dims : List (Nat × Nat)
  staged : Bool
  latched : Bool
  fields : List FldRow
deriving DecidableEq, Repr

namespace R

/-- Table 2.6. -/
def BEAT_CTL : Nat := 0x1000000
def BEAT_CTL_HOLDOVER_MAX : Fld := ⟨BEAT_CTL, 39, 16⟩
def BEAT_CTL_ENABLE : Fld := ⟨BEAT_CTL, 3, 3⟩
def BEAT_CTL_MASTER : Fld := ⟨BEAT_CTL, 2, 2⟩
def BEAT_CTL_SRC : Fld := ⟨BEAT_CTL, 1, 0⟩
/-- Table 2.7. -/
def BEAT_PERIOD : Nat := 0x1000008
def BEAT_PERIOD_PERIOD_TICKS : Fld := ⟨BEAT_PERIOD, 20, 0⟩
/-- Table 2.8. -/
def BEAT_STATUS : Nat := 0x1000010
def BEAT_STATUS_HOLDOVER_BEATS : Fld := ⟨BEAT_STATUS, 39, 16⟩
def BEAT_STATUS_UPLINK_USED : Fld := ⟨BEAT_STATUS, 9, 4⟩
def BEAT_STATUS_SEALS_COMPLETE : Fld := ⟨BEAT_STATUS, 3, 3⟩
def BEAT_STATUS_LOCK_STATE : Fld := ⟨BEAT_STATUS, 1, 0⟩
/-- Table 2.9. -/
def BEAT_NUM : Nat := 0x1000018
def BEAT_NUM_NUM : Fld := ⟨BEAT_NUM, 47, 0⟩
/-- Table 2.9. -/
def BEAT_TOD : Nat := 0x1000030
def BEAT_TOD_TOD_NS : Fld := ⟨BEAT_TOD, 63, 0⟩
/-- Table 2.9. -/
def BEAT_INIT_TOD : Nat := 0x1000028
def BEAT_INIT_TOD_TOD_NS : Fld := ⟨BEAT_INIT_TOD, 63, 0⟩
/-- Table 2.10. -/
def BEAT_NUM_INIT : Nat := 0x1000020
def BEAT_NUM_INIT_ARM : Fld := ⟨BEAT_NUM_INIT, 63, 63⟩
def BEAT_NUM_INIT_VALUE : Fld := ⟨BEAT_NUM_INIT, 47, 0⟩
/-- Table 2.11. -/
def BEAT_TREE : Nat := 0x1000038
def BEAT_TREE_DOWNLINK : Fld := ⟨BEAT_TREE, 63, 28⟩
def BEAT_TREE_ALT_VALID : Fld := ⟨BEAT_TREE, 14, 14⟩
def BEAT_TREE_UPLINK_ALT : Fld := ⟨BEAT_TREE, 13, 8⟩
def BEAT_TREE_UPLINK : Fld := ⟨BEAT_TREE, 5, 0⟩
/-- Table 2.12. -/
def BEAT_PAGE_SWAP : Nat := 0x1000040
def BEAT_PAGE_SWAP_ARM : Fld := ⟨BEAT_PAGE_SWAP, 63, 63⟩
def BEAT_PAGE_SWAP_OUT_VALID : Fld := ⟨BEAT_PAGE_SWAP, 7, 7⟩
def BEAT_PAGE_SWAP_OUT : Fld := ⟨BEAT_PAGE_SWAP, 6, 4⟩
def BEAT_PAGE_SWAP_IN : Fld := ⟨BEAT_PAGE_SWAP, 2, 0⟩
/-- Table 2.13. -/
def BEAT_PAGE (n : Nat) : Nat := 0x1000100 + n * 0x8
def BEAT_PAGE_STATE (n : Nat) : Fld := ⟨(BEAT_PAGE n), 63, 62⟩
def BEAT_PAGE_WAITING (n : Nat) : Fld := ⟨(BEAT_PAGE n), 58, 48⟩
def BEAT_PAGE_BASE_BEAT (n : Nat) : Fld := ⟨(BEAT_PAGE n), 47, 0⟩
/-- Table 2.14. -/
def BEAT_SLIP : Nat := 0x1000200
def BEAT_SLIP_SLIP_BEATS : Fld := ⟨BEAT_SLIP, 63, 32⟩
def BEAT_SLIP_SLIPPED_ENTRIES : Fld := ⟨BEAT_SLIP, 31, 0⟩
/-- Table 2.14. -/
def BEAT_DL_MISS : Nat := 0x1000208
def BEAT_DL_MISS_COUNT : Fld := ⟨BEAT_DL_MISS, 31, 0⟩
/-- Table 2.14. -/
def BEAT_VL0_MOVED : Nat := 0x1000210
def BEAT_VL0_MOVED_FLITS : Fld := ⟨BEAT_VL0_MOVED, 47, 0⟩
/-- Table 2.14. -/
def BEAT_FILL : Nat := 0x1000218
def BEAT_FILL_FILL_DELAY_CYCLES : Fld := ⟨BEAT_FILL, 63, 32⟩
def BEAT_FILL_FILL_TILE_CYCLES : Fld := ⟨BEAT_FILL, 31, 0⟩
/-- Table 2.15. -/
def BEAT_ERR : Nat := 0x1000220
def BEAT_ERR_ENTRY_RANGE : Fld := ⟨BEAT_ERR, 9, 9⟩
def BEAT_ERR_SWAP_REJECT : Fld := ⟨BEAT_ERR, 8, 8⟩
def BEAT_ERR_ENTRY_WRITE_REJECT : Fld := ⟨BEAT_ERR, 7, 7⟩
def BEAT_ERR_PERIOD_RANGE : Fld := ⟨BEAT_ERR, 6, 6⟩
def BEAT_ERR_LOST : Fld := ⟨BEAT_ERR, 5, 5⟩
def BEAT_ERR_HOLDOVER_ENTERED : Fld := ⟨BEAT_ERR, 4, 4⟩
def BEAT_ERR_SEAL_MISMATCH : Fld := ⟨BEAT_ERR, 3, 3⟩
def BEAT_ERR_MARK_MISSING : Fld := ⟨BEAT_ERR, 2, 2⟩
def BEAT_ERR_MARK_LATE : Fld := ⟨BEAT_ERR, 1, 1⟩
def BEAT_ERR_MARK_EARLY : Fld := ⟨BEAT_ERR, 0, 0⟩
/-- Table 3.13. -/
def IMG_STATUS : Nat := 0x2000000
def IMG_STATUS_SLOT_B_STATE : Fld := ⟨IMG_STATUS, 15, 13⟩
def IMG_STATUS_SLOT_A_STATE : Fld := ⟨IMG_STATUS, 12, 10⟩
def IMG_STATUS_ACTIVE_SLOT : Fld := ⟨IMG_STATUS, 7, 7⟩
def IMG_STATUS_SWAP_PHASE : Fld := ⟨IMG_STATUS, 6, 4⟩
def IMG_STATUS_LOAD_BUSY : Fld := ⟨IMG_STATUS, 3, 3⟩
def IMG_STATUS_IMAGE_STATE : Fld := ⟨IMG_STATUS, 1, 0⟩
/-- Table 3.13. -/
def IMG_CTL : Nat := 0x2000008
def IMG_CTL_AUTO_RELOAD : Fld := ⟨IMG_CTL, 0, 0⟩
/-- Table 3.13. -/
def IMG_LOAD : Nat := 0x2000010
def IMG_LOAD_GO : Fld := ⟨IMG_LOAD, 63, 63⟩
def IMG_LOAD_RESTAGE : Fld := ⟨IMG_LOAD, 62, 62⟩
def IMG_LOAD_SLOT : Fld := ⟨IMG_LOAD, 0, 0⟩
/-- Table 3.13. -/
def IMG_LOAD_STATUS : Nat := 0x2000018
def IMG_LOAD_STATUS_DETAIL : Fld := ⟨IMG_LOAD_STATUS, 63, 32⟩
def IMG_LOAD_STATUS_CODE : Fld := ⟨IMG_LOAD_STATUS, 7, 0⟩
/-- Table 3.14. -/
def IMG_SWAP : Nat := 0x2000020
def IMG_SWAP_ARM : Fld := ⟨IMG_SWAP, 63, 63⟩
def IMG_SWAP_UNLOAD : Fld := ⟨IMG_SWAP, 62, 62⟩
def IMG_SWAP_AT_BEAT : Fld := ⟨IMG_SWAP, 47, 0⟩
/-- Table 3.14. -/
def IMG_SWAP_TIME : Nat := 0x2000028
def IMG_SWAP_TIME_GAP_BEATS : Fld := ⟨IMG_SWAP_TIME, 63, 48⟩
def IMG_SWAP_TIME_ACT_BEAT : Fld := ⟨IMG_SWAP_TIME, 47, 0⟩
/-- Table 3.14. -/
def IMG_SLOT_FREE : Nat := 0x2000030
def IMG_SLOT_FREE_GO : Fld := ⟨IMG_SLOT_FREE, 63, 63⟩
def IMG_SLOT_FREE_SLOT : Fld := ⟨IMG_SLOT_FREE, 0, 0⟩
/-- Table 3.14. -/
def IMG_PAGE_COPY : Nat := 0x2000038
def IMG_PAGE_COPY_GO : Fld := ⟨IMG_PAGE_COPY, 63, 63⟩
def IMG_PAGE_COPY_BUSY : Fld := ⟨IMG_PAGE_COPY, 62, 62⟩
def IMG_PAGE_COPY_HW_PAGE : Fld := ⟨IMG_PAGE_COPY, 18, 16⟩
def IMG_PAGE_COPY_LIB_PAGE : Fld := ⟨IMG_PAGE_COPY, 9, 0⟩
/-- Table 3.14. -/
def IMG_RETILE : Nat := 0x2000040
def IMG_RETILE_ARM : Fld := ⟨IMG_RETILE, 63, 63⟩
def IMG_RETILE_SPARE : Fld := ⟨IMG_RETILE, 24, 16⟩
def IMG_RETILE_TARGET : Fld := ⟨IMG_RETILE, 8, 0⟩
/-- Table 3.15. -/
def IMG_ERR : Nat := 0x2000048
def IMG_ERR_ACTIVE_SLOT_WRITE : Fld := ⟨IMG_ERR, 6, 6⟩
def IMG_ERR_CHAN_SATURATE : Fld := ⟨IMG_ERR, 5, 5⟩
def IMG_ERR_PAGE_COPY_REJECT : Fld := ⟨IMG_ERR, 4, 4⟩
def IMG_ERR_RETILE_REJECT : Fld := ⟨IMG_ERR, 3, 3⟩
def IMG_ERR_SLOT_FREE_REJECT : Fld := ⟨IMG_ERR, 2, 2⟩
def IMG_ERR_SWAP_REJECT : Fld := ⟨IMG_ERR, 1, 1⟩
def IMG_ERR_SWAP_LATE : Fld := ⟨IMG_ERR, 0, 0⟩
/-- Table 3.15. -/
def IMG_ACTIVE_ID : Nat := 0x2000050
def IMG_ACTIVE_ID_ID : Fld := ⟨IMG_ACTIVE_ID, 63, 0⟩
/-- Table 3.15. -/
def IMG_ACTIVE_VER : Nat := 0x2000058
def IMG_ACTIVE_VER_SVN : Fld := ⟨IMG_ACTIVE_VER, 63, 32⟩
def IMG_ACTIVE_VER_VERSION : Fld := ⟨IMG_ACTIVE_VER, 31, 0⟩
/-- Table 3.15. -/
def IMG_MEASURE (n : Nat) : Nat := 0x2000060 + n * 0x8
def IMG_MEASURE_DIGEST (n : Nat) : Fld := ⟨(IMG_MEASURE n), 63, 0⟩
/-- Table 3.15. -/
def IMG_SLOT_BASE : Nat := 0x2000090
def IMG_SLOT_BASE_SLOT_A : Fld := ⟨IMG_SLOT_BASE, 44, 0⟩
/-- Table 3.16. -/
def IMG_PLACE (n : Nat) : Nat := 0x2002000 + n * 0x8
def IMG_PLACE_GANG (n : Nat) : Fld := ⟨(IMG_PLACE n), 31, 24⟩
def IMG_PLACE_ROLE (n : Nat) : Fld := ⟨(IMG_PLACE n), 18, 16⟩
def IMG_PLACE_POWERED (n : Nat) : Fld := ⟨(IMG_PLACE n), 15, 15⟩
def IMG_PLACE_PHYS (n : Nat) : Fld := ⟨(IMG_PLACE n), 8, 0⟩
/-- Table 3.16. -/
def IMG_SITE (n : Nat) : Nat := 0x2003000 + n * 0x8
def IMG_SITE_STATE (n : Nat) : Fld := ⟨(IMG_SITE n), 11, 9⟩
def IMG_SITE_LOGICAL (n : Nat) : Fld := ⟨(IMG_SITE n), 8, 0⟩
/-- Table 3.16. -/
def IMG_CHAN (n : Nat) : Nat := 0x2010000 + n * 0x8
def IMG_CHAN_DEPTH (n : Nat) : Fld := ⟨(IMG_CHAN n), 31, 16⟩
def IMG_CHAN_TOKENS (n : Nat) : Fld := ⟨(IMG_CHAN n), 15, 0⟩
/-- Table 4.9. -/
def TILE_ID (t : Nat) : Nat := 0x10000000 + t * 0x100000
def TILE_ID_GANG (t : Nat) : Fld := ⟨(TILE_ID t), 43, 36⟩
def TILE_ID_GANG_POS (t : Nat) : Fld := ⟨(TILE_ID t), 35, 34⟩
def TILE_ID_ROLE (t : Nat) : Fld := ⟨(TILE_ID t), 33, 31⟩
def TILE_ID_LOGICAL (t : Nat) : Fld := ⟨(TILE_ID t), 27, 19⟩
def TILE_ID_DIE (t : Nat) : Fld := ⟨(TILE_ID t), 17, 15⟩
def TILE_ID_SITE (t : Nat) : Fld := ⟨(TILE_ID t), 14, 9⟩
def TILE_ID_PHYS (t : Nat) : Fld := ⟨(TILE_ID t), 8, 0⟩
/-- Table 4.9. -/
def TILE_STATUS (t : Nat) : Nat := 0x10000008 + t * 0x100000
def TILE_STATUS_OP_INDEX (t : Nat) : Fld := ⟨(TILE_STATUS t), 47, 28⟩
def TILE_STATUS_LANE (t : Nat) : Fld := ⟨(TILE_STATUS t), 25, 25⟩
def TILE_STATUS_STALL_CAUSE (t : Nat) : Fld := ⟨(TILE_STATUS t), 23, 16⟩
def TILE_STATUS_EXEC_STATE (t : Nat) : Fld := ⟨(TILE_STATUS t), 7, 4⟩
def TILE_STATUS_PWR (t : Nat) : Fld := ⟨(TILE_STATUS t), 2, 0⟩
/-- Table 4.9. -/
def TILE_STEP (t : Nat) : Nat := 0x10000010 + t * 0x100000
def TILE_STEP_STEP (t : Nat) : Fld := ⟨(TILE_STEP t), 63, 32⟩
def TILE_STEP_STEPS (t : Nat) : Fld := ⟨(TILE_STEP t), 31, 0⟩
/-- Table 4.10. -/
def TILE_ERR (t : Nat) : Nat := 0x10000018 + t * 0x100000
def TILE_ERR_SHADOW_PARITY (t : Nat) : Fld := ⟨(TILE_ERR t), 5, 5⟩
def TILE_ERR_POISON_IN (t : Nat) : Fld := ⟨(TILE_ERR t), 4, 4⟩
def TILE_ERR_ACC_RANGE (t : Nat) : Fld := ⟨(TILE_ERR t), 3, 3⟩
def TILE_ERR_CLASS_ROLE (t : Nat) : Fld := ⟨(TILE_ERR t), 2, 2⟩
def TILE_ERR_DESC_FIELD (t : Nat) : Fld := ⟨(TILE_ERR t), 1, 1⟩
def TILE_ERR_FMT_PAIR (t : Nat) : Fld := ⟨(TILE_ERR t), 0, 0⟩
/-- Table 4.10. -/
def TILE_INJECT (t : Nat) : Nat := 0x10000020 + t * 0x100000
def TILE_INJECT_POISON_OUT (t : Nat) : Fld := ⟨(TILE_INJECT t), 1, 1⟩
def TILE_INJECT_SHADOW_PARITY (t : Nat) : Fld := ⟨(TILE_INJECT t), 0, 0⟩
/-- Table 4.10. -/
def TILE_BUSY (t : Nat) : Nat := 0x10000100 + t * 0x100000
def TILE_BUSY_ARRAY_CYCLES (t : Nat) : Fld := ⟨(TILE_BUSY t), 63, 32⟩
def TILE_BUSY_EXEC_CYCLES (t : Nat) : Fld := ⟨(TILE_BUSY t), 31, 0⟩
/-- Table 4.10. -/
def TILE_MAC (t : Nat) : Nat := 0x10000108 + t * 0x100000
def TILE_MAC_MAC (t : Nat) : Fld := ⟨(TILE_MAC t), 63, 0⟩
/-- Table 4.10. -/
def TILE_FILL (t : Nat) : Nat := 0x10000110 + t * 0x100000
def TILE_FILL_STEPS (t : Nat) : Fld := ⟨(TILE_FILL t), 63, 32⟩
def TILE_FILL_EXPOSED_CYCLES (t : Nat) : Fld := ⟨(TILE_FILL t), 31, 0⟩
/-- Table 4.10. -/
def TILE_VEC (t : Nat) : Nat := 0x10000118 + t * 0x100000
def TILE_VEC_SFU_RESULTS (t : Nat) : Fld := ⟨(TILE_VEC t), 63, 32⟩
def TILE_VEC_VEC_INSTR (t : Nat) : Fld := ⟨(TILE_VEC t), 31, 0⟩
/-- Table 4.10. -/
def TILE_STALL (t : Nat) (n : Nat) : Nat := 0x10000140 + t * 0x100000 + n * 0x8
def TILE_STALL_CYCLES (t : Nat) (n : Nat) : Fld := ⟨(TILE_STALL t n), 31, 0⟩
/-- Table 6.7. -/
def PUMP_STATUS (t : Nat) : Nat := 0x10040000 + t * 0x100000
def PUMP_STATUS_PRIMING (t : Nat) : Fld := ⟨(PUMP_STATUS t), 32, 32⟩
def PUMP_STATUS_ISSUE_WAIT (t : Nat) : Fld := ⟨(PUMP_STATUS t), 31, 24⟩
def PUMP_STATUS_PC_AT_CAP (t : Nat) : Fld := ⟨(PUMP_STATUS t), 23, 22⟩
def PUMP_STATUS_CONTEXTS (t : Nat) : Fld := ⟨(PUMP_STATUS t), 20, 16⟩
def PUMP_STATUS_WATCHES (t : Nat) : Fld := ⟨(PUMP_STATUS t), 12, 8⟩
def PUMP_STATUS_SLOTS (t : Nat) : Fld := ⟨(PUMP_STATUS t), 5, 0⟩
/-- Table 6.7. -/
def PUMP_ERR (t : Nat) : Nat := 0x10040008 + t * 0x100000
def PUMP_ERR_DIR_FMT (t : Nat) : Fld := ⟨(PUMP_ERR t), 4, 4⟩
def PUMP_ERR_POISON_IN (t : Nat) : Fld := ⟨(PUMP_ERR t), 3, 3⟩
def PUMP_ERR_REMOTE_ERR (t : Nat) : Fld := ⟨(PUMP_ERR t), 2, 2⟩
def PUMP_ERR_STREAM_FIELD (t : Nat) : Fld := ⟨(PUMP_ERR t), 1, 1⟩
def PUMP_ERR_ADDR (t : Nat) : Fld := ⟨(PUMP_ERR t), 0, 0⟩
/-- Table 6.7. -/
def PUMP_INJECT (t : Nat) : Nat := 0x10040010 + t * 0x100000
def PUMP_INJECT_ADDR_ERR_NEXT (t : Nat) : Fld := ⟨(PUMP_INJECT t), 1, 1⟩
def PUMP_INJECT_STALE_NEXT (t : Nat) : Fld := ⟨(PUMP_INJECT t), 0, 0⟩
/-- Table 6.8. -/
def PUMP_FAULT_ADDR (t : Nat) : Nat := 0x10040018 + t * 0x100000
def PUMP_FAULT_ADDR_ADDR (t : Nat) : Fld := ⟨(PUMP_FAULT_ADDR t), 56, 0⟩
/-- Table 6.8. -/
def PUMP_FAULT_STR (t : Nat) : Nat := 0x10040020 + t * 0x100000
def PUMP_FAULT_STR_STREAM (t : Nat) : Fld := ⟨(PUMP_FAULT_STR t), 19, 0⟩
/-- Table 6.8. -/
def PUMP_STALL_SAMPLE (t : Nat) : Nat := 0x10040028 + t * 0x100000
def PUMP_STALL_SAMPLE_CAUSE (t : Nat) : Fld := ⟨(PUMP_STALL_SAMPLE t), 63, 60⟩
def PUMP_STALL_SAMPLE_PC (t : Nat) : Fld := ⟨(PUMP_STALL_SAMPLE t), 58, 48⟩
def PUMP_STALL_SAMPLE_PC_VALID (t : Nat) : Fld := ⟨(PUMP_STALL_SAMPLE t), 47, 47⟩
def PUMP_STALL_SAMPLE_STREAM (t : Nat) : Fld := ⟨(PUMP_STALL_SAMPLE t), 46, 27⟩
def PUMP_STALL_SAMPLE_SLOTS (t : Nat) : Fld := ⟨(PUMP_STALL_SAMPLE t), 26, 21⟩
def PUMP_STALL_SAMPLE_CYCLE (t : Nat) : Fld := ⟨(PUMP_STALL_SAMPLE t), 20, 0⟩
/-- Table 6.8. -/
def PUMP_WATCH_LO (t : Nat) (n : Nat) : Nat := 0x10040100 + t * 0x100000 + n * 0x10
def PUMP_WATCH_LO_VALID (t : Nat) (n : Nat) : Fld := ⟨(PUMP_WATCH_LO t n), 63, 63⟩
def PUMP_WATCH_LO_LOW (t : Nat) (n : Nat) : Fld := ⟨(PUMP_WATCH_LO t n), 44, 0⟩
/-- Table 6.8. -/
def PUMP_WATCH_HI (t : Nat) (n : Nat) : Nat := 0x10040108 + t * 0x100000 + n * 0x10
def PUMP_WATCH_HI_STREAM (t : Nat) (n : Nat) : Fld := ⟨(PUMP_WATCH_HI t n), 63, 44⟩
def PUMP_WATCH_HI_HIGH_64 (t : Nat) (n : Nat) : Fld := ⟨(PUMP_WATCH_HI t n), 38, 0⟩
/-- Table 6.9. -/
def PUMP_BYTES_IN (t : Nat) : Nat := 0x10040200 + t * 0x100000
def PUMP_BYTES_IN_BYTES (t : Nat) : Fld := ⟨(PUMP_BYTES_IN t), 63, 0⟩
/-- Table 6.9. -/
def PUMP_BYTES_OUT (t : Nat) : Nat := 0x10040208 + t * 0x100000
def PUMP_BYTES_OUT_BYTES (t : Nat) : Fld := ⟨(PUMP_BYTES_OUT t), 63, 0⟩
/-- Table 6.9. -/
def PUMP_REQ (t : Nat) : Nat := 0x10040210 + t * 0x100000
def PUMP_REQ_MERGED (t : Nat) : Fld := ⟨(PUMP_REQ t), 63, 32⟩
def PUMP_REQ_REQUESTS (t : Nat) : Fld := ⟨(PUMP_REQ t), 31, 0⟩
/-- Table 6.9. -/
def PUMP_REFETCH (t : Nat) : Nat := 0x10040218 + t * 0x100000
def PUMP_REFETCH_STALE_MARKS (t : Nat) : Fld := ⟨(PUMP_REFETCH t), 63, 32⟩
def PUMP_REFETCH_REFETCHES (t : Nat) : Fld := ⟨(PUMP_REFETCH t), 31, 0⟩
/-- Table 6.9. -/
def PUMP_CAP (t : Nat) : Nat := 0x10040220 + t * 0x100000
def PUMP_CAP_WATCH_FULL_CYCLES (t : Nat) : Fld := ⟨(PUMP_CAP t), 63, 32⟩
def PUMP_CAP_PC_CAP_CYCLES (t : Nat) : Fld := ⟨(PUMP_CAP t), 31, 0⟩
/-- Table 6.9. -/
def PUMP_OCC (t : Nat) : Nat := 0x10040228 + t * 0x100000
def PUMP_OCC_SLOT_CYCLES (t : Nat) : Fld := ⟨(PUMP_OCC t), 63, 32⟩
def PUMP_OCC_FULL_CYCLES (t : Nat) : Fld := ⟨(PUMP_OCC t), 31, 0⟩
/-- Table 6.10. -/
def CIST_NC_CTL (t : Nat) : Nat := 0x10080008 + t * 0x100000
def CIST_NC_CTL_INV (t : Nat) : Fld := ⟨(CIST_NC_CTL t), 63, 63⟩
def CIST_NC_CTL_BUSY (t : Nat) : Fld := ⟨(CIST_NC_CTL t), 62, 62⟩
/-- Table 6.10. -/
def CIST_NC (t : Nat) : Nat := 0x10080100 + t * 0x100000
def CIST_NC_HITS (t : Nat) : Fld := ⟨(CIST_NC t), 63, 32⟩
def CIST_NC_MISSES (t : Nat) : Fld := ⟨(CIST_NC t), 31, 0⟩
/-- Table 6.10. -/
def CIST_NC_DROP (t : Nat) : Nat := 0x10080108 + t * 0x100000
def CIST_NC_DROP_DROPPED (t : Nat) : Fld := ⟨(CIST_NC_DROP t), 31, 0⟩
/-- Table 6.10. -/
def CIST_PORT (t : Nat) : Nat := 0x10080110 + t * 0x100000
def CIST_PORT_TRANS_BLOCKS (t : Nat) : Fld := ⟨(CIST_PORT t), 63, 32⟩
def CIST_PORT_BANK_WAIT (t : Nat) : Fld := ⟨(CIST_PORT t), 31, 0⟩
/-- Table 6.10. -/
def CIST_WINDOW (t : Nat) : Nat := 0x10080118 + t * 0x100000
def CIST_WINDOW_WAIT_CYCLES (t : Nat) : Fld := ⟨(CIST_WINDOW t), 63, 32⟩
def CIST_WINDOW_ACCESSES (t : Nat) : Fld := ⟨(CIST_WINDOW t), 31, 0⟩
/-- Table 7.12. -/
def AGX_ID : Nat := 0x7000000
def AGX_ID_GROUP : Fld := ⟨AGX_ID, 11, 5⟩
def AGX_ID_MEMBER : Fld := ⟨AGX_ID, 4, 0⟩
/-- Table 7.12. -/
def AGX_CTL : Nat := 0x7000008
def AGX_CTL_NP_TIMEOUT_US : Fld := ⟨AGX_CTL, 47, 32⟩
def AGX_CTL_FENCE_TIMEOUT_BEATS : Fld := ⟨AGX_CTL, 7, 0⟩
/-- Table 7.12. -/
def AGX_TAGS : Nat := 0x7000010
def AGX_TAGS_WAITERS : Fld := ⟨AGX_TAGS, 47, 32⟩
def AGX_TAGS_IN_USE : Fld := ⟨AGX_TAGS, 14, 0⟩
/-- Table 7.12. -/
def AGX_ERR : Nat := 0x7000018
def AGX_ERR_NO_ROUTE : Fld := ⟨AGX_ERR, 5, 5⟩
def AGX_ERR_FORCED_REORDER : Fld := ⟨AGX_ERR, 4, 4⟩
def AGX_ERR_ROUTE_INVALID : Fld := ⟨AGX_ERR, 3, 3⟩
def AGX_ERR_HOP_LIMIT : Fld := ⟨AGX_ERR, 2, 2⟩
def AGX_ERR_DENIED_INGRESS : Fld := ⟨AGX_ERR, 1, 1⟩
def AGX_ERR_DENIED_EGRESS : Fld := ⟨AGX_ERR, 0, 0⟩
/-- Table 7.12. -/
def AGX_ROUTE_SWAP : Nat := 0x7000020
def AGX_ROUTE_SWAP_ARM : Fld := ⟨AGX_ROUTE_SWAP, 63, 63⟩
/-- Table 7.12. -/
def AGX_SEAL : Nat := 0x7000028
def AGX_SEAL_LAST_BEAT : Fld := ⟨AGX_SEAL, 47, 0⟩
/-- Table 7.12. -/
def AGX_SEAL_LAT : Nat := 0x7000100
def AGX_SEAL_LAT_NS : Fld := ⟨AGX_SEAL_LAT, 31, 0⟩
/-- Table 7.12. -/
def AGX_FLT : Nat := 0x7000108
def AGX_FLT_DENIED_EGRESS : Fld := ⟨AGX_FLT, 63, 32⟩
def AGX_FLT_DENIED_INGRESS : Fld := ⟨AGX_FLT, 31, 0⟩
/-- Table 7.12. -/
def AGX_TAG_WAIT : Nat := 0x7000110
def AGX_TAG_WAIT_CYCLES : Fld := ⟨AGX_TAG_WAIT, 63, 0⟩
/-- Table 7.12. -/
def AGX_REORDER : Nat := 0x7000118
def AGX_REORDER_DESTS : Fld := ⟨AGX_REORDER, 31, 0⟩
/-- Table 7.12. -/
def AGX_LATE_CPL : Nat := 0x7000120
def AGX_LATE_CPL_COUNT : Fld := ⟨AGX_LATE_CPL, 31, 0⟩
/-- Table 7.12. -/
def AGX_NOROUTE : Nat := 0x7000128
def AGX_NOROUTE_COUNT : Fld := ⟨AGX_NOROUTE, 31, 0⟩
/-- Table 7.13. -/
def AGX_PORT_CTL (p : Nat) : Nat := 0x7010000 + p * 0x10000
def AGX_PORT_CTL_RETRY_MS (p : Nat) : Fld := ⟨(AGX_PORT_CTL p), 31, 16⟩
def AGX_PORT_CTL_FORCE_X4 (p : Nat) : Fld := ⟨(AGX_PORT_CTL p), 6, 6⟩
def AGX_PORT_CTL_PRBS (p : Nat) : Fld := ⟨(AGX_PORT_CTL p), 5, 4⟩
def AGX_PORT_CTL_LOOP (p : Nat) : Fld := ⟨(AGX_PORT_CTL p), 3, 1⟩
def AGX_PORT_CTL_ENABLE (p : Nat) : Fld := ⟨(AGX_PORT_CTL p), 0, 0⟩
/-- Table 7.13. -/
def AGX_PORT_STATUS (p : Nat) : Nat := 0x7010008 + p * 0x10000
def AGX_PORT_STATUS_PEER_ID (p : Nat) : Fld := ⟨(AGX_PORT_STATUS p), 63, 52⟩
def AGX_PORT_STATUS_PEER_PORT (p : Nat) : Fld := ⟨(AGX_PORT_STATUS p), 51, 46⟩
def AGX_PORT_STATUS_HELD_WHY (p : Nat) : Fld := ⟨(AGX_PORT_STATUS p), 42, 40⟩
def AGX_PORT_STATUS_LANE_BAD (p : Nat) : Fld := ⟨(AGX_PORT_STATUS p), 35, 27⟩
def AGX_PORT_STATUS_LANE_ACTIVE (p : Nat) : Fld := ⟨(AGX_PORT_STATUS p), 26, 18⟩
def AGX_PORT_STATUS_WIDTH (p : Nat) : Fld := ⟨(AGX_PORT_STATUS p), 17, 16⟩
def AGX_PORT_STATUS_PWR (p : Nat) : Fld := ⟨(AGX_PORT_STATUS p), 10, 8⟩
def AGX_PORT_STATUS_STATE (p : Nat) : Fld := ⟨(AGX_PORT_STATUS p), 3, 0⟩
/-- Table 7.13. -/
def AGX_PORT_RTT (p : Nat) : Nat := 0x7010010 + p * 0x10000
def AGX_PORT_RTT_TICKS (p : Nat) : Fld := ⟨(AGX_PORT_RTT p), 19, 0⟩
/-- Table 7.13. -/
def AGX_PORT_ERR (p : Nat) : Nat := 0x7010018 + p * 0x10000
def AGX_PORT_ERR_LOOP_REJECT (p : Nat) : Fld := ⟨(AGX_PORT_ERR p), 4, 4⟩
def AGX_PORT_ERR_REPLAY_LIMIT (p : Nat) : Fld := ⟨(AGX_PORT_ERR p), 3, 3⟩
def AGX_PORT_ERR_LANE_FAIL (p : Nat) : Fld := ⟨(AGX_PORT_ERR p), 2, 2⟩
def AGX_PORT_ERR_HELD (p : Nat) : Fld := ⟨(AGX_PORT_ERR p), 1, 1⟩
def AGX_PORT_ERR_TRAIN_FAIL (p : Nat) : Fld := ⟨(AGX_PORT_ERR p), 0, 0⟩
/-- Table 7.13. -/
def AGX_PORT_INJECT (p : Nat) : Nat := 0x7010020 + p * 0x10000
def AGX_PORT_INJECT_LANE (p : Nat) : Fld := ⟨(AGX_PORT_INJECT p), 4, 1⟩
def AGX_PORT_INJECT_CRC_NEXT (p : Nat) : Fld := ⟨(AGX_PORT_INJECT p), 0, 0⟩
/-- Table 7.13. -/
def AGX_PORT_SPARE_TH (p : Nat) : Nat := 0x7010028 + p * 0x10000
def AGX_PORT_SPARE_TH_LANE_FAIL_NOW (p : Nat) : Fld := ⟨(AGX_PORT_SPARE_TH p), 63, 48⟩
def AGX_PORT_SPARE_TH_UNCORR_TH (p : Nat) : Fld := ⟨(AGX_PORT_SPARE_TH p), 47, 32⟩
def AGX_PORT_SPARE_TH_CORR_TH (p : Nat) : Fld := ⟨(AGX_PORT_SPARE_TH p), 31, 0⟩
/-- Table 7.13. -/
def AGX_PORT_LANE (p : Nat) (n : Nat) : Nat := 0x7010100 + p * 0x10000 + n * 0x8
def AGX_PORT_LANE_STATE (p : Nat) (n : Nat) : Fld := ⟨(AGX_PORT_LANE p n), 63, 62⟩
def AGX_PORT_LANE_LOGICAL (p : Nat) (n : Nat) : Fld := ⟨(AGX_PORT_LANE p n), 61, 56⟩
def AGX_PORT_LANE_UNCORR_CW (p : Nat) (n : Nat) : Fld := ⟨(AGX_PORT_LANE p n), 47, 32⟩
def AGX_PORT_LANE_CORR_SYM (p : Nat) (n : Nat) : Fld := ⟨(AGX_PORT_LANE p n), 31, 0⟩
/-- Table 7.13. -/
def AGX_PORT_FLITS (p : Nat) : Nat := 0x7010200 + p * 0x10000
def AGX_PORT_FLITS_RX (p : Nat) : Fld := ⟨(AGX_PORT_FLITS p), 63, 32⟩
def AGX_PORT_FLITS_TX (p : Nat) : Fld := ⟨(AGX_PORT_FLITS p), 31, 0⟩
/-- Table 7.13. -/
def AGX_PORT_VL_TX (p : Nat) : Nat := 0x7010208 + p * 0x10000
def AGX_PORT_VL_TX_VL1 (p : Nat) : Fld := ⟨(AGX_PORT_VL_TX p), 63, 32⟩
def AGX_PORT_VL_TX_VL0 (p : Nat) : Fld := ⟨(AGX_PORT_VL_TX p), 31, 0⟩
/-- Table 7.13. -/
def AGX_PORT_VL_TX2 (p : Nat) : Nat := 0x7010210 + p * 0x10000
def AGX_PORT_VL_TX2_VL3 (p : Nat) : Fld := ⟨(AGX_PORT_VL_TX2 p), 63, 32⟩
def AGX_PORT_VL_TX2_VL2 (p : Nat) : Fld := ⟨(AGX_PORT_VL_TX2 p), 31, 0⟩
/-- Table 7.13. -/
def AGX_PORT_LINK (p : Nat) : Nat := 0x7010218 + p * 0x10000
def AGX_PORT_LINK_CRC_ERR (p : Nat) : Fld := ⟨(AGX_PORT_LINK p), 63, 32⟩
def AGX_PORT_LINK_REPLAYED (p : Nat) : Fld := ⟨(AGX_PORT_LINK p), 31, 0⟩
/-- Table 7.13. -/
def AGX_PORT_STALL (p : Nat) : Nat := 0x7010220 + p * 0x10000
def AGX_PORT_STALL_REPLAY_FULL_CYCLES (p : Nat) : Fld := ⟨(AGX_PORT_STALL p), 63, 32⟩
def AGX_PORT_STALL_CREDIT_WAIT_CYCLES (p : Nat) : Fld := ⟨(AGX_PORT_STALL p), 31, 0⟩
/-- Table 7.13. -/
def AGX_PORT_HELD (p : Nat) : Nat := 0x7010228 + p * 0x10000
def AGX_PORT_HELD_DISCARDED (p : Nat) : Fld := ⟨(AGX_PORT_HELD p), 31, 0⟩
/-- Table 8.6. -/
def AGX_MC_CTL : Nat := 0x7000200
def AGX_MC_CTL_PRUNE_BEATS : Fld := ⟨AGX_MC_CTL, 7, 4⟩
def AGX_MC_CTL_AUTO_PULL : Fld := ⟨AGX_MC_CTL, 3, 3⟩
/-- Table 8.6. -/
def AGX_HB_CTL : Nat := 0x7000208
def AGX_HB_CTL_SILENT_BEATS : Fld := ⟨AGX_HB_CTL, 7, 0⟩
/-- Table 8.6. -/
def AGX_SILENT : Nat := 0x7000210
def AGX_SILENT_PORTS : Fld := ⟨AGX_SILENT, 35, 0⟩
/-- Table 8.6. -/
def AGX_FENCE_ARM : Nat := 0x7000218
def AGX_FENCE_ARM_ARM : Fld := ⟨AGX_FENCE_ARM, 63, 63⟩
def AGX_FENCE_ARM_AT_BEAT : Fld := ⟨AGX_FENCE_ARM, 47, 0⟩
/-- Table 8.6. -/
def AGX_FENCE_STATUS : Nat := 0x7000220
def AGX_FENCE_STATUS_FENCE_BEAT : Fld := ⟨AGX_FENCE_STATUS, 63, 16⟩
def AGX_FENCE_STATUS_FENCED_COUNT : Fld := ⟨AGX_FENCE_STATUS, 15, 0⟩
/-- Table 8.6. -/
def AGX_COL_ERR : Nat := 0x7000228
def AGX_COL_ERR_RP_TARGET : Fld := ⟨AGX_COL_ERR, 1, 1⟩
def AGX_COL_ERR_TREE_WRITE : Fld := ⟨AGX_COL_ERR, 0, 0⟩
/-- Table 8.6. -/
def AGX_COL_CNT : Nat := 0x7000230
def AGX_COL_CNT_PRUNES : Fld := ⟨AGX_COL_CNT, 63, 48⟩
def AGX_COL_CNT_MC_DISCARD : Fld := ⟨AGX_COL_CNT, 47, 32⟩
def AGX_COL_CNT_FENCE_DROP : Fld := ⟨AGX_COL_CNT, 31, 0⟩
/-- Table 8.6. -/
def AGX_RP_BYTES : Nat := 0x7000238
def AGX_RP_BYTES_BYTES : Fld := ⟨AGX_RP_BYTES, 63, 0⟩
/-- Table 8.6. -/
def AGX_MC_TREE_W0 (n : Nat) : Nat := 0x7002000 + n * 0x20
def AGX_MC_TREE_W0_VALID (n : Nat) : Fld := ⟨(AGX_MC_TREE_W0 n), 63, 63⟩
def AGX_MC_TREE_W0_SOURCE (n : Nat) : Fld := ⟨(AGX_MC_TREE_W0 n), 62, 62⟩
def AGX_MC_TREE_W0_DELIVER (n : Nat) : Fld := ⟨(AGX_MC_TREE_W0 n), 61, 61⟩
def AGX_MC_TREE_W0_UP_PORT (n : Nat) : Fld := ⟨(AGX_MC_TREE_W0 n), 60, 55⟩
def AGX_MC_TREE_W0_EPOCH (n : Nat) : Fld := ⟨(AGX_MC_TREE_W0 n), 54, 47⟩
def AGX_MC_TREE_W0_RX_BASE (n : Nat) : Fld := ⟨(AGX_MC_TREE_W0 n), 44, 0⟩
/-- Table 8.6. -/
def AGX_MC_TREE_W1 (n : Nat) : Nat := 0x7002008 + n * 0x20
def AGX_MC_TREE_W1_SRC_ID (n : Nat) : Fld := ⟨(AGX_MC_TREE_W1 n), 63, 52⟩
def AGX_MC_TREE_W1_RX_SIZE_64K (n : Nat) : Fld := ⟨(AGX_MC_TREE_W1 n), 51, 36⟩
def AGX_MC_TREE_W1_DOWN_MASK (n : Nat) : Fld := ⟨(AGX_MC_TREE_W1 n), 35, 0⟩
/-- Table 8.6. -/
def AGX_MC_TREE_W2 (n : Nat) : Nat := 0x7002010 + n * 0x20
def AGX_MC_TREE_W2_PULL_DONE (n : Nat) : Fld := ⟨(AGX_MC_TREE_W2 n), 63, 63⟩
def AGX_MC_TREE_W2_PULL_DROP (n : Nat) : Fld := ⟨(AGX_MC_TREE_W2 n), 62, 62⟩
def AGX_MC_TREE_W2_RET_BUSY (n : Nat) : Fld := ⟨(AGX_MC_TREE_W2 n), 61, 61⟩
def AGX_MC_TREE_W2_OUT_PULLS (n : Nat) : Fld := ⟨(AGX_MC_TREE_W2 n), 60, 48⟩
def AGX_MC_TREE_W2_RET_BASE (n : Nat) : Fld := ⟨(AGX_MC_TREE_W2 n), 44, 0⟩
/-- Table 8.6. -/
def AGX_MC_TREE_W3 (n : Nat) : Nat := 0x7002018 + n * 0x20
def AGX_MC_TREE_W3_RX_STATE (n : Nat) : Fld := ⟨(AGX_MC_TREE_W3 n), 63, 62⟩
def AGX_MC_TREE_W3_ACK_EPOCH (n : Nat) : Fld := ⟨(AGX_MC_TREE_W3 n), 61, 54⟩
def AGX_MC_TREE_W3_ACKED_SEQ (n : Nat) : Fld := ⟨(AGX_MC_TREE_W3 n), 53, 38⟩
def AGX_MC_TREE_W3_PRUNED_MASK (n : Nat) : Fld := ⟨(AGX_MC_TREE_W3 n), 35, 0⟩
/-- Table 8.6. -/
def AGX_FENCE_STAGED (n : Nat) : Nat := 0x7004000 + n * 0x8
def AGX_FENCE_STAGED_BITS (n : Nat) : Fld := ⟨(AGX_FENCE_STAGED n), 63, 0⟩
/-- Table 8.6. -/
def AGX_FENCE (n : Nat) : Nat := 0x7004200 + n * 0x8
def AGX_FENCE_BITS (n : Nat) : Fld := ⟨(AGX_FENCE n), 63, 0⟩
/-- Table 8.7. -/
def AGX_VER_0 : Nat := 0x7000300
def AGX_VER_0_DEVICE_ID : Fld := ⟨AGX_VER_0, 63, 52⟩
def AGX_VER_0_BEAT : Fld := ⟨AGX_VER_0, 47, 0⟩
/-- Table 8.7. -/
def AGX_VER_1 : Nat := 0x7000308
def AGX_VER_1_IMAGE_ID : Fld := ⟨AGX_VER_1, 63, 0⟩
/-- Table 8.7. -/
def AGX_VER_2 : Nat := 0x7000310
def AGX_VER_2_IMAGE_VERSION : Fld := ⟨AGX_VER_2, 63, 32⟩
def AGX_VER_2_DEV_STATE : Fld := ⟨AGX_VER_2, 31, 28⟩
def AGX_VER_2_FENCED_SELF : Fld := ⟨AGX_VER_2, 27, 27⟩
def AGX_VER_2_DEGRADED : Fld := ⟨AGX_VER_2, 26, 26⟩
/-- Table 8.7. -/
def AGX_VER_3 : Nat := 0x7000318
def AGX_VER_3_LIVE_BANK : Fld := ⟨AGX_VER_3, 63, 63⟩
def AGX_VER_3_LIVE_STEP : Fld := ⟨AGX_VER_3, 47, 0⟩
/-- Table 8.7. -/
def AGX_VER_4 : Nat := 0x7000320
def AGX_VER_4_RET_VALID : Fld := ⟨AGX_VER_4, 63, 63⟩
def AGX_VER_4_RET_STEP : Fld := ⟨AGX_VER_4, 47, 0⟩
/-- Table 8.7. -/
def AGX_VER_5 : Nat := 0x7000328
def AGX_VER_5_LAST_MIDNIGHT : Fld := ⟨AGX_VER_5, 47, 0⟩
/-- Table 8.7. -/
def AGX_VER_6 : Nat := 0x7000330
def AGX_VER_6_FENCE_BEAT : Fld := ⟨AGX_VER_6, 63, 16⟩
def AGX_VER_6_FENCED_COUNT : Fld := ⟨AGX_VER_6, 15, 0⟩
/-- Table 8.7. -/
def AGX_VER_7 : Nat := 0x7000338
def AGX_VER_7_MEASURE_LO : Fld := ⟨AGX_VER_7, 63, 0⟩
/-- Table 9.9. -/
def ATTN_CTL (t : Nat) : Nat := 0x100C0000 + t * 0x100000
def ATTN_CTL_CHECK_ALL (t : Nat) : Fld := ⟨(ATTN_CTL t), 1, 1⟩
def ATTN_CTL_SKIP_OFF (t : Nat) : Fld := ⟨(ATTN_CTL t), 0, 0⟩
/-- Table 9.9. -/
def ATTN_STATUS (t : Nat) : Nat := 0x100C0008 + t * 0x100000
def ATTN_STATUS_QBLOCK (t : Nat) : Fld := ⟨(ATTN_STATUS t), 63, 32⟩
def ATTN_STATUS_PHASE (t : Nat) : Fld := ⟨(ATTN_STATUS t), 3, 0⟩
/-- Table 9.9. -/
def ATTN_ERR (t : Nat) : Nat := 0x100C0010 + t * 0x100000
def ATTN_ERR_SKIPREC (t : Nat) : Fld := ⟨(ATTN_ERR t), 4, 4⟩
def ATTN_ERR_LEN_RANGE (t : Nat) : Fld := ⟨(ATTN_ERR t), 3, 3⟩
def ATTN_ERR_SUMMARY_POISON (t : Nat) : Fld := ⟨(ATTN_ERR t), 2, 2⟩
def ATTN_ERR_STAT_NAN (t : Nat) : Fld := ⟨(ATTN_ERR t), 1, 1⟩
def ATTN_ERR_POISON_IN (t : Nat) : Fld := ⟨(ATTN_ERR t), 0, 0⟩
/-- Table 9.9. -/
def ATTN_INJECT (t : Nat) : Nat := 0x100C0018 + t * 0x100000
def ATTN_INJECT_MISPREDICT (t : Nat) : Fld := ⟨(ATTN_INJECT t), 1, 1⟩
def ATTN_INJECT_FORCE_RECOVER (t : Nat) : Fld := ⟨(ATTN_INJECT t), 0, 0⟩
/-- Table 9.9. -/
def ATTN_LAST (t : Nat) : Nat := 0x100C0020 + t * 0x100000
def ATTN_LAST_PRED (t : Nat) : Fld := ⟨(ATTN_LAST t), 63, 32⟩
def ATTN_LAST_MIN_FINAL (t : Nat) : Fld := ⟨(ATTN_LAST t), 31, 0⟩
/-- Table 9.10. -/
def ATTN_BLOCKS (t : Nat) : Nat := 0x100C0100 + t * 0x100000
def ATTN_BLOCKS_QBLOCKS (t : Nat) : Fld := ⟨(ATTN_BLOCKS t), 63, 32⟩
def ATTN_BLOCKS_KBLOCKS (t : Nat) : Fld := ⟨(ATTN_BLOCKS t), 31, 0⟩
/-- Table 9.10. -/
def ATTN_PAGES (t : Nat) : Nat := 0x100C0108 + t * 0x100000
def ATTN_PAGES_MASK_SKIPPED (t : Nat) : Fld := ⟨(ATTN_PAGES t), 63, 32⟩
def ATTN_PAGES_COMPUTED (t : Nat) : Fld := ⟨(ATTN_PAGES t), 31, 0⟩
/-- Table 9.10. -/
def ATTN_SKIP (t : Nat) : Nat := 0x100C0110 + t * 0x100000
def ATTN_SKIP_SKIPPED (t : Nat) : Fld := ⟨(ATTN_SKIP t), 63, 32⟩
def ATTN_SKIP_CANDIDATES (t : Nat) : Fld := ⟨(ATTN_SKIP t), 31, 0⟩
/-- Table 9.10. -/
def ATTN_RECOVER (t : Nat) : Nat := 0x100C0118 + t * 0x100000
def ATTN_RECOVER_RECOVERED (t : Nat) : Fld := ⟨(ATTN_RECOVER t), 63, 32⟩
def ATTN_RECOVER_CHECKED (t : Nat) : Fld := ⟨(ATTN_RECOVER t), 31, 0⟩
/-- Table 9.10. -/
def ATTN_STAT (t : Nat) : Nat := 0x100C0120 + t * 0x100000
def ATTN_STAT_RESCALES (t : Nat) : Fld := ⟨(ATTN_STAT t), 63, 32⟩
def ATTN_STAT_EMPTY_PARTIALS (t : Nat) : Fld := ⟨(ATTN_STAT t), 31, 0⟩
/-- Table 9.10. -/
def ATTN_MERGE (t : Nat) : Nat := 0x100C0128 + t * 0x100000
def ATTN_MERGE_PARTIALS (t : Nat) : Fld := ⟨(ATTN_MERGE t), 31, 0⟩
/-- Table 10.12. -/
def KVP_CFG : Nat := 0x3000000
def KVP_CFG_FRAME_32K : Fld := ⟨KVP_CFG, 0, 0⟩
/-- Table 10.12. -/
def KVP_CTL : Nat := 0x3000008
def KVP_CTL_FLUSH : Fld := ⟨KVP_CTL, 63, 63⟩
/-- Table 10.12. -/
def KVP_STATUS : Nat := 0x3000010
def KVP_STATUS_FRAMES : Fld := ⟨KVP_STATUS, 63, 32⟩
def KVP_STATUS_FREE : Fld := ⟨KVP_STATUS, 31, 0⟩
/-- Table 10.12. -/
def KVP_ERR : Nat := 0x3000018
def KVP_ERR_POISON : Fld := ⟨KVP_ERR, 6, 6⟩
def KVP_ERR_CMD_BUSY : Fld := ⟨KVP_ERR, 5, 5⟩
def KVP_ERR_NO_CTX : Fld := ⟨KVP_ERR, 4, 4⟩
def KVP_ERR_REF_SAT : Fld := ⟨KVP_ERR, 3, 3⟩
def KVP_ERR_BAD_STATE : Fld := ⟨KVP_ERR, 2, 2⟩
def KVP_ERR_NO_FRAME : Fld := ⟨KVP_ERR, 1, 1⟩
def KVP_ERR_WALK_HOLE : Fld := ⟨KVP_ERR, 0, 0⟩
/-- Table 10.12. -/
def KVP_WALK_INV : Nat := 0x3000020
def KVP_WALK_INV_GO : Fld := ⟨KVP_WALK_INV, 63, 63⟩
def KVP_WALK_INV_CTX : Fld := ⟨KVP_WALK_INV, 6, 0⟩
/-- Table 10.12. -/
def KVP_FRAME_RD : Nat := 0x3000028
def KVP_FRAME_RD_GO : Fld := ⟨KVP_FRAME_RD, 63, 63⟩
def KVP_FRAME_RD_BUSY : Fld := ⟨KVP_FRAME_RD, 62, 62⟩
def KVP_FRAME_RD_FRAME : Fld := ⟨KVP_FRAME_RD, 31, 0⟩
/-- Table 10.12. -/
def KVP_FRAME_DATA (k : Nat) : Nat := 0x3000030 + k * 0x8
def KVP_FRAME_DATA_ENTRY (k : Nat) : Fld := ⟨(KVP_FRAME_DATA k), 63, 0⟩
/-- Table 10.12. -/
def KVP_CMD_REC (n : Nat) (k : Nat) : Nat := 0x3000400 + n * 0x40 + k * 0x8
def KVP_CMD_REC_REC (n : Nat) (k : Nat) : Fld := ⟨(KVP_CMD_REC n k), 63, 0⟩
/-- Table 10.12. -/
def KVP_CMD_GO (n : Nat) : Nat := 0x3000420 + n * 0x40
def KVP_CMD_GO_GO (n : Nat) : Fld := ⟨(KVP_CMD_GO n), 63, 63⟩
/-- Table 10.12. -/
def KVP_CMD_RESULT (n : Nat) : Nat := 0x3000428 + n * 0x40
def KVP_CMD_RESULT_BUSY (n : Nat) : Fld := ⟨(KVP_CMD_RESULT n), 63, 63⟩
def KVP_CMD_RESULT_ARG (n : Nat) : Fld := ⟨(KVP_CMD_RESULT n), 39, 8⟩
def KVP_CMD_RESULT_CODE (n : Nat) : Fld := ⟨(KVP_CMD_RESULT n), 7, 0⟩
/-- Table 10.12. -/
def KVP_CMDQ_BASE (n : Nat) : Nat := 0x3000800 + n * 0x20
def KVP_CMDQ_BASE_BASE (n : Nat) : Fld := ⟨(KVP_CMDQ_BASE n), 44, 0⟩
/-- Table 10.12. -/
def KVP_CMDQ_CFG (n : Nat) : Nat := 0x3000808 + n * 0x20
def KVP_CMDQ_CFG_ENABLE (n : Nat) : Fld := ⟨(KVP_CMDQ_CFG n), 63, 63⟩
def KVP_CMDQ_CFG_SIZE_LOG2 (n : Nat) : Fld := ⟨(KVP_CMDQ_CFG n), 20, 16⟩
def KVP_CMDQ_CFG_CHANNEL (n : Nat) : Fld := ⟨(KVP_CMDQ_CFG n), 11, 0⟩
/-- Table 10.12. -/
def KVP_CMDQ_HEAD (n : Nat) : Nat := 0x3000810 + n * 0x20
def KVP_CMDQ_HEAD_ADMITTED (n : Nat) : Fld := ⟨(KVP_CMDQ_HEAD n), 31, 0⟩
/-- Table 10.12. -/
def KVP_CMDQ_DONE (n : Nat) : Nat := 0x3000818 + n * 0x20
def KVP_CMDQ_DONE_DONE (n : Nat) : Fld := ⟨(KVP_CMDQ_DONE n), 31, 0⟩
/-- Table 10.12. -/
def KVP_PIN : Nat := 0x3000200
def KVP_PIN_PINS : Fld := ⟨KVP_PIN, 63, 32⟩
def KVP_PIN_UNPINS : Fld := ⟨KVP_PIN, 31, 0⟩
/-- Table 10.12. -/
def KVP_FRAMES : Nat := 0x3000208
def KVP_FRAMES_ALLOCS : Fld := ⟨KVP_FRAMES, 63, 32⟩
def KVP_FRAMES_RETURNS : Fld := ⟨KVP_FRAMES, 31, 0⟩
/-- Table 10.12. -/
def KVP_COPY : Nat := 0x3000210
def KVP_COPY_COWS : Fld := ⟨KVP_COPY, 63, 32⟩
def KVP_COPY_SEALS : Fld := ⟨KVP_COPY, 31, 0⟩
/-- Table 10.12. -/
def KVP_APPEND : Nat := 0x3000218
def KVP_APPEND_BYTES : Fld := ⟨KVP_APPEND, 63, 0⟩
/-- Table 10.12. -/
def KVP_WALK (n : Nat) : Nat := 0x3000300 + n * 0x8
def KVP_WALK_L1_MISSES (n : Nat) : Fld := ⟨(KVP_WALK n), 63, 32⟩
def KVP_WALK_TRANSLATIONS (n : Nat) : Fld := ⟨(KVP_WALK n), 31, 0⟩
/-- Table 10.12. -/
def KVP_LAB (n : Nat) : Nat := 0x3001000 + n * 0x8
def KVP_LAB_HITS (n : Nat) : Fld := ⟨(KVP_LAB n), 63, 32⟩
def KVP_LAB_MISSES (n : Nat) : Fld := ⟨(KVP_LAB n), 31, 0⟩
/-- Table 10.13. -/
def PFX_CTL : Nat := 0x3800000
def PFX_CTL_CLEAR : Fld := ⟨PFX_CTL, 63, 63⟩
def PFX_CTL_ENABLE : Fld := ⟨PFX_CTL, 0, 0⟩
/-- Table 10.13. -/
def PFX_SALT : Nat := 0x3800008
def PFX_SALT_SALT : Fld := ⟨PFX_SALT, 63, 0⟩
/-- Table 10.13. -/
def PFX_STATUS : Nat := 0x3800010
def PFX_STATUS_VALID : Fld := ⟨PFX_STATUS, 18, 0⟩
/-- Table 10.13. -/
def PFX_LOOKUP : Nat := 0x3800100
def PFX_LOOKUP_HITS : Fld := ⟨PFX_LOOKUP, 63, 32⟩
def PFX_LOOKUP_MISSES : Fld := ⟨PFX_LOOKUP, 31, 0⟩
/-- Table 10.13. -/
def PFX_INSERT : Nat := 0x3800108
def PFX_INSERT_INSERTS : Fld := ⟨PFX_INSERT, 63, 32⟩
def PFX_INSERT_EVICTIONS : Fld := ⟨PFX_INSERT, 31, 0⟩
/-- Table 10.13. -/
def PFX_VERIFY : Nat := 0x3800110
def PFX_VERIFY_DUPLICATES : Fld := ⟨PFX_VERIFY, 63, 32⟩
def PFX_VERIFY_COLLISIONS : Fld := ⟨PFX_VERIFY, 31, 0⟩
/-- Table 10.14. -/
def SEQ_STATUS : Nat := 0x4000000
def SEQ_STATUS_LIVE : Fld := ⟨SEQ_STATUS, 47, 32⟩
def SEQ_STATUS_SPILLED : Fld := ⟨SEQ_STATUS, 31, 16⟩
def SEQ_STATUS_RESIDENT : Fld := ⟨SEQ_STATUS, 15, 8⟩
def SEQ_STATUS_PARKED : Fld := ⟨SEQ_STATUS, 7, 0⟩
/-- Table 10.14. -/
def SEQ_CMD_ARG0 (n : Nat) : Nat := 0x4000400 + n * 0x20
def SEQ_CMD_ARG0_L1_BASE (n : Nat) : Fld := ⟨(SEQ_CMD_ARG0 n), 44, 0⟩
/-- Table 10.14. -/
def SEQ_CMD_ARG1 (n : Nat) : Nat := 0x4000408 + n * 0x20
def SEQ_CMD_ARG1_HANDLE (n : Nat) : Fld := ⟨(SEQ_CMD_ARG1 n), 59, 48⟩
def SEQ_CMD_ARG1_CLASS (n : Nat) : Fld := ⟨(SEQ_CMD_ARG1 n), 35, 35⟩
def SEQ_CMD_ARG1_HEAD_DIM (n : Nat) : Fld := ⟨(SEQ_CMD_ARG1 n), 34, 34⟩
def SEQ_CMD_ARG1_FMT (n : Nat) : Fld := ⟨(SEQ_CMD_ARG1 n), 33, 32⟩
def SEQ_CMD_ARG1_HEADS (n : Nat) : Fld := ⟨(SEQ_CMD_ARG1 n), 31, 16⟩
def SEQ_CMD_ARG1_LAYERS (n : Nat) : Fld := ⟨(SEQ_CMD_ARG1 n), 15, 0⟩
/-- Table 10.14. -/
def SEQ_CMD_GO (n : Nat) : Nat := 0x4000410 + n * 0x20
def SEQ_CMD_GO_GO (n : Nat) : Fld := ⟨(SEQ_CMD_GO n), 63, 63⟩
def SEQ_CMD_GO_OP (n : Nat) : Fld := ⟨(SEQ_CMD_GO n), 2, 0⟩
/-- Table 10.14. -/
def SEQ_CMD_RESULT (n : Nat) : Nat := 0x4000418 + n * 0x20
def SEQ_CMD_RESULT_BUSY (n : Nat) : Fld := ⟨(SEQ_CMD_RESULT n), 63, 63⟩
def SEQ_CMD_RESULT_HANDLE (n : Nat) : Fld := ⟨(SEQ_CMD_RESULT n), 27, 16⟩
def SEQ_CMD_RESULT_CODE (n : Nat) : Fld := ⟨(SEQ_CMD_RESULT n), 7, 0⟩
/-- Table 10.14. -/
def SEQ_SPILL : Nat := 0x4000200
def SEQ_SPILL_SPILLS : Fld := ⟨SEQ_SPILL, 63, 32⟩
def SEQ_SPILL_RESTORES : Fld := ⟨SEQ_SPILL, 31, 0⟩
/-- Table 10.14. -/
def SEQ_REFUSE : Nat := 0x4000208
def SEQ_REFUSE_FULL : Fld := ⟨SEQ_REFUSE, 31, 0⟩
/-- Table 10.14. -/
def SEQ_BIND (n : Nat) : Nat := 0x4001000 + n * 0x8
def SEQ_BIND_VALID (n : Nat) : Fld := ⟨(SEQ_BIND n), 63, 63⟩
def SEQ_BIND_HANDLE (n : Nat) : Fld := ⟨(SEQ_BIND n), 11, 0⟩
/-- Table 10.14. -/
def SEQ_CTX (n : Nat) : Nat := 0x4020000 + n * 0x8
def SEQ_CTX_STATE (n : Nat) : Fld := ⟨(SEQ_CTX n), 63, 62⟩
def SEQ_CTX_CLASS (n : Nat) : Fld := ⟨(SEQ_CTX n), 61, 61⟩
def SEQ_CTX_MOVING (n : Nat) : Fld := ⟨(SEQ_CTX n), 60, 60⟩
def SEQ_CTX_PARK_BEAT (n : Nat) : Fld := ⟨(SEQ_CTX n), 47, 0⟩
/-- Table 11.11. -/
def EXP_STATUS : Nat := 0x5000000
def EXP_STATUS_WBUF_FREE : Fld := ⟨EXP_STATUS, 43, 32⟩
def EXP_STATUS_READY : Fld := ⟨EXP_STATUS, 26, 18⟩
def EXP_STATUS_FETCHING : Fld := ⟨EXP_STATUS, 17, 9⟩
def EXP_STATUS_IN_USE : Fld := ⟨EXP_STATUS, 8, 0⟩
/-- Table 11.11. -/
def EXP_CTL : Nat := 0x5000008
def EXP_CTL_WEIGHT_TRAVEL_MIN : Fld := ⟨EXP_CTL, 47, 32⟩
def EXP_CTL_PREFETCH_EN : Fld := ⟨EXP_CTL, 3, 3⟩
def EXP_CTL_MISS_FETCH : Fld := ⟨EXP_CTL, 2, 2⟩
/-- Table 11.11. -/
def EXP_ERR : Nat := 0x5000018
def EXP_ERR_SLICE_RANGE : Fld := ⟨EXP_ERR, 4, 4⟩
def EXP_ERR_VERSION_STALE : Fld := ⟨EXP_ERR, 3, 3⟩
def EXP_ERR_FETCH_FAIL : Fld := ⟨EXP_ERR, 2, 2⟩
def EXP_ERR_CFG : Fld := ⟨EXP_ERR, 1, 1⟩
def EXP_ERR_DIR_INVALID : Fld := ⟨EXP_ERR, 0, 0⟩
/-- Table 11.11. -/
def EXP_DIR_UPD_ARM : Nat := 0x5000020
def EXP_DIR_UPD_ARM_ARM : Fld := ⟨EXP_DIR_UPD_ARM, 63, 63⟩
/-- Table 11.11. -/
def EXP_EP_CFG : Nat := 0x5000028
def EXP_EP_CFG_E_LOCAL : Fld := ⟨EXP_EP_CFG, 44, 32⟩
def EXP_EP_CFG_SELF_RANK : Fld := ⟨EXP_EP_CFG, 23, 16⟩
def EXP_EP_CFG_P : Fld := ⟨EXP_EP_CFG, 8, 0⟩
/-- Table 11.11. -/
def EXP_TRAVEL : Nat := 0x5000030
def EXP_TRAVEL_TGRP : Fld := ⟨EXP_TRAVEL, 57, 48⟩
def EXP_TRAVEL_WBUF_BASE : Fld := ⟨EXP_TRAVEL, 43, 32⟩
def EXP_TRAVEL_WBUF_FRAMES : Fld := ⟨EXP_TRAVEL, 11, 0⟩
/-- Table 11.11. -/
def EXP_EP (n : Nat) : Nat := 0x5000800 + n * 0x8
def EXP_EP_VALID (n : Nat) : Fld := ⟨(EXP_EP n), 63, 63⟩
def EXP_EP_DEVICE (n : Nat) : Fld := ⟨(EXP_EP n), 11, 0⟩
/-- Table 11.11. -/
def EXP_LAYER (n : Nat) : Nat := 0x5001000 + n * 0x8
def EXP_LAYER_BASE (n : Nat) : Fld := ⟨(EXP_LAYER n), 63, 47⟩
def EXP_LAYER_COUNT (n : Nat) : Fld := ⟨(EXP_LAYER n), 46, 34⟩
def EXP_LAYER_POLICY (n : Nat) : Fld := ⟨(EXP_LAYER n), 33, 32⟩
def EXP_LAYER_CAP (n : Nat) : Fld := ⟨(EXP_LAYER n), 31, 20⟩
def EXP_LAYER_WIDE_FMT (n : Nat) : Fld := ⟨(EXP_LAYER n), 19, 16⟩
def EXP_LAYER_TRAVEL_EN (n : Nat) : Fld := ⟨(EXP_LAYER n), 15, 15⟩
/-- Table 11.11. -/
def EXP_RES_W0 (n : Nat) : Nat := 0x5002000 + n * 0x10
def EXP_RES_W0_STATE (n : Nat) : Fld := ⟨(EXP_RES_W0 n), 63, 61⟩
def EXP_RES_W0_PREDICTED (n : Nat) : Fld := ⟨(EXP_RES_W0 n), 60, 60⟩
def EXP_RES_W0_DEMAND (n : Nat) : Fld := ⟨(EXP_RES_W0 n), 59, 59⟩
def EXP_RES_W0_USED (n : Nat) : Fld := ⟨(EXP_RES_W0 n), 58, 58⟩
def EXP_RES_W0_LAYER (n : Nat) : Fld := ⟨(EXP_RES_W0 n), 55, 48⟩
def EXP_RES_W0_EXPERT (n : Nat) : Fld := ⟨(EXP_RES_W0 n), 47, 36⟩
def EXP_RES_W0_FRAMES (n : Nat) : Fld := ⟨(EXP_RES_W0 n), 35, 24⟩
def EXP_RES_W0_FRAME (n : Nat) : Fld := ⟨(EXP_RES_W0 n), 23, 12⟩
def EXP_RES_W0_USES (n : Nat) : Fld := ⟨(EXP_RES_W0 n), 11, 0⟩
/-- Table 11.11. -/
def EXP_RES_W1 (n : Nat) : Nat := 0x5002008 + n * 0x10
def EXP_RES_W1_VERSION (n : Nat) : Fld := ⟨(EXP_RES_W1 n), 63, 32⟩
/-- Table 11.11. -/
def EXP_DIR_UPD_W0 (n : Nat) : Nat := 0x5010000 + n * 0x40
def EXP_DIR_UPD_W0_VALID (n : Nat) : Fld := ⟨(EXP_DIR_UPD_W0 n), 63, 63⟩
def EXP_DIR_UPD_W0_INDEX (n : Nat) : Fld := ⟨(EXP_DIR_UPD_W0 n), 16, 0⟩
/-- Table 11.11. -/
def EXP_DIR_UPD_ENTRY (n : Nat) (k : Nat) : Nat := 0x5010008 + n * 0x40 + k * 0x8
def EXP_DIR_UPD_ENTRY_ENTRY (n : Nat) (k : Nat) : Fld := ⟨(EXP_DIR_UPD_ENTRY n k), 63, 0⟩
/-- Table 11.12. -/
def EXP_ROUTE : Nat := 0x5000100
def EXP_ROUTE_NAN_ROWS : Fld := ⟨EXP_ROUTE, 63, 32⟩
def EXP_ROUTE_ROWS : Fld := ⟨EXP_ROUTE, 31, 0⟩
/-- Table 11.12. -/
def EXP_CAP : Nat := 0x5000108
def EXP_CAP_DROPPED : Fld := ⟨EXP_CAP, 63, 32⟩
def EXP_CAP_SECOND : Fld := ⟨EXP_CAP, 31, 0⟩
/-- Table 11.12. -/
def EXP_DEFER : Nat := 0x5000110
def EXP_DEFER_DEFER_DROPPED : Fld := ⟨EXP_DEFER, 63, 32⟩
def EXP_DEFER_DEFERRED : Fld := ⟨EXP_DEFER, 31, 0⟩
/-- Table 11.12. -/
def EXP_TRAVEL_CNT : Nat := 0x5000118
def EXP_TRAVEL_CNT_PAIRS : Fld := ⟨EXP_TRAVEL_CNT, 63, 32⟩
def EXP_TRAVEL_CNT_EXPERTS : Fld := ⟨EXP_TRAVEL_CNT, 31, 0⟩
/-- Table 11.12. -/
def EXP_PRED : Nat := 0x5000120
def EXP_PRED_WASTED : Fld := ⟨EXP_PRED, 63, 32⟩
def EXP_PRED_HITS : Fld := ⟨EXP_PRED, 31, 0⟩
/-- Table 11.12. -/
def EXP_PRED_MISS : Nat := 0x5000128
def EXP_PRED_MISS_FALLBACKS : Fld := ⟨EXP_PRED_MISS, 63, 32⟩
def EXP_PRED_MISS_MISSES : Fld := ⟨EXP_PRED_MISS, 31, 0⟩
/-- Table 11.12. -/
def EXP_BYTES : Nat := 0x5000130
def EXP_BYTES_BYTES : Fld := ⟨EXP_BYTES, 63, 0⟩
/-- Table 11.12. -/
def EXP_FETCH : Nat := 0x5000138
def EXP_FETCH_BYTES : Fld := ⟨EXP_FETCH, 63, 0⟩
/-- Table 12.6. -/
def WGQ_CTL : Nat := 0x6800000
def WGQ_CTL_DRAIN : Fld := ⟨WGQ_CTL, 7, 7⟩
def WGQ_CTL_PRIORITY : Fld := ⟨WGQ_CTL, 3, 3⟩
def WGQ_CTL_ORDER : Fld := ⟨WGQ_CTL, 1, 0⟩
/-- Table 12.6. -/
def WGQ_STATUS : Nat := 0x6800008
def WGQ_STATUS_URGENT : Fld := ⟨WGQ_STATUS, 42, 32⟩
def WGQ_STATUS_STARTED : Fld := ⟨WGQ_STATUS, 26, 16⟩
def WGQ_STATUS_ENTRIES : Fld := ⟨WGQ_STATUS, 10, 0⟩
/-- Table 12.6. -/
def WGQ_ERR : Nat := 0x6800010
def WGQ_ERR_NO_REGION : Fld := ⟨WGQ_ERR, 2, 2⟩
def WGQ_ERR_FULL : Fld := ⟨WGQ_ERR, 1, 1⟩
def WGQ_ERR_URGENT_REACHED : Fld := ⟨WGQ_ERR, 0, 0⟩
/-- Table 12.6. -/
def WGQ_POST : Nat := 0x6800100
def WGQ_POST_POSTED : Fld := ⟨WGQ_POST, 63, 32⟩
def WGQ_POST_COMPLETED : Fld := ⟨WGQ_POST, 31, 0⟩
/-- Table 12.6. -/
def WGQ_SLICE : Nat := 0x6800108
def WGQ_SLICE_SLICES : Fld := ⟨WGQ_SLICE, 63, 32⟩
def WGQ_SLICE_URGENT_SLICES : Fld := ⟨WGQ_SLICE, 31, 0⟩
/-- Table 12.6. -/
def WGQ_WAIT : Nat := 0x6800110
def WGQ_WAIT_FULL_CYCLES : Fld := ⟨WGQ_WAIT, 63, 32⟩
def WGQ_WAIT_URGENT_WAIT_CYCLES : Fld := ⟨WGQ_WAIT, 31, 0⟩
/-- Table 12.6. -/
def WGQ_TILE_CYCLES : Nat := 0x6800118
def WGQ_TILE_CYCLES_CYCLES : Fld := ⟨WGQ_TILE_CYCLES, 63, 0⟩
/-- Table 13.11. -/
def UPDATE_CFG : Nat := 0x6000000
def UPDATE_CFG_RAISE_AFTER : Fld := ⟨UPDATE_CFG, 31, 0⟩
/-- Table 13.11. -/
def UPD_SCALE : Nat := 0x6000008
def UPD_SCALE_CLEAN : Fld := ⟨UPD_SCALE, 47, 16⟩
def UPD_SCALE_S : Fld := ⟨UPD_SCALE, 5, 0⟩
/-- Table 13.11. -/
def UPD_BANK : Nat := 0x6000010
def UPD_BANK_LIVE_BANK : Fld := ⟨UPD_BANK, 63, 63⟩
def UPD_BANK_LIVE_STEP : Fld := ⟨UPD_BANK, 47, 0⟩
/-- Table 13.11. -/
def UPD_RET : Nat := 0x6000018
def UPD_RET_RET_VALID : Fld := ⟨UPD_RET, 63, 63⟩
def UPD_RET_RET_STEP : Fld := ⟨UPD_RET, 47, 0⟩
/-- Table 13.11. -/
def UPD_BANK_CTL : Nat := 0x6000020
def UPD_BANK_CTL_FLIP_BACK : Fld := ⟨UPD_BANK_CTL, 63, 63⟩
def UPD_BANK_CTL_SET : Fld := ⟨UPD_BANK_CTL, 62, 62⟩
def UPD_BANK_CTL_SET_BANK : Fld := ⟨UPD_BANK_CTL, 61, 61⟩
def UPD_BANK_CTL_STEP : Fld := ⟨UPD_BANK_CTL, 47, 0⟩
/-- Table 13.11. -/
def UPD_COMMIT_CFG : Nat := 0x6000028
def UPD_COMMIT_CFG_COORD : Fld := ⟨UPD_COMMIT_CFG, 59, 48⟩
def UPD_COMMIT_CFG_VOTE_WINDOW_BEATS : Fld := ⟨UPD_COMMIT_CFG, 47, 32⟩
def UPD_COMMIT_CFG_LEAD_BEATS : Fld := ⟨UPD_COMMIT_CFG, 31, 24⟩
def UPD_COMMIT_CFG_DECIDE_TIMEOUT : Fld := ⟨UPD_COMMIT_CFG, 23, 8⟩
/-- Table 13.11. -/
def UPD_COMMIT_CTL : Nat := 0x6000030
def UPD_COMMIT_CTL_VOTE : Fld := ⟨UPD_COMMIT_CTL, 63, 63⟩
def UPD_COMMIT_CTL_REVOTE : Fld := ⟨UPD_COMMIT_CTL, 62, 62⟩
/-- Table 13.11. -/
def UPD_COMMIT_STATUS : Nat := 0x6000038
def UPD_COMMIT_STATUS_M_BEAT : Fld := ⟨UPD_COMMIT_STATUS, 63, 16⟩
def UPD_COMMIT_STATUS_POISON : Fld := ⟨UPD_COMMIT_STATUS, 9, 9⟩
def UPD_COMMIT_STATUS_OVERFLOW : Fld := ⟨UPD_COMMIT_STATUS, 8, 8⟩
def UPD_COMMIT_STATUS_OUTCOME : Fld := ⟨UPD_COMMIT_STATUS, 5, 4⟩
def UPD_COMMIT_STATUS_STATE : Fld := ⟨UPD_COMMIT_STATUS, 1, 0⟩
/-- Table 13.11. -/
def UPD_MBOX : Nat := 0x6000040
def UPD_MBOX_BASE : Fld := ⟨UPD_MBOX, 44, 0⟩
/-- Table 13.11. -/
def UPD_COORD_STATUS : Nat := 0x6000048
def UPD_COORD_STATUS_STEP : Fld := ⟨UPD_COORD_STATUS, 63, 16⟩
def UPD_COORD_STATUS_STATE : Fld := ⟨UPD_COORD_STATUS, 15, 13⟩
def UPD_COORD_STATUS_COUNT : Fld := ⟨UPD_COORD_STATUS, 12, 0⟩
/-- Table 13.11. -/
def UPD_COORD_CTL : Nat := 0x6000050
def UPD_COORD_CTL_ABORT_NOW : Fld := ⟨UPD_COORD_CTL, 63, 63⟩
/-- Table 13.11. -/
def UPD_DEADLINE : Nat := 0x6000058
def UPD_DEADLINE_BEAT : Fld := ⟨UPD_DEADLINE, 47, 0⟩
/-- Table 13.11. -/
def UPD_ERR : Nat := 0x6000060
def UPD_ERR_SCALE_MISMATCH : Fld := ⟨UPD_ERR, 6, 6⟩
def UPD_ERR_SCALE_FLOOR : Fld := ⟨UPD_ERR, 5, 5⟩
def UPD_ERR_DECIDE_TIMEOUT : Fld := ⟨UPD_ERR, 4, 4⟩
def UPD_ERR_BANK_REJECT : Fld := ⟨UPD_ERR, 3, 3⟩
def UPD_ERR_RET_WRITE : Fld := ⟨UPD_ERR, 2, 2⟩
def UPD_ERR_MIDNIGHT_LATE : Fld := ⟨UPD_ERR, 1, 1⟩
def UPD_ERR_MSG_BAD : Fld := ⟨UPD_ERR, 0, 0⟩
/-- Table 13.11. -/
def UPD_SET (n : Nat) : Nat := 0x6001000 + n * 0x8
def UPD_SET_BITS (n : Nat) : Fld := ⟨(UPD_SET n), 63, 0⟩
/-- Table 13.11. -/
def UPD_VOTED (n : Nat) : Nat := 0x6001200 + n * 0x8
def UPD_VOTED_BITS (n : Nat) : Fld := ⟨(UPD_VOTED n), 63, 0⟩
/-- Table 13.12. -/
def UPD_OUTCOMES : Nat := 0x6000100
def UPD_OUTCOMES_SKIPS : Fld := ⟨UPD_OUTCOMES, 63, 32⟩
def UPD_OUTCOMES_COMMITS : Fld := ⟨UPD_OUTCOMES, 31, 0⟩
/-- Table 13.12. -/
def UPD_ABORTS : Nat := 0x6000108
def UPD_ABORTS_DISCARDED : Fld := ⟨UPD_ABORTS, 63, 32⟩
def UPD_ABORTS_ABORTS : Fld := ⟨UPD_ABORTS, 31, 0⟩
/-- Table 13.12. -/
def UPD_MSGS : Nat := 0x6000110
def UPD_MSGS_RECEIVED : Fld := ⟨UPD_MSGS, 63, 32⟩
def UPD_MSGS_SENT : Fld := ⟨UPD_MSGS, 31, 0⟩
/-- Table 13.12. -/
def UPD_ELEMENTS : Nat := 0x6000118
def UPD_ELEMENTS_ELEMENTS : Fld := ⟨UPD_ELEMENTS, 63, 0⟩
/-- Table 13.12. -/
def UPD_EMBED : Nat := 0x6000120
def UPD_EMBED_LIST_SKIPS : Fld := ⟨UPD_EMBED, 63, 32⟩
def UPD_EMBED_ROWS : Fld := ⟨UPD_EMBED, 31, 0⟩
/-- Table 13.12. -/
def UPD_WAIT : Nat := 0x6000128
def UPD_WAIT_RET_WAIT_CYCLES : Fld := ⟨UPD_WAIT, 31, 0⟩
/-- Table 14.7. -/
def HBM_STATUS (s : Nat) : Nat := 0x9000000 + s * 0x100000
def HBM_STATUS_TEMP (s : Nat) : Fld := ⟨(HBM_STATUS s), 39, 32⟩
def HBM_STATUS_HEIGHT (s : Nat) : Fld := ⟨(HBM_STATUS s), 31, 24⟩
def HBM_STATUS_STATE (s : Nat) : Fld := ⟨(HBM_STATUS s), 2, 0⟩
/-- Table 14.7. -/
def HBM_CTL (s : Nat) : Nat := 0x9000008 + s * 0x100000
def HBM_CTL_EXCLUDE (s : Nat) : Fld := ⟨(HBM_CTL s), 2, 2⟩
def HBM_CTL_REFRESH (s : Nat) : Fld := ⟨(HBM_CTL s), 1, 0⟩
/-- Table 14.7. -/
def HBM_TRAIN (s : Nat) : Nat := 0x9000010 + s * 0x100000
def HBM_TRAIN_STAMP (s : Nat) : Fld := ⟨(HBM_TRAIN s), 63, 32⟩
def HBM_TRAIN_MS (s : Nat) : Fld := ⟨(HBM_TRAIN s), 15, 0⟩
/-- Table 14.7. -/
def HBM_PPR (s : Nat) : Nat := 0x9000018 + s * 0x100000
def HBM_PPR_GO (s : Nat) : Fld := ⟨(HBM_PPR s), 63, 63⟩
def HBM_PPR_BUSY (s : Nat) : Fld := ⟨(HBM_PPR s), 62, 62⟩
def HBM_PPR_STATUS (s : Nat) : Fld := ⟨(HBM_PPR s), 61, 60⟩
def HBM_PPR_HARD (s : Nat) : Fld := ⟨(HBM_PPR s), 59, 59⟩
def HBM_PPR_PC (s : Nat) : Fld := ⟨(HBM_PPR s), 58, 53⟩
def HBM_PPR_BANK (s : Nat) : Fld := ⟨(HBM_PPR s), 52, 47⟩
def HBM_PPR_ROW (s : Nat) : Fld := ⟨(HBM_PPR s), 46, 29⟩
/-- Table 14.7. -/
def HBM_DIE_ECC (s : Nat) : Nat := 0x9000020 + s * 0x100000
def HBM_DIE_ECC_UNCORR (s : Nat) : Fld := ⟨(HBM_DIE_ECC s), 63, 32⟩
def HBM_DIE_ECC_CORR (s : Nat) : Fld := ⟨(HBM_DIE_ECC s), 31, 0⟩
/-- Table 14.7. -/
def HBM_PC_W0 (s : Nat) (n : Nat) : Nat := 0x9001000 + s * 0x100000 + n * 0x10
def HBM_PC_W0_RD_GRANULES (s : Nat) (n : Nat) : Fld := ⟨(HBM_PC_W0 s n), 63, 32⟩
def HBM_PC_W0_WR_GRANULES (s : Nat) (n : Nat) : Fld := ⟨(HBM_PC_W0 s n), 31, 0⟩
/-- Table 14.7. -/
def HBM_PC_W1 (s : Nat) (n : Nat) : Nat := 0x9001008 + s * 0x100000 + n * 0x10
def HBM_PC_W1_CORRECTED (s : Nat) (n : Nat) : Fld := ⟨(HBM_PC_W1 s n), 63, 32⟩
def HBM_PC_W1_RETRIES (s : Nat) (n : Nat) : Fld := ⟨(HBM_PC_W1 s n), 31, 16⟩
def HBM_PC_W1_AGE_CAP (s : Nat) (n : Nat) : Fld := ⟨(HBM_PC_W1 s n), 15, 0⟩
/-- Table 14.8. -/
def ECC_CFG : Nat := 0xA800000
def ECC_CFG_STACKS : Fld := ⟨ECC_CFG, 15, 8⟩
def ECC_CFG_STRENGTH : Fld := ⟨ECC_CFG, 2, 0⟩
/-- Table 14.8. -/
def ECC_TOP : Nat := 0xA800008
def ECC_TOP_TOP : Fld := ⟨ECC_TOP, 44, 0⟩
/-- Table 14.8. -/
def ECC_ERR : Nat := 0xA800018
def ECC_ERR_SCRUB_REJECT : Fld := ⟨ECC_ERR, 5, 5⟩
def ECC_ERR_FATAL : Fld := ⟨ECC_ERR, 4, 4⟩
def ECC_ERR_CHECKER_FAIL : Fld := ⟨ECC_ERR, 3, 3⟩
def ECC_ERR_CONTAINED : Fld := ⟨ECC_ERR, 2, 2⟩
def ECC_ERR_DEFERRED : Fld := ⟨ECC_ERR, 1, 1⟩
def ECC_ERR_CORRECTED : Fld := ⟨ECC_ERR, 0, 0⟩
/-- Table 14.8. -/
def ECC_LOG_0 : Nat := 0xA800020
def ECC_LOG_0_CLASS : Fld := ⟨ECC_LOG_0, 63, 62⟩
def ECC_LOG_0_SOURCE : Fld := ⟨ECC_LOG_0, 61, 58⟩
def ECC_LOG_0_UNIT : Fld := ⟨ECC_LOG_0, 57, 45⟩
def ECC_LOG_0_OFFSET : Fld := ⟨ECC_LOG_0, 44, 0⟩
/-- Table 14.8. -/
def ECC_LOG_1 : Nat := 0xA800028
def ECC_LOG_1_BEAT : Fld := ⟨ECC_LOG_1, 47, 0⟩
/-- Table 14.8. -/
def ECC_SCRUB_CTL : Nat := 0xA800100
def ECC_SCRUB_CTL_GO : Fld := ⟨ECC_SCRUB_CTL, 63, 63⟩
def ECC_SCRUB_CTL_BUSY : Fld := ⟨ECC_SCRUB_CTL, 62, 62⟩
def ECC_SCRUB_CTL_CLEAR_POISON : Fld := ⟨ECC_SCRUB_CTL, 61, 61⟩
def ECC_SCRUB_CTL_CONTINUOUS : Fld := ⟨ECC_SCRUB_CTL, 60, 60⟩
def ECC_SCRUB_CTL_RATE_GBS : Fld := ⟨ECC_SCRUB_CTL, 47, 32⟩
/-- Table 14.8. -/
def ECC_SCRUB_BASE : Nat := 0xA800108
def ECC_SCRUB_BASE_BASE : Fld := ⟨ECC_SCRUB_BASE, 44, 0⟩
/-- Table 14.8. -/
def ECC_SCRUB_LEN : Nat := 0xA800110
def ECC_SCRUB_LEN_LEN : Fld := ⟨ECC_SCRUB_LEN, 44, 0⟩
/-- Table 14.8. -/
def ECC_SCRUB_REC : Nat := 0xA800118
def ECC_SCRUB_REC_REC : Fld := ⟨ECC_SCRUB_REC, 44, 0⟩
/-- Table 14.8. -/
def ECC_SCRUB_POS : Nat := 0xA800120
def ECC_SCRUB_POS_POS : Fld := ⟨ECC_SCRUB_POS, 44, 0⟩
/-- Table 14.8. -/
def ECC_SELFTEST : Nat := 0xA800200
def ECC_SELFTEST_GO : Fld := ⟨ECC_SELFTEST, 63, 63⟩
def ECC_SELFTEST_BUSY : Fld := ⟨ECC_SELFTEST, 62, 62⟩
/-- Table 14.8. -/
def ECC_ST_HBM : Nat := 0xA800208
def ECC_ST_HBM_FAIL : Fld := ⟨ECC_ST_HBM, 23, 0⟩
/-- Table 14.8. -/
def ECC_ST_TILE (n : Nat) : Nat := 0xA800210 + n * 0x8
def ECC_ST_TILE_FAIL (n : Nat) : Fld := ⟨(ECC_ST_TILE n), 63, 0⟩
/-- Table 14.8. -/
def ECC_INJECT : Nat := 0xA800300
def ECC_INJECT_ARM : Fld := ⟨ECC_INJECT, 63, 63⟩
def ECC_INJECT_KIND : Fld := ⟨ECC_INJECT, 62, 61⟩
def ECC_INJECT_TILE : Fld := ⟨ECC_INJECT, 60, 52⟩
def ECC_INJECT_OFFSET : Fld := ⟨ECC_INJECT, 44, 0⟩
/-- Table 14.8. -/
def ECC_CNT : Nat := 0xA800400
def ECC_CNT_CORRECTED : Fld := ⟨ECC_CNT, 63, 32⟩
def ECC_CNT_DEFERRED : Fld := ⟨ECC_CNT, 31, 0⟩
/-- Table 14.8. -/
def ECC_CNT2 : Nat := 0xA800408
def ECC_CNT2_POISON_READS : Fld := ⟨ECC_CNT2, 63, 32⟩
def ECC_CNT2_RMW : Fld := ⟨ECC_CNT2, 31, 0⟩
/-- Table 14.8. -/
def ECC_CIST (n : Nat) : Nat := 0xA801000 + n * 0x8
def ECC_CIST_SPARES_LEFT (n : Nat) : Fld := ⟨(ECC_CIST n), 63, 54⟩
def ECC_CIST_CORRECTED (n : Nat) : Fld := ⟨(ECC_CIST n), 31, 16⟩
def ECC_CIST_REMAPS (n : Nat) : Fld := ⟨(ECC_CIST n), 15, 0⟩
/-- Table 15.13. -/
def PWR_STATE : Nat := 0xB000000
def PWR_STATE_BOOT_STEP : Fld := ⟨PWR_STATE, 55, 48⟩
def PWR_STATE_DEGRADED : Fld := ⟨PWR_STATE, 39, 39⟩
def PWR_STATE_PSTATE : Fld := ⟨PWR_STATE, 37, 36⟩
def PWR_STATE_DEG_WHY : Fld := ⟨PWR_STATE, 35, 32⟩
def PWR_STATE_DEV_STATE : Fld := ⟨PWR_STATE, 3, 0⟩
/-- Table 15.13. -/
def PWR_CTL : Nat := 0xB000008
def PWR_CTL_DUSK : Fld := ⟨PWR_CTL, 63, 63⟩
def PWR_CTL_WAKE : Fld := ⟨PWR_CTL, 62, 62⟩
def PWR_CTL_DUSK_AT_BEAT : Fld := ⟨PWR_CTL, 47, 0⟩
/-- Table 15.13. -/
def PWR_CEIL : Nat := 0xB000010
def PWR_CEIL_HYST_W : Fld := ⟨PWR_CEIL, 47, 32⟩
def PWR_CEIL_CEIL_W : Fld := ⟨PWR_CEIL, 15, 0⟩
/-- Table 15.13. -/
def PWR_PLIM : Nat := 0xB000018
def PWR_PLIM_PLIM : Fld := ⟨PWR_PLIM, 18, 16⟩
def PWR_PLIM_LIMIT_W : Fld := ⟨PWR_PLIM, 15, 0⟩
/-- Table 15.13. -/
def PWR_CLK : Nat := 0xB000020
def PWR_CLK_CAUSE : Fld := ⟨PWR_CLK, 57, 56⟩
def PWR_CLK_MHZ : Fld := ⟨PWR_CLK, 47, 32⟩
def PWR_CLK_STEPS_DOWN : Fld := ⟨PWR_CLK, 7, 0⟩
/-- Table 15.13. -/
def PWR_THERM : Nat := 0xB000028
def PWR_THERM_TRIP_C : Fld := ⟨PWR_THERM, 47, 40⟩
def PWR_THERM_THROTTLE_C : Fld := ⟨PWR_THERM, 39, 32⟩
def PWR_THERM_HOT_DIE : Fld := ⟨PWR_THERM, 19, 16⟩
def PWR_THERM_TJ_C : Fld := ⟨PWR_THERM, 7, 0⟩
/-- Table 15.13. -/
def PWR_ERR : Nat := 0xB000030
def PWR_ERR_HBM_REMAP : Fld := ⟨PWR_ERR, 8, 8⟩
def PWR_ERR_KAT_FAIL : Fld := ⟨PWR_ERR, 7, 7⟩
def PWR_ERR_FUSE_ONLY : Fld := ⟨PWR_ERR, 6, 6⟩
def PWR_ERR_RECORD_WRITE_FAIL : Fld := ⟨PWR_ERR, 5, 5⟩
def PWR_ERR_RECORD_FULL : Fld := ⟨PWR_ERR, 4, 4⟩
def PWR_ERR_THERM_95 : Fld := ⟨PWR_ERR, 3, 3⟩
def PWR_ERR_THERM_THROTTLE : Fld := ⟨PWR_ERR, 2, 2⟩
def PWR_ERR_FLOOR_HOLD : Fld := ⟨PWR_ERR, 1, 1⟩
def PWR_ERR_CEIL_CLAMP : Fld := ⟨PWR_ERR, 0, 0⟩
/-- Table 15.13. -/
def PWR_NIGHT_CFG : Nat := 0xB000038
def PWR_NIGHT_CFG_ETH_KEEP : Fld := ⟨PWR_NIGHT_CFG, 1, 0⟩
/-- Table 15.13. -/
def PWR_GOOD_TILES : Nat := 0xB000040
def PWR_GOOD_TILES_TOTAL : Fld := ⟨PWR_GOOD_TILES, 56, 48⟩
def PWR_GOOD_TILES_PER_DIE : Fld := ⟨PWR_GOOD_TILES, 47, 0⟩
/-- Table 15.13. -/
def PWR_CORES : Nat := 0xB000048
def PWR_CORES_FUSE_BAD : Fld := ⟨PWR_CORES, 63, 48⟩
def PWR_CORES_RECORD_BAD : Fld := ⟨PWR_CORES, 47, 32⟩
def PWR_CORES_TEST_BAD : Fld := ⟨PWR_CORES, 31, 16⟩
def PWR_CORES_GOOD : Fld := ⟨PWR_CORES, 15, 0⟩
/-- Table 15.13. -/
def PWR_RPR : Nat := 0xB000050
def PWR_RPR_SLOT : Fld := ⟨PWR_RPR, 63, 62⟩
def PWR_RPR_BUSY : Fld := ⟨PWR_RPR, 61, 61⟩
def PWR_RPR_ENTRIES : Fld := ⟨PWR_RPR, 45, 32⟩
def PWR_RPR_SEQ : Fld := ⟨PWR_RPR, 31, 0⟩
/-- Table 15.13. -/
def PWR_RPR_ADD : Nat := 0xB000058
def PWR_RPR_ADD_DETAIL : Fld := ⟨PWR_RPR_ADD, 63, 32⟩
def PWR_RPR_ADD_UNIT : Fld := ⟨PWR_RPR_ADD, 31, 0⟩
/-- Table 15.13. -/
def PWR_RPR_GO : Nat := 0xB000060
def PWR_RPR_GO_GO : Fld := ⟨PWR_RPR_GO, 63, 63⟩
def PWR_RPR_GO_KIND : Fld := ⟨PWR_RPR_GO, 7, 0⟩
/-- Table 15.13. -/
def PWR_BOOT_MS : Nat := 0xB000068
def PWR_BOOT_MS_MS : Fld := ⟨PWR_BOOT_MS, 31, 0⟩
/-- Table 15.13. -/
def PWR_SITES_W0 (n : Nat) : Nat := 0xB000100 + n * 0x20
def PWR_SITES_W0_FUSE_BAD (n : Nat) : Fld := ⟨(PWR_SITES_W0 n), 47, 0⟩
/-- Table 15.13. -/
def PWR_SITES_W1 (n : Nat) : Nat := 0xB000108 + n * 0x20
def PWR_SITES_W1_TEST_BAD (n : Nat) : Fld := ⟨(PWR_SITES_W1 n), 47, 0⟩
/-- Table 15.13. -/
def PWR_SITES_W2 (n : Nat) : Nat := 0xB000110 + n * 0x20
def PWR_SITES_W2_RECORD_BAD (n : Nat) : Fld := ⟨(PWR_SITES_W2 n), 47, 0⟩
/-- Table 15.13. -/
def PWR_SITES_W3 (n : Nat) : Nat := 0xB000118 + n * 0x20
def PWR_SITES_W3_GOOD (n : Nat) : Fld := ⟨(PWR_SITES_W3 n), 47, 0⟩
/-- Table 15.14. -/
def PWR_ENERGY : Nat := 0xB000200
def PWR_ENERGY_PEAK_W : Fld := ⟨PWR_ENERGY, 63, 32⟩
def PWR_ENERGY_UJ : Fld := ⟨PWR_ENERGY, 31, 0⟩
/-- Table 15.14. -/
def PWR_THROTTLE : Nat := 0xB000208
def PWR_THROTTLE_STEPS : Fld := ⟨PWR_THROTTLE, 63, 32⟩
def PWR_THROTTLE_HOLD_CYCLES : Fld := ⟨PWR_THROTTLE, 31, 0⟩
/-- Table 15.14. -/
def PWR_DOMAIN_EV : Nat := 0xB000210
def PWR_DOMAIN_EV_PEND_ON : Fld := ⟨PWR_DOMAIN_EV, 63, 32⟩
def PWR_DOMAIN_EV_OFF_DONE : Fld := ⟨PWR_DOMAIN_EV, 31, 0⟩
/-- Table 16.11. -/
def SEC_STATUS : Nat := 0xC000000
def SEC_STATUS_FW_SVN : Fld := ⟨SEC_STATUS, 55, 48⟩
def SEC_STATUS_FUSE_SVN : Fld := ⟨SEC_STATUS, 47, 40⟩
def SEC_STATUS_OWNER_BANK : Fld := ⟨SEC_STATUS, 11, 8⟩
def SEC_STATUS_TEST_ENABLE : Fld := ⟨SEC_STATUS, 6, 6⟩
def SEC_STATUS_OWNED : Fld := ⟨SEC_STATUS, 5, 5⟩
def SEC_STATUS_CFG_SLOT : Fld := ⟨SEC_STATUS, 4, 4⟩
def SEC_STATUS_FW_SLOT : Fld := ⟨SEC_STATUS, 3, 3⟩
def SEC_STATUS_BOOT_RESULT : Fld := ⟨SEC_STATUS, 2, 0⟩
/-- Table 16.11. -/
def SEC_FW_MEAS (n : Nat) : Nat := 0xC000010 + n * 0x8
def SEC_FW_MEAS_DIGEST (n : Nat) : Fld := ⟨(SEC_FW_MEAS n), 63, 0⟩
/-- Table 16.11. -/
def SEC_FUSE_MEAS (n : Nat) : Nat := 0xC000040 + n * 0x8
def SEC_FUSE_MEAS_DIGEST (n : Nat) : Fld := ⟨(SEC_FUSE_MEAS n), 63, 0⟩
/-- Table 16.11. -/
def SEC_REPAIR_MEAS (n : Nat) : Nat := 0xC000070 + n * 0x8
def SEC_REPAIR_MEAS_DIGEST (n : Nat) : Fld := ⟨(SEC_REPAIR_MEAS n), 63, 0⟩
/-- Table 16.11. -/
def SEC_IDKEY_HASH (n : Nat) : Nat := 0xC0000A0 + n * 0x8
def SEC_IDKEY_HASH_DIGEST (n : Nat) : Fld := ⟨(SEC_IDKEY_HASH n), 63, 0⟩
/-- Table 16.11. -/
def SEC_CTL : Nat := 0xC0000D0
def SEC_CTL_SVN_ADVANCE : Fld := ⟨SEC_CTL, 63, 63⟩
def SEC_CTL_CFG_APPLY : Fld := ⟨SEC_CTL, 62, 62⟩
/-- Table 16.11. -/
def SEC_RESULT : Nat := 0xC0000D8
def SEC_RESULT_BUSY : Fld := ⟨SEC_RESULT, 63, 63⟩
def SEC_RESULT_SVN_RESULT : Fld := ⟨SEC_RESULT, 7, 4⟩
def SEC_RESULT_CFG_RESULT : Fld := ⟨SEC_RESULT, 3, 0⟩
/-- Table 16.11. -/
def SEC_ERR : Nat := 0xC0000E0
def SEC_ERR_ATT_BUSY : Fld := ⟨SEC_ERR, 4, 4⟩
def SEC_ERR_JTAG_DENIED : Fld := ⟨SEC_ERR, 3, 3⟩
def SEC_ERR_FLASH_WP : Fld := ⟨SEC_ERR, 2, 2⟩
def SEC_ERR_CFG_REJECT : Fld := ⟨SEC_ERR, 1, 1⟩
/-- Table 16.11. -/
def SEC_JTAG : Nat := 0xC0000E8
def SEC_JTAG_IDCODE : Fld := ⟨SEC_JTAG, 31, 0⟩
/-- Table 16.11. -/
def SEC_ATT_CNT : Nat := 0xC000100
def SEC_ATT_CNT_REPORTS : Fld := ⟨SEC_ATT_CNT, 63, 32⟩
def SEC_ATT_CNT_REQUESTS : Fld := ⟨SEC_ATT_CNT, 31, 0⟩
/-- Table 16.11. -/
def SEC_AGX_CAP (n : Nat) : Nat := 0xC000200 + n * 0x8
def SEC_AGX_CAP_CAP (n : Nat) : Fld := ⟨(SEC_AGX_CAP n), 7, 0⟩
/-- Table 16.11. -/
def SEC_DOMAIN_HASH (n : Nat) : Nat := 0xC000400 + n * 0x8
def SEC_DOMAIN_HASH_DIGEST (n : Nat) : Fld := ⟨(SEC_DOMAIN_HASH n), 63, 0⟩
/-- Table 16.11. -/
def SEC_DOMAIN (n : Nat) (k : Nat) : Nat := 0xC010000 + n * 0x10 + k * 0x8
def SEC_DOMAIN_ENTRY (n : Nat) (k : Nat) : Fld := ⟨(SEC_DOMAIN n k), 63, 0⟩
/-- Table 16.12. -/
def ETH_CC : Nat := 0x8000000
def ETH_CC_INTERVAL_US : Fld := ⟨ETH_CC, 63, 48⟩
def ETH_CC_BETA_SHIFT : Fld := ⟨ETH_CC, 47, 44⟩
def ETH_CC_DELAY_TH_NS : Fld := ⟨ETH_CC, 31, 0⟩
/-- Table 16.12. -/
def ETH_CC2 : Nat := 0x8000008
def ETH_CC2_STEP_MBPS : Fld := ⟨ETH_CC2, 63, 32⟩
def ETH_CC2_RMIN_MBPS : Fld := ⟨ETH_CC2, 31, 0⟩
/-- Table 16.12. -/
def ETH_CNP : Nat := 0x8000010
def ETH_CNP_CNP_GAP_NS : Fld := ⟨ETH_CNP, 15, 0⟩
/-- Table 16.12. -/
def ETH_XFER_W0 (n : Nat) : Nat := 0x8000200 + n * 0x20
def ETH_XFER_W0_ENABLE (n : Nat) : Fld := ⟨(ETH_XFER_W0 n), 63, 63⟩
def ETH_XFER_W0_PORT (n : Nat) : Fld := ⟨(ETH_XFER_W0 n), 48, 48⟩
def ETH_XFER_W0_BASE (n : Nat) : Fld := ⟨(ETH_XFER_W0 n), 44, 0⟩
/-- Table 16.12. -/
def ETH_XFER_W1 (n : Nat) : Nat := 0x8000208 + n * 0x20
def ETH_XFER_W1_COUNT (n : Nat) : Fld := ⟨(ETH_XFER_W1 n), 47, 32⟩
def ETH_XFER_W1_CHANNEL (n : Nat) : Fld := ⟨(ETH_XFER_W1 n), 11, 0⟩
/-- Table 16.12. -/
def ETH_XFER_W2 (n : Nat) : Nat := 0x8000210 + n * 0x20
def ETH_XFER_W2_ISSUED (n : Nat) : Fld := ⟨(ETH_XFER_W2 n), 31, 0⟩
/-- Table 16.12. -/
def ETH_POST_W0 (n : Nat) : Nat := 0x8000600 + n * 0x20
def ETH_POST_W0_ENABLE (n : Nat) : Fld := ⟨(ETH_POST_W0 n), 63, 63⟩
def ETH_POST_W0_SIZE_LOG2 (n : Nat) : Fld := ⟨(ETH_POST_W0 n), 52, 48⟩
def ETH_POST_W0_PORT (n : Nat) : Fld := ⟨(ETH_POST_W0 n), 45, 45⟩
def ETH_POST_W0_BASE (n : Nat) : Fld := ⟨(ETH_POST_W0 n), 44, 0⟩
/-- Table 16.12. -/
def ETH_POST_W1 (n : Nat) : Nat := 0x8000608 + n * 0x20
def ETH_POST_W1_PROD_ADDR (n : Nat) : Fld := ⟨(ETH_POST_W1 n), 44, 0⟩
/-- Table 16.12. -/
def ETH_POST_W2 (n : Nat) : Nat := 0x8000610 + n * 0x20
def ETH_POST_W2_CONS (n : Nat) : Fld := ⟨(ETH_POST_W2 n), 31, 0⟩
/-- Table 16.12. -/
def ETH_CQ_W0 (n : Nat) : Nat := 0x8000A00 + n * 0x20
def ETH_CQ_W0_ENABLE (n : Nat) : Fld := ⟨(ETH_CQ_W0 n), 63, 63⟩
def ETH_CQ_W0_SIZE_LOG2 (n : Nat) : Fld := ⟨(ETH_CQ_W0 n), 52, 48⟩
def ETH_CQ_W0_BASE (n : Nat) : Fld := ⟨(ETH_CQ_W0 n), 44, 0⟩
/-- Table 16.12. -/
def ETH_CQ_W1 (n : Nat) : Nat := 0x8000A08 + n * 0x20
def ETH_CQ_W1_CONS (n : Nat) : Fld := ⟨(ETH_CQ_W1 n), 63, 32⟩
def ETH_CQ_W1_PROD (n : Nat) : Fld := ⟨(ETH_CQ_W1 n), 31, 0⟩
/-- Table 16.12. -/
def ETH_QP_W0 (n : Nat) : Nat := 0x8004000 + n * 0x40
def ETH_QP_W0_STATE (n : Nat) : Fld := ⟨(ETH_QP_W0 n), 63, 62⟩
def ETH_QP_W0_PORT (n : Nat) : Fld := ⟨(ETH_QP_W0 n), 61, 61⟩
def ETH_QP_W0_CQ (n : Nat) : Fld := ⟨(ETH_QP_W0 n), 59, 56⟩
def ETH_QP_W0_DEST_QPN (n : Nat) : Fld := ⟨(ETH_QP_W0 n), 47, 24⟩
def ETH_QP_W0_INIT_PSN (n : Nat) : Fld := ⟨(ETH_QP_W0 n), 23, 0⟩
/-- Table 16.12. -/
def ETH_QP_IP (n : Nat) (k : Nat) : Nat := 0x8004008 + n * 0x40 + k * 0x8
def ETH_QP_IP_DEST_IP (n : Nat) (k : Nat) : Fld := ⟨(ETH_QP_IP n k), 63, 0⟩
/-- Table 16.12. -/
def ETH_QP_W3 (n : Nat) : Nat := 0x8004018 + n * 0x40
def ETH_QP_W3_VLAN (n : Nat) : Fld := ⟨(ETH_QP_W3 n), 59, 48⟩
def ETH_QP_W3_DEST_MAC (n : Nat) : Fld := ⟨(ETH_QP_W3 n), 47, 0⟩
/-- Table 16.12. -/
def ETH_QP_W4 (n : Nat) : Nat := 0x8004020 + n * 0x40
def ETH_QP_W4_RATE_MBPS (n : Nat) : Fld := ⟨(ETH_QP_W4 n), 63, 32⟩
def ETH_QP_W4_RMAX_MBPS (n : Nat) : Fld := ⟨(ETH_QP_W4 n), 31, 0⟩
/-- Table 16.12. -/
def ETH_QP_W5 (n : Nat) : Nat := 0x8004028 + n * 0x40
def ETH_QP_W5_PEER_PSN (n : Nat) : Fld := ⟨(ETH_QP_W5 n), 63, 40⟩
def ETH_QP_W5_RX_BASE_4K (n : Nat) : Fld := ⟨(ETH_QP_W5 n), 39, 0⟩
/-- Table 16.12. -/
def ETH_QP_W6 (n : Nat) : Nat := 0x8004030 + n * 0x40
def ETH_QP_W6_RX_BUFS (n : Nat) : Fld := ⟨(ETH_QP_W6 n), 63, 48⟩
def ETH_QP_W6_TIMEOUT_US (n : Nat) : Fld := ⟨(ETH_QP_W6 n), 47, 32⟩
def ETH_QP_W6_RETRY_MAX (n : Nat) : Fld := ⟨(ETH_QP_W6 n), 31, 24⟩
/-- Table 16.12. -/
def ETH_QP_W7 (n : Nat) : Nat := 0x8004038 + n * 0x40
def ETH_QP_W7_BASE_RTT_NS (n : Nat) : Fld := ⟨(ETH_QP_W7 n), 31, 0⟩
/-- Table 16.12. -/
def ETH_MR_W0 (n : Nat) : Nat := 0x8008000 + n * 0x10
def ETH_MR_W0_VALID (n : Nat) : Fld := ⟨(ETH_MR_W0 n), 63, 63⟩
def ETH_MR_W0_REMOTE_WRITE (n : Nat) : Fld := ⟨(ETH_MR_W0 n), 62, 62⟩
def ETH_MR_W0_REMOTE_READ (n : Nat) : Fld := ⟨(ETH_MR_W0 n), 61, 61⟩
def ETH_MR_W0_BASE (n : Nat) : Fld := ⟨(ETH_MR_W0 n), 44, 0⟩
/-- Table 16.12. -/
def ETH_MR_W1 (n : Nat) : Nat := 0x8008008 + n * 0x10
def ETH_MR_W1_RKEY (n : Nat) : Fld := ⟨(ETH_MR_W1 n), 63, 32⟩
def ETH_MR_W1_LEN_4K (n : Nat) : Fld := ⟨(ETH_MR_W1 n), 31, 0⟩
/-- Table 16.13. -/
def ETH_PORT_CTL (p : Nat) : Nat := 0x8010000 + p * 0x10000
def ETH_PORT_CTL_PRBS (p : Nat) : Fld := ⟨(ETH_PORT_CTL p), 5, 4⟩
def ETH_PORT_CTL_LOOP (p : Nat) : Fld := ⟨(ETH_PORT_CTL p), 3, 1⟩
def ETH_PORT_CTL_ENABLE (p : Nat) : Fld := ⟨(ETH_PORT_CTL p), 0, 0⟩
/-- Table 16.13. -/
def ETH_PORT_STATUS (p : Nat) : Nat := 0x8010008 + p * 0x10000
def ETH_PORT_STATUS_PWR (p : Nat) : Fld := ⟨(ETH_PORT_STATUS p), 10, 8⟩
def ETH_PORT_STATUS_LANES_GOOD (p : Nat) : Fld := ⟨(ETH_PORT_STATUS p), 7, 4⟩
def ETH_PORT_STATUS_STATE (p : Nat) : Fld := ⟨(ETH_PORT_STATUS p), 3, 0⟩
/-- Table 16.13. -/
def ETH_PORT_MAC (p : Nat) : Nat := 0x8010010 + p * 0x10000
def ETH_PORT_MAC_MAC (p : Nat) : Fld := ⟨(ETH_PORT_MAC p), 47, 0⟩
/-- Table 16.13. -/
def ETH_PORT_CAP (p : Nat) : Nat := 0x8010018 + p * 0x10000
def ETH_PORT_CAP_CAP_GBPS (p : Nat) : Fld := ⟨(ETH_PORT_CAP p), 15, 0⟩
/-- Table 16.13. -/
def ETH_PORT_ERR (p : Nat) : Nat := 0x8010020 + p * 0x10000
def ETH_PORT_ERR_QP_ERROR (p : Nat) : Fld := ⟨(ETH_PORT_ERR p), 3, 3⟩
def ETH_PORT_ERR_LIMIT_VLAN (p : Nat) : Fld := ⟨(ETH_PORT_ERR p), 2, 2⟩
def ETH_PORT_ERR_LIMIT_MAC (p : Nat) : Fld := ⟨(ETH_PORT_ERR p), 1, 1⟩
def ETH_PORT_ERR_LINK_DOWN (p : Nat) : Fld := ⟨(ETH_PORT_ERR p), 0, 0⟩
/-- Table 16.13. -/
def ETH_PORT_VLAN (p : Nat) (n : Nat) : Nat := 0x8010100 + p * 0x10000 + n * 0x8
def ETH_PORT_VLAN_VALID (p : Nat) (n : Nat) : Fld := ⟨(ETH_PORT_VLAN p n), 12, 12⟩
def ETH_PORT_VLAN_VID (p : Nat) (n : Nat) : Fld := ⟨(ETH_PORT_VLAN p n), 11, 0⟩
/-- Table 16.13. -/
def ETH_PTP_TIME (p : Nat) : Nat := 0x8010200 + p * 0x10000
def ETH_PTP_TIME_NS (p : Nat) : Fld := ⟨(ETH_PTP_TIME p), 63, 0⟩
/-- Table 16.13. -/
def ETH_PTP_ADJ (p : Nat) : Nat := 0x8010208 + p * 0x10000
def ETH_PTP_ADJ_PPB (p : Nat) : Fld := ⟨(ETH_PTP_ADJ p), 31, 0⟩
/-- Table 16.13. -/
def ETH_PTP_STEP (p : Nat) : Nat := 0x8010210 + p * 0x10000
def ETH_PTP_STEP_NS (p : Nat) : Fld := ⟨(ETH_PTP_STEP p), 63, 0⟩
/-- Table 16.13. -/
def ETH_PTP_TXTS (p : Nat) : Nat := 0x8010218 + p * 0x10000
def ETH_PTP_TXTS_NS (p : Nat) : Fld := ⟨(ETH_PTP_TXTS p), 63, 0⟩
/-- Table 16.13. -/
def ETH_PTP_TXID (p : Nat) : Nat := 0x8010220 + p * 0x10000
def ETH_PTP_TXID_VALID (p : Nat) : Fld := ⟨(ETH_PTP_TXID p), 16, 16⟩
def ETH_PTP_TXID_SEQ_ID (p : Nat) : Fld := ⟨(ETH_PTP_TXID p), 15, 0⟩
/-- Table 16.13. -/
def ETH_RAW_RX (p : Nat) : Nat := 0x8010300 + p * 0x10000
def ETH_RAW_RX_ENABLE (p : Nat) : Fld := ⟨(ETH_RAW_RX p), 63, 63⟩
def ETH_RAW_RX_SIZE_LOG2 (p : Nat) : Fld := ⟨(ETH_RAW_RX p), 52, 48⟩
def ETH_RAW_RX_BASE (p : Nat) : Fld := ⟨(ETH_RAW_RX p), 44, 0⟩
/-- Table 16.13. -/
def ETH_RAW_TX (p : Nat) : Nat := 0x8010308 + p * 0x10000
def ETH_RAW_TX_ENABLE (p : Nat) : Fld := ⟨(ETH_RAW_TX p), 63, 63⟩
def ETH_RAW_TX_SIZE_LOG2 (p : Nat) : Fld := ⟨(ETH_RAW_TX p), 52, 48⟩
def ETH_RAW_TX_BASE (p : Nat) : Fld := ⟨(ETH_RAW_TX p), 44, 0⟩
/-- Table 16.13. -/
def ETH_PORT_FRAMES (p : Nat) : Nat := 0x8010400 + p * 0x10000
def ETH_PORT_FRAMES_RX (p : Nat) : Fld := ⟨(ETH_PORT_FRAMES p), 63, 32⟩
def ETH_PORT_FRAMES_TX (p : Nat) : Fld := ⟨(ETH_PORT_FRAMES p), 31, 0⟩
/-- Table 16.13. -/
def ETH_PORT_LIMIT (p : Nat) : Nat := 0x8010408 + p * 0x10000
def ETH_PORT_LIMIT_MAC_DROP (p : Nat) : Fld := ⟨(ETH_PORT_LIMIT p), 63, 48⟩
def ETH_PORT_LIMIT_VLAN_DROP (p : Nat) : Fld := ⟨(ETH_PORT_LIMIT p), 47, 32⟩
def ETH_PORT_LIMIT_CAP_HELD_US (p : Nat) : Fld := ⟨(ETH_PORT_LIMIT p), 31, 0⟩
/-- Table 16.13. -/
def ETH_PORT_ROCE (p : Nat) : Nat := 0x8010410 + p * 0x10000
def ETH_PORT_ROCE_CNP_RX (p : Nat) : Fld := ⟨(ETH_PORT_ROCE p), 63, 32⟩
def ETH_PORT_ROCE_RETRANS (p : Nat) : Fld := ⟨(ETH_PORT_ROCE p), 31, 0⟩
/-- Table 16.13. -/
def ETH_PORT_ECN (p : Nat) : Nat := 0x8010418 + p * 0x10000
def ETH_PORT_ECN_CE_RX (p : Nat) : Fld := ⟨(ETH_PORT_ECN p), 63, 32⟩
def ETH_PORT_ECN_CNP_TX (p : Nat) : Fld := ⟨(ETH_PORT_ECN p), 31, 0⟩
/-- Table 16.14. -/
def MGMT_CORE (n : Nat) : Nat := 0xE000000 + n * 0x8
def MGMT_CORE_RESET (n : Nat) : Fld := ⟨(MGMT_CORE n), 8, 8⟩
def MGMT_CORE_STATE (n : Nat) : Fld := ⟨(MGMT_CORE n), 2, 0⟩
/-- Table 16.14. -/
def MGMT_JOB_CORES : Nat := 0xE000080
def MGMT_JOB_CORES_MASK : Fld := ⟨MGMT_JOB_CORES, 15, 0⟩
/-- Table 16.14. -/
def MGMT_UACC (n : Nat) : Nat := 0xE000100 + n * 0x8
def MGMT_UACC_BLOCKS (n : Nat) : Fld := ⟨(MGMT_UACC n), 16, 0⟩
/-- Table 16.14. -/
def MGMT_MBOX_C2M (n : Nat) : Nat := 0xE000200 + n * 0x8
def MGMT_MBOX_C2M_DATA (n : Nat) : Fld := ⟨(MGMT_MBOX_C2M n), 63, 0⟩
/-- Table 16.14. -/
def MGMT_MBOX_M2C (n : Nat) : Nat := 0xE000240 + n * 0x8
def MGMT_MBOX_M2C_DATA (n : Nat) : Fld := ⟨(MGMT_MBOX_M2C n), 63, 0⟩
/-- Table 16.14. -/
def MGMT_MBOX_CTL : Nat := 0xE000280
def MGMT_MBOX_CTL_C2M_FULL : Fld := ⟨MGMT_MBOX_CTL, 63, 63⟩
def MGMT_MBOX_CTL_M2C_FULL : Fld := ⟨MGMT_MBOX_CTL, 62, 62⟩
def MGMT_MBOX_CTL_M2C_TARGET : Fld := ⟨MGMT_MBOX_CTL, 3, 0⟩
/-- Table 16.14. -/
def MGMT_EV_MAP : Nat := 0xE000300
def MGMT_EV_MAP_MAP : Fld := ⟨MGMT_EV_MAP, 63, 0⟩
/-- Table 16.14. -/
def MGMT_RING_W0 (n : Nat) : Nat := 0xE000400 + n * 0x20
def MGMT_RING_W0_ENABLE (n : Nat) : Fld := ⟨(MGMT_RING_W0 n), 63, 63⟩
def MGMT_RING_W0_INT_EN (n : Nat) : Fld := ⟨(MGMT_RING_W0 n), 62, 62⟩
def MGMT_RING_W0_TARGET (n : Nat) : Fld := ⟨(MGMT_RING_W0 n), 61, 58⟩
def MGMT_RING_W0_SIZE_LOG2 (n : Nat) : Fld := ⟨(MGMT_RING_W0 n), 52, 48⟩
def MGMT_RING_W0_BASE (n : Nat) : Fld := ⟨(MGMT_RING_W0 n), 44, 0⟩
/-- Table 16.14. -/
def MGMT_RING_W1 (n : Nat) : Nat := 0xE000408 + n * 0x20
def MGMT_RING_W1_CONS (n : Nat) : Fld := ⟨(MGMT_RING_W1 n), 63, 32⟩
def MGMT_RING_W1_PROD (n : Nat) : Fld := ⟨(MGMT_RING_W1 n), 31, 0⟩
/-- Table 16.14. -/
def MGMT_RING_W2 (n : Nat) : Nat := 0xE000410 + n * 0x20
def MGMT_RING_W2_OVERFLOW (n : Nat) : Fld := ⟨(MGMT_RING_W2 n), 32, 32⟩
def MGMT_RING_W2_DROPPED (n : Nat) : Fld := ⟨(MGMT_RING_W2 n), 31, 0⟩
/-- Table 16.14. -/
def MGMT_RING_W3 (n : Nat) : Nat := 0xE000418 + n * 0x20
def MGMT_RING_W3_THRESH (n : Nat) : Fld := ⟨(MGMT_RING_W3 n), 15, 0⟩
/-- Table 16.14. -/
def MGMT_I3C : Nat := 0xE000600
def MGMT_I3C_DYN_ADDR : Fld := ⟨MGMT_I3C, 54, 48⟩
def MGMT_I3C_PID : Fld := ⟨MGMT_I3C, 47, 0⟩
/-- Table 16.14. -/
def MGMT_MCTP : Nat := 0xE000608
def MGMT_MCTP_EID : Fld := ⟨MGMT_MCTP, 7, 0⟩
/-- Table 16.14. -/
def MGMT_ERR : Nat := 0xE000620
def MGMT_ERR_RING_FAULT : Fld := ⟨MGMT_ERR, 4, 4⟩
def MGMT_ERR_RING_DISABLED : Fld := ⟨MGMT_ERR, 3, 3⟩
def MGMT_ERR_MBOX_OVERRUN : Fld := ⟨MGMT_ERR, 2, 2⟩
def MGMT_ERR_UACC_DENIED : Fld := ⟨MGMT_ERR, 1, 1⟩
def MGMT_ERR_RING_OVERFLOW : Fld := ⟨MGMT_ERR, 0, 0⟩
/-- Table 17.5. -/
def TEL_CTL : Nat := 0xD000000
def TEL_CTL_FULL_POLICY : Fld := ⟨TEL_CTL, 1, 1⟩
def TEL_CTL_ENABLE : Fld := ⟨TEL_CTL, 0, 0⟩
/-- Table 17.5. -/
def TEL_STATUS : Nat := 0xD000008
def TEL_STATUS_NO_RING : Fld := ⟨TEL_STATUS, 0, 0⟩
/-- Table 17.5. -/
def TEL_RING : Nat := 0xD000010
def TEL_RING_BASE : Fld := ⟨TEL_RING, 44, 0⟩
/-- Table 17.5. -/
def TEL_RING_SIZE : Nat := 0xD000018
def TEL_RING_SIZE_RECORDS : Fld := ⟨TEL_RING_SIZE, 39, 0⟩
/-- Table 17.5. -/
def TEL_RING_PTR : Nat := 0xD000020
def TEL_RING_PTR_CONS : Fld := ⟨TEL_RING_PTR, 63, 32⟩
def TEL_RING_PTR_PROD : Fld := ⟨TEL_RING_PTR, 31, 0⟩
/-- Table 17.5. -/
def TEL_LOST : Nat := 0xD000028
def TEL_LOST_OVERWRITTEN : Fld := ⟨TEL_LOST, 63, 32⟩
def TEL_LOST_DISCARDED : Fld := ⟨TEL_LOST, 31, 0⟩
/-- Table 17.5. -/
def TEL_PHASE_MAP : Nat := 0xD000030
def TEL_PHASE_MAP_MAP : Fld := ⟨TEL_PHASE_MAP, 63, 0⟩
/-- Table 17.5. -/
def TEL_SAMPLE_CFG : Nat := 0xD000038
def TEL_SAMPLE_CFG_ROTATE : Fld := ⟨TEL_SAMPLE_CFG, 6, 6⟩
def TEL_SAMPLE_CFG_COUNT : Fld := ⟨TEL_SAMPLE_CFG, 5, 0⟩
/-- Table 17.5. -/
def TEL_OBS_CTL : Nat := 0xD000040
def TEL_OBS_CTL_ENABLE : Fld := ⟨TEL_OBS_CTL, 0, 0⟩
/-- Table 17.5. -/
def TEL_LATCH : Nat := 0xD000048
def TEL_LATCH_BEAT : Fld := ⟨TEL_LATCH, 47, 0⟩
/-- Table 17.5. -/
def TEL_STEP_LATCH : Nat := 0xD000050
def TEL_STEP_LATCH_STEP : Fld := ⟨TEL_STEP_LATCH, 47, 0⟩
/-- Table 17.5. -/
def TEL_STEP_BEATS : Nat := 0xD000058
def TEL_STEP_BEATS_BEATS : Fld := ⟨TEL_STEP_BEATS, 31, 0⟩
/-- Table 17.5. -/
def TEL_SAMPLE (n : Nat) : Nat := 0xD000100 + n * 0x8
def TEL_SAMPLE_VALID (n : Nat) : Fld := ⟨(TEL_SAMPLE n), 63, 63⟩
def TEL_SAMPLE_PHYS (n : Nat) : Fld := ⟨(TEL_SAMPLE n), 8, 0⟩
/-- Table 17.5. -/
def TEL_STALL (n : Nat) : Nat := 0xD000200 + n * 0x8
def TEL_STALL_TILE_CYCLES (n : Nat) : Fld := ⟨(TEL_STALL n), 63, 0⟩
/-- Table 17.5. -/
def TEL_PHASE (n : Nat) : Nat := 0xD000300 + n * 0x8
def TEL_PHASE_TILE_CYCLES (n : Nat) : Fld := ⟨(TEL_PHASE n), 63, 0⟩
/-- Table 19.2. -/
def GLB_ID : Nat := 0x0
def GLB_ID_PART : Fld := ⟨GLB_ID, 63, 48⟩
def GLB_ID_ARCH_LEVEL : Fld := ⟨GLB_ID, 47, 40⟩
def GLB_ID_STEPPING : Fld := ⟨GLB_ID, 39, 32⟩
def GLB_ID_VARIANT : Fld := ⟨GLB_ID, 31, 24⟩
/-- Table 19.2. -/
def GLB_OFFER_0 : Nat := 0x8
def GLB_OFFER_0_TILES_TOTAL : Fld := ⟨GLB_OFFER_0, 56, 48⟩
def GLB_OFFER_0_TILES_PER_DIE : Fld := ⟨GLB_OFFER_0, 41, 36⟩
def GLB_OFFER_0_COMPUTE_DIES : Fld := ⟨GLB_OFFER_0, 35, 32⟩
def GLB_OFFER_0_HBM_STACKS : Fld := ⟨GLB_OFFER_0, 28, 24⟩
def GLB_OFFER_0_CTRL_CORES : Fld := ⟨GLB_OFFER_0, 20, 16⟩
def GLB_OFFER_0_FORMAT_MASK : Fld := ⟨GLB_OFFER_0, 12, 8⟩
def GLB_OFFER_0_GANG_2X2 : Fld := ⟨GLB_OFFER_0, 0, 0⟩
/-- Table 19.2. -/
def GLB_OFFER_1 : Nat := 0x10
def GLB_OFFER_1_HBM_USABLE : Fld := ⟨GLB_OFFER_1, 59, 48⟩
def GLB_OFFER_1_AGX_GROUP_PORTS : Fld := ⟨GLB_OFFER_1, 44, 40⟩
def GLB_OFFER_1_AGX_GLOBAL_PORTS : Fld := ⟨GLB_OFFER_1, 34, 32⟩
def GLB_OFFER_1_ETH_PORTS : Fld := ⟨GLB_OFFER_1, 17, 16⟩
/-- Table 19.2. -/
def GLB_ACC_ERR : Nat := 0x18
def GLB_ACC_ERR_COUNT : Fld := ⟨GLB_ACC_ERR, 63, 32⟩
def GLB_ACC_ERR_RWI_REJECT : Fld := ⟨GLB_ACC_ERR, 3, 3⟩
def GLB_ACC_ERR_WIDTH : Fld := ⟨GLB_ACC_ERR, 2, 2⟩
def GLB_ACC_ERR_UNDEFINED : Fld := ⟨GLB_ACC_ERR, 1, 1⟩
def GLB_ACC_ERR_RESERVED_OFFSET : Fld := ⟨GLB_ACC_ERR, 0, 0⟩
/-- Table 19.2. -/
def GLB_ACC_LOG : Nat := 0x20
def GLB_ACC_LOG_SOURCE : Fld := ⟨GLB_ACC_LOG, 63, 52⟩
def GLB_ACC_LOG_INGRESS : Fld := ⟨GLB_ACC_LOG, 51, 46⟩
def GLB_ACC_LOG_WRITE : Fld := ⟨GLB_ACC_LOG, 45, 45⟩
def GLB_ACC_LOG_OFFSET : Fld := ⟨GLB_ACC_LOG, 39, 0⟩
/-- Table 2.2. -/
def BEAT_ENTRY (e : Nat) (k : Nat) : Nat := 0x1100000 + e * 0x20 + k * 0x8
def BEAT_ENTRY_WORD (e : Nat) (k : Nat) : Fld := ⟨(BEAT_ENTRY e k), 63, 0⟩
/-- Table 11.4. -/
def EXP_DIR (e : Nat) (k : Nat) : Nat := 0x5400000 + e * 0x20 + k * 0x8
def EXP_DIR_ADDR (e : Nat) : Fld := ⟨(EXP_DIR e 0), 44, 0⟩
/-- HOME, HRANK, SLOT, FMT and VALID. -/
def EXP_DIR_WHERE (e : Nat) : Fld := ⟨(EXP_DIR e 1), 63, 27⟩
def EXP_DIR_BYTES (e : Nat) : Fld := ⟨(EXP_DIR e 2), 63, 32⟩
def EXP_DIR_SCALE_OFF (e : Nat) : Fld := ⟨(EXP_DIR e 3), 31, 0⟩
def EXP_DIR_VERSION (e : Nat) : Fld := ⟨(EXP_DIR e 3), 63, 32⟩
/-- Table 7.12. -/
def AGX_ROUTE_STAGED_PAIR (n : Nat) : Nat := 0x7008000 + n * 0x8
def AGX_ROUTE_STAGED_PAIR_ODD (n : Nat) : Fld := ⟨(AGX_ROUTE_STAGED_PAIR n), 63, 43⟩
def AGX_ROUTE_STAGED_PAIR_EVEN (n : Nat) : Fld := ⟨(AGX_ROUTE_STAGED_PAIR n), 31, 11⟩
/-- Table 7.12. -/
def AGX_ROUTE_PAIR (n : Nat) : Nat := 0x700C000 + n * 0x8
def AGX_ROUTE_PAIR_ODD (n : Nat) : Fld := ⟨(AGX_ROUTE_PAIR n), 63, 32⟩
def AGX_ROUTE_PAIR_EVEN (n : Nat) : Fld := ⟨(AGX_ROUTE_PAIR n), 31, 0⟩

end R

open R

/-- The registers of the Beat block. -/
def rowsBeat : List RegRow :=
  [⟨BEAT_CTL, [], false, false, [⟨BEAT_CTL_HOLDOVER_MAX, .rw, 0x1000⟩, ⟨BEAT_CTL_ENABLE, .rwi, 0x0⟩, ⟨BEAT_CTL_MASTER, .rwi, 0x0⟩, ⟨BEAT_CTL_SRC, .rwi, 0x0⟩]⟩,
   ⟨BEAT_PERIOD, [], false, false, [⟨BEAT_PERIOD_PERIOD_TICKS, .rwi, 0x7A12⟩]⟩,
   ⟨BEAT_STATUS, [], false, false, [⟨BEAT_STATUS_HOLDOVER_BEATS, .ro, 0x0⟩, ⟨BEAT_STATUS_UPLINK_USED, .ro, 0x0⟩, ⟨BEAT_STATUS_SEALS_COMPLETE, .ro, 0x1⟩, ⟨BEAT_STATUS_LOCK_STATE, .ro, 0x0⟩]⟩,
   ⟨BEAT_NUM, [], false, false, [⟨BEAT_NUM_NUM, .ro, 0x0⟩]⟩,
   ⟨BEAT_NUM_INIT, [], false, false, [⟨BEAT_NUM_INIT_ARM, .rw, 0x0⟩, ⟨BEAT_NUM_INIT_VALUE, .rw, 0x0⟩]⟩,
   ⟨BEAT_INIT_TOD, [], false, false, [⟨BEAT_INIT_TOD_TOD_NS, .rw, 0x0⟩]⟩,
   ⟨BEAT_TOD, [], false, false, [⟨BEAT_TOD_TOD_NS, .ro, 0x0⟩]⟩,
   ⟨BEAT_TREE, [], true, false, [⟨BEAT_TREE_DOWNLINK, .rw, 0x0⟩, ⟨BEAT_TREE_ALT_VALID, .rw, 0x0⟩, ⟨BEAT_TREE_UPLINK_ALT, .rw, 0x0⟩, ⟨BEAT_TREE_UPLINK, .rw, 0x0⟩]⟩,
   ⟨BEAT_PAGE_SWAP, [], false, false, [⟨BEAT_PAGE_SWAP_ARM, .rw, 0x0⟩, ⟨BEAT_PAGE_SWAP_OUT_VALID, .rw, 0x0⟩, ⟨BEAT_PAGE_SWAP_OUT, .rw, 0x0⟩, ⟨BEAT_PAGE_SWAP_IN, .rw, 0x0⟩]⟩,
   ⟨BEAT_PAGE 0, [(0x8, 8)], false, false, [⟨BEAT_PAGE_STATE 0, .ro, 0x0⟩, ⟨BEAT_PAGE_WAITING 0, .ro, 0x0⟩, ⟨BEAT_PAGE_BASE_BEAT 0, .rw, 0x0⟩]⟩,
   ⟨BEAT_SLIP, [], false, true, [⟨BEAT_SLIP_SLIP_BEATS, .ro, 0x0⟩, ⟨BEAT_SLIP_SLIPPED_ENTRIES, .ro, 0x0⟩]⟩,
   ⟨BEAT_DL_MISS, [], false, true, [⟨BEAT_DL_MISS_COUNT, .ro, 0x0⟩]⟩,
   ⟨BEAT_VL0_MOVED, [], false, true, [⟨BEAT_VL0_MOVED_FLITS, .ro, 0x0⟩]⟩,
   ⟨BEAT_FILL, [], false, true, [⟨BEAT_FILL_FILL_DELAY_CYCLES, .ro, 0x0⟩, ⟨BEAT_FILL_FILL_TILE_CYCLES, .ro, 0x0⟩]⟩,
   ⟨BEAT_ERR, [], false, false, [⟨BEAT_ERR_ENTRY_RANGE, .w1c, 0x0⟩, ⟨BEAT_ERR_SWAP_REJECT, .w1c, 0x0⟩, ⟨BEAT_ERR_ENTRY_WRITE_REJECT, .w1c, 0x0⟩, ⟨BEAT_ERR_PERIOD_RANGE, .w1c, 0x0⟩, ⟨BEAT_ERR_LOST, .w1c, 0x0⟩, ⟨BEAT_ERR_HOLDOVER_ENTERED, .w1c, 0x0⟩, ⟨BEAT_ERR_SEAL_MISMATCH, .w1c, 0x0⟩, ⟨BEAT_ERR_MARK_MISSING, .w1c, 0x0⟩, ⟨BEAT_ERR_MARK_LATE, .w1c, 0x0⟩, ⟨BEAT_ERR_MARK_EARLY, .w1c, 0x0⟩]⟩,
   ⟨BEAT_ENTRY 0 0, [(0x20, 8192), (0x8, 4)], false, false, [⟨BEAT_ENTRY_WORD 0 0, .rw, 0x0⟩]⟩]

/-- The registers of the Img block. -/
def rowsImg : List RegRow :=
  [⟨IMG_STATUS, [], false, false, [⟨IMG_STATUS_SLOT_B_STATE, .ro, 0x0⟩, ⟨IMG_STATUS_SLOT_A_STATE, .ro, 0x0⟩, ⟨IMG_STATUS_ACTIVE_SLOT, .ro, 0x0⟩, ⟨IMG_STATUS_SWAP_PHASE, .ro, 0x0⟩, ⟨IMG_STATUS_LOAD_BUSY, .ro, 0x0⟩, ⟨IMG_STATUS_IMAGE_STATE, .ro, 0x0⟩]⟩,
   ⟨IMG_CTL, [], false, false, [⟨IMG_CTL_AUTO_RELOAD, .rws, 0x0⟩]⟩,
   ⟨IMG_LOAD, [], false, false, [⟨IMG_LOAD_GO, .wo, 0x0⟩, ⟨IMG_LOAD_RESTAGE, .wo, 0x0⟩, ⟨IMG_LOAD_SLOT, .wo, 0x0⟩]⟩,
   ⟨IMG_LOAD_STATUS, [], false, false, [⟨IMG_LOAD_STATUS_DETAIL, .ro, 0x0⟩, ⟨IMG_LOAD_STATUS_CODE, .ro, 0xFE⟩]⟩,
   ⟨IMG_SWAP, [], false, false, [⟨IMG_SWAP_ARM, .rw, 0x0⟩, ⟨IMG_SWAP_UNLOAD, .rw, 0x0⟩, ⟨IMG_SWAP_AT_BEAT, .rw, 0x0⟩]⟩,
   ⟨IMG_SWAP_TIME, [], false, false, [⟨IMG_SWAP_TIME_GAP_BEATS, .ro, 0x0⟩, ⟨IMG_SWAP_TIME_ACT_BEAT, .ro, 0x0⟩]⟩,
   ⟨IMG_SLOT_FREE, [], false, false, [⟨IMG_SLOT_FREE_GO, .wo, 0x0⟩, ⟨IMG_SLOT_FREE_SLOT, .wo, 0x0⟩]⟩,
   ⟨IMG_PAGE_COPY, [], false, false, [⟨IMG_PAGE_COPY_GO, .wo, 0x0⟩, ⟨IMG_PAGE_COPY_BUSY, .ro, 0x0⟩, ⟨IMG_PAGE_COPY_HW_PAGE, .rw, 0x0⟩, ⟨IMG_PAGE_COPY_LIB_PAGE, .rw, 0x0⟩]⟩,
   ⟨IMG_RETILE, [], false, false, [⟨IMG_RETILE_ARM, .rw, 0x0⟩, ⟨IMG_RETILE_SPARE, .rw, 0x0⟩, ⟨IMG_RETILE_TARGET, .rw, 0x0⟩]⟩,
   ⟨IMG_ERR, [], false, false, [⟨IMG_ERR_ACTIVE_SLOT_WRITE, .w1c, 0x0⟩, ⟨IMG_ERR_CHAN_SATURATE, .w1c, 0x0⟩, ⟨IMG_ERR_PAGE_COPY_REJECT, .w1c, 0x0⟩, ⟨IMG_ERR_RETILE_REJECT, .w1c, 0x0⟩, ⟨IMG_ERR_SLOT_FREE_REJECT, .w1c, 0x0⟩, ⟨IMG_ERR_SWAP_REJECT, .w1c, 0x0⟩, ⟨IMG_ERR_SWAP_LATE, .w1c, 0x0⟩]⟩,
   ⟨IMG_ACTIVE_ID, [], false, false, [⟨IMG_ACTIVE_ID_ID, .ro, 0x0⟩]⟩,
   ⟨IMG_ACTIVE_VER, [], false, false, [⟨IMG_ACTIVE_VER_SVN, .ro, 0x0⟩, ⟨IMG_ACTIVE_VER_VERSION, .ro, 0x0⟩]⟩,
   ⟨IMG_MEASURE 0, [(0x8, 6)], false, false, [⟨IMG_MEASURE_DIGEST 0, .ro, 0x0⟩]⟩,
   ⟨IMG_SLOT_BASE, [], false, false, [⟨IMG_SLOT_BASE_SLOT_A, .ro, 0x0⟩]⟩,
   ⟨IMG_PLACE 0, [(0x8, 320)], false, false, [⟨IMG_PLACE_GANG 0, .ro, 0xFF⟩, ⟨IMG_PLACE_ROLE 0, .ro, 0x0⟩, ⟨IMG_PLACE_POWERED 0, .ro, 0x0⟩, ⟨IMG_PLACE_PHYS 0, .ro, 0x1FF⟩]⟩,
   ⟨IMG_SITE 0, [(0x8, 384)], false, false, [⟨IMG_SITE_STATE 0, .ro, 0x0⟩, ⟨IMG_SITE_LOGICAL 0, .ro, 0x1FF⟩]⟩,
   ⟨IMG_CHAN 0, [(0x8, 4096)], false, false, [⟨IMG_CHAN_DEPTH 0, .ro, 0x0⟩, ⟨IMG_CHAN_TOKENS 0, .ro, 0x0⟩]⟩]

/-- The registers of the Tile block. -/
def rowsTile : List RegRow :=
  [⟨TILE_ID 0, [(0x100000, 384)], false, false, [⟨TILE_ID_GANG 0, .ro, 0xFF⟩, ⟨TILE_ID_GANG_POS 0, .ro, 0x0⟩, ⟨TILE_ID_ROLE 0, .ro, 0x0⟩, ⟨TILE_ID_LOGICAL 0, .ro, 0x1FF⟩, ⟨TILE_ID_DIE 0, .ro, 0x0⟩, ⟨TILE_ID_SITE 0, .ro, 0x0⟩, ⟨TILE_ID_PHYS 0, .ro, 0x0⟩]⟩,
   ⟨TILE_STATUS 0, [(0x100000, 384)], false, false, [⟨TILE_STATUS_OP_INDEX 0, .ro, 0x0⟩, ⟨TILE_STATUS_LANE 0, .ro, 0x0⟩, ⟨TILE_STATUS_STALL_CAUSE 0, .ro, 0xFF⟩, ⟨TILE_STATUS_EXEC_STATE 0, .ro, 0x0⟩, ⟨TILE_STATUS_PWR 0, .ro, 0x0⟩]⟩,
   ⟨TILE_STEP 0, [(0x100000, 384)], false, false, [⟨TILE_STEP_STEP 0, .ro, 0x0⟩, ⟨TILE_STEP_STEPS 0, .ro, 0x0⟩]⟩,
   ⟨TILE_ERR 0, [(0x100000, 384)], false, false, [⟨TILE_ERR_SHADOW_PARITY 0, .w1c, 0x0⟩, ⟨TILE_ERR_POISON_IN 0, .w1c, 0x0⟩, ⟨TILE_ERR_ACC_RANGE 0, .w1c, 0x0⟩, ⟨TILE_ERR_CLASS_ROLE 0, .w1c, 0x0⟩, ⟨TILE_ERR_DESC_FIELD 0, .w1c, 0x0⟩, ⟨TILE_ERR_FMT_PAIR 0, .w1c, 0x0⟩]⟩,
   ⟨TILE_INJECT 0, [(0x100000, 384)], false, false, [⟨TILE_INJECT_POISON_OUT 0, .rw, 0x0⟩, ⟨TILE_INJECT_SHADOW_PARITY 0, .rw, 0x0⟩]⟩,
   ⟨TILE_BUSY 0, [(0x100000, 384)], false, true, [⟨TILE_BUSY_ARRAY_CYCLES 0, .ro, 0x0⟩, ⟨TILE_BUSY_EXEC_CYCLES 0, .ro, 0x0⟩]⟩,
   ⟨TILE_MAC 0, [(0x100000, 384)], false, true, [⟨TILE_MAC_MAC 0, .ro, 0x0⟩]⟩,
   ⟨TILE_FILL 0, [(0x100000, 384)], false, true, [⟨TILE_FILL_STEPS 0, .ro, 0x0⟩, ⟨TILE_FILL_EXPOSED_CYCLES 0, .ro, 0x0⟩]⟩,
   ⟨TILE_VEC 0, [(0x100000, 384)], false, true, [⟨TILE_VEC_SFU_RESULTS 0, .ro, 0x0⟩, ⟨TILE_VEC_VEC_INSTR 0, .ro, 0x0⟩]⟩,
   ⟨TILE_STALL 0 0, [(0x100000, 384), (0x8, 11)], false, true, [⟨TILE_STALL_CYCLES 0 0, .ro, 0x0⟩]⟩,
   ⟨PUMP_STATUS 0, [(0x100000, 384)], false, false, [⟨PUMP_STATUS_PRIMING 0, .ro, 0x0⟩, ⟨PUMP_STATUS_ISSUE_WAIT 0, .ro, 0x0⟩, ⟨PUMP_STATUS_PC_AT_CAP 0, .ro, 0x0⟩, ⟨PUMP_STATUS_CONTEXTS 0, .ro, 0x0⟩, ⟨PUMP_STATUS_WATCHES 0, .ro, 0x0⟩, ⟨PUMP_STATUS_SLOTS 0, .ro, 0x0⟩]⟩,
   ⟨PUMP_ERR 0, [(0x100000, 384)], false, false, [⟨PUMP_ERR_DIR_FMT 0, .w1c, 0x0⟩, ⟨PUMP_ERR_POISON_IN 0, .w1c, 0x0⟩, ⟨PUMP_ERR_REMOTE_ERR 0, .w1c, 0x0⟩, ⟨PUMP_ERR_STREAM_FIELD 0, .w1c, 0x0⟩, ⟨PUMP_ERR_ADDR 0, .w1c, 0x0⟩]⟩,
   ⟨PUMP_INJECT 0, [(0x100000, 384)], false, false, [⟨PUMP_INJECT_ADDR_ERR_NEXT 0, .rw, 0x0⟩, ⟨PUMP_INJECT_STALE_NEXT 0, .rw, 0x0⟩]⟩,
   ⟨PUMP_FAULT_ADDR 0, [(0x100000, 384)], false, false, [⟨PUMP_FAULT_ADDR_ADDR 0, .ro, 0x0⟩]⟩,
   ⟨PUMP_FAULT_STR 0, [(0x100000, 384)], false, false, [⟨PUMP_FAULT_STR_STREAM 0, .ro, 0x0⟩]⟩,
   ⟨PUMP_STALL_SAMPLE 0, [(0x100000, 384)], false, false, [⟨PUMP_STALL_SAMPLE_CAUSE 0, .ro, 0xF⟩, ⟨PUMP_STALL_SAMPLE_PC 0, .ro, 0x0⟩, ⟨PUMP_STALL_SAMPLE_PC_VALID 0, .ro, 0x0⟩, ⟨PUMP_STALL_SAMPLE_STREAM 0, .ro, 0x0⟩, ⟨PUMP_STALL_SAMPLE_SLOTS 0, .ro, 0x0⟩, ⟨PUMP_STALL_SAMPLE_CYCLE 0, .ro, 0x0⟩]⟩,
   ⟨PUMP_WATCH_LO 0 0, [(0x100000, 384), (0x10, 16)], false, false, [⟨PUMP_WATCH_LO_VALID 0 0, .ro, 0x0⟩, ⟨PUMP_WATCH_LO_LOW 0 0, .ro, 0x0⟩]⟩,
   ⟨PUMP_WATCH_HI 0 0, [(0x100000, 384), (0x10, 16)], false, false, [⟨PUMP_WATCH_HI_STREAM 0 0, .ro, 0x0⟩, ⟨PUMP_WATCH_HI_HIGH_64 0 0, .ro, 0x0⟩]⟩,
   ⟨PUMP_BYTES_IN 0, [(0x100000, 384)], false, true, [⟨PUMP_BYTES_IN_BYTES 0, .ro, 0x0⟩]⟩,
   ⟨PUMP_BYTES_OUT 0, [(0x100000, 384)], false, true, [⟨PUMP_BYTES_OUT_BYTES 0, .ro, 0x0⟩]⟩,
   ⟨PUMP_REQ 0, [(0x100000, 384)], false, true, [⟨PUMP_REQ_MERGED 0, .ro, 0x0⟩, ⟨PUMP_REQ_REQUESTS 0, .ro, 0x0⟩]⟩,
   ⟨PUMP_REFETCH 0, [(0x100000, 384)], false, true, [⟨PUMP_REFETCH_STALE_MARKS 0, .ro, 0x0⟩, ⟨PUMP_REFETCH_REFETCHES 0, .ro, 0x0⟩]⟩,
   ⟨PUMP_CAP 0, [(0x100000, 384)], false, true, [⟨PUMP_CAP_WATCH_FULL_CYCLES 0, .ro, 0x0⟩, ⟨PUMP_CAP_PC_CAP_CYCLES 0, .ro, 0x0⟩]⟩,
   ⟨PUMP_OCC 0, [(0x100000, 384)], false, true, [⟨PUMP_OCC_SLOT_CYCLES 0, .ro, 0x0⟩, ⟨PUMP_OCC_FULL_CYCLES 0, .ro, 0x0⟩]⟩,
   ⟨CIST_NC_CTL 0, [(0x100000, 384)], false, false, [⟨CIST_NC_CTL_INV 0, .wo, 0x0⟩, ⟨CIST_NC_CTL_BUSY 0, .ro, 0x0⟩]⟩,
   ⟨CIST_NC 0, [(0x100000, 384)], false, true, [⟨CIST_NC_HITS 0, .ro, 0x0⟩, ⟨CIST_NC_MISSES 0, .ro, 0x0⟩]⟩,
   ⟨CIST_NC_DROP 0, [(0x100000, 384)], false, true, [⟨CIST_NC_DROP_DROPPED 0, .ro, 0x0⟩]⟩,
   ⟨CIST_PORT 0, [(0x100000, 384)], false, true, [⟨CIST_PORT_TRANS_BLOCKS 0, .ro, 0x0⟩, ⟨CIST_PORT_BANK_WAIT 0, .ro, 0x0⟩]⟩,
   ⟨CIST_WINDOW 0, [(0x100000, 384)], false, true, [⟨CIST_WINDOW_WAIT_CYCLES 0, .ro, 0x0⟩, ⟨CIST_WINDOW_ACCESSES 0, .ro, 0x0⟩]⟩,
   ⟨ATTN_CTL 0, [(0x100000, 384)], false, false, [⟨ATTN_CTL_CHECK_ALL 0, .rwi, 0x0⟩, ⟨ATTN_CTL_SKIP_OFF 0, .rwi, 0x0⟩]⟩,
   ⟨ATTN_STATUS 0, [(0x100000, 384)], false, false, [⟨ATTN_STATUS_QBLOCK 0, .ro, 0x0⟩, ⟨ATTN_STATUS_PHASE 0, .ro, 0x0⟩]⟩,
   ⟨ATTN_ERR 0, [(0x100000, 384)], false, false, [⟨ATTN_ERR_SKIPREC 0, .w1c, 0x0⟩, ⟨ATTN_ERR_LEN_RANGE 0, .w1c, 0x0⟩, ⟨ATTN_ERR_SUMMARY_POISON 0, .w1c, 0x0⟩, ⟨ATTN_ERR_STAT_NAN 0, .w1c, 0x0⟩, ⟨ATTN_ERR_POISON_IN 0, .w1c, 0x0⟩]⟩,
   ⟨ATTN_INJECT 0, [(0x100000, 384)], false, false, [⟨ATTN_INJECT_MISPREDICT 0, .rw, 0x0⟩, ⟨ATTN_INJECT_FORCE_RECOVER 0, .rw, 0x0⟩]⟩,
   ⟨ATTN_LAST 0, [(0x100000, 384)], false, false, [⟨ATTN_LAST_PRED 0, .ro, 0x0⟩, ⟨ATTN_LAST_MIN_FINAL 0, .ro, 0x0⟩]⟩,
   ⟨ATTN_BLOCKS 0, [(0x100000, 384)], false, true, [⟨ATTN_BLOCKS_QBLOCKS 0, .ro, 0x0⟩, ⟨ATTN_BLOCKS_KBLOCKS 0, .ro, 0x0⟩]⟩,
   ⟨ATTN_PAGES 0, [(0x100000, 384)], false, true, [⟨ATTN_PAGES_MASK_SKIPPED 0, .ro, 0x0⟩, ⟨ATTN_PAGES_COMPUTED 0, .ro, 0x0⟩]⟩,
   ⟨ATTN_SKIP 0, [(0x100000, 384)], false, true, [⟨ATTN_SKIP_SKIPPED 0, .ro, 0x0⟩, ⟨ATTN_SKIP_CANDIDATES 0, .ro, 0x0⟩]⟩,
   ⟨ATTN_RECOVER 0, [(0x100000, 384)], false, true, [⟨ATTN_RECOVER_RECOVERED 0, .ro, 0x0⟩, ⟨ATTN_RECOVER_CHECKED 0, .ro, 0x0⟩]⟩,
   ⟨ATTN_STAT 0, [(0x100000, 384)], false, true, [⟨ATTN_STAT_RESCALES 0, .ro, 0x0⟩, ⟨ATTN_STAT_EMPTY_PARTIALS 0, .ro, 0x0⟩]⟩,
   ⟨ATTN_MERGE 0, [(0x100000, 384)], false, true, [⟨ATTN_MERGE_PARTIALS 0, .ro, 0x0⟩]⟩]

/-- The registers of the Agx block. -/
def rowsAgx : List RegRow :=
  [⟨AGX_ID, [], false, false, [⟨AGX_ID_GROUP, .ro, 0x0⟩, ⟨AGX_ID_MEMBER, .ro, 0x0⟩]⟩,
   ⟨AGX_CTL, [], false, false, [⟨AGX_CTL_NP_TIMEOUT_US, .rw, 0x1F4⟩, ⟨AGX_CTL_FENCE_TIMEOUT_BEATS, .rw, 0x4⟩]⟩,
   ⟨AGX_TAGS, [], false, false, [⟨AGX_TAGS_WAITERS, .ro, 0x0⟩, ⟨AGX_TAGS_IN_USE, .ro, 0x0⟩]⟩,
   ⟨AGX_ERR, [], false, false, [⟨AGX_ERR_NO_ROUTE, .w1c, 0x0⟩, ⟨AGX_ERR_FORCED_REORDER, .w1c, 0x0⟩, ⟨AGX_ERR_ROUTE_INVALID, .w1c, 0x0⟩, ⟨AGX_ERR_HOP_LIMIT, .w1c, 0x0⟩, ⟨AGX_ERR_DENIED_INGRESS, .w1c, 0x0⟩, ⟨AGX_ERR_DENIED_EGRESS, .w1c, 0x0⟩]⟩,
   ⟨AGX_ROUTE_SWAP, [], false, false, [⟨AGX_ROUTE_SWAP_ARM, .rw, 0x0⟩]⟩,
   ⟨AGX_SEAL, [], false, false, [⟨AGX_SEAL_LAST_BEAT, .ro, 0x0⟩]⟩,
   ⟨AGX_SEAL_LAT, [], false, true, [⟨AGX_SEAL_LAT_NS, .ro, 0x0⟩]⟩,
   ⟨AGX_FLT, [], false, true, [⟨AGX_FLT_DENIED_EGRESS, .ro, 0x0⟩, ⟨AGX_FLT_DENIED_INGRESS, .ro, 0x0⟩]⟩,
   ⟨AGX_TAG_WAIT, [], false, true, [⟨AGX_TAG_WAIT_CYCLES, .ro, 0x0⟩]⟩,
   ⟨AGX_REORDER, [], false, true, [⟨AGX_REORDER_DESTS, .ro, 0x0⟩]⟩,
   ⟨AGX_LATE_CPL, [], false, true, [⟨AGX_LATE_CPL_COUNT, .ro, 0x0⟩]⟩,
   ⟨AGX_NOROUTE, [], false, true, [⟨AGX_NOROUTE_COUNT, .ro, 0x0⟩]⟩,
   ⟨AGX_MC_CTL, [], false, false, [⟨AGX_MC_CTL_PRUNE_BEATS, .rw, 0x4⟩, ⟨AGX_MC_CTL_AUTO_PULL, .rw, 0x1⟩]⟩,
   ⟨AGX_HB_CTL, [], false, false, [⟨AGX_HB_CTL_SILENT_BEATS, .rw, 0x3⟩]⟩,
   ⟨AGX_SILENT, [], false, false, [⟨AGX_SILENT_PORTS, .ro, 0x0⟩]⟩,
   ⟨AGX_FENCE_ARM, [], false, false, [⟨AGX_FENCE_ARM_ARM, .rw, 0x0⟩, ⟨AGX_FENCE_ARM_AT_BEAT, .rw, 0x0⟩]⟩,
   ⟨AGX_FENCE_STATUS, [], false, false, [⟨AGX_FENCE_STATUS_FENCE_BEAT, .ro, 0x0⟩, ⟨AGX_FENCE_STATUS_FENCED_COUNT, .ro, 0x0⟩]⟩,
   ⟨AGX_COL_ERR, [], false, false, [⟨AGX_COL_ERR_RP_TARGET, .w1c, 0x0⟩, ⟨AGX_COL_ERR_TREE_WRITE, .w1c, 0x0⟩]⟩,
   ⟨AGX_COL_CNT, [], false, true, [⟨AGX_COL_CNT_PRUNES, .ro, 0x0⟩, ⟨AGX_COL_CNT_MC_DISCARD, .ro, 0x0⟩, ⟨AGX_COL_CNT_FENCE_DROP, .ro, 0x0⟩]⟩,
   ⟨AGX_RP_BYTES, [], false, true, [⟨AGX_RP_BYTES_BYTES, .ro, 0x0⟩]⟩,
   ⟨AGX_VER_0, [], false, false, [⟨AGX_VER_0_DEVICE_ID, .ro, 0x0⟩, ⟨AGX_VER_0_BEAT, .ro, 0x0⟩]⟩,
   ⟨AGX_VER_1, [], false, false, [⟨AGX_VER_1_IMAGE_ID, .ro, 0x0⟩]⟩,
   ⟨AGX_VER_2, [], false, false, [⟨AGX_VER_2_IMAGE_VERSION, .ro, 0x0⟩, ⟨AGX_VER_2_DEV_STATE, .ro, 0x0⟩, ⟨AGX_VER_2_FENCED_SELF, .ro, 0x0⟩, ⟨AGX_VER_2_DEGRADED, .ro, 0x0⟩]⟩,
   ⟨AGX_VER_3, [], false, false, [⟨AGX_VER_3_LIVE_BANK, .ro, 0x0⟩, ⟨AGX_VER_3_LIVE_STEP, .ro, 0x0⟩]⟩,
   ⟨AGX_VER_4, [], false, false, [⟨AGX_VER_4_RET_VALID, .ro, 0x0⟩, ⟨AGX_VER_4_RET_STEP, .ro, 0x0⟩]⟩,
   ⟨AGX_VER_5, [], false, false, [⟨AGX_VER_5_LAST_MIDNIGHT, .ro, 0x0⟩]⟩,
   ⟨AGX_VER_6, [], false, false, [⟨AGX_VER_6_FENCE_BEAT, .ro, 0x0⟩, ⟨AGX_VER_6_FENCED_COUNT, .ro, 0x0⟩]⟩,
   ⟨AGX_VER_7, [], false, false, [⟨AGX_VER_7_MEASURE_LO, .ro, 0x0⟩]⟩,
   ⟨AGX_MC_TREE_W0 0, [(0x20, 256)], false, false, [⟨AGX_MC_TREE_W0_VALID 0, .rw, 0x0⟩, ⟨AGX_MC_TREE_W0_SOURCE 0, .rw, 0x0⟩, ⟨AGX_MC_TREE_W0_DELIVER 0, .rw, 0x0⟩, ⟨AGX_MC_TREE_W0_UP_PORT 0, .rw, 0x3F⟩, ⟨AGX_MC_TREE_W0_EPOCH 0, .ro, 0x0⟩, ⟨AGX_MC_TREE_W0_RX_BASE 0, .rw, 0x0⟩]⟩,
   ⟨AGX_MC_TREE_W1 0, [(0x20, 256)], false, false, [⟨AGX_MC_TREE_W1_SRC_ID 0, .rw, 0x0⟩, ⟨AGX_MC_TREE_W1_RX_SIZE_64K 0, .rw, 0x0⟩, ⟨AGX_MC_TREE_W1_DOWN_MASK 0, .rw, 0x0⟩]⟩,
   ⟨AGX_MC_TREE_W2 0, [(0x20, 256)], false, false, [⟨AGX_MC_TREE_W2_PULL_DONE 0, .wo, 0x0⟩, ⟨AGX_MC_TREE_W2_PULL_DROP 0, .wo, 0x0⟩, ⟨AGX_MC_TREE_W2_RET_BUSY 0, .ro, 0x0⟩, ⟨AGX_MC_TREE_W2_OUT_PULLS 0, .ro, 0x0⟩, ⟨AGX_MC_TREE_W2_RET_BASE 0, .rw, 0x0⟩]⟩,
   ⟨AGX_MC_TREE_W3 0, [(0x20, 256)], false, false, [⟨AGX_MC_TREE_W3_RX_STATE 0, .ro, 0x0⟩, ⟨AGX_MC_TREE_W3_ACK_EPOCH 0, .ro, 0x0⟩, ⟨AGX_MC_TREE_W3_ACKED_SEQ 0, .ro, 0x0⟩, ⟨AGX_MC_TREE_W3_PRUNED_MASK 0, .ro, 0x0⟩]⟩,
   ⟨AGX_FENCE_STAGED 0, [(0x8, 64)], false, false, [⟨AGX_FENCE_STAGED_BITS 0, .rw, 0x0⟩]⟩,
   ⟨AGX_FENCE 0, [(0x8, 64)], false, false, [⟨AGX_FENCE_BITS 0, .ro, 0x0⟩]⟩,
   ⟨AGX_ROUTE_STAGED_PAIR 0, [(0x8, 2048)], false, false, [⟨AGX_ROUTE_STAGED_PAIR_ODD 0, .rw, 0x0⟩, ⟨AGX_ROUTE_STAGED_PAIR_EVEN 0, .rw, 0x0⟩]⟩,
   ⟨AGX_ROUTE_PAIR 0, [(0x8, 2048)], false, false, [⟨AGX_ROUTE_PAIR_ODD 0, .ro, 0x0⟩, ⟨AGX_ROUTE_PAIR_EVEN 0, .ro, 0x0⟩]⟩]

/-- The registers of the AgxPort block. -/
def rowsAgxPort : List RegRow :=
  [⟨AGX_PORT_CTL 0, [(0x10000, 36)], false, false, [⟨AGX_PORT_CTL_RETRY_MS 0, .rw, 0x3E8⟩, ⟨AGX_PORT_CTL_FORCE_X4 0, .rw, 0x0⟩, ⟨AGX_PORT_CTL_PRBS 0, .rw, 0x0⟩, ⟨AGX_PORT_CTL_LOOP 0, .rw, 0x0⟩, ⟨AGX_PORT_CTL_ENABLE 0, .rw, 0x0⟩]⟩,
   ⟨AGX_PORT_STATUS 0, [(0x10000, 36)], false, false, [⟨AGX_PORT_STATUS_PEER_ID 0, .ro, 0x0⟩, ⟨AGX_PORT_STATUS_PEER_PORT 0, .ro, 0x0⟩, ⟨AGX_PORT_STATUS_HELD_WHY 0, .ro, 0x0⟩, ⟨AGX_PORT_STATUS_LANE_BAD 0, .ro, 0x0⟩, ⟨AGX_PORT_STATUS_LANE_ACTIVE 0, .ro, 0x0⟩, ⟨AGX_PORT_STATUS_WIDTH 0, .ro, 0x0⟩, ⟨AGX_PORT_STATUS_PWR 0, .ro, 0x0⟩, ⟨AGX_PORT_STATUS_STATE 0, .ro, 0x0⟩]⟩,
   ⟨AGX_PORT_RTT 0, [(0x10000, 36)], false, false, [⟨AGX_PORT_RTT_TICKS 0, .ro, 0x0⟩]⟩,
   ⟨AGX_PORT_ERR 0, [(0x10000, 36)], false, false, [⟨AGX_PORT_ERR_LOOP_REJECT 0, .w1c, 0x0⟩, ⟨AGX_PORT_ERR_REPLAY_LIMIT 0, .w1c, 0x0⟩, ⟨AGX_PORT_ERR_LANE_FAIL 0, .w1c, 0x0⟩, ⟨AGX_PORT_ERR_HELD 0, .w1c, 0x0⟩, ⟨AGX_PORT_ERR_TRAIN_FAIL 0, .w1c, 0x0⟩]⟩,
   ⟨AGX_PORT_INJECT 0, [(0x10000, 36)], false, false, [⟨AGX_PORT_INJECT_LANE 0, .rw, 0x0⟩, ⟨AGX_PORT_INJECT_CRC_NEXT 0, .rw, 0x0⟩]⟩,
   ⟨AGX_PORT_SPARE_TH 0, [(0x10000, 36)], false, false, [⟨AGX_PORT_SPARE_TH_LANE_FAIL_NOW 0, .wo, 0x0⟩, ⟨AGX_PORT_SPARE_TH_UNCORR_TH 0, .rw, 0x4⟩, ⟨AGX_PORT_SPARE_TH_CORR_TH 0, .rw, 0xFFFF⟩]⟩,
   ⟨AGX_PORT_LANE 0 0, [(0x10000, 36), (0x8, 9)], false, true, [⟨AGX_PORT_LANE_STATE 0 0, .ro, 0x0⟩, ⟨AGX_PORT_LANE_LOGICAL 0 0, .ro, 0x3F⟩, ⟨AGX_PORT_LANE_UNCORR_CW 0 0, .ro, 0x0⟩, ⟨AGX_PORT_LANE_CORR_SYM 0 0, .ro, 0x0⟩]⟩,
   ⟨AGX_PORT_FLITS 0, [(0x10000, 36)], false, true, [⟨AGX_PORT_FLITS_RX 0, .ro, 0x0⟩, ⟨AGX_PORT_FLITS_TX 0, .ro, 0x0⟩]⟩,
   ⟨AGX_PORT_VL_TX 0, [(0x10000, 36)], false, true, [⟨AGX_PORT_VL_TX_VL1 0, .ro, 0x0⟩, ⟨AGX_PORT_VL_TX_VL0 0, .ro, 0x0⟩]⟩,
   ⟨AGX_PORT_VL_TX2 0, [(0x10000, 36)], false, true, [⟨AGX_PORT_VL_TX2_VL3 0, .ro, 0x0⟩, ⟨AGX_PORT_VL_TX2_VL2 0, .ro, 0x0⟩]⟩,
   ⟨AGX_PORT_LINK 0, [(0x10000, 36)], false, true, [⟨AGX_PORT_LINK_CRC_ERR 0, .ro, 0x0⟩, ⟨AGX_PORT_LINK_REPLAYED 0, .ro, 0x0⟩]⟩,
   ⟨AGX_PORT_STALL 0, [(0x10000, 36)], false, true, [⟨AGX_PORT_STALL_REPLAY_FULL_CYCLES 0, .ro, 0x0⟩, ⟨AGX_PORT_STALL_CREDIT_WAIT_CYCLES 0, .ro, 0x0⟩]⟩,
   ⟨AGX_PORT_HELD 0, [(0x10000, 36)], false, true, [⟨AGX_PORT_HELD_DISCARDED 0, .ro, 0x0⟩]⟩]

/-- The registers of the Kvp block. -/
def rowsKvp : List RegRow :=
  [⟨KVP_CFG, [], false, false, [⟨KVP_CFG_FRAME_32K, .rwi, 0x1⟩]⟩,
   ⟨KVP_CTL, [], false, false, [⟨KVP_CTL_FLUSH, .wo, 0x0⟩]⟩,
   ⟨KVP_STATUS, [], false, false, [⟨KVP_STATUS_FRAMES, .ro, 0x0⟩, ⟨KVP_STATUS_FREE, .ro, 0x0⟩]⟩,
   ⟨KVP_ERR, [], false, false, [⟨KVP_ERR_POISON, .w1c, 0x0⟩, ⟨KVP_ERR_CMD_BUSY, .w1c, 0x0⟩, ⟨KVP_ERR_NO_CTX, .w1c, 0x0⟩, ⟨KVP_ERR_REF_SAT, .w1c, 0x0⟩, ⟨KVP_ERR_BAD_STATE, .w1c, 0x0⟩, ⟨KVP_ERR_NO_FRAME, .w1c, 0x0⟩, ⟨KVP_ERR_WALK_HOLE, .w1c, 0x0⟩]⟩,
   ⟨KVP_WALK_INV, [], false, false, [⟨KVP_WALK_INV_GO, .wo, 0x0⟩, ⟨KVP_WALK_INV_CTX, .wo, 0x0⟩]⟩,
   ⟨KVP_FRAME_RD, [], false, false, [⟨KVP_FRAME_RD_GO, .wo, 0x0⟩, ⟨KVP_FRAME_RD_BUSY, .ro, 0x0⟩, ⟨KVP_FRAME_RD_FRAME, .rw, 0x0⟩]⟩,
   ⟨KVP_FRAME_DATA 0, [(0x8, 2)], false, false, [⟨KVP_FRAME_DATA_ENTRY 0, .ro, 0x0⟩]⟩,
   ⟨KVP_PIN, [], false, true, [⟨KVP_PIN_PINS, .ro, 0x0⟩, ⟨KVP_PIN_UNPINS, .ro, 0x0⟩]⟩,
   ⟨KVP_FRAMES, [], false, true, [⟨KVP_FRAMES_ALLOCS, .ro, 0x0⟩, ⟨KVP_FRAMES_RETURNS, .ro, 0x0⟩]⟩,
   ⟨KVP_COPY, [], false, true, [⟨KVP_COPY_COWS, .ro, 0x0⟩, ⟨KVP_COPY_SEALS, .ro, 0x0⟩]⟩,
   ⟨KVP_APPEND, [], false, true, [⟨KVP_APPEND_BYTES, .ro, 0x0⟩]⟩,
   ⟨KVP_WALK 0, [(0x8, 8)], false, true, [⟨KVP_WALK_L1_MISSES 0, .ro, 0x0⟩, ⟨KVP_WALK_TRANSLATIONS 0, .ro, 0x0⟩]⟩,
   ⟨KVP_CMD_REC 0 0, [(0x40, 16), (0x8, 4)], false, false, [⟨KVP_CMD_REC_REC 0 0, .rw, 0x0⟩]⟩,
   ⟨KVP_CMD_GO 0, [(0x40, 16)], false, false, [⟨KVP_CMD_GO_GO 0, .wo, 0x0⟩]⟩,
   ⟨KVP_CMD_RESULT 0, [(0x40, 16)], false, false, [⟨KVP_CMD_RESULT_BUSY 0, .ro, 0x0⟩, ⟨KVP_CMD_RESULT_ARG 0, .ro, 0x0⟩, ⟨KVP_CMD_RESULT_CODE 0, .ro, 0xFF⟩]⟩,
   ⟨KVP_CMDQ_BASE 0, [(0x20, 8)], false, false, [⟨KVP_CMDQ_BASE_BASE 0, .rw, 0x0⟩]⟩,
   ⟨KVP_CMDQ_CFG 0, [(0x20, 8)], false, false, [⟨KVP_CMDQ_CFG_ENABLE 0, .rw, 0x0⟩, ⟨KVP_CMDQ_CFG_SIZE_LOG2 0, .rw, 0x4⟩, ⟨KVP_CMDQ_CFG_CHANNEL 0, .rw, 0x0⟩]⟩,
   ⟨KVP_CMDQ_HEAD 0, [(0x20, 8)], false, false, [⟨KVP_CMDQ_HEAD_ADMITTED 0, .ro, 0x0⟩]⟩,
   ⟨KVP_CMDQ_DONE 0, [(0x20, 8)], false, false, [⟨KVP_CMDQ_DONE_DONE 0, .ro, 0x0⟩]⟩,
   ⟨KVP_LAB 0, [(0x8, 384)], false, true, [⟨KVP_LAB_HITS 0, .ro, 0x0⟩, ⟨KVP_LAB_MISSES 0, .ro, 0x0⟩]⟩]

/-- The registers of the Pfx block. -/
def rowsPfx : List RegRow :=
  [⟨PFX_CTL, [], false, false, [⟨PFX_CTL_CLEAR, .wo, 0x0⟩, ⟨PFX_CTL_ENABLE, .rw, 0x1⟩]⟩,
   ⟨PFX_SALT, [], false, false, [⟨PFX_SALT_SALT, .rwi, 0x0⟩]⟩,
   ⟨PFX_STATUS, [], false, false, [⟨PFX_STATUS_VALID, .ro, 0x0⟩]⟩,
   ⟨PFX_LOOKUP, [], false, true, [⟨PFX_LOOKUP_HITS, .ro, 0x0⟩, ⟨PFX_LOOKUP_MISSES, .ro, 0x0⟩]⟩,
   ⟨PFX_INSERT, [], false, true, [⟨PFX_INSERT_INSERTS, .ro, 0x0⟩, ⟨PFX_INSERT_EVICTIONS, .ro, 0x0⟩]⟩,
   ⟨PFX_VERIFY, [], false, true, [⟨PFX_VERIFY_DUPLICATES, .ro, 0x0⟩, ⟨PFX_VERIFY_COLLISIONS, .ro, 0x0⟩]⟩]

/-- The registers of the Seq block. -/
def rowsSeq : List RegRow :=
  [⟨SEQ_STATUS, [], false, false, [⟨SEQ_STATUS_LIVE, .ro, 0x0⟩, ⟨SEQ_STATUS_SPILLED, .ro, 0x0⟩, ⟨SEQ_STATUS_RESIDENT, .ro, 0x0⟩, ⟨SEQ_STATUS_PARKED, .ro, 0x0⟩]⟩,
   ⟨SEQ_SPILL, [], false, true, [⟨SEQ_SPILL_SPILLS, .ro, 0x0⟩, ⟨SEQ_SPILL_RESTORES, .ro, 0x0⟩]⟩,
   ⟨SEQ_REFUSE, [], false, true, [⟨SEQ_REFUSE_FULL, .ro, 0x0⟩]⟩,
   ⟨SEQ_CMD_ARG0 0, [(0x20, 16)], false, false, [⟨SEQ_CMD_ARG0_L1_BASE 0, .rw, 0x0⟩]⟩,
   ⟨SEQ_CMD_ARG1 0, [(0x20, 16)], false, false, [⟨SEQ_CMD_ARG1_HANDLE 0, .rw, 0x0⟩, ⟨SEQ_CMD_ARG1_CLASS 0, .rw, 0x0⟩, ⟨SEQ_CMD_ARG1_HEAD_DIM 0, .rw, 0x0⟩, ⟨SEQ_CMD_ARG1_FMT 0, .rw, 0x0⟩, ⟨SEQ_CMD_ARG1_HEADS 0, .rw, 0x0⟩, ⟨SEQ_CMD_ARG1_LAYERS 0, .rw, 0x0⟩]⟩,
   ⟨SEQ_CMD_GO 0, [(0x20, 16)], false, false, [⟨SEQ_CMD_GO_GO 0, .wo, 0x0⟩, ⟨SEQ_CMD_GO_OP 0, .wo, 0x0⟩]⟩,
   ⟨SEQ_CMD_RESULT 0, [(0x20, 16)], false, false, [⟨SEQ_CMD_RESULT_BUSY 0, .ro, 0x0⟩, ⟨SEQ_CMD_RESULT_HANDLE 0, .ro, 0x0⟩, ⟨SEQ_CMD_RESULT_CODE 0, .ro, 0xFF⟩]⟩,
   ⟨SEQ_BIND 0, [(0x8, 128)], true, false, [⟨SEQ_BIND_VALID 0, .rw, 0x0⟩, ⟨SEQ_BIND_HANDLE 0, .rw, 0x0⟩]⟩,
   ⟨SEQ_CTX 0, [(0x8, 4096)], false, false, [⟨SEQ_CTX_STATE 0, .ro, 0x0⟩, ⟨SEQ_CTX_CLASS 0, .ro, 0x0⟩, ⟨SEQ_CTX_MOVING 0, .ro, 0x0⟩, ⟨SEQ_CTX_PARK_BEAT 0, .ro, 0x0⟩]⟩]

/-- The registers of the Exp block. -/
def rowsExp : List RegRow :=
  [⟨EXP_STATUS, [], false, false, [⟨EXP_STATUS_WBUF_FREE, .ro, 0x0⟩, ⟨EXP_STATUS_READY, .ro, 0x0⟩, ⟨EXP_STATUS_FETCHING, .ro, 0x0⟩, ⟨EXP_STATUS_IN_USE, .ro, 0x0⟩]⟩,
   ⟨EXP_CTL, [], true, false, [⟨EXP_CTL_WEIGHT_TRAVEL_MIN, .rw, 0xFFFF⟩, ⟨EXP_CTL_PREFETCH_EN, .rw, 0x1⟩, ⟨EXP_CTL_MISS_FETCH, .rw, 0x1⟩]⟩,
   ⟨EXP_ERR, [], false, false, [⟨EXP_ERR_SLICE_RANGE, .w1c, 0x0⟩, ⟨EXP_ERR_VERSION_STALE, .w1c, 0x0⟩, ⟨EXP_ERR_FETCH_FAIL, .w1c, 0x0⟩, ⟨EXP_ERR_CFG, .w1c, 0x0⟩, ⟨EXP_ERR_DIR_INVALID, .w1c, 0x0⟩]⟩,
   ⟨EXP_DIR_UPD_ARM, [], false, false, [⟨EXP_DIR_UPD_ARM_ARM, .rw, 0x0⟩]⟩,
   ⟨EXP_EP_CFG, [], true, false, [⟨EXP_EP_CFG_E_LOCAL, .rw, 0x0⟩, ⟨EXP_EP_CFG_SELF_RANK, .rw, 0x0⟩, ⟨EXP_EP_CFG_P, .rw, 0x0⟩]⟩,
   ⟨EXP_TRAVEL, [], true, false, [⟨EXP_TRAVEL_TGRP, .rw, 0x0⟩, ⟨EXP_TRAVEL_WBUF_BASE, .rw, 0x0⟩, ⟨EXP_TRAVEL_WBUF_FRAMES, .rw, 0x0⟩]⟩,
   ⟨EXP_ROUTE, [], false, true, [⟨EXP_ROUTE_NAN_ROWS, .ro, 0x0⟩, ⟨EXP_ROUTE_ROWS, .ro, 0x0⟩]⟩,
   ⟨EXP_CAP, [], false, true, [⟨EXP_CAP_DROPPED, .ro, 0x0⟩, ⟨EXP_CAP_SECOND, .ro, 0x0⟩]⟩,
   ⟨EXP_DEFER, [], false, true, [⟨EXP_DEFER_DEFER_DROPPED, .ro, 0x0⟩, ⟨EXP_DEFER_DEFERRED, .ro, 0x0⟩]⟩,
   ⟨EXP_TRAVEL_CNT, [], false, true, [⟨EXP_TRAVEL_CNT_PAIRS, .ro, 0x0⟩, ⟨EXP_TRAVEL_CNT_EXPERTS, .ro, 0x0⟩]⟩,
   ⟨EXP_PRED, [], false, true, [⟨EXP_PRED_WASTED, .ro, 0x0⟩, ⟨EXP_PRED_HITS, .ro, 0x0⟩]⟩,
   ⟨EXP_PRED_MISS, [], false, true, [⟨EXP_PRED_MISS_FALLBACKS, .ro, 0x0⟩, ⟨EXP_PRED_MISS_MISSES, .ro, 0x0⟩]⟩,
   ⟨EXP_BYTES, [], false, true, [⟨EXP_BYTES_BYTES, .ro, 0x0⟩]⟩,
   ⟨EXP_FETCH, [], false, true, [⟨EXP_FETCH_BYTES, .ro, 0x0⟩]⟩,
   ⟨EXP_EP 0, [(0x8, 256)], true, false, [⟨EXP_EP_VALID 0, .rw, 0x0⟩, ⟨EXP_EP_DEVICE 0, .rw, 0x0⟩]⟩,
   ⟨EXP_LAYER 0, [(0x8, 256)], true, false, [⟨EXP_LAYER_BASE 0, .rw, 0x0⟩, ⟨EXP_LAYER_COUNT 0, .rw, 0x0⟩, ⟨EXP_LAYER_POLICY 0, .rw, 0x0⟩, ⟨EXP_LAYER_CAP 0, .rw, 0x0⟩, ⟨EXP_LAYER_WIDE_FMT 0, .rw, 0x0⟩, ⟨EXP_LAYER_TRAVEL_EN 0, .rw, 0x0⟩]⟩,
   ⟨EXP_RES_W0 0, [(0x10, 256)], false, false, [⟨EXP_RES_W0_STATE 0, .ro, 0x0⟩, ⟨EXP_RES_W0_PREDICTED 0, .ro, 0x0⟩, ⟨EXP_RES_W0_DEMAND 0, .ro, 0x0⟩, ⟨EXP_RES_W0_USED 0, .ro, 0x0⟩, ⟨EXP_RES_W0_LAYER 0, .ro, 0x0⟩, ⟨EXP_RES_W0_EXPERT 0, .ro, 0x0⟩, ⟨EXP_RES_W0_FRAMES 0, .ro, 0x0⟩, ⟨EXP_RES_W0_FRAME 0, .ro, 0x0⟩, ⟨EXP_RES_W0_USES 0, .ro, 0x0⟩]⟩,
   ⟨EXP_RES_W1 0, [(0x10, 256)], false, false, [⟨EXP_RES_W1_VERSION 0, .ro, 0x0⟩]⟩,
   ⟨EXP_DIR_UPD_W0 0, [(0x40, 64)], false, false, [⟨EXP_DIR_UPD_W0_VALID 0, .rw, 0x0⟩, ⟨EXP_DIR_UPD_W0_INDEX 0, .rw, 0x0⟩]⟩,
   ⟨EXP_DIR_UPD_ENTRY 0 0, [(0x40, 64), (0x8, 4)], false, false, [⟨EXP_DIR_UPD_ENTRY_ENTRY 0 0, .rw, 0x0⟩]⟩,
   ⟨EXP_DIR 0 0, [(0x20, 131072)], false, false, [⟨EXP_DIR_ADDR 0, .rwi, 0x0⟩]⟩,
   ⟨EXP_DIR 0 1, [(0x20, 131072)], false, false, [⟨EXP_DIR_WHERE 0, .rwi, 0x0⟩]⟩,
   ⟨EXP_DIR 0 2, [(0x20, 131072)], false, false, [⟨EXP_DIR_BYTES 0, .rwi, 0x0⟩]⟩,
   ⟨EXP_DIR 0 3, [(0x20, 131072)], false, false, [⟨EXP_DIR_SCALE_OFF 0, .rwi, 0x0⟩, ⟨EXP_DIR_VERSION 0, .rwi, 0x0⟩]⟩]

/-- The registers of the Upd block. -/
def rowsUpd : List RegRow :=
  [⟨UPDATE_CFG, [], false, false, [⟨UPDATE_CFG_RAISE_AFTER, .rw, 0x7D0⟩]⟩,
   ⟨UPD_SCALE, [], false, false, [⟨UPD_SCALE_CLEAN, .ro, 0x0⟩, ⟨UPD_SCALE_S, .ro, 0x10⟩]⟩,
   ⟨UPD_BANK, [], false, false, [⟨UPD_BANK_LIVE_BANK, .ro, 0x0⟩, ⟨UPD_BANK_LIVE_STEP, .ro, 0x0⟩]⟩,
   ⟨UPD_RET, [], false, false, [⟨UPD_RET_RET_VALID, .ro, 0x0⟩, ⟨UPD_RET_RET_STEP, .ro, 0x0⟩]⟩,
   ⟨UPD_BANK_CTL, [], false, false, [⟨UPD_BANK_CTL_FLIP_BACK, .wo, 0x0⟩, ⟨UPD_BANK_CTL_SET, .wo, 0x0⟩, ⟨UPD_BANK_CTL_SET_BANK, .wo, 0x0⟩, ⟨UPD_BANK_CTL_STEP, .wo, 0x0⟩]⟩,
   ⟨UPD_COMMIT_CFG, [], true, false, [⟨UPD_COMMIT_CFG_COORD, .rw, 0x0⟩, ⟨UPD_COMMIT_CFG_VOTE_WINDOW_BEATS, .rw, 0x40⟩, ⟨UPD_COMMIT_CFG_LEAD_BEATS, .rw, 0x4⟩, ⟨UPD_COMMIT_CFG_DECIDE_TIMEOUT, .rw, 0x100⟩]⟩,
   ⟨UPD_COMMIT_CTL, [], false, false, [⟨UPD_COMMIT_CTL_VOTE, .wo, 0x0⟩, ⟨UPD_COMMIT_CTL_REVOTE, .wo, 0x0⟩]⟩,
   ⟨UPD_COMMIT_STATUS, [], false, false, [⟨UPD_COMMIT_STATUS_M_BEAT, .ro, 0x0⟩, ⟨UPD_COMMIT_STATUS_POISON, .ro, 0x0⟩, ⟨UPD_COMMIT_STATUS_OVERFLOW, .ro, 0x0⟩, ⟨UPD_COMMIT_STATUS_OUTCOME, .ro, 0x0⟩, ⟨UPD_COMMIT_STATUS_STATE, .ro, 0x0⟩]⟩,
   ⟨UPD_MBOX, [], false, false, [⟨UPD_MBOX_BASE, .rwi, 0x0⟩]⟩,
   ⟨UPD_COORD_STATUS, [], false, false, [⟨UPD_COORD_STATUS_STEP, .ro, 0x0⟩, ⟨UPD_COORD_STATUS_STATE, .ro, 0x0⟩, ⟨UPD_COORD_STATUS_COUNT, .ro, 0x0⟩]⟩,
   ⟨UPD_COORD_CTL, [], false, false, [⟨UPD_COORD_CTL_ABORT_NOW, .wo, 0x0⟩]⟩,
   ⟨UPD_DEADLINE, [], false, false, [⟨UPD_DEADLINE_BEAT, .ro, 0x0⟩]⟩,
   ⟨UPD_ERR, [], false, false, [⟨UPD_ERR_SCALE_MISMATCH, .w1c, 0x0⟩, ⟨UPD_ERR_SCALE_FLOOR, .w1c, 0x0⟩, ⟨UPD_ERR_DECIDE_TIMEOUT, .w1c, 0x0⟩, ⟨UPD_ERR_BANK_REJECT, .w1c, 0x0⟩, ⟨UPD_ERR_RET_WRITE, .w1c, 0x0⟩, ⟨UPD_ERR_MIDNIGHT_LATE, .w1c, 0x0⟩, ⟨UPD_ERR_MSG_BAD, .w1c, 0x0⟩]⟩,
   ⟨UPD_OUTCOMES, [], false, true, [⟨UPD_OUTCOMES_SKIPS, .ro, 0x0⟩, ⟨UPD_OUTCOMES_COMMITS, .ro, 0x0⟩]⟩,
   ⟨UPD_ABORTS, [], false, true, [⟨UPD_ABORTS_DISCARDED, .ro, 0x0⟩, ⟨UPD_ABORTS_ABORTS, .ro, 0x0⟩]⟩,
   ⟨UPD_MSGS, [], false, true, [⟨UPD_MSGS_RECEIVED, .ro, 0x0⟩, ⟨UPD_MSGS_SENT, .ro, 0x0⟩]⟩,
   ⟨UPD_ELEMENTS, [], false, true, [⟨UPD_ELEMENTS_ELEMENTS, .ro, 0x0⟩]⟩,
   ⟨UPD_EMBED, [], false, true, [⟨UPD_EMBED_LIST_SKIPS, .ro, 0x0⟩, ⟨UPD_EMBED_ROWS, .ro, 0x0⟩]⟩,
   ⟨UPD_WAIT, [], false, true, [⟨UPD_WAIT_RET_WAIT_CYCLES, .ro, 0x0⟩]⟩,
   ⟨UPD_SET 0, [(0x8, 64)], true, false, [⟨UPD_SET_BITS 0, .rw, 0x0⟩]⟩,
   ⟨UPD_VOTED 0, [(0x8, 64)], false, false, [⟨UPD_VOTED_BITS 0, .ro, 0x0⟩]⟩,
   ⟨WGQ_CTL, [], false, false, [⟨WGQ_CTL_DRAIN, .wo, 0x0⟩, ⟨WGQ_CTL_PRIORITY, .rw, 0x0⟩, ⟨WGQ_CTL_ORDER, .rwi, 0x0⟩]⟩,
   ⟨WGQ_STATUS, [], false, false, [⟨WGQ_STATUS_URGENT, .ro, 0x0⟩, ⟨WGQ_STATUS_STARTED, .ro, 0x0⟩, ⟨WGQ_STATUS_ENTRIES, .ro, 0x0⟩]⟩,
   ⟨WGQ_ERR, [], false, false, [⟨WGQ_ERR_NO_REGION, .w1c, 0x0⟩, ⟨WGQ_ERR_FULL, .w1c, 0x0⟩, ⟨WGQ_ERR_URGENT_REACHED, .w1c, 0x0⟩]⟩,
   ⟨WGQ_POST, [], false, true, [⟨WGQ_POST_POSTED, .ro, 0x0⟩, ⟨WGQ_POST_COMPLETED, .ro, 0x0⟩]⟩,
   ⟨WGQ_SLICE, [], false, true, [⟨WGQ_SLICE_SLICES, .ro, 0x0⟩, ⟨WGQ_SLICE_URGENT_SLICES, .ro, 0x0⟩]⟩,
   ⟨WGQ_WAIT, [], false, true, [⟨WGQ_WAIT_FULL_CYCLES, .ro, 0x0⟩, ⟨WGQ_WAIT_URGENT_WAIT_CYCLES, .ro, 0x0⟩]⟩,
   ⟨WGQ_TILE_CYCLES, [], false, true, [⟨WGQ_TILE_CYCLES_CYCLES, .ro, 0x0⟩]⟩]

/-- The registers of the Hbm block. -/
def rowsHbm : List RegRow :=
  [⟨HBM_STATUS 0, [(0x100000, 24)], false, false, [⟨HBM_STATUS_TEMP 0, .ro, 0x0⟩, ⟨HBM_STATUS_HEIGHT 0, .ro, 0x0⟩, ⟨HBM_STATUS_STATE 0, .ro, 0x0⟩]⟩,
   ⟨HBM_CTL 0, [(0x100000, 24)], false, false, [⟨HBM_CTL_EXCLUDE 0, .rws, 0x0⟩, ⟨HBM_CTL_REFRESH 0, .rw, 0x0⟩]⟩,
   ⟨HBM_TRAIN 0, [(0x100000, 24)], false, false, [⟨HBM_TRAIN_STAMP 0, .ro, 0x0⟩, ⟨HBM_TRAIN_MS 0, .ro, 0x0⟩]⟩,
   ⟨HBM_PPR 0, [(0x100000, 24)], false, false, [⟨HBM_PPR_GO 0, .wo, 0x0⟩, ⟨HBM_PPR_BUSY 0, .ro, 0x0⟩, ⟨HBM_PPR_STATUS 0, .ro, 0x0⟩, ⟨HBM_PPR_HARD 0, .rw, 0x0⟩, ⟨HBM_PPR_PC 0, .rw, 0x0⟩, ⟨HBM_PPR_BANK 0, .rw, 0x0⟩, ⟨HBM_PPR_ROW 0, .rw, 0x0⟩]⟩,
   ⟨HBM_DIE_ECC 0, [(0x100000, 24)], false, false, [⟨HBM_DIE_ECC_UNCORR 0, .ro, 0x0⟩, ⟨HBM_DIE_ECC_CORR 0, .ro, 0x0⟩]⟩,
   ⟨HBM_PC_W0 0 0, [(0x100000, 24), (0x10, 64)], false, true, [⟨HBM_PC_W0_RD_GRANULES 0 0, .ro, 0x0⟩, ⟨HBM_PC_W0_WR_GRANULES 0 0, .ro, 0x0⟩]⟩,
   ⟨HBM_PC_W1 0 0, [(0x100000, 24), (0x10, 64)], false, true, [⟨HBM_PC_W1_CORRECTED 0 0, .ro, 0x0⟩, ⟨HBM_PC_W1_RETRIES 0 0, .ro, 0x0⟩, ⟨HBM_PC_W1_AGE_CAP 0 0, .ro, 0x0⟩]⟩]

/-- The registers of the Ecc block. -/
def rowsEcc : List RegRow :=
  [⟨ECC_CFG, [], false, false, [⟨ECC_CFG_STACKS, .ro, 0x0⟩, ⟨ECC_CFG_STRENGTH, .ro, 0x2⟩]⟩,
   ⟨ECC_TOP, [], false, false, [⟨ECC_TOP_TOP, .ro, 0x0⟩]⟩,
   ⟨ECC_ERR, [], false, false, [⟨ECC_ERR_SCRUB_REJECT, .w1c, 0x0⟩, ⟨ECC_ERR_FATAL, .w1c, 0x0⟩, ⟨ECC_ERR_CHECKER_FAIL, .w1c, 0x0⟩, ⟨ECC_ERR_CONTAINED, .w1c, 0x0⟩, ⟨ECC_ERR_DEFERRED, .w1c, 0x0⟩, ⟨ECC_ERR_CORRECTED, .w1c, 0x0⟩]⟩,
   ⟨ECC_LOG_0, [], false, false, [⟨ECC_LOG_0_CLASS, .ro, 0x0⟩, ⟨ECC_LOG_0_SOURCE, .ro, 0x0⟩, ⟨ECC_LOG_0_UNIT, .ro, 0x0⟩, ⟨ECC_LOG_0_OFFSET, .ro, 0x0⟩]⟩,
   ⟨ECC_LOG_1, [], false, false, [⟨ECC_LOG_1_BEAT, .ro, 0x0⟩]⟩,
   ⟨ECC_SCRUB_CTL, [], false, false, [⟨ECC_SCRUB_CTL_GO, .wo, 0x0⟩, ⟨ECC_SCRUB_CTL_BUSY, .ro, 0x0⟩, ⟨ECC_SCRUB_CTL_CLEAR_POISON, .rw, 0x0⟩, ⟨ECC_SCRUB_CTL_CONTINUOUS, .rw, 0x0⟩, ⟨ECC_SCRUB_CTL_RATE_GBS, .rw, 0x10⟩]⟩,
   ⟨ECC_SCRUB_BASE, [], false, false, [⟨ECC_SCRUB_BASE_BASE, .rw, 0x0⟩]⟩,
   ⟨ECC_SCRUB_LEN, [], false, false, [⟨ECC_SCRUB_LEN_LEN, .rw, 0x0⟩]⟩,
   ⟨ECC_SCRUB_REC, [], false, false, [⟨ECC_SCRUB_REC_REC, .rw, 0x0⟩]⟩,
   ⟨ECC_SCRUB_POS, [], false, false, [⟨ECC_SCRUB_POS_POS, .ro, 0x0⟩]⟩,
   ⟨ECC_SELFTEST, [], false, false, [⟨ECC_SELFTEST_GO, .wo, 0x0⟩, ⟨ECC_SELFTEST_BUSY, .ro, 0x0⟩]⟩,
   ⟨ECC_ST_HBM, [], false, false, [⟨ECC_ST_HBM_FAIL, .ro, 0x0⟩]⟩,
   ⟨ECC_ST_TILE 0, [(0x8, 6)], false, false, [⟨ECC_ST_TILE_FAIL 0, .ro, 0x0⟩]⟩,
   ⟨ECC_INJECT, [], false, false, [⟨ECC_INJECT_ARM, .rw, 0x0⟩, ⟨ECC_INJECT_KIND, .rw, 0x0⟩, ⟨ECC_INJECT_TILE, .rw, 0x0⟩, ⟨ECC_INJECT_OFFSET, .rw, 0x0⟩]⟩,
   ⟨ECC_CNT, [], false, true, [⟨ECC_CNT_CORRECTED, .ro, 0x0⟩, ⟨ECC_CNT_DEFERRED, .ro, 0x0⟩]⟩,
   ⟨ECC_CNT2, [], false, true, [⟨ECC_CNT2_POISON_READS, .ro, 0x0⟩, ⟨ECC_CNT2_RMW, .ro, 0x0⟩]⟩,
   ⟨ECC_CIST 0, [(0x8, 384)], false, false, [⟨ECC_CIST_SPARES_LEFT 0, .ro, 0x0⟩, ⟨ECC_CIST_CORRECTED 0, .ro, 0x0⟩, ⟨ECC_CIST_REMAPS 0, .ro, 0x0⟩]⟩]

/-- The registers of the Pwr block. -/
def rowsPwr : List RegRow :=
  [⟨PWR_STATE, [], false, false, [⟨PWR_STATE_BOOT_STEP, .ro, 0x0⟩, ⟨PWR_STATE_DEGRADED, .ro, 0x0⟩, ⟨PWR_STATE_PSTATE, .ro, 0x0⟩, ⟨PWR_STATE_DEG_WHY, .ro, 0x0⟩, ⟨PWR_STATE_DEV_STATE, .ro, 0x0⟩]⟩,
   ⟨PWR_CTL, [], false, false, [⟨PWR_CTL_DUSK, .wo, 0x0⟩, ⟨PWR_CTL_WAKE, .wo, 0x0⟩, ⟨PWR_CTL_DUSK_AT_BEAT, .rw, 0x0⟩]⟩,
   ⟨PWR_CEIL, [], true, false, [⟨PWR_CEIL_HYST_W, .rw, 0x64⟩, ⟨PWR_CEIL_CEIL_W, .rw, 0x0⟩]⟩,
   ⟨PWR_PLIM, [], false, false, [⟨PWR_PLIM_PLIM, .ro, 0x0⟩, ⟨PWR_PLIM_LIMIT_W, .ro, 0x0⟩]⟩,
   ⟨PWR_CLK, [], false, false, [⟨PWR_CLK_CAUSE, .ro, 0x0⟩, ⟨PWR_CLK_MHZ, .ro, 0x4B0⟩, ⟨PWR_CLK_STEPS_DOWN, .ro, 0x0⟩]⟩,
   ⟨PWR_THERM, [], false, false, [⟨PWR_THERM_TRIP_C, .ro, 0x69⟩, ⟨PWR_THERM_THROTTLE_C, .rw, 0x5A⟩, ⟨PWR_THERM_HOT_DIE, .ro, 0x0⟩, ⟨PWR_THERM_TJ_C, .ro, 0x0⟩]⟩,
   ⟨PWR_ERR, [], false, false, [⟨PWR_ERR_HBM_REMAP, .w1c, 0x0⟩, ⟨PWR_ERR_KAT_FAIL, .w1c, 0x0⟩, ⟨PWR_ERR_FUSE_ONLY, .w1c, 0x0⟩, ⟨PWR_ERR_RECORD_WRITE_FAIL, .w1c, 0x0⟩, ⟨PWR_ERR_RECORD_FULL, .w1c, 0x0⟩, ⟨PWR_ERR_THERM_95, .w1c, 0x0⟩, ⟨PWR_ERR_THERM_THROTTLE, .w1c, 0x0⟩, ⟨PWR_ERR_FLOOR_HOLD, .w1c, 0x0⟩, ⟨PWR_ERR_CEIL_CLAMP, .w1c, 0x0⟩]⟩,
   ⟨PWR_NIGHT_CFG, [], false, false, [⟨PWR_NIGHT_CFG_ETH_KEEP, .rws, 0x0⟩]⟩,
   ⟨PWR_GOOD_TILES, [], false, false, [⟨PWR_GOOD_TILES_TOTAL, .ro, 0x0⟩, ⟨PWR_GOOD_TILES_PER_DIE, .ro, 0x0⟩]⟩,
   ⟨PWR_CORES, [], false, false, [⟨PWR_CORES_FUSE_BAD, .ro, 0x0⟩, ⟨PWR_CORES_RECORD_BAD, .ro, 0x0⟩, ⟨PWR_CORES_TEST_BAD, .ro, 0x0⟩, ⟨PWR_CORES_GOOD, .ro, 0x0⟩]⟩,
   ⟨PWR_RPR, [], false, false, [⟨PWR_RPR_SLOT, .ro, 0x0⟩, ⟨PWR_RPR_BUSY, .ro, 0x0⟩, ⟨PWR_RPR_ENTRIES, .ro, 0x0⟩, ⟨PWR_RPR_SEQ, .ro, 0x0⟩]⟩,
   ⟨PWR_RPR_ADD, [], false, false, [⟨PWR_RPR_ADD_DETAIL, .rw, 0x0⟩, ⟨PWR_RPR_ADD_UNIT, .rw, 0x0⟩]⟩,
   ⟨PWR_RPR_GO, [], false, false, [⟨PWR_RPR_GO_GO, .wo, 0x0⟩, ⟨PWR_RPR_GO_KIND, .rw, 0x0⟩]⟩,
   ⟨PWR_BOOT_MS, [], false, false, [⟨PWR_BOOT_MS_MS, .ro, 0x0⟩]⟩,
   ⟨PWR_SITES_W0 0, [(0x20, 8)], false, false, [⟨PWR_SITES_W0_FUSE_BAD 0, .ro, 0x0⟩]⟩,
   ⟨PWR_SITES_W1 0, [(0x20, 8)], false, false, [⟨PWR_SITES_W1_TEST_BAD 0, .ro, 0x0⟩]⟩,
   ⟨PWR_SITES_W2 0, [(0x20, 8)], false, false, [⟨PWR_SITES_W2_RECORD_BAD 0, .ro, 0x0⟩]⟩,
   ⟨PWR_SITES_W3 0, [(0x20, 8)], false, false, [⟨PWR_SITES_W3_GOOD 0, .ro, 0x0⟩]⟩,
   ⟨PWR_ENERGY, [], false, true, [⟨PWR_ENERGY_PEAK_W, .ro, 0x0⟩, ⟨PWR_ENERGY_UJ, .ro, 0x0⟩]⟩,
   ⟨PWR_THROTTLE, [], false, true, [⟨PWR_THROTTLE_STEPS, .ro, 0x0⟩, ⟨PWR_THROTTLE_HOLD_CYCLES, .ro, 0x0⟩]⟩,
   ⟨PWR_DOMAIN_EV, [], false, true, [⟨PWR_DOMAIN_EV_PEND_ON, .ro, 0x0⟩, ⟨PWR_DOMAIN_EV_OFF_DONE, .ro, 0x0⟩]⟩]

/-- The registers of the Sec block. -/
def rowsSec : List RegRow :=
  [⟨SEC_STATUS, [], false, false, [⟨SEC_STATUS_FW_SVN, .ro, 0x0⟩, ⟨SEC_STATUS_FUSE_SVN, .ro, 0x0⟩, ⟨SEC_STATUS_OWNER_BANK, .ro, 0x0⟩, ⟨SEC_STATUS_TEST_ENABLE, .ro, 0x0⟩, ⟨SEC_STATUS_OWNED, .ro, 0x0⟩, ⟨SEC_STATUS_CFG_SLOT, .ro, 0x0⟩, ⟨SEC_STATUS_FW_SLOT, .ro, 0x0⟩, ⟨SEC_STATUS_BOOT_RESULT, .ro, 0x0⟩]⟩,
   ⟨SEC_FW_MEAS 0, [(0x8, 6)], false, false, [⟨SEC_FW_MEAS_DIGEST 0, .ro, 0x0⟩]⟩,
   ⟨SEC_FUSE_MEAS 0, [(0x8, 6)], false, false, [⟨SEC_FUSE_MEAS_DIGEST 0, .ro, 0x0⟩]⟩,
   ⟨SEC_REPAIR_MEAS 0, [(0x8, 6)], false, false, [⟨SEC_REPAIR_MEAS_DIGEST 0, .ro, 0x0⟩]⟩,
   ⟨SEC_IDKEY_HASH 0, [(0x8, 6)], false, false, [⟨SEC_IDKEY_HASH_DIGEST 0, .ro, 0x0⟩]⟩,
   ⟨SEC_CTL, [], false, false, [⟨SEC_CTL_SVN_ADVANCE, .wo, 0x0⟩, ⟨SEC_CTL_CFG_APPLY, .wo, 0x0⟩]⟩,
   ⟨SEC_RESULT, [], false, false, [⟨SEC_RESULT_BUSY, .ro, 0x0⟩, ⟨SEC_RESULT_SVN_RESULT, .ro, 0x0⟩, ⟨SEC_RESULT_CFG_RESULT, .ro, 0x0⟩]⟩,
   ⟨SEC_ERR, [], false, false, [⟨SEC_ERR_ATT_BUSY, .w1c, 0x0⟩, ⟨SEC_ERR_JTAG_DENIED, .w1c, 0x0⟩, ⟨SEC_ERR_FLASH_WP, .w1c, 0x0⟩, ⟨SEC_ERR_CFG_REJECT, .w1c, 0x0⟩]⟩,
   ⟨SEC_JTAG, [], false, false, [⟨SEC_JTAG_IDCODE, .ro, 0x0⟩]⟩,
   ⟨SEC_ATT_CNT, [], false, true, [⟨SEC_ATT_CNT_REPORTS, .ro, 0x0⟩, ⟨SEC_ATT_CNT_REQUESTS, .ro, 0x0⟩]⟩,
   ⟨SEC_AGX_CAP 0, [(0x8, 36)], false, false, [⟨SEC_AGX_CAP_CAP 0, .ro, 0x0⟩]⟩,
   ⟨SEC_DOMAIN_HASH 0, [(0x8, 6)], false, false, [⟨SEC_DOMAIN_HASH_DIGEST 0, .ro, 0x0⟩]⟩,
   ⟨SEC_DOMAIN 0 0, [(0x10, 4096), (0x8, 2)], false, false, [⟨SEC_DOMAIN_ENTRY 0 0, .ro, 0x0⟩]⟩]

/-- The registers of the Eth block. -/
def rowsEth : List RegRow :=
  [⟨ETH_CC, [], false, false, [⟨ETH_CC_INTERVAL_US, .rw, 0x8⟩, ⟨ETH_CC_BETA_SHIFT, .rw, 0x2⟩, ⟨ETH_CC_DELAY_TH_NS, .rw, 0x1388⟩]⟩,
   ⟨ETH_CC2, [], false, false, [⟨ETH_CC2_STEP_MBPS, .rw, 0x7D0⟩, ⟨ETH_CC2_RMIN_MBPS, .rw, 0x3E8⟩]⟩,
   ⟨ETH_CNP, [], false, false, [⟨ETH_CNP_CNP_GAP_NS, .rw, 0xFA0⟩]⟩,
   ⟨ETH_XFER_W0 0, [(0x20, 32)], false, false, [⟨ETH_XFER_W0_ENABLE 0, .rw, 0x0⟩, ⟨ETH_XFER_W0_PORT 0, .rw, 0x0⟩, ⟨ETH_XFER_W0_BASE 0, .rw, 0x0⟩]⟩,
   ⟨ETH_XFER_W1 0, [(0x20, 32)], false, false, [⟨ETH_XFER_W1_COUNT 0, .rw, 0x0⟩, ⟨ETH_XFER_W1_CHANNEL 0, .rw, 0x0⟩]⟩,
   ⟨ETH_XFER_W2 0, [(0x20, 32)], false, false, [⟨ETH_XFER_W2_ISSUED 0, .ro, 0x0⟩]⟩,
   ⟨ETH_POST_W0 0, [(0x20, 32)], false, false, [⟨ETH_POST_W0_ENABLE 0, .rw, 0x0⟩, ⟨ETH_POST_W0_SIZE_LOG2 0, .rw, 0x4⟩, ⟨ETH_POST_W0_PORT 0, .rw, 0x0⟩, ⟨ETH_POST_W0_BASE 0, .rw, 0x0⟩]⟩,
   ⟨ETH_POST_W1 0, [(0x20, 32)], false, false, [⟨ETH_POST_W1_PROD_ADDR 0, .rw, 0x0⟩]⟩,
   ⟨ETH_POST_W2 0, [(0x20, 32)], false, false, [⟨ETH_POST_W2_CONS 0, .ro, 0x0⟩]⟩,
   ⟨ETH_CQ_W0 0, [(0x20, 16)], false, false, [⟨ETH_CQ_W0_ENABLE 0, .rw, 0x0⟩, ⟨ETH_CQ_W0_SIZE_LOG2 0, .rw, 0x4⟩, ⟨ETH_CQ_W0_BASE 0, .rw, 0x0⟩]⟩,
   ⟨ETH_CQ_W1 0, [(0x20, 16)], false, false, [⟨ETH_CQ_W1_CONS 0, .rw, 0x0⟩, ⟨ETH_CQ_W1_PROD 0, .ro, 0x0⟩]⟩,
   ⟨ETH_QP_W0 0, [(0x40, 256)], false, false, [⟨ETH_QP_W0_STATE 0, .rw, 0x0⟩, ⟨ETH_QP_W0_PORT 0, .rw, 0x0⟩, ⟨ETH_QP_W0_CQ 0, .rw, 0x0⟩, ⟨ETH_QP_W0_DEST_QPN 0, .rw, 0x0⟩, ⟨ETH_QP_W0_INIT_PSN 0, .rw, 0x0⟩]⟩,
   ⟨ETH_QP_IP 0 0, [(0x40, 256), (0x8, 2)], false, false, [⟨ETH_QP_IP_DEST_IP 0 0, .rw, 0x0⟩]⟩,
   ⟨ETH_QP_W3 0, [(0x40, 256)], false, false, [⟨ETH_QP_W3_VLAN 0, .rw, 0x0⟩, ⟨ETH_QP_W3_DEST_MAC 0, .rw, 0x0⟩]⟩,
   ⟨ETH_QP_W4 0, [(0x40, 256)], false, false, [⟨ETH_QP_W4_RATE_MBPS 0, .ro, 0x0⟩, ⟨ETH_QP_W4_RMAX_MBPS 0, .rw, 0xC3500⟩]⟩,
   ⟨ETH_QP_W5 0, [(0x40, 256)], false, false, [⟨ETH_QP_W5_PEER_PSN 0, .rw, 0x0⟩, ⟨ETH_QP_W5_RX_BASE_4K 0, .rw, 0x0⟩]⟩,
   ⟨ETH_QP_W6 0, [(0x40, 256)], false, false, [⟨ETH_QP_W6_RX_BUFS 0, .rw, 0x0⟩, ⟨ETH_QP_W6_TIMEOUT_US 0, .rw, 0x64⟩, ⟨ETH_QP_W6_RETRY_MAX 0, .rw, 0x7⟩]⟩,
   ⟨ETH_QP_W7 0, [(0x40, 256)], false, false, [⟨ETH_QP_W7_BASE_RTT_NS 0, .ro, 0x0⟩]⟩,
   ⟨ETH_MR_W0 0, [(0x10, 1024)], false, false, [⟨ETH_MR_W0_VALID 0, .rw, 0x0⟩, ⟨ETH_MR_W0_REMOTE_WRITE 0, .rw, 0x0⟩, ⟨ETH_MR_W0_REMOTE_READ 0, .rw, 0x0⟩, ⟨ETH_MR_W0_BASE 0, .rw, 0x0⟩]⟩,
   ⟨ETH_MR_W1 0, [(0x10, 1024)], false, false, [⟨ETH_MR_W1_RKEY 0, .rw, 0x0⟩, ⟨ETH_MR_W1_LEN_4K 0, .rw, 0x0⟩]⟩]

/-- The registers of the EthPort block. -/
def rowsEthPort : List RegRow :=
  [⟨ETH_PORT_CTL 0, [(0x10000, 2)], false, false, [⟨ETH_PORT_CTL_PRBS 0, .rw, 0x0⟩, ⟨ETH_PORT_CTL_LOOP 0, .rw, 0x0⟩, ⟨ETH_PORT_CTL_ENABLE 0, .rw, 0x0⟩]⟩,
   ⟨ETH_PORT_STATUS 0, [(0x10000, 2)], false, false, [⟨ETH_PORT_STATUS_PWR 0, .ro, 0x0⟩, ⟨ETH_PORT_STATUS_LANES_GOOD 0, .ro, 0x0⟩, ⟨ETH_PORT_STATUS_STATE 0, .ro, 0x0⟩]⟩,
   ⟨ETH_PORT_MAC 0, [(0x10000, 2)], false, false, [⟨ETH_PORT_MAC_MAC 0, .ro, 0x0⟩]⟩,
   ⟨ETH_PORT_CAP 0, [(0x10000, 2)], false, false, [⟨ETH_PORT_CAP_CAP_GBPS 0, .ro, 0x0⟩]⟩,
   ⟨ETH_PORT_ERR 0, [(0x10000, 2)], false, false, [⟨ETH_PORT_ERR_QP_ERROR 0, .w1c, 0x0⟩, ⟨ETH_PORT_ERR_LIMIT_VLAN 0, .w1c, 0x0⟩, ⟨ETH_PORT_ERR_LIMIT_MAC 0, .w1c, 0x0⟩, ⟨ETH_PORT_ERR_LINK_DOWN 0, .w1c, 0x0⟩]⟩,
   ⟨ETH_PORT_VLAN 0 0, [(0x10000, 2), (0x8, 16)], false, false, [⟨ETH_PORT_VLAN_VALID 0 0, .ro, 0x0⟩, ⟨ETH_PORT_VLAN_VID 0 0, .ro, 0x0⟩]⟩,
   ⟨ETH_PTP_TIME 0, [(0x10000, 2)], false, false, [⟨ETH_PTP_TIME_NS 0, .ro, 0x0⟩]⟩,
   ⟨ETH_PTP_ADJ 0, [(0x10000, 2)], false, false, [⟨ETH_PTP_ADJ_PPB 0, .rw, 0x0⟩]⟩,
   ⟨ETH_PTP_STEP 0, [(0x10000, 2)], false, false, [⟨ETH_PTP_STEP_NS 0, .wo, 0x0⟩]⟩,
   ⟨ETH_PTP_TXTS 0, [(0x10000, 2)], false, false, [⟨ETH_PTP_TXTS_NS 0, .ro, 0x0⟩]⟩,
   ⟨ETH_PTP_TXID 0, [(0x10000, 2)], false, false, [⟨ETH_PTP_TXID_VALID 0, .ro, 0x0⟩, ⟨ETH_PTP_TXID_SEQ_ID 0, .ro, 0x0⟩]⟩,
   ⟨ETH_RAW_RX 0, [(0x10000, 2)], false, false, [⟨ETH_RAW_RX_ENABLE 0, .rw, 0x0⟩, ⟨ETH_RAW_RX_SIZE_LOG2 0, .rw, 0x4⟩, ⟨ETH_RAW_RX_BASE 0, .rw, 0x0⟩]⟩,
   ⟨ETH_RAW_TX 0, [(0x10000, 2)], false, false, [⟨ETH_RAW_TX_ENABLE 0, .rw, 0x0⟩, ⟨ETH_RAW_TX_SIZE_LOG2 0, .rw, 0x4⟩, ⟨ETH_RAW_TX_BASE 0, .rw, 0x0⟩]⟩,
   ⟨ETH_PORT_FRAMES 0, [(0x10000, 2)], false, true, [⟨ETH_PORT_FRAMES_RX 0, .ro, 0x0⟩, ⟨ETH_PORT_FRAMES_TX 0, .ro, 0x0⟩]⟩,
   ⟨ETH_PORT_LIMIT 0, [(0x10000, 2)], false, true, [⟨ETH_PORT_LIMIT_MAC_DROP 0, .ro, 0x0⟩, ⟨ETH_PORT_LIMIT_VLAN_DROP 0, .ro, 0x0⟩, ⟨ETH_PORT_LIMIT_CAP_HELD_US 0, .ro, 0x0⟩]⟩,
   ⟨ETH_PORT_ROCE 0, [(0x10000, 2)], false, true, [⟨ETH_PORT_ROCE_CNP_RX 0, .ro, 0x0⟩, ⟨ETH_PORT_ROCE_RETRANS 0, .ro, 0x0⟩]⟩,
   ⟨ETH_PORT_ECN 0, [(0x10000, 2)], false, true, [⟨ETH_PORT_ECN_CE_RX 0, .ro, 0x0⟩, ⟨ETH_PORT_ECN_CNP_TX 0, .ro, 0x0⟩]⟩]

/-- The registers of the Mgmt block. -/
def rowsMgmt : List RegRow :=
  [⟨MGMT_CORE 0, [(0x8, 16)], false, false, [⟨MGMT_CORE_RESET 0, .wo, 0x0⟩, ⟨MGMT_CORE_STATE 0, .ro, 0x0⟩]⟩,
   ⟨MGMT_JOB_CORES, [], false, false, [⟨MGMT_JOB_CORES_MASK, .ro, 0x0⟩]⟩,
   ⟨MGMT_UACC 0, [(0x8, 16)], false, false, [⟨MGMT_UACC_BLOCKS 0, .rw, 0x0⟩]⟩,
   ⟨MGMT_MBOX_C2M 0, [(0x8, 8)], false, false, [⟨MGMT_MBOX_C2M_DATA 0, .rw, 0x0⟩]⟩,
   ⟨MGMT_MBOX_M2C 0, [(0x8, 8)], false, false, [⟨MGMT_MBOX_M2C_DATA 0, .rw, 0x0⟩]⟩,
   ⟨MGMT_MBOX_CTL, [], false, false, [⟨MGMT_MBOX_CTL_C2M_FULL, .rw, 0x0⟩, ⟨MGMT_MBOX_CTL_M2C_FULL, .rw, 0x0⟩, ⟨MGMT_MBOX_CTL_M2C_TARGET, .rw, 0x0⟩]⟩,
   ⟨MGMT_EV_MAP, [], false, false, [⟨MGMT_EV_MAP_MAP, .rw, 0x0⟩]⟩,
   ⟨MGMT_RING_W0 0, [(0x20, 16)], false, false, [⟨MGMT_RING_W0_ENABLE 0, .rw, 0x0⟩, ⟨MGMT_RING_W0_INT_EN 0, .rw, 0x0⟩, ⟨MGMT_RING_W0_TARGET 0, .rw, 0x0⟩, ⟨MGMT_RING_W0_SIZE_LOG2 0, .rw, 0x6⟩, ⟨MGMT_RING_W0_BASE 0, .rw, 0x0⟩]⟩,
   ⟨MGMT_RING_W1 0, [(0x20, 16)], false, false, [⟨MGMT_RING_W1_CONS 0, .rw, 0x0⟩, ⟨MGMT_RING_W1_PROD 0, .ro, 0x0⟩]⟩,
   ⟨MGMT_RING_W2 0, [(0x20, 16)], false, false, [⟨MGMT_RING_W2_OVERFLOW 0, .w1c, 0x0⟩, ⟨MGMT_RING_W2_DROPPED 0, .ro, 0x0⟩]⟩,
   ⟨MGMT_RING_W3 0, [(0x20, 16)], false, false, [⟨MGMT_RING_W3_THRESH 0, .rw, 0x1⟩]⟩,
   ⟨MGMT_I3C, [], false, false, [⟨MGMT_I3C_DYN_ADDR, .ro, 0x0⟩, ⟨MGMT_I3C_PID, .ro, 0x0⟩]⟩,
   ⟨MGMT_MCTP, [], false, false, [⟨MGMT_MCTP_EID, .ro, 0x0⟩]⟩,
   ⟨MGMT_ERR, [], false, false, [⟨MGMT_ERR_RING_FAULT, .w1c, 0x0⟩, ⟨MGMT_ERR_RING_DISABLED, .w1c, 0x0⟩, ⟨MGMT_ERR_MBOX_OVERRUN, .w1c, 0x0⟩, ⟨MGMT_ERR_UACC_DENIED, .w1c, 0x0⟩, ⟨MGMT_ERR_RING_OVERFLOW, .w1c, 0x0⟩]⟩]

/-- The registers of the Tel block. -/
def rowsTel : List RegRow :=
  [⟨TEL_CTL, [], true, false, [⟨TEL_CTL_FULL_POLICY, .rw, 0x1⟩, ⟨TEL_CTL_ENABLE, .rw, 0x1⟩]⟩,
   ⟨TEL_STATUS, [], false, false, [⟨TEL_STATUS_NO_RING, .ro, 0x1⟩]⟩,
   ⟨TEL_RING, [], false, false, [⟨TEL_RING_BASE, .ro, 0x0⟩]⟩,
   ⟨TEL_RING_SIZE, [], false, false, [⟨TEL_RING_SIZE_RECORDS, .ro, 0x0⟩]⟩,
   ⟨TEL_RING_PTR, [], false, false, [⟨TEL_RING_PTR_CONS, .rw, 0x0⟩, ⟨TEL_RING_PTR_PROD, .ro, 0x0⟩]⟩,
   ⟨TEL_LOST, [], false, false, [⟨TEL_LOST_OVERWRITTEN, .ro, 0x0⟩, ⟨TEL_LOST_DISCARDED, .ro, 0x0⟩]⟩,
   ⟨TEL_PHASE_MAP, [], true, false, [⟨TEL_PHASE_MAP_MAP, .rw, 0xF444655543333210⟩]⟩,
   ⟨TEL_SAMPLE_CFG, [], true, false, [⟨TEL_SAMPLE_CFG_ROTATE, .rw, 0x0⟩, ⟨TEL_SAMPLE_CFG_COUNT, .rw, 0x0⟩]⟩,
   ⟨TEL_OBS_CTL, [], true, false, [⟨TEL_OBS_CTL_ENABLE, .rw, 0x0⟩]⟩,
   ⟨TEL_LATCH, [], false, false, [⟨TEL_LATCH_BEAT, .ro, 0x0⟩]⟩,
   ⟨TEL_STEP_LATCH, [], false, false, [⟨TEL_STEP_LATCH_STEP, .ro, 0x0⟩]⟩,
   ⟨TEL_STEP_BEATS, [], false, false, [⟨TEL_STEP_BEATS_BEATS, .ro, 0x0⟩]⟩,
   ⟨TEL_SAMPLE 0, [(0x8, 32)], true, false, [⟨TEL_SAMPLE_VALID 0, .rw, 0x0⟩, ⟨TEL_SAMPLE_PHYS 0, .rw, 0x0⟩]⟩,
   ⟨TEL_STALL 0, [(0x8, 11)], false, true, [⟨TEL_STALL_TILE_CYCLES 0, .ro, 0x0⟩]⟩,
   ⟨TEL_PHASE 0, [(0x8, 12)], false, true, [⟨TEL_PHASE_TILE_CYCLES 0, .ro, 0x0⟩]⟩]

/-- The registers of the Glb block. -/
def rowsGlb : List RegRow :=
  [⟨GLB_ID, [], false, false, [⟨GLB_ID_PART, .ro, 0x9624⟩, ⟨GLB_ID_ARCH_LEVEL, .ro, 0x1⟩, ⟨GLB_ID_STEPPING, .ro, 0x0⟩, ⟨GLB_ID_VARIANT, .ro, 0x0⟩]⟩,
   ⟨GLB_OFFER_0, [], false, false, [⟨GLB_OFFER_0_TILES_TOTAL, .ro, 0x0⟩, ⟨GLB_OFFER_0_TILES_PER_DIE, .ro, 0x0⟩, ⟨GLB_OFFER_0_COMPUTE_DIES, .ro, 0x0⟩, ⟨GLB_OFFER_0_HBM_STACKS, .ro, 0x0⟩, ⟨GLB_OFFER_0_CTRL_CORES, .ro, 0x0⟩, ⟨GLB_OFFER_0_FORMAT_MASK, .ro, 0x1F⟩, ⟨GLB_OFFER_0_GANG_2X2, .ro, 0x1⟩]⟩,
   ⟨GLB_OFFER_1, [], false, false, [⟨GLB_OFFER_1_HBM_USABLE, .ro, 0x0⟩, ⟨GLB_OFFER_1_AGX_GROUP_PORTS, .ro, 0x0⟩, ⟨GLB_OFFER_1_AGX_GLOBAL_PORTS, .ro, 0x0⟩, ⟨GLB_OFFER_1_ETH_PORTS, .ro, 0x0⟩]⟩,
   ⟨GLB_ACC_ERR, [], false, false, [⟨GLB_ACC_ERR_COUNT, .ro, 0x0⟩, ⟨GLB_ACC_ERR_RWI_REJECT, .w1c, 0x0⟩, ⟨GLB_ACC_ERR_WIDTH, .w1c, 0x0⟩, ⟨GLB_ACC_ERR_UNDEFINED, .w1c, 0x0⟩, ⟨GLB_ACC_ERR_RESERVED_OFFSET, .w1c, 0x0⟩]⟩,
   ⟨GLB_ACC_LOG, [], false, false, [⟨GLB_ACC_LOG_SOURCE, .ro, 0x0⟩, ⟨GLB_ACC_LOG_INGRESS, .ro, 0x0⟩, ⟨GLB_ACC_LOG_WRITE, .ro, 0x0⟩, ⟨GLB_ACC_LOG_OFFSET, .ro, 0x0⟩]⟩]

/-- The rows of the block that holds a control offset (Table 19.1); none where the offset is undefined (R387). -/
def blockRows (o : Nat) : Option (List RegRow) :=
  if o < 0x01000000 then some rowsGlb
  else if o < 0x02000000 then some rowsBeat
  else if o < 0x03000000 then some rowsImg
  else if o < 0x03800000 then some rowsKvp
  else if o < 0x04000000 then some rowsPfx
  else if o < 0x05000000 then some rowsSeq
  else if o < 0x06000000 then some rowsExp
  else if o < 0x07000000 then some rowsUpd
  else if o < 0x07010000 then some rowsAgx
  else if o < 0x08000000 then some rowsAgxPort
  else if o < 0x08010000 then some rowsEth
  else if o < 0x09000000 then some rowsEthPort
  else if o < 0x0A800000 then some rowsHbm
  else if o < 0x0B000000 then some rowsEcc
  else if o < 0x0C000000 then some rowsPwr
  else if o < 0x0D000000 then some rowsSec
  else if o < 0x0E000000 then some rowsTel
  else if o < 0x0F000000 then some rowsMgmt
  else if o < 0x10000000 then none
  else if o < 0x28000000 then some rowsTile
  else none

/-- The distance from a register's first instance, taken apart by its strides: the indices, or none. -/
def matchDims : List (Nat × Nat) → Nat → Option (List Nat)
  | [], r => if r = 0 then some [] else none
  | (s, c) :: ds, r => if r / s < c then (matchDims ds (r % s)).map (r / s :: ·) else none

/-- A row lists the control offset `o`, with these indices. -/
def rowMatch (row : RegRow) (o : Nat) : Option (List Nat) :=
  if o < row.off then none else matchDims row.dims (o - row.off)

/-- The register listed at a control offset, and its indices. -/
def findRow (o : Nat) : Option (RegRow × List Nat) :=
  (blockRows o).bind fun rows => rows.findSome? fun row => (rowMatch row o).map fun ix => (row, ix)

/-- What a register row holds after cold reset (R8). -/
def rowReset (row : RegRow) : W64 :=
  BitVec.ofNat 64 (row.fields.foldl (fun a f => a + (f.rst <<< f.f.lo)) 0)

/-- What the register word at a control offset holds after cold reset (R8). -/
def resetWord (o : Nat) : W64 :=
  match findRow o with
  | some (row, _) => rowReset row
  | none => 0

/-- The instance that an event record's UNIT names (R368): the first index, or 0xFFFF. -/
def unitOf (o : Nat) : Nat :=
  match findRow o with
  | some (_, i :: _) => i
  | _ => 0xFFFF

/-- Bit mask of a field within its word. -/
def Fld.mask (f : Fld) : Nat := (2 ^ (f.hi + 1 - f.lo) - 1) <<< f.lo

/-- The mask of the fields of a row that have one of the given access types. -/
def rowMask (row : RegRow) (p : Acc → Bool) : Nat :=
  row.fields.foldl (fun a f => if p f.acc then a ||| f.f.mask else a) 0

/-- A field read from its word. -/
def wordGet (w : W64) (f : Fld) : Nat := bits w.toNat f.hi f.lo

/-- A field written into its word; a value wider than the field keeps its low bits. -/
def wordSet (w : W64) (f : Fld) (v : Nat) : W64 :=
  (w &&& ~~~ (BitVec.ofNat 64 f.mask)) ||| ((BitVec.ofNat 64 v <<< f.lo) &&& BitVec.ofNat 64 f.mask)

end Sys2Proof.Machine
end

