-- ==== Sys2Proof/Machine/State.lean ====
section
/-!
DEFINITION. The state of an FDX-9624: every register of its control-space map, every memory, and the state that its
units hold beside their registers, as plain data. `pending` is the queue of commands that wait, first in, first out.
-/

namespace Sys2Proof.Machine

/-! ### What leaves the device -/

/-- What left the device, or reached a core of it, during the last command: the model's own record of a command's
effect outside the state. -/
inductive Out where
  /-- A flit on an Agxis port: the physical lanes that carry its chunks, logical lane 0 first, and the codeword counter of the
  codeword in which it begins (R134). -/
  | flit (port : Nat) (f : Flit) (lanes : List Nat) (codeword : Nat)
  /-- External interrupt `n` of control core `core`. -/
  | coreInt (core n : Nat)
  /-- The mailbox interrupt of a control core. -/
  | mboxInt (core : Nat)
  /-- The mailbox interrupt of the management core. -/
  | mgmtInt
  /-- A load or store access fault of a core (16 is the management core). -/
  | coreFault (core : Nat) (store : Bool)
  /-- The bytes that a core's or wellhead unit's load receives. -/
  | loadData (ingress : Nat) (d : List Byte)
  /-- A UDP datagram on an Ethernet port: next-hop MAC, VLAN, IPv6 address (an IPv4 address as a small number), UDP port and
  payload without its ICRC. Its other header fields are not recorded. -/
  | udp (port mac vlan ip udpPort : Nat) (d : List Byte)
  /-- A response on the I3C bus. -/
  | i3c (d : List Byte)
  /-- Bits shifted out of the test port. -/
  | tdo (n : Nat)
  /-- A refresh command to a pseudo-channel, per bank or to all banks. -/
  | refresh (pc : Nat) (allBank : Bool)
deriving DecidableEq, Repr

/-! ### Memories -/

/-- A scrub pass under way (R302, R303): its range, its counts for Table 14.5, corrections by pseudo-channel. -/
structure ScrubUnit where
  base : Nat
  len : Nat
  startBeat : Nat
  corrected : Nat
  newPoison : Nat
  oldPoison : Nat
  cleared : Nat
  firstBad : Option Nat
  perPc : List (Nat × Nat)
  passes : Nat
deriving DecidableEq, Repr

/-- HBM and its in-line code (spec/14_hbm_protection.md), by storage offset: bytes, poison per 128-byte codeword, and
the number of wrong symbols of a codeword. -/
structure HbmUnit where
  cells : List Host.Cell
  poison : List (Nat × Bool)
  bad : List (Nat × Nat)
  /-- Soft and hard repairs done: pseudo-channel, bank, row, hard (R304). -/
  repairs : List (Nat × Nat × Nat × Bool)
  scrub : ScrubUnit
deriving DecidableEq, Repr

/-- The cisterns, by physical index × 8 MiB + byte offset: bytes, poison per 128-byte line, the parity fault of a line
(1 a row-parity error, 2 an unrecoverable group), corrections of a line since the last boundary. -/
structure CistUnit where
  cells : List Host.Cell
  poison : List (Nat × Bool)
  bad : List (Nat × Nat)
  corr : List (Nat × Nat)
  /-- Lines that a spare serves, once for each spare taken (R299). -/
  remap : List Nat
deriving DecidableEq, Repr

/-! ### Tiles, pumps and streams (spec/04_tile_array.md, spec/06_pumps_cisterns.md) -/

/-- What an operation uses a stream for (Table 4.3; `groups` is STR_GROUPS of Table 4.5; `index`, `scale` and
`experts` are read by the pump itself, R111, R112; `part n` is a further stream that a class part names, `extra n` the
requests of an operation's own). -/
inductive Role where
  | mov | sta | aux | out | groups
  | index (of : Nat) | scale (of : Nat) | experts (of : Nat) | part (n : Nat) | extra (n : Nat)
deriving DecidableEq, Repr

/-- A piece of a stream that its operation orders (R190): local memory, bytes of the descriptor's own rows, or nothing. -/
inductive PlanPart where
  | mem (off len : Nat)
  | src (off len : Nat)
  | null (len : Nat)
deriving DecidableEq, Repr

/-- A piece of a bucket: its place in the bucket, global address and length (R114). A piece without an access
(`addr` none) is filled when its bucket is formed, and poisoned when `bad`. `ctx` is the stream context. -/
structure Piece where
  ctx : Nat
  bucket : Nat
  at_ : Nat
  addr : Option Nat
  len : Nat
  bad : Bool
deriving DecidableEq, Repr

/-- One 2 KiB bucket of a stream, from its first requested piece on (R114, R120). -/
structure Bucket where
  idx : Nat
  /-- All its pieces, those not yet requested, and how many are requested and not arrived. -/
  all : List Piece
  ready : List Piece
  sent : Nat
  /-- A local write overlapped its source while pieces were in flight; it is being requested again (R121). -/
  stale : Bool
  refetch : Bool
  /-- Not yet read by its last step. -/
  live : Bool
  /-- Pseudo-channels of its outstanding pieces (R116). -/
  pcs : List Nat
  bytes : List Byte
  /-- Poisoned 128-byte lines, as bits (R294). -/
  poison : Nat
  /-- Its exact local source bytes: offset and length (R120). -/
  src : List (Nat × Nat)
  /-- It was found stale in flight, and keeps its slot until it is requested again (R121). -/
  kept : Bool
deriving DecidableEq, Repr

/-- A stream in one of the pump's contexts (R117). -/
structure Stream where
  /-- Context number 0–23, and stream index. -/
  ctx : Nat
  strm : Nat
  role : Role
  /-- The 32-byte descriptor. -/
  desc : Nat
  /-- The operation it belongs to; for a primed stream the beat-table entry that is to start. -/
  op : Nat
  primed : Bool
  /-- It waits for a range watch (R122). -/
  waitWatch : Bool
  watch : Option Nat
  buckets : List Bucket
  /-- Translated pages of a PAGE_WALK stream: page, frame, and sealed (R206). -/
  trans : List (Nat × Nat × Bool)
  /-- Pages withdrawn by the attention engine (SKIP_CTL). -/
  withdrawn : List Nat
  /-- What the operation has ordered of a stream whose order is the operation's; each part begins a bucket. -/
  plan : Option (List PlanPart)
  /-- An address error ended it (R22). -/
  fault : Bool
  /-- Weights of a grouped product: it waits for the group counts (groups, bytes per group); byte ranges of groups
  without rows, which are not fetched (R75). -/
  hold : Option (Nat × Nat)
  skip : List (Nat × Nat)
  /-- Pages whose translation has begun and waits: its look-aside lookup has been made (R206). -/
  looks : List Nat
deriving DecidableEq, Repr

/-- A request that the pump has sent (R115). `remote` where it went out on Agxis. -/
structure PumpReq where
  id : Nat
  pieces : List Piece
  remote : Bool
  /-- Completes with an address error (PUMP_INJECT.ADDR_ERR_NEXT). -/
  err : Bool
  /-- A codeword of its is being read once more (R293). -/
  retry : Bool
deriving DecidableEq, Repr

/-- A near-cache line (R126): its address ÷ 128, the bytes, the poison bit, and the stream (IMM = 0) that filled it. -/
structure NcLine where
  line : Nat
  bytes : List Byte
  poison : Bool
  strm : Option Nat
deriving DecidableEq, Repr

/-- An operation on one tile, from start to completion (R72, R74). -/
structure Exec where
  op : Nat
  desc : Nat
  rank : Nat
  /-- Steps, once they are known. -/
  steps : Nat
  planned : Bool
  /-- Steps issued, and those of them that have ended: results formed, output accepted, buckets freed. -/
  step : Nat
  worked : Nat
  /-- The results have been formed and accepted by the output stream. -/
  done : Bool
  /-- Acknowledgements outstanding for OUT_OP = WRITE (R119). -/
  acks : Nat
  /-- Steps whose outputs an injection or a parity error poisons (R86, R88). -/
  poisoned : List Nat
  /-- Halted by a descriptor fault (R85). -/
  halted : Bool
  /-- Row-block mask, read when the operation, or a deferred product's first slice, started (R253). -/
  mask : Option Nat
deriving DecidableEq, Repr

/-- A lane reduction in work (R267, R366): its destination register, or 64 to 67 for the sums of a NORM record; the 512 lanes,
and poison. -/
structure RedAcc where
  word : Nat
  lanes : List Nat
  p : Bool
deriving DecidableEq, Repr

/-- The vector unit while a program runs (R78, R266). -/
structure VecCtx where
  running : Bool
  /-- Vector registers, 512 lanes each, as FP32 codes; their poisoned lanes, as bits; the scalar registers and their
  poison. -/
  v : List (List Nat)
  vp : List Nat
  s : List Nat
  sp : List Bool
  /-- Next instruction word, first word of the phase, body position, passes of LOOP left. -/
  pc : Nat
  phase : Nat
  pos : Nat
  loops : Nat
  /-- Tensor record in work, and steps that the program has used. -/
  record : Nat
  used : Nat
  red : List RedAcc
  /-- First LDP and LDG of the position, as lanes (R366). -/
  firstP : Option (List Nat)
  firstG : Option (List Nat)
deriving DecidableEq, Repr

/-- A key block to be computed: its query block within the sequence, the source pages read, and for ATTN_BWD all pages of
the key block and whether the query block is the first or the last that sees it (R190, R197). -/
structure AttnStep where
  qb : Nat
  pages : List Nat
  block : List Nat
  first : Bool
  last : Bool
deriving DecidableEq, Repr

/-- The attention engine while an operation runs (R179, R190, R191, R197). -/
structure AttnCtx where
  /-- Sequence, query block within it and within the operation; packed rows and source pages of earlier sequences. -/
  seq : Nat
  qb : Nat
  index : Nat
  rowBase : Nat
  pageBase : Nat
  /-- ATTN_STATUS.PHASE; steps run; steps to come of the phase; the last block has ended. -/
  phase : Nat
  ran : Nat
  todo : List AttnStep
  fin : Bool
  /-- Parts ordered of STA that have been read, and parts ordered of STR_SUM. -/
  staAt : Nat
  sumAt : Nat
  /-- Candidate pages with the place of their summary, and pages skipped. -/
  cands : List (Nat × Nat)
  skipped : List Nat
  /-- Running maximum, sum and accumulator of the 128 rows, FP32; poisoned rows and poisoned elements, as bits. -/
  m : List Nat
  l : List Nat
  a : List (List Nat)
  rowP : Nat
  dimP : Nat
  /-- Preview maxima and P. -/
  prev : List Nat
  pred : Nat
  /-- Bytes of skip records written. -/
  recAt : Nat
  /-- ATTN_BWD: sequences whose skip records have been checked (R198). -/
  checked : Nat
  /-- What the first translation of a page in this operation said: context and page, and whether it was sealed (R192). -/
  marks : List (Nat × Bool)
  /-- ATTN_BWD: key and value gradients of the key block, by key, and their poisoned keys. -/
  dk : List (List Nat)
  dv : List (List Nat)
  keyP : Nat
deriving DecidableEq, Repr

def AttnCtx.idle : AttnCtx := ⟨0, 0, 0, 0, 0, 0, 0, [], false, 0, 0, [], [], [], [], [], 0, 0, [], 0, 0, 0, [], [], [], 0⟩

/-- One tile site's state beside its registers. -/
structure TileUnit where
  exec : Option Exec
  streams : List Stream
  reqs : List PumpReq
  nextReq : Nat
  /-- R42 order of the stream contexts: those granted, least recently first. -/
  order : List Nat
  /-- Near cache: the lines held, most recently used first. -/
  nc : List NcLine
  vec : VecCtx
  attn : AttnCtx
  /-- Cycles for which the power controller still holds issue (R324). -/
  hold : Nat
  /-- Cistern bytes that a step issued and not ended reads or has reserved: the step, first byte, end (R87). -/
  busy : List (Nat × Nat × Nat)
  /-- Beat and 4,096-cycle window of the last stall sample (R127). -/
  sampled : Option (Nat × Nat)
deriving DecidableEq, Repr

/-- A tile site with nothing in work. -/
def VecCtx.idle : VecCtx :=
  ⟨false, [], [], [], [], 0, 0, 0, 0, 0, 0, [], none, none⟩

def TileUnit.idle : TileUnit := ⟨none, [], [], 0, [], [], VecCtx.idle, AttnCtx.idle, 0, [], none⟩

/-- An operation that has started and not completed (R33, R74). -/
structure Op where
  id : Nat
  /-- Its beat-table entry; none for a deferred slice. -/
  entry : Option Nat
  opIndex : Nat
  desc : Nat
  /-- Physical tiles of its group, by rank. -/
  tiles : List Nat
  filler : Bool
  /-- Planned start beat, and the beat in which it started. -/
  due : Nat
  started : Nat
  deadline : Option Nat
  sig0 : Nat
  sig1 : Nat
  report : Bool
  dlEvent : Bool
  slotPlan : Nat
  /-- TEL_PHASE_MAP in force when it started (R363). -/
  phaseMap : Nat
  /-- Loss-scale exponent read at its start (R108). -/
  scale : Nat
  /-- Observation mode at its start (R366). -/
  obs : Bool
  /-- Deferred-queue slot that it serves, whether URGENT, and the block boundaries that its tiles may pass (R252). -/
  wgq : Option Nat
  urgent : Bool
  gate : Nat
  /-- Context numbers bound when it started, with their handles (R224). -/
  binds : List (Nat × Nat)
deriving DecidableEq, Repr

/-! ### The beat unit (spec/02_beat.md) -/

structure BeatUnit where
  /-- Timebase tick of the mark or predicted instant that forms the next prediction (R28). -/
  prev : Option Nat
  /-- Consecutive marks in window. -/
  inWin : Nat
  /-- Consecutive marks missing or out of window in LOCKED. -/
  missed : Nat
  /-- Beat now running, as learned in ACQUIRE (R29). -/
  learned : Option Nat
  /-- Seals that arrived in ACQUIRE since the last mark: port and beat. -/
  heard : List (Nat × Nat)
  /-- Page that the armed swap staged (R35). -/
  staged : Option Nat
  /-- Entries that have started since their page became ACTIVE, and entries that failed the range check (R395). -/
  started : List Nat
  dropped : List Nat
  /-- The clock was below 1.2 GHz at some time in the beat; the lock machine was in HOLDOVER during it (Table 17.1). -/
  throttled : Bool
  holdover : Bool
  /-- VL0 slot that is open (R156). -/
  slot : Nat
  /-- HOLDOVER: the predicted instant that the last mark in window fell to. -/
  matched : Option Nat
  /-- The lock is lost at HOLDOVER_MAX; the seals of the beats that have ended may still leave (Table 2.1). -/
  lastSeals : Bool
deriving DecidableEq, Repr

/-! ### Images (spec/03_melum_images.md) -/

/-- A memory-plan region in force, in bytes (Table 3.8). -/
structure Region where
  base : Nat
  size : Nat
  initOff : Nat
  initLen : Nat
  mask : Nat
  tag : Nat
  init : Nat
  immutable : Bool
  pinned : Bool
deriving DecidableEq, Repr

/-- Where a logical tile is placed (R60). -/
structure Place where
  tile : Nat
  phys : Nat
  role : Nat
  gang : Nat
  pos : Nat
deriving DecidableEq, Repr

structure ImgUnit where
  /-- Regions of the image that is active. -/
  regions : List Region
  /-- Placement in force, and the placements of STAGED slots. -/
  places : List Place
  stagedPlaces : List (Nat × List Place)
  /-- The slot being loaded, and whether the load is a RESTAGE. -/
  loading : Option (Nat × Bool)
  /-- The last active slot, for AUTO_RELOAD (R65). -/
  lastActive : Option Nat
  /-- Base and size of PARAM_EVEN and PARAM_ODD of the image last active (R276). -/
  lastParams : Option (Nat × Nat × Nat × Nat)
  /-- Slot whose activation or swap is in reconfiguration. -/
  activating : Option Nat
  /-- Its regions are initialised; its HBM is to be formatted first (R62). -/
  regionsDone : Bool
  reformat : Bool
  /-- A boundary has come with a slot STAGED and no image active: activation may start (R62). -/
  actDue : Bool
  /-- The page copy under way: library page and hardware page. -/
  copying : Option (Nat × Nat)
  /-- An unload is under way; the sites that stay where they were keep their cisterns (KEEP_CISTERN). -/
  unload : Bool
  keep : List Nat
  /-- Cistern-window accesses wait at the home (R62, R63): what each access asks. -/
  windowsWait : Bool
  waiting : List Instr
deriving DecidableEq, Repr

/-! ### Agxis (spec/07_agxis_links.md, spec/08_agxis_collectives.md) -/

/-- A transaction packet, taken apart (Tables 7.4 and 7.5). -/
structure Pkt where
  src : Nat
  dest : Nat
  vl : Nat
  rsp : Bool
  mcast : Bool
  ind : Bool
  hops : Nat
  opc : Nat
  tag : Nat
  addr : Nat
  len : Nat
  atop : Nat
  fetch : Bool
  mcInfo : Nat
  beatTag : Nat
  sector : Nat
  status : Nat
  data : List Byte
  /-- POISON of each flit, first flit first. -/
  poison : List Bool
  /-- Ingress number of the unit of this device that issued it (R21, R43); it is not on the link. -/
  unit : Nat
deriving DecidableEq, Repr

/-- A packet queued at a port's egress. -/
structure QPkt where
  pkt : Pkt
  flits : List Flit
  /-- Beat in which it was queued (R37). -/
  beat : Nat
  /-- The beat-table operation and the bit of STR_SEL whose windows it may use (R158). -/
  plan : Option (Nat × Nat)
  /-- Ingress port it is relayed from (R159). -/
  relay : Option Nat
  /-- It heads the queue after a forced reroute (R150). -/
  ahead : Bool
  /-- The tree whose branch buffer holds it (R163). -/
  tree : Option Nat
  /-- Seals that had arrived on its ingress port before it (R151). -/
  mark : Nat
  /-- Receive credits that go back to its ingress port as its flits leave, one entry for each (R140). -/
  pools : List (Nat × Nat)
  /-- Its first flits that have been sent: it has started on the link (R141). -/
  sent : Nat
deriving DecidableEq, Repr

/-- A sequenced flit that is not acknowledged (R137): the beat in which it was queued, its ingress port and that port's seals
before it where it is relayed. -/
structure Sent where
  flit : Flit
  beat : Nat
  relay : Option Nat
  mark : Nat
deriving DecidableEq, Repr

/-- A packet of which not all flits have arrived. -/
structure RxPart where
  src : Nat
  vl : Nat
  rsp : Bool
  flits : List Flit
  mark : Nat
  pools : List (Nat × Nat)
deriving DecidableEq, Repr

/-- What has arrived and waits to be handled. -/
inductive Item where
  | req (p : Pkt)
  | rsp (p : Pkt)
  | mcast (p : Pkt)
  | seal (beat stage : Nat) (holdover : Bool)
  | mark (beat depth : Nat)
  | ctl (subtype : Nat) (payload : List Byte)
deriving DecidableEq, Repr

/-- An arrival: its ingress number (Table 2.4). -/
structure Arrival where
  ingress : Nat
  item : Item
  /-- Receive credits that go back when it leaves the receive buffer (R140). -/
  pools : List (Nat × Nat)
  /-- Seals that had arrived on its port before it (R151). -/
  mark : Nat
deriving DecidableEq, Repr

/-- A sparing switch under way (R138): the failed lane, the lane that takes over, this end's switch number, the peer's; which
directions have switched, sending and receiving. -/
structure Sparing where
  lane : Nat
  spare : Nat
  mySeq : Nat
  peerSeq : Option Nat
  tx : Bool
  rx : Bool
deriving DecidableEq, Repr

structure PortUnit where
  nextSeq : Nat
  expSeq : Nat
  replay : List Sent
  /-- Times the oldest flit was replayed without the acknowledgement advancing (R137). -/
  replays : Nat
  nakSent : Bool
  /-- Flits received since the last acknowledgement sent. -/
  sinceAck : Nat
  /-- Credits in use of each dedicated pool of Table 7.3. -/
  used : List (Nat × Nat)
  /-- Virtual lanes of the shared credits in use, oldest first (R140). -/
  shared : List Nat
  /-- Buffer space in use of each pool at this receiver, and credits owed to the peer. -/
  taken : List (Nat × Nat)
  owed : List (Nat × Nat)
  txq : List QPkt
  /-- SEAL and CONTROL flits that wait for room in the replay buffer (R137). -/
  ctlq : List Flit
  rx : List RxPart
  /-- R42 order of the virtual lanes at the egress. -/
  vlOrder : List Nat
  /-- By stage: the last beat that a processed seal named (R29) and the beats that processed seals have named, as first and last
  beat of runs; the same of the seals that have arrived; how many seals have arrived, and how many had when the one of a beat did. -/
  seals : List (Option Nat)
  named : List (List (Nat × Nat))
  came : List (List (Nat × Nat))
  sealCount : Nat
  sealAt : List (List (Nat × Nat))
  /-- Last beat whose seal of each stage has been sent (R151). -/
  sent : List (Option Nat)
  /-- It has received all four stages of an agreeing beat and joins the set at the next boundary (R167). -/
  joinReady : Bool
  inSet : Bool
  silentRun : Nat
  sparing : Option Sparing
  /-- A lane that failed during a switch (R138, Table 7.9). -/
  spareNext : Option Nat
  /-- Tick at which RTT_PROBE was sent. -/
  probeAt : Option Nat
  /-- FAR_END loop-back accepted for the peer (R154). -/
  farEnd : Bool
  /-- Flits that a loop-back inside the port is bringing back (Table 7.10). -/
  loop : List Flit
  /-- Chunk positions that have passed on each lane since the link came up (R134). -/
  chunks : Nat
deriving DecidableEq, Repr

/-- Who waits for a response. -/
inductive Waiter where
  | pump (tile req : Nat)
  | outWrite (tile : Nat)
  | fence (dest : Nat)
  | pull (tree seq : Nat)
  | fetch (res : Nat)
  | mgr
deriving DecidableEq, Repr

/-- A non-posted tag held (R145). -/
structure TagEnt where
  tag : Nat
  pkt : Pkt
  waiter : Waiter
  /-- Sectors or bytes not yet returned. -/
  left : Nat
deriving DecidableEq, Repr

/-- A request that waits for a tag: what its tag entry will hold, and the plan whose windows it may use. -/
structure TagWait where
  pkt : Pkt
  waiter : Waiter
  left : Nat
  plan : Option (Nat × Nat)
deriving DecidableEq, Repr

/-- A REDUCE_PUT packet accepted at a reduction tile (R160). -/
structure RedPut where
  ingress : Nat
  src : Nat
  addr : Nat
  data : List Byte
  poison : List Bool
  vl : Nat
  /-- The physical tile that adds it. -/
  tile : Nat
deriving DecidableEq, Repr

/-- The last MC_ACK of one branch of a multicast tree (R164, R165). -/
structure Branch where
  port : Nat
  epoch : Nat
  seq : Nat
  receivers : Nat
  heldBelow : Bool
deriving DecidableEq, Repr

/-- A packet of a multicast stream that waits at its source (R162): the stream, whether it opens and closes it. -/
structure McPkt where
  tile : Nat
  op : Nat
  /-- Bit of its stream in STR_SEL (Table 8.1). -/
  sel : Nat
  first : Bool
  last : Bool
  addr : Nat
  data : List Byte
  poison : List Bool
deriving DecidableEq, Repr

/-- Bytes of a multicast stream that do not fill a packet yet: the next packet, and bytes from its first byte on (256
added to a poisoned one). -/
structure McBuf where
  tile : Nat
  op : Nat
  next : Nat
  got : List (Nat × Nat)
deriving DecidableEq, Repr

structure TreeUnit where
  branches : List Branch
  /-- SEQ of the epoch's last packet and its bytes, once MC_END is known. -/
  last : Option (Nat × Nat)
  /-- Packets sent in the epoch at the source. -/
  sent : Nat
  /-- A first packet has been applied (ACKED_SEQ is then a packet's number). -/
  any : Bool
  /-- Buffer offset of packet 0 of the epoch. -/
  base : Nat
  /-- Aggregate last sent upstream. -/
  acked : Option Nat
  /-- The source's streams: the one that is sending, its waiting packets, unfinished packets (R162). -/
  cur : Option (Nat × Nat)
  pend : List McPkt
  bufs : List McBuf
  /-- A pull is under way, and one of its READs has failed (R165). -/
  pulling : Bool
  pullBad : Bool
  /-- Branches that the next boundary prunes (R164). -/
  lag : List Nat
deriving DecidableEq, Repr

structure AgxUnit where
  inbox : List Arrival
  /-- Beat-tagged requests held under R40, in arrival order. -/
  held : List Arrival
  tags : List TagEnt
  quarantine : List Nat
  /-- Requests that wait for a tag, oldest first. -/
  waiters : List TagWait
  /-- Destinations held behind a route-change fence, with the beat it began and the packets held (R150). -/
  fences : List (Nat × Nat × List QPkt)
  /-- The packets queued at reduction tiles, in arrival order. -/
  red : List RedPut
  fenced : Bool
  /-- Cycles for which requests held under R40 have waited: the SEAL_WAIT that the home counts. -/
  sealWait : Nat
deriving DecidableEq, Repr

def PortUnit.reset : PortUnit :=
  { nextSeq := 0, expSeq := 0, replay := [], replays := 0, nakSent := false, sinceAck := 0, used := [], shared := [], taken := []
    owed := [], txq := [], ctlq := [], rx := [], vlOrder := [0, 1, 2, 3], seals := [none, none, none, none], named := [[], [], [], []], came := [[], [], [], []]
    sealCount := 0, sealAt := [[], [], [], []], sent := [none, none, none, none], joinReady := false, inSet := false, silentRun := 0, sparing := none
    spareNext := none, probeAt := none, farEnd := false, loop := [], chunks := 0 }

def TreeUnit.reset : TreeUnit := ⟨[], none, 0, false, 0, none, none, [], [], false, false, []⟩

def AgxUnit.reset : AgxUnit := ⟨[], [], [], [], [], [], [], false, 0⟩

/-! ### KV pages, prefixes and sequence contexts (spec/10_kv_pages.md) -/

/-- A command waiting at the page manager: its source (0–15 a window, 16–23 a queue), its record (Table 10.3), for a
queue the HBM offset of the record, and its number in arrival order (R209). -/
structure KvCmd where
  src : Nat
  word : Nat
  at_ : Nat
  no : Nat
deriving DecidableEq, Repr

/-- A page copy under way (R213, R222): from, to, positions kept. -/
structure KvCopy where
  src : Nat
  dst : Nat
  keep : Nat
deriving DecidableEq, Repr

/-- An APPEND under way (R212): the command, its context's FMT and HEAD_DIM, and its pages as (head − HEAD, page, frame). -/
structure KvApp where
  cmd : KvCmd
  fmt : Nat
  dim : Nat
  pages : List (Nat × Nat × Nat)
deriving DecidableEq, Repr

/-- Work of the append engine (R209): an APPEND's positions, a page copy, the summary of a SEALING frame. -/
inductive KvWork where
  | append (a : KvApp)
  | copy (c : KvCopy)
  | sealing (f : Nat)
deriving DecidableEq, Repr

/-- A context record (Table 10.9) but its handle. -/
structure SeqRec where
  state : Nat
  cls : Nat
  fmt : Nat
  dim : Nat
  layers : Nat
  heads : Nat
  l1 : Nat
  hwm : Nat
  park : Nat
deriving DecidableEq, Repr

/-- A sequence command waiting: its window, ARG0, ARG1 and OP, and its number in arrival order (R209, R221). -/
structure SeqCmd where
  win : Nat
  a0 : Nat
  a1 : Nat
  op : Nat
  no : Nat
deriving DecidableEq, Repr

/-- A prefix-index way (R214): hash, group frame, and when it was last used. -/
structure PfxEnt where
  hash : Nat
  frame : Nat
  used : Nat
deriving DecidableEq, Repr

/-- The name of a page: handle, layer, head, page; for a level-1 cache, page 0. -/
structure PageKey where
  h : Nat
  layer : Nat
  head : Nat
  page : Nat
deriving DecidableEq, Repr

/-- A cached translation: a frame, or a level-1 entry. -/
structure PageHit where
  key : PageKey
  val : Nat
deriving DecidableEq, Repr

structure KvUnit where
  /-- Frame entries in the write-back cache, latest first (R204). -/
  cache : List (Nat × Nat)
  /-- The free lists of the 64 banks, head first, and the bank of the last ALLOC (R209). -/
  free : List (Nat × List Nat)
  lastBank : Nat
  /-- The free lists are being rebuilt (R204). -/
  rebuild : Bool
  /-- Commands that have not taken effect, in arrival order, and the number of the next arrival. -/
  arrivals : List KvCmd
  next : Nat
  /-- What the append engine has to do, in arrival order. -/
  work : List KvWork
  /-- Look-aside buffers by physical tile, most recently used first. -/
  lab : List (Nat × List PageHit)
  /-- Level-1 caches by compute die, most recently used first. -/
  l1 : List (Nat × List PageHit)
  /-- Prefix index by set × 8 + way, and its use clock. -/
  pfx : List (Nat × Option PfxEnt)
  pfxClock : Nat
  seqArrivals : List SeqCmd
  /-- Contexts that are not FREE, by handle. A SPILLED one keeps only STATE, CLASS and PARK_BEAT here. -/
  ctxs : List (Nat × Option SeqRec)
  /-- SPILLED contexts that wait to be restored, in order, and the ACTIVATE commands that wait for them. -/
  restores : List Nat
  activates : List SeqCmd
deriving DecidableEq, Repr

def KvUnit.reset : KvUnit := ⟨[], [], 63, false, [], 0, [], [], [], [], 0, [], [], [], []⟩

/-! ### Experts (spec/11_experts.md) -/

/-- Narrow bytes of an expert that have arrived for a residency entry: by copy offset (elements, then scales), requests
not yet answered, and whether one failed (R241). -/
structure FetchBuf where
  res : Nat
  /-- The directory entry as the claim read it. -/
  entry : Nat
  cells : List Host.Cell
  poison : List (Nat × Bool)
  left : Nat
  bad : Bool
deriving DecidableEq, Repr

/-- A directory entry as an operation first read it (R231). -/
structure DirSeen where
  op : Nat
  index : Nat
  entry : Nat
deriving DecidableEq, Repr

/-- A row that a SEND has placed (R234): from the defer list, or from the token rows; where it goes: a travel row, or a row
of RX at a home rank. -/
structure SendRow where
  defer : Bool
  src : Nat
  travel : Bool
  home : Nat
  row : Nat
deriving DecidableEq, Repr

/-- The placement of a SEND operation: its rows, and for each home rank the counts of its slots. -/
structure SendPlan where
  op : Nat
  rows : List SendRow
  counts : List (Nat × List Nat)
deriving DecidableEq, Repr

/-- A pair that was placed from the defer list: its layer, TOKEN, weight and RET row (R244). -/
structure DeferPair where
  layer : Nat
  token : Nat
  w : Nat
  row : Nat
deriving DecidableEq, Repr

structure ExpUnit where
  /-- Placements of SEND operations; pairs in each DEF area, by its offset; deferred pairs placed. -/
  sends : List SendPlan
  defs : List (Nat × Nat)
  placed : List DeferPair
  fetch : List FetchBuf
  /-- Residency entries, most recently used first; those that a version change retired; those that operations have
  read, as operation and entry. -/
  lru : List Nat
  retired : List Nat
  seen : List DirSeen
  reads : List (Nat × Nat)
deriving DecidableEq, Repr

def ExpUnit.reset : ExpUnit := ⟨[], [], [], [], [], [], [], []⟩

/-! ### Telemetry (spec/17_telemetry.md) -/

/-- What the telemetry unit counts beside the latched counters: of the beat, then over the training step (R364). -/
structure TelUnit where
  /-- Watch events and poisoned watched values (R105), and records lost, in the beat. -/
  ovf : Nat
  pois : Nat
  lost : Nat
  /-- First beat of the step, beats, slips, deadline misses, energy in µJ, watch events, poisoned values, stalled cycles. -/
  first : Nat
  beats : Nat
  slips : Nat
  misses : Nat
  energy : Nat
  stepOvf : Nat
  stepPois : Nat
  stalls : Nat
  /-- A training step has ended whose STEP record is due: step, outcome, exponent. -/
  ended : Option (Nat × Nat × Nat)
  /-- Where the sampler stopped (R365). -/
  pos : Nat
deriving DecidableEq, Repr

def TelUnit.reset : TelUnit := ⟨0, 0, 0, 0, 0, 0, 0, 0, 0, 0, 0, none, 0⟩

/-! ### Update and commit (spec/13_update_commit.md) -/

/-- A commit message (Table 13.6): TYPE, FLAGS, SRC of the message, STEP, BEAT, SCALE, and the device it came from. -/
structure CommitMsg where
  kind : Nat
  flags : Nat
  src : Nat
  step : Nat
  beat : Nat
  scale : Nat
  sender : Nat
deriving DecidableEq, Repr

structure UpdUnit where
  /-- Messages that have come into the mailbox and wait, in arrival order. -/
  box : List CommitMsg
  /-- A VOTE request is pending (R278); the beat from which DECIDE_TIMEOUT counts. -/
  voteReq : Bool
  since : Nat
  /-- The decision recorded is SKIP_OVERFLOW; it came after M began. -/
  skip : Bool
  late : Bool
  /-- UPD_BANK_CTL written for the next boundary. -/
  bankCtl : Option Nat
  /-- Coordinator: flags of the votes, the set at the decision, votes held for the next round (R279). -/
  ovf : Bool
  poison : Bool
  members : List Nat
  held : List CommitMsg
  /-- Watch flags raised after the vote, for the next training step (R106). -/
  nextOvf : Bool
  nextPoison : Bool
  /-- Steps of the last MIDNIGHT and ABORT taken since the vote (R282). -/
  midStep : Option Nat
  abortStep : Option Nat
deriving DecidableEq, Repr

def UpdUnit.reset : UpdUnit := ⟨[], false, 0, false, false, none, false, false, [], [], false, false, none, none⟩

/-! ### Power, resets and the repair record (spec/15_dawn_power.md, spec/18_package.md) -/

/-- A repair-record entry (Table 15.7). -/
structure RprEntry where
  kind : Nat
  source : Nat
  flags : Nat
  unit : Nat
  detail : Nat
  beat : Nat
deriving DecidableEq, Repr

/-- Units of the power machine of R321: tile site t is t, Agxis port p is 384 + p, Ethernet port e is 420 + e. -/
structure PwrUnit where
  /-- Units that are ON and not yet usable. -/
  rising : List Nat
  /-- Tile sites that wait for a later wave (R62). -/
  wave : List Nat
  /-- Units whose minimum off time runs, and those of them with an enable held. -/
  offHold : List Nat
  held : List Nat
  /-- Tile sites whose clock is gated (R322). -/
  gated : List Nat
  /-- Repair-record entries collected for the next write (R315). -/
  batch : List RprEntry
  /-- The last samples of input power, newest first, in mW, at most 8 (R324). -/
  samples : List Nat
  /-- Highest 8-µs power in the beat, in mW, and hottest sensor read in the beat, °C. -/
  peak : Nat
  hot : Nat
  /-- Last temperature of each die, °C. -/
  tj : List (Nat × Nat)
  /-- Dusk is armed; a wake written during Dusk is latched (R319, R320). -/
  duskArmed : Bool
  wakeHeld : Bool
  /-- Steps 3 to 5 of Dusk are done (R319). -/
  duskDone : Bool
  /-- The always-on domain's set of stacks trained before a warm reset (R317). -/
  trained : List Nat
  /-- Compute dies whose walker is disabled (R311). -/
  walkersBad : List Nat
deriving DecidableEq, Repr

/-- The balls of the control field that reset and power the device (R378–R382). -/
structure PinUnit where
  /-- VIN_AUX_3V3 is in range. -/
  aux : Bool
  /-- The regulators outside the always-on domain are on. -/
  on : Bool
  /-- Only a start with PWR_OK cycled leaves OFF (R325, R380). -/
  cycle : Bool
  /-- THERMTRIP_N is asserted. -/
  tripped : Bool
  /-- ALERT_N is asserted. -/
  alert : Bool
  /-- The UNDERVOLTAGE reason that PLDM Type 2 reports (R380). -/
  undervoltage : Bool
  /-- WARM_RST_N has been asserted and not yet released. -/
  warm : Bool
  /-- BOOT_SRC as sampled at step 1. -/
  bootSrc : Nat
  /-- BEAT_REF has stopped: no edge of BEAT_MARK is sampled until a start finds it present (R382, R386). -/
  refLost : Bool
deriving DecidableEq, Repr

/-! ### Trust and management (spec/16_control_security.md) -/

/-- An attestation report held (R343): its nonce while it is not signed, then its bytes. -/
structure Report where
  handle : Nat
  nonce : List Byte
  bytes : Option (List Byte)
deriving DecidableEq, Repr

/-- A PLDM Type 5 transfer (R352): component, bytes received, and whether VerifyComplete has passed. -/
structure PldmXfer where
  comp : Nat
  got : Nat
  ok : Option Bool
  /-- The header of a firmware or configuration component, held back until it is applied; the whole of a repair record. -/
  held : List Byte
deriving DecidableEq, Repr

structure SecUnit where
  /-- Owner keys in force (Table 16.3). -/
  keys : List (List Byte)
  minSvn : Nat
  /-- ATT_UDP_PORT, JOB_QPN, JOB_PEER and JOB_VLAN of the configuration in use. -/
  attPort : Nat
  jobQpn : Nat
  jobPeer : Nat
  jobVlan : Nat
  /-- The CFG copy that CFG_APPLY has accepted for the next boundary (R340). -/
  apply : Option Nat
  reports : List Report
  pldm : Option PldmXfer
  /-- The terminus ID that PLDM Type 0 assigns. -/
  tid : Nat
  /-- The firmware and configuration copies in use may not be programmed or erased (R335). -/
  protect : Bool
deriving DecidableEq, Repr

/-- The boundary-scan chain of the test port (R353): the preloaded cells, as a number, and what drives the pins: 0 nothing,
1 EXTEST, 2 EXTEST_PULSE, 3 EXTEST_TRAIN. -/
structure JtagUnit where
  cells : Nat
  drive : Nat
deriving DecidableEq, Repr

def PwrUnit.reset : PwrUnit := ⟨[], [], [], [], [], [], [], 0, 0, [], false, false, false, [], []⟩
def PinUnit.reset : PinUnit := ⟨true, true, false, false, false, false, false, 0, false⟩
def SecUnit.reset : SecUnit := ⟨[], 0, 0, 0, 0, 0, none, [], none, 0, false⟩

/-! ### Ethernet (spec/16_control_security.md) -/

/-- A work request taken by a queue pair (Table 16.8), and the PSNs it took once it has begun. -/
structure Wqe where
  opc : Nat
  flags : Nat
  imm : Nat
  laddr : Nat
  len : Nat
  rkey : Nat
  raddr : Nat
  sig : Nat
  cq : Nat
  user : Nat
  /-- Sent: first PSN and number of PSNs. -/
  psn : Option (Nat × Nat)
  /-- RDMA READ: bytes that have come back. -/
  got : Nat
  /-- Completion status, once it is known. -/
  done : Option Nat
deriving DecidableEq, Repr

structure QpUnit where
  /-- Work not yet completed, oldest first. -/
  sq : List Wqe
  nextPsn : Nat
  /-- Oldest PSN not yet acknowledged. -/
  ackPsn : Nat
  expPsn : Nat
  /-- A sequence-error NAK has been sent and the expected PSN has not come. -/
  nakSent : Bool
  msn : Nat
  retries : Nat
  /-- Next receive buffer; bytes so far of the SEND being received. -/
  rxNext : Nat
  rxGot : Option Nat
  /-- RDMA WRITE being received: next local offset, bytes left, bytes in all. -/
  wr : Option (Nat × Nat × Nat)
  /-- Rate control (R350). -/
  cnp : Bool
  clean : Nat
  rttMax : Nat
deriving DecidableEq, Repr

def QpUnit.reset : QpUnit := ⟨[], 0, 0, 0, false, 0, 0, 0, none, none, false, 0, 0⟩

structure EthUnit where
  /-- RoCEv2 packets that have arrived and wait: port, UDP payload without its ICRC, and whether the frame was CE marked. -/
  inbox : List (Nat × List Byte × Bool)
  qps : List (Nat × QpUnit)
  /-- Next buffer of each port's raw receive ring. -/
  rawNext : List (Nat × Nat)
  /-- Frames that each port has discarded because its raw receive ring was full (R345); no register shows them. -/
  rawDrops : List (Nat × Nat)
  /-- Each post list's producer count as the last boundary read it (R349). -/
  postTo : List (Nat × Nat)
deriving DecidableEq, Repr

def EthUnit.reset : EthUnit := ⟨[], [], [], [], []⟩

/-! ### The device -/

/-- An ERROR record that coalesces (R369): its ring and slot number, what it counts for, its count and first cycle. -/
structure Coal where
  ring : Nat
  prod : Nat
  source : Nat
  unit : Nat
  granule : Nat
  count : Nat
  first : Nat
deriving DecidableEq, Repr

/-- What a deferred product keeps for a rank between slices: the mask that its first slice read (R253), and its next step. -/
structure WgqMask where
  slot : Nat
  rank : Nat
  mask : Option Nat
  next : Nat
deriving DecidableEq, Repr

/-- The deferred queue beside its entries, which are in HBM: the next POST_SEQ, and the masks held. -/
structure WgqUnit where
  seq : Nat
  masks : List WgqMask
deriving DecidableEq, Repr

/-- Everything of the device but its fuses and its command queue. Registers stand at their control offsets: `regs`
holds what a load returns, `acc` the running value of each latched counter (R358), `eff` the value in force of each
staged register (R16). A register not listed holds its reset value; a running counter not listed holds 0. -/
structure Dev where
  regs : List (Nat × W64)
  acc : List (Nat × W64)
  eff : List (Nat × W64)
  /-- A latched field held its largest value in this beat (R358). -/
  sat : Bool
  hbm : HbmUnit
  cist : CistUnit
  flash : List Host.Cell
  tiles : List (Nat × TileUnit)
  ops : List Op
  nextOp : Nat
  beat : BeatUnit
  img : ImgUnit
  kv : KvUnit
  exp : ExpUnit
  wgq : WgqUnit
  tel : TelUnit
  upd : UpdUnit
  pwr : PwrUnit
  pins : PinUnit
  trust : SecUnit
  jtag : JtagUnit
  eth : EthUnit
  agx : AgxUnit
  ports : List (Nat × PortUnit)
  trees : List (Nat × TreeUnit)
  /-- CORRECTED errors that later errors of the beat update in place (R369). -/
  coal : List Coal
  out : List Out
  /-- The model's own: how many free values have been drawn. -/
  freeCtr : Nat
deriving DecidableEq, Repr

/-- The fuses and one-time memory of W0, which no reset clears (R337, R338). -/
structure Otp where
  /-- Burnt fuses of the thermometer FUSE_SVN, 0–64. -/
  svn : Nat
  /-- The programmed owner banks, first to last, 48 bytes each, at most 8. -/
  owner : List (List Byte)
  /-- The fuse map (Table 15.1): bad sites of each compute die, bad cores, bad lanes of each Agxis and Ethernet port. -/
  sites : List Nat
  cores : Nat
  agxLanes : List Nat
  ethLanes : List Nat
  /-- The two firmware key hashes (R336), the I3C provisional ID (R351), the two source MACs (R344). -/
  keyHashes : List (List Byte)
  pid : Nat
  macs : List Nat
  /-- The two certificate chains (R341), RSA first, and SEC_IDKEY_HASH. -/
  certs : List (List Byte)
  idHash : List Byte
deriving DecidableEq, Repr

/-- The state: the fuses, the device, and the commands that wait, first in, first out. -/
structure State where
  otp : Otp
  dev : Dev
  pending : List Instr
deriving DecidableEq, Repr

/-- Reasons for which a command stops with a fault. None does: every error the spec describes is a next state. -/
inductive Fault where
  /-- Raised by no command; safe. -/
  | none
deriving DecidableEq, Repr

/-- Reasons for which a command has no meaning. -/
inductive Refusal where
  /-- A command that the model does not give a meaning to; safe. -/
  | notModelled (mnemonic : String)
  /-- Raised by SCAN_DEBUG, CORE_DEBUG and IEEE_1500_ACCESS while TEST_ENABLE = 1, where the spec does not say what the
  scan chains, the core debug units and the stacks' test ports do (R353); safe. -/
  | testPort
deriving DecidableEq, Repr

def BeatUnit.reset : BeatUnit :=
  ⟨none, 0, 0, none, [], none, [], [], false, false, 0, none, false⟩

def ImgUnit.reset : ImgUnit := ⟨[], [], [], none, none, none, none, false, false, false, none, false, [], false, []⟩

/-- The device after cold reset: every register at its reset value, the memories unlisted, every unit idle. -/
def Dev.reset : Dev :=
  { regs := [], acc := [], eff := [], sat := false
    hbm := ⟨[], [], [], [], ⟨0, 0, 0, 0, 0, 0, 0, none, [], 0⟩⟩
    cist := ⟨[], [], [], [], []⟩
    flash := []
    tiles := [], ops := [], nextOp := 0
    beat := BeatUnit.reset, img := ImgUnit.reset, kv := KvUnit.reset, exp := ExpUnit.reset, wgq := ⟨0, []⟩, tel := TelUnit.reset, upd := UpdUnit.reset, pwr := PwrUnit.reset, pins := PinUnit.reset, trust := SecUnit.reset
    jtag := ⟨0, 0⟩, eth := EthUnit.reset
    agx := AgxUnit.reset, ports := [], trees := []
    coal := [], out := [], freeCtr := 0 }

/-- The machine right after cold reset. -/
def State.reset : State := { otp := ⟨0, [], [], 0, [], [], [], 0, [], [], []⟩, dev := Dev.reset, pending := [] }

end Sys2Proof.Machine
end

