-- ==== Sys2Proof/Machine/Store.lean ====
section
/-!
DEFINITION. Sparse data by key, in one canonical form: keys strictly rising, and no entry equal to what an
unlisted key reads as. The register file, the memories and the tables of units are all held this way, so that
equal contents are equal data.
-/

namespace Sys2Proof.Machine

/-- The value under `k`; `d k` where `k` is not listed. -/
def stGet {α : Type} (d : Nat → α) : List (Nat × α) → Nat → α
  | [], k => d k
  | (k', v) :: r, k => if k' = k then v else stGet d r k

/-- The entries of every key but `k`. -/
def stDrop {α : Type} (st : List (Nat × α)) (k : Nat) : List (Nat × α) := st.filter fun e => decide (e.1 ≠ k)

/-- Set the value under `k`, keeping the canonical form: the entry is dropped when `v` is what `k` reads as unlisted. -/
def stSet {α : Type} [DecidableEq α] (d : Nat → α) : List (Nat × α) → Nat → α → List (Nat × α)
  | [], k, v => if v = d k then [] else [(k, v)]
  | (k', v') :: r, k, v =>
    if k < k' then (if v = d k then (k', v') :: stDrop r k else (k, v) :: (k', v') :: r)
    else if k = k' then (if v = d k then stDrop r k else (k, v) :: r)
    else (k', v') :: stSet d r k v

/-- Every key of `a` up to `a + n - 1` back to what it reads as unlisted. -/
def stClear {α : Type} (st : List (Nat × α)) (a n : Nat) : List (Nat × α) :=
  st.filter fun e => decide (e.1 < a ∨ a + n ≤ e.1)

/-- The canonical form, from a lower bound on the keys. -/
def stWfFrom {α : Type} [DecidableEq α] (d : Nat → α) : Nat → List (Nat × α) → Bool
  | _, [] => true
  | b, (k, v) :: r => decide (b ≤ k) && decide (v ≠ d k) && stWfFrom d (k + 1) r

/-- The canonical form: keys strictly rising, no entry equal to what its key reads as unlisted. -/
def stWf {α : Type} [DecidableEq α] (d : Nat → α) (st : List (Nat × α)) : Bool := stWfFrom d 0 st

/-- `n` consecutive values from `a` up. -/
def stRange {α : Type} (d : Nat → α) (st : List (Nat × α)) (a : Nat) : Nat → List α
  | 0 => []
  | n + 1 => stGet d st a :: stRange d st (a + 1) n

/-- Set consecutive keys from `a` up to the values of the list. -/
def stPut {α : Type} [DecidableEq α] (d : Nat → α) (st : List (Nat × α)) (a : Nat) : List α → List (Nat × α)
  | [] => st
  | v :: r => stPut d (stSet d st a v) (a + 1) r

/-! ### Order -/

/-- An element put before the first that it may go before. -/
def insertBy {α : Type} (le : α → α → Bool) (x : α) : List α → List α
  | [] => [x]
  | y :: r => if le x y then x :: y :: r else y :: insertBy le x r

/-- A list in the order of `le`, equal elements in the order in which they stand. -/
def sortBy {α : Type} (le : α → α → Bool) (l : List α) : List α := l.foldr (insertBy le) []

end Sys2Proof.Machine
end

