-- ==== Sys2Proof/Machine/Ops.lean ====
section
/-!
DEFINITION. The shared operations: registers and counters (R7, R8, R358), ingress numbers (R43), event rings and error
logging (R296, R331, R362, R367–R369, R393), the local address map (R20, R22), HBM and its code (R287, R291–R294), the
bank windows (R273), cisterns (R298), local writes and stale marks (R121).
-/

namespace Sys2Proof.Machine

/-! ### Registers -/

/-- The register word at a control offset, as a load returns it. -/
def Dev.reg (d : Dev) (o : Nat) : W64 := stGet resetWord d.regs o

/-- A field, as a load returns it. -/
def Dev.get (d : Dev) (f : Fld) : Nat := wordGet (d.reg f.reg) f

/-- A one-bit field. -/
def Dev.flag (d : Dev) (f : Fld) : Bool := d.get f = 1

/-- The register word at a control offset set. -/
def Dev.setWord (d : Dev) (o : Nat) (w : W64) : Dev := { d with regs := stSet resetWord d.regs o w }

/-- A field set by the device; a value wider than the field keeps its low bits. -/
def Dev.set (d : Dev) (f : Fld) (v : Nat) : Dev := d.setWord f.reg (wordSet (d.reg f.reg) f v)

/-- The value in force of a staged field (R16). -/
def Dev.force (d : Dev) (f : Fld) : Nat := wordGet (stGet resetWord d.eff f.reg) f

/-- A value put in force at once in a staged register. -/
def Dev.setForce (d : Dev) (o : Nat) (w : W64) : Dev := { d with eff := stSet resetWord d.eff o w }

/-- The largest value a field holds. -/
def Fld.max (f : Fld) : Nat := 2 ^ (f.hi + 1 - f.lo) - 1

/-- Add to a latched counter's running value; a field that would pass its largest value holds it, and the beat is
marked saturated (R358). -/
def Dev.count (d : Dev) (f : Fld) (n : Nat) : Dev :=
  let w := stGet (fun _ => (0 : W64)) d.acc f.reg
  let v := wordGet w f + n
  { d with acc := stSet (fun _ => 0) d.acc f.reg (wordSet w f (min v f.max)), sat := d.sat || decide (f.max < v) }

/-- The running value of a latched counter. -/
def Dev.running (d : Dev) (f : Fld) : Nat := wordGet (stGet (fun _ => (0 : W64)) d.acc f.reg) f

/-- A running counter raised to a value (a maximum kept over the beat). -/
def Dev.countMax (d : Dev) (f : Fld) (n : Nat) : Dev :=
  let w := stGet (fun _ => (0 : W64)) d.acc f.reg
  { d with acc := stSet (fun _ => 0) d.acc f.reg (wordSet w f (min (max (wordGet w f) n) f.max)) }

/-- Add to a counter that is not latched, saturating. -/
def Dev.bump (d : Dev) (f : Fld) (n : Nat) : Dev := d.set f (satAdd f.max (d.get f) n)

/-- Something left the device. -/
def Dev.emit (d : Dev) (o : Out) : Dev := { d with out := d.out ++ [o] }

/-- The shape of every meaning: the device changes, the fuses and the queue stay, and `out` begins empty. -/
def run (s : State) (f : Dev → Dev) : Host.Outcome State Fault Refusal :=
  .next { s with dev := f { s.dev with out := [] } }

/-- A free value is drawn: its number, and the device with the counter advanced. -/
def Dev.draw (d : Dev) : Nat × Dev := (d.freeCtr, { d with freeCtr := d.freeCtr + 1 })

/-- The beat number now. -/
def Dev.beatNow (d : Dev) : Nat := d.get R.BEAT_NUM_NUM

/-- This device's ID (R9). -/
def Dev.id (d : Dev) : Nat := d.get R.AGX_ID_GROUP * 32 + d.get R.AGX_ID_MEMBER

/-- An image is active (R7). -/
def Dev.imageActive (d : Dev) : Bool := d.get R.IMG_STATUS_IMAGE_STATE ≠ 0

/-- Test injection is enabled by the security configuration. -/
def Dev.testEnable (d : Dev) : Bool := d.flag R.SEC_STATUS_TEST_ENABLE

/-- The device has power, and neither a FATAL error (R297, R318) nor WARM_RST_N holds it (R316). -/
def Dev.alive (d : Dev) : Bool := d.get R.PWR_STATE_DEV_STATE ≠ 8 && d.pins.on && !d.pins.warm

def Dev.tile (d : Dev) (t : Nat) : TileUnit := stGet (fun _ => TileUnit.idle) d.tiles t
def Dev.setTile (d : Dev) (t : Nat) (u : TileUnit) : Dev := { d with tiles := stSet (fun _ => TileUnit.idle) d.tiles t u }
def Dev.port (d : Dev) (p : Nat) : PortUnit := stGet (fun _ => PortUnit.reset) d.ports p
def Dev.setPort (d : Dev) (p : Nat) (u : PortUnit) : Dev := { d with ports := stSet (fun _ => PortUnit.reset) d.ports p u }

/-! ### Ingress numbers (R43, Table 2.4) -/

def ingressOf : Who → Nat
  | .core n _ => 46 + n % 16
  | .mgmt => 62
  | .remote _ p _ => p
  | .eth p => 36 + p % 2
  | .die d => 38 + d % 8
  | .well => 63

/-- The ingress number of a unit of the compute die that carries physical tile `t` (R9, R43). -/
def tileIngress (t : Nat) : Nat := 38 + t / 48 % 8

/-- The core whose load or store fails; none when the requester is no core. 16 is the management core. -/
def coreOf : Who → Option Nat
  | .core n _ => some (n % 16)
  | .mgmt => some 16
  | _ => none

/-! ### HBM: populated range, windows, pseudo-channels -/

/-- Stacks that are trained, ascending (R285, R287). -/
def Dev.stacks (d : Dev) : List Nat :=
  (List.range 24).filter fun s => decide (d.get (R.HBM_STATUS_STATE s) = 2 ∨ d.get (R.HBM_STATUS_STATE s) = 3)

/-- Table 14.2: usable granule slots of a pseudo-channel at strength k, for the stack height. -/
def usableSlots (height k : Nat) : Nat :=
  let raw := if height = 12 then 294912 else 393216
  raw / 64 * (64 - k)

/-- The check strength in force (R20). -/
def Dev.strength (d : Dev) : Nat := d.get R.ECC_CFG_STRENGTH

/-- The region of the active image that holds an HBM offset. -/
def Dev.regionOf (d : Dev) (a : Nat) : Option Region :=
  d.img.regions.find? fun r => decide (r.base ≤ a) && decide (a < r.base + r.size)

/-- The region with a tag (Table 3.8). -/
def Dev.tagged (d : Dev) (tag : Nat) : Option Region := d.img.regions.find? fun r => r.tag = tag

/-- R287: stack, channel and slot of the granule that holds HBM offset `a`. -/
def storageOf (sts : List Nat) (u : Nat) (regions : List Region) (a : Nat) : Nat × Nat × Nat :=
  let g := a / 2048
  let pinned := regions.filter (·.pinned)
  match pinned.find? fun r => decide (r.base ≤ a) && decide (a < r.base + r.size) with
  | some r =>
    let m := setBits 24 r.mask
    let n := m.length
    let i := g - r.base / 2048
    let stack := m.getD (i % n) 0
    let per (q : Region) : Nat := q.size / 2048 / (64 * (setBits 24 q.mask).length)
    let p := (pinned.filter fun q => q.mask.testBit stack).foldl (fun x q => x + per q) 0
    let earlier := (pinned.takeWhile fun q => decide (q ≠ r)).filter fun q => q.mask.testBit stack
    (stack, i / n % 64, u - p + earlier.foldl (fun x q => x + per q) 0 + i / (64 * n))
  | none =>
    let below := pinned.foldl (fun x q => if q.base + q.size ≤ a then x + q.size / 2048 else x) 0
    let j := g - below
    let n := sts.length
    let t := j / (64 * n)
    let p := j % (64 * n)
    (sts.getD ((p % n + t) % n) 0, (p / n) ^^^ (t % 64), t)

/-- R285, R287: the pseudo-channel of an HBM offset. -/
def Dev.pcOf (d : Dev) (a : Nat) : Nat :=
  let st := d.stacks
  let h := d.get (R.HBM_STATUS_HEIGHT (st.headD 0))
  let (s, c, _) := storageOf st (usableSlots h d.strength) d.img.regions a
  64 * s + c

/-- R286, R287: where a granule's data lies in its pseudo-channel: raw unit, and the raw unit and first byte of its
check bytes, at strength k. -/
def rawPlace (k slot : Nat) : Nat × Nat × Nat :=
  let block := slot / (64 - k)
  let pos := slot % (64 - k)
  (64 * block + pos, 64 * block + (64 - k) + 32 * k * pos / 2048, 32 * k * pos % 2048)

/-- R273: the storage offset of an HBM offset: while an image with both parameter regions is active, the live window
reaches bank LIVE_BANK and the alternate window the other bank, at the same displacement. -/
def Dev.bankAddr (d : Dev) (a : Nat) : Nat :=
  match d.tagged 1, d.tagged 2 with
  | some e, some o =>
    if d.imageActive && d.flag R.UPD_BANK_LIVE_BANK then
      if e.base ≤ a ∧ a < e.base + e.size then o.base + (a - e.base)
      else if o.base ≤ a ∧ a < o.base + o.size then e.base + (a - o.base)
      else a
    else a
  | _, _ => a

/-- An HBM offset lies in the alternate window (R273). -/
def Dev.inAlternate (d : Dev) (a n : Nat) : Bool :=
  match d.tagged 1, d.tagged 2 with
  | some _, some o => d.imageActive && overlap a n o.base o.size
  | _, _ => false

/-- The HBM offset of image slot 0 or 1 (R45). -/
def Dev.slotBase (d : Dev) (n : Nat) : Nat := d.get R.IMG_SLOT_BASE_SLOT_A + n * 0x20000000

/-- State of slot 0 or 1 (Table 3.13). -/
def slotField (n : Nat) : Fld := if n = 0 then R.IMG_STATUS_SLOT_A_STATE else R.IMG_STATUS_SLOT_B_STATE
def Dev.slotState (d : Dev) (n : Nat) : Nat := d.get (slotField n)

/-- A range touches a write-protected slot (R45). -/
def Dev.inProtectedSlot (d : Dev) (a n : Nat) : Bool :=
  (d.slotState 0 ≠ 0 && overlap a n (d.slotBase 0) 0x20000000) ||
  (d.slotState 1 ≠ 0 && overlap a n (d.slotBase 1) 0x20000000)

/-- Why a write into HBM is discarded. -/
inductive Deny where
  | top | slot | immutable | wgq | retained
deriving DecidableEq, Repr

/-- R22, R45, R57, R249, R275: the refusal of a write of `n` bytes at HBM offset `a`. -/
def Dev.writeDenied (d : Dev) (a n : Nat) : Option Deny :=
  if d.get R.ECC_TOP_TOP < a + n then some .top
  else if d.inProtectedSlot a n then some .slot
  else if d.img.regions.any (fun r => r.immutable && overlap a n r.base r.size) then some .immutable
  else if d.img.regions.any (fun r => r.tag = 9 && overlap a n r.base r.size) then some .wgq
  else if d.flag R.UPD_RET_RET_VALID && d.inAlternate a n then some .retained
  else none

/-! ### The in-line code (R291) -/

/-- Multiplication by x in GF(2^16), field polynomial 0x1_100B. -/
def gfX (a : Nat) : Nat := if a.testBit 15 then ((a <<< 1) ^^^ 0x1100B) % 2 ^ 16 else a <<< 1

/-- Multiplication in GF(2^16). -/
def gfMul (a b : Nat) : Nat :=
  ((List.range 16).foldl (fun (acc : Nat × Nat) i => (if b.testBit i then acc.1 ^^^ acc.2 else acc.1, gfX acc.2))
    ((0 : Nat), a)).1

/-- The generator ∏ (x − α^j), j = 0 to k − 1, low coefficient first, without its leading 1. -/
def rsGen (k : Nat) : List Nat :=
  let full := (List.range k).foldl (fun (g : List Nat × Nat) _ =>
      let (p, al) := g
      let lo := p.map fun c => gfMul c al
      (((0 :: p).zip (lo ++ [0])).map fun (x, y) => x ^^^ y, gfX al)) ([1], 1)
  full.1.take k

/-- R291: the k check symbols of 64 data symbols, symbol 0 first. -/
def rsCheck (k : Nat) (data : List Nat) : List Nat :=
  let g := rsGen k
  data.reverse.foldl (fun r s =>
    let fb := s ^^^ r.getLastD 0
    ((0 :: r.dropLast).zip g).map fun (x, c) => x ^^^ gfMul fb c) (List.replicate k 0)

/-- R293: the check symbols that mark a codeword poisoned: every check symbol inverted. -/
def rsMarker (k : Nat) (data : List Nat) : List Nat := (rsCheck k data).map fun c => c ^^^ 0xFFFF

/-! ### HBM contents -/

/-- A byte of HBM storage; a byte that nothing has written reads 0 (log entry 3). -/
def Dev.hbmByte (d : Dev) (a : Nat) : Byte := stGet (fun _ => (0 : Byte)) d.hbm.cells a

def Dev.hbmBytes (d : Dev) (a n : Nat) : List Byte := stRange (fun _ => (0 : Byte)) d.hbm.cells a n

/-- The memory keeps its canonical form: addresses strictly rising, no byte listed that reads so unlisted. -/
abbrev Memory.wf (m : List Host.Cell) : Bool := stWf (fun _ => (0 : Byte)) m

/-- Codewords that a range of `n` bytes at `a` touches, as storage ÷ 128. -/
def codewords (a n : Nat) : List Nat := if n = 0 then [] else (List.range ((a + n - 1) / 128 - a / 128 + 1)).map (· + a / 128)

/-- An error that a memory access found: class (0 CORRECTED, 1 DEFERRED), and the local offset of its codeword. -/
structure Found where
  cls : Nat
  at_ : Nat
deriving DecidableEq, Repr

/-- The wrong symbols of a codeword can be corrected at strength k: twice their number is at most k (Table 14.2). -/
def correctable (n k : Nat) : Bool := decide (2 * n ≤ k)

/-- R293, last case: the poison marker is written, and the bytes keep their wrong symbols. -/
def HbmUnit.poisonWord (h : HbmUnit) (k c : Nat) : HbmUnit :=
  let n := stGet (fun _ => 0) h.bad c
  let bs := (stRange (fun _ => (0 : Byte)) h.cells (128 * c) 128)
  let wrong := (List.range 128).zip bs |>.map fun (i, b) =>
    if i < 2 * n then b ^^^ BitVec.ofNat 8 (Config.injectByte c k i) else b
  { h with cells := stPut (fun _ => 0) h.cells (128 * c) wrong
           poison := stSet (fun _ => false) h.poison c true
           bad := stSet (fun _ => 0) h.bad c 0 }

/-- R292, R294: codeword `c` as a write of `n` bytes at storage offset `st` leaves its poison and its errors; a part of a
codeword is a read-modify-write. -/
def HbmUnit.storeWord (h : HbmUnit) (k st n : Nat) (pz : Nat → Bool) (c : Nat) : HbmUnit :=
  let whole := decide (st ≤ 128 * c) && decide (128 * c + 128 ≤ st + n)
  let newP := (List.range 128).any fun i => decide (st ≤ 128 * c + i) && decide (128 * c + i < st + n) && pz (128 * c + i - st)
  let oldP := stGet (fun _ => false) h.poison c
  let nbad := stGet (fun _ => 0) h.bad c
  let unc := !oldP && decide (0 < nbad) && !correctable nbad k
  let h := if !whole && unc then h.poisonWord k c else h
  { h with poison := stSet (fun _ => false) h.poison c (newP || (!whole && (oldP || unc)))
           bad := stSet (fun _ => 0) h.bad c 0 }

/-- The error that the read of a read-modify-write found in codeword `c`. -/
def HbmUnit.found (h : HbmUnit) (k st n a c : Nat) : List Found :=
  let nbad := stGet (fun _ => 0) h.bad c
  let loc := a / 128 * 128 + 128 * (c - st / 128)
  if (st ≤ 128 * c ∧ 128 * c + 128 ≤ st + n) ∨ stGet (fun _ => false) h.poison c ∨ nbad = 0 then []
  else if correctable nbad k then [⟨0, loc⟩] else [⟨1, loc⟩]

/-- R301: the planted error stands in the next write to the codeword that holds OFFSET. -/
def Dev.plant (d : Dev) (k c : Nat) : Dev :=
  let kind := d.get R.ECC_INJECT_KIND
  if d.flag R.ECC_INJECT_ARM && d.testEnable && decide (kind < 2) && decide (d.bankAddr (d.get R.ECC_INJECT_OFFSET) / 128 = c) then
    let d := d.set R.ECC_INJECT_ARM 0
    { d with hbm := { d.hbm with bad := stSet (fun _ => 0) d.hbm.bad c (if kind = 0 then 1 else k + 1) } }
  else d

/-- One codeword of a write. -/
def Dev.storeWord (d : Dev) (k st n : Nat) (pz : Nat → Bool) (c : Nat) : Dev :=
  let d : Dev := { d with hbm := d.hbm.storeWord k st n pz c }
  (if st ≤ 128 * c ∧ 128 * c + 128 ≤ st + n then d else d.count R.ECC_CNT2_RMW 1).plant k c

/-- Granules of `n` bytes at HBM offset `a`. -/
def granules (a n : Nat) : List Nat := (List.range (if n = 0 then 0 else (a + n - 1) / 2048 - a / 2048 + 1)).map (· + a / 2048)

/-- A granule written is counted on its pseudo-channel. -/
def Dev.countWrite (d : Dev) (g : Nat) : Dev :=
  let pc := d.pcOf (g * 2048)
  d.count (R.HBM_PC_W0_WR_GRANULES (pc / 64) (pc % 64)) 1

/-- R292, R294, R301: store bytes at an HBM offset. `pz i` says that byte i carries poison. The errors that the reads of partly
written codewords found come back, and are logged by the caller. -/
def Dev.hbmStore (d : Dev) (a : Nat) (bs : List Byte) (pz : Nat → Bool) : Dev × List Found :=
  let st := d.bankAddr a
  let n := bs.length
  let k := d.strength
  let found := (codewords st n).flatMap (d.hbm.found k st n a)
  let d := (codewords st n).foldl (fun (d : Dev) c => d.storeWord k st n pz c) d
  let d : Dev := { d with hbm := { d.hbm with cells := stPut (fun _ => 0) d.hbm.cells st bs } }
  ((granules a n).foldl Dev.countWrite d, found)

/-! ### Local writes and stale marks (R121) -/

/-- A bucket with a piece requested, or resident and not yet read by its last step (R120). -/
def Bucket.isLive (b : Bucket) : Bool :=
  b.live && (decide (0 < b.sent) || b.ready.isEmpty || decide (b.ready.length < (b.all.filter (·.addr.isSome)).length))

/-- Every piece has arrived, and the bytes may be offered to a step. -/
def Bucket.resident (b : Bucket) : Bool := b.ready.isEmpty && b.sent = 0 && !b.stale

/-- A bucket marked stale: a resident one is requested again at once, one in flight on its last arrival. -/
def Bucket.mark (b : Bucket) : Bucket :=
  if b.resident then { b with ready := b.all.filter (·.addr.isSome), refetch := true, poison := 0 } else { b with stale := true }

/-- R121, R126: every live watched bucket whose source bytes overlap `n` bytes at local offset `a` is marked stale, and the lines
that IMM = 0 streams filled of it are dropped: the tile, the marks, the refetches, the lines dropped. -/
def TileUnit.markStale (u : TileUnit) (self a n : Nat) : TileUnit × Nat × Nat × Nat :=
  let seen (s : Stream) : Bool := s.watch.isSome || u.streams.any fun x => x.watch.isSome && decide (s.role = .scale x.ctx) && decide (s.strm = x.strm)
  let hit (s : Stream) (b : Bucket) : Bool := seen s && b.isLive && b.src.any fun (o, l) => overlap a n o l
  let hits := u.streams.flatMap fun s => s.buckets.filter (hit s)
  if hits.isEmpty then (u, 0, 0, 0) else
  let gone (l : NcLine) : Bool := l.strm.isSome && hits.any fun b => b.src.any fun (o, k) => overlap (128 * l.line) 128 (self * 2 ^ 45 + o) k
  ({ u with streams := u.streams.map fun s => { s with buckets := s.buckets.map fun b => if hit s b then b.mark else b }
            nc := u.nc.filter fun l => !gone l }, hits.length, hits.countP Bucket.resident, u.nc.countP gone)

/-- R121: a local write at local offset `a` marks the buckets of every tile. -/
def Dev.markStale (d : Dev) (a n : Nat) : Dev :=
  d.tiles.foldl (fun (d : Dev) (e : Nat × TileUnit) =>
    let (u, m, r, g) := (d.tile e.1).markStale d.id a n
    if m = 0 then d
    else (((d.setTile e.1 u).count (R.PUMP_REFETCH_STALE_MARKS e.1) m).count (R.PUMP_REFETCH_REFETCHES e.1) r).count
      (R.CIST_NC_DROP_DROPPED e.1) g) d

/-- Bytes stored into HBM by a unit of this device: watched (R121). -/
def Dev.hbmPut (d : Dev) (a : Nat) (bs : List Byte) (pz : Nat → Bool) : Dev × List Found :=
  let (d, fs) := d.hbmStore a bs pz
  (d.markStale a bs.length, fs)

/-! ### Event rings and errors -/

/-- A cycle within the beat: a free value (log entry 10). -/
def Dev.stamp (d : Dev) : Nat × Dev :=
  let (n, d) := d.draw
  (Config.cycleStamp n % 2 ^ 32, d)

/-- R362, Table 17.1: the 16 header bytes of a record. -/
def Dev.recHeader (d : Dev) (type unit seq beat : Nat) : List Byte :=
  let flags := b2n d.beat.holdover + 2 * b2n d.beat.throttled + 4 * b2n d.sat + 8 * d.force R.TEL_OBS_CTL_ENABLE
  leBytes 1 type ++ leBytes 1 flags ++ leBytes 2 unit ++ leBytes 4 seq ++ leBytes 6 beat ++ leBytes 2 (d.get R.PWR_CLK_MHZ)

/-- Records in ring n (R331). -/
def Dev.ringSize (d : Dev) (n : Nat) : Nat := 2 ^ (min (max (d.get (R.MGMT_RING_W0_SIZE_LOG2 n)) 6) 20)

/-- R331: the interrupt of ring n, while PROD − CONS ≥ THRESH. -/
def Dev.ringInterrupt (d : Dev) (n : Nat) : Dev :=
  if d.flag (R.MGMT_RING_W0_INT_EN n) &&
     decide (d.get (R.MGMT_RING_W3_THRESH n) ≤ sub32 (d.get (R.MGMT_RING_W1_PROD n)) (d.get (R.MGMT_RING_W1_CONS n)))
  then d.emit (.coreInt (d.get (R.MGMT_RING_W0_TARGET n)) (16 + n)) else d

/-- R296: the class bit, the first-error log and the counters of an error, without its record. -/
def Dev.eccNote (d : Dev) (cls source unit off : Nat) : Dev :=
  let clear := !(d.flag R.ECC_ERR_CORRECTED || d.flag R.ECC_ERR_DEFERRED || d.flag R.ECC_ERR_CONTAINED || d.flag R.ECC_ERR_FATAL)
  let d := if clear then
      ((((d.set R.ECC_LOG_0_CLASS cls).set R.ECC_LOG_0_SOURCE source).set R.ECC_LOG_0_UNIT unit).set R.ECC_LOG_0_OFFSET off).set
        R.ECC_LOG_1_BEAT d.beatNow
    else d
  match cls with
  | 0 => (d.set R.ECC_ERR_CORRECTED 1).count R.ECC_CNT_CORRECTED 1
  | 1 => (d.set R.ECC_ERR_DEFERRED 1).count R.ECC_CNT_DEFERRED 1
  | 2 => d.set R.ECC_ERR_CONTAINED 1
  | _ => d.set R.ECC_ERR_FATAL 1

/-- R331: a record reaches ring n. `body` makes it from the ring's PROD. -/
def Dev.ringPut (d : Dev) (n : Nat) (body : Nat → List Byte) : Dev :=
  let drop (d : Dev) : Dev := d.bump (R.MGMT_RING_W2_DROPPED n) 1
  if !d.flag (R.MGMT_RING_W0_ENABLE n) then (drop d).set R.MGMT_ERR_RING_DISABLED 1
  else
    let prod := d.get (R.MGMT_RING_W1_PROD n)
    if sub32 prod (d.get (R.MGMT_RING_W1_CONS n)) = d.ringSize n then
      ((drop d).set (R.MGMT_RING_W2_OVERFLOW n) 1).set R.MGMT_ERR_RING_OVERFLOW 1
    else
      let slot := d.get (R.MGMT_RING_W0_BASE n) + 64 * (prod % d.ringSize n)
      if (d.writeDenied slot 64).isSome then ((drop d).set R.MGMT_ERR_RING_FAULT 1).eccNote 2 5 63 slot
      else
        let (d, fs) := d.hbmPut slot (body prod) (fun _ => false)
        let d := fs.foldl (fun (d : Dev) f => d.eccNote f.cls 0 (d.pcOf f.at_) f.at_) d
        (d.set (R.MGMT_RING_W1_PROD n) (prod + 1)).ringInterrupt n

/-- R332: the ring of an event class. -/
def Dev.ringOf (d : Dev) (cls : Nat) : Nat := bits (d.get R.MGMT_EV_MAP_MAP) (4 * cls + 3) (4 * cls)

/-- Table 16.1: the event class of a register that raises an event, from its block. -/
def evClass (o : Nat) : Nat :=
  if o < 0x02000000 then 1
  else if o < 0x03000000 then 2
  else if o < 0x05000000 then 6
  else if o < 0x06000000 then 7
  else if o < 0x07000000 then 8
  else if o < 0x07000200 then 4
  else if o < 0x07010000 then 5
  else if o < 0x08000000 then 4
  else if o < 0x09000000 then 10
  else if o < 0x0A800000 then 9
  else if o < 0x0B000000 then 0
  else if o < 0x0C000000 then 9
  else if o < 0x0D000000 then 11
  else if o < 0x0E000000 then 12
  else if o < 0x10000000 then 14
  else 3

/-- All ones, for an ARG3 or ARG4 that names nothing (R368). -/
def noArg : Nat := 2 ^ 64 - 1

/-- R367, R368: an EVENT record for field `f` of its register. -/
def Dev.event (d : Dev) (f : Fld) (arg2 arg3 arg4 : Nat) : Dev :=
  let (cyc, d) := d.stamp
  let cls := evClass f.reg
  d.ringPut (d.ringOf cls) fun prod =>
    d.recHeader 0x80 (unitOf f.reg) prod d.beatNow ++ leBytes 1 cls ++ leBytes 1 f.lo ++ leBytes 2 0 ++ leBytes 4 cyc ++
      leBytes 8 f.reg ++ leBytes 8 (d.reg f.reg).toNat ++ leBytes 8 arg2 ++ leBytes 8 arg3 ++ leBytes 8 arg4

/-- A status or error bit is set and its event raised. -/
def Dev.raise (d : Dev) (f : Fld) (arg2 arg3 arg4 : Nat) : Dev := (d.set f 1).event f arg2 arg3 arg4

/-- A status or error bit is set and its event raised, with no operation concerned. -/
def Dev.raise1 (d : Dev) (f : Fld) (arg2 : Nat) : Dev := d.raise f arg2 noArg noArg

/-- R367: the body of an ERROR record. -/
def errBody (cls source cyc off count ingress strm first : Nat) : List Byte :=
  leBytes 1 0 ++ leBytes 1 cls ++ leBytes 1 source ++ leBytes 1 0 ++ leBytes 4 cyc ++ leBytes 8 off ++ leBytes 4 count ++
    leBytes 2 ingress ++ leBytes 2 0 ++ leBytes 4 strm ++ leBytes 4 first ++ leBytes 16 0

/-- R369: the record that a CORRECTED error joins: of its source, unit and granule, and not yet passed by the consumer. -/
def Dev.coalOf (d : Dev) (n cls source unit off : Nat) : Option Coal :=
  let cons := d.get (R.MGMT_RING_W1_CONS n)
  d.coal.find? fun c => decide (cls = 0) && c.source = source && c.unit = unit && c.granule = off / 2048 && c.ring = n &&
    decide (0 < sub32 (c.prod + 1) cons) && decide (sub32 (d.get (R.MGMT_RING_W1_PROD n)) cons ≥ sub32 (d.get (R.MGMT_RING_W1_PROD n)) c.prod)

/-- R369: the record is written again with one error more. -/
def Dev.coalAdd (d : Dev) (n : Nat) (c : Coal) (cyc off ingress strm : Nat) : Dev :=
  let c' := { c with count := c.count + 1 }
  let slot := d.get (R.MGMT_RING_W0_BASE n) + 64 * (c.prod % d.ringSize n)
  let bytes := d.recHeader 0x81 c.unit c.prod d.beatNow ++ errBody 0 c.source cyc off c'.count ingress strm c.first
  let d : Dev := { d with coal := d.coal.map fun x => if x = c then c' else x }
  if (d.writeDenied slot 64).isSome then d else (d.hbmPut slot bytes (fun _ => false)).1

/-- A new ERROR record; later errors may join it where it is CORRECTED. -/
def Dev.errPut (d : Dev) (n cls source unit cyc off ingress strm : Nat) : Dev :=
  let prod0 := d.get (R.MGMT_RING_W1_PROD n)
  let d := d.ringPut n fun prod => d.recHeader 0x81 unit prod d.beatNow ++ errBody cls source cyc off 1 ingress strm cyc
  if cls = 0 ∧ d.get (R.MGMT_RING_W1_PROD n) ≠ prod0 then
    { d with coal := d.coal ++ [⟨n, prod0, source, unit, off / 2048, 1, cyc⟩] }
  else d

/-- R296, R369: an error is logged and its ERROR record written; CORRECTED errors of one source, unit and granule in
one beat share a record until the consumer has passed it. -/
def Dev.logError (d : Dev) (cls source unit off ingress strm : Nat) : Dev :=
  let d := d.eccNote cls source unit off
  let (cyc, d) := d.stamp
  let n := d.ringOf 0
  match d.coalOf n cls source unit off with
  | some c => d.coalAdd n c cyc off ingress strm
  | none => d.errPut n cls source unit cyc off ingress strm

/-- R393: a CONTAINED error, such as an address error: `source` 0 HBM, 1 CISTERN, 4 CONSUMER, 5 WELLHEAD. -/
def Dev.contained (d : Dev) (source unit off : Nat) : Dev := d.logError 2 source unit off unit (2 ^ 32 - 1)

/-- R297: a FATAL error: logged, ALERT_N asserted; every tile stops issuing, the ports send IDLE only, Ethernet stops
(each of those units looks at ECC_ERR.FATAL), a scrub pass stops (R305), and the device machine is in
FATAL (Table 15.8). -/
def Dev.fatal (d : Dev) (source unit : Nat) : Dev :=
  let d := (d.logError 3 source unit 0 0xFFFF (2 ^ 32 - 1)).set R.ECC_SCRUB_CTL_BUSY 0
  { d.set R.PWR_STATE_DEV_STATE 8 with pins := { d.pins with alert := true } }

/-! ### Reads and writes of HBM -/

/-- Errors found by a memory access are logged (R393: SOURCE HBM, the pseudo-channel, the codeword's offset). -/
def Dev.logFound (d : Dev) (source : Nat) (fs : List Found) : Dev :=
  fs.foldl (fun (d : Dev) f =>
    let pc := d.pcOf f.at_
    let d := if f.cls = 0 then d.count (R.HBM_PC_W1_CORRECTED (pc / 64) (pc % 64)) 1 else d
    d.logError f.cls source pc f.at_ 0xFFFF (2 ^ 32 - 1)) d

/-- A write of bytes into HBM, by a unit of this device, that has passed its checks: stored, watched, logged. -/
def Dev.hbmWrite (d : Dev) (a : Nat) (bs : List Byte) (pz : Nat → Bool) : Dev :=
  if bs.isEmpty then d else
  let (d, fs) := d.hbmPut a bs pz
  d.logFound 0 fs

/-- The same for a write by another device: no pump refetches because of it (R123). -/
def Dev.hbmPeer (d : Dev) (a : Nat) (bs : List Byte) (pz : Nat → Bool) : Dev :=
  if bs.isEmpty then d else
  let (d, fs) := d.hbmStore a bs pz
  d.logFound 0 fs

/-- An access came by an Agxis port (Table 2.4). -/
def peerIngress (ingress : Nat) : Bool := decide (ingress < 36)

/-- What a read delivers: the bytes, and the poisoned ones among them. -/
structure Got where
  bytes : List Byte
  poison : List Bool
deriving DecidableEq, Repr

def Got.anyPoison (g : Got) : Bool := g.poison.any id

/-- R293: a codeword read: corrected, or past correction retried and marked poisoned. -/
def Dev.readWord (d : Dev) (k loc c : Nat) : Dev × List Found :=
  let nbad := stGet (fun _ => 0) d.hbm.bad c
  if stGet (fun _ => false) d.hbm.poison c || nbad = 0 then (d, [])
  else if correctable nbad k then (d, [⟨0, loc⟩])
  else
    let pc := d.pcOf loc
    let d := d.count (R.HBM_PC_W1_RETRIES (pc / 64) (pc % 64)) 1
    ({ d with hbm := d.hbm.poisonWord k c }, [⟨1, loc⟩])

/-- A granule read is counted on its pseudo-channel. -/
def Dev.countRead (d : Dev) (g : Nat) : Dev :=
  let pc := d.pcOf (g * 2048)
  d.count (R.HBM_PC_W0_RD_GRANULES (pc / 64) (pc % 64)) 1

/-- R293: a read of HBM below the top. -/
def Dev.hbmRead (d : Dev) (a n : Nat) : Dev × Got :=
  let st := d.bankAddr a
  let k := d.strength
  let (d, fs) := (codewords st n).foldl (fun (x : Dev × List Found) c =>
      let y := x.1.readWord k (a / 128 * 128 + 128 * (c - st / 128)) c
      (y.1, x.2 ++ y.2)) (d, [])
  let d := d.logFound 0 fs
  let bytes := stRange (fun _ => (0 : Byte)) d.hbm.cells st n
  let pz := (List.range n).map fun i => stGet (fun _ => false) d.hbm.poison ((st + i) / 128)
  let d := if pz.any (fun b => b) then d.count R.ECC_CNT2_POISON_READS 1 else d
  ((granules a n).foldl Dev.countRead d, ⟨bytes, pz⟩)

/-! ### Cisterns (R124, R298) -/

/-- The key of byte `o` of the cistern of physical tile `t`. -/
def cistKey (t o : Nat) : Nat := t * 0x800000 + o

/-- Lines of the parity group of a line: bank n mod 32, group (n ÷ 32) ÷ 64 (R298). -/
def cistGroup (line : Nat) : List Nat :=
  let bank := line % 32
  let g := line / 32 % 2048 / 64
  let tile := line / 65536
  (List.range 64).map fun i => tile * 65536 + (g * 64 + i) * 32 + bank

/-- R298: the group of a line is unrecoverable: all its lines are poisoned, and a DEFERRED error is logged. -/
def Dev.cistLost (d : Dev) (line : Nat) : Dev :=
  let g := cistGroup line
  let c := d.cist
  let c := { c with poison := g.foldl (fun p l => stSet (fun _ => false) p l true) c.poison
                    bad := g.foldl (fun p l => stSet (fun _ => 0) p l 0) c.bad }
  ({ d with cist := c }).logError 1 1 (line / 65536) (line % 65536 * 128) 0xFFFF (2 ^ 32 - 1)

/-- R298: a row-parity error of a line is rebuilt from the column word; a second one in the group loses the group. -/
def Dev.cistRebuild (d : Dev) (line : Nat) : Dev :=
  let t := line / 65536
  if (cistGroup line).any fun l => l ≠ line && stGet (fun _ => 0) d.cist.bad l ≠ 0 then d.cistLost line
  else
    let c := d.cist
    let d := { d with cist := { c with bad := stSet (fun _ => 0) c.bad line 0
                                       corr := stSet (fun _ => 0) c.corr line (stGet (fun _ => 0) c.corr line + 1) } }
    (d.bump (R.ECC_CIST_CORRECTED t) 1).logError 0 1 t (line % 65536 * 128) 0xFFFF (2 ^ 32 - 1)

/-- A read of a cistern by a port that waits (R298): parity errors are rebuilt first. -/
def Dev.cistRead (d : Dev) (t o n : Nat) : Dev × Got :=
  let k := cistKey t o
  let d := (codewords k n).foldl (fun (d : Dev) l => if stGet (fun _ => 0) d.cist.bad l = 0 then d else d.cistRebuild l) d
  (d, ⟨stRange (fun _ => (0 : Byte)) d.cist.cells k n, (List.range n).map fun i => stGet (fun _ => false) d.cist.poison ((k + i) / 128)⟩)

/-- R294, R298, R301: a write of a cistern; a whole clean line clears its poison. -/
def Dev.cistStore (d : Dev) (t o : Nat) (bs : List Byte) (pz : Nat → Bool) : Dev :=
  let k := cistKey t o
  let n := bs.length
  let c := d.cist
  let c := (codewords k n).foldl (fun (c : CistUnit) l =>
      let whole := decide (k ≤ 128 * l) && decide (128 * l + 128 ≤ k + n)
      let newP := (List.range 128).any fun i => decide (k ≤ 128 * l + i) && decide (128 * l + i < k + n) && pz (128 * l + i - k)
      { c with poison := stSet (fun _ => false) c.poison l (newP || (!whole && stGet (fun _ => false) c.poison l))
               bad := if whole then stSet (fun _ => 0) c.bad l 0 else c.bad }) c
  let c := { c with cells := stPut (fun _ => 0) c.cells k bs }
  let d := { d with cist := c }
  -- R301: CIST_ROW plants one bit, CIST_GROUP the same bit in two lines of one group
  let kind := d.get R.ECC_INJECT_KIND
  let line := cistKey (d.get R.ECC_INJECT_TILE) (d.get R.ECC_INJECT_OFFSET % 0x800000) / 128
  if d.flag R.ECC_INJECT_ARM && d.testEnable && decide (2 ≤ kind) && (codewords k n).contains line then
    let d := d.set R.ECC_INJECT_ARM 0
    let b := stSet (fun _ => 0) d.cist.bad line 1
    let other := ((cistGroup line).find? (· ≠ line)).getD line
    { d with cist := { d.cist with bad := if kind = 3 then stSet (fun _ => 0) b other 1 else b } }
  else d

/-- A cistern set to zeros (R62, R63, R66). -/
def Dev.cistZero (d : Dev) (t : Nat) : Dev :=
  { d with cist := { cells := stClear d.cist.cells (t * 0x800000) 0x800000
                     poison := stClear d.cist.poison (t * 65536) 65536
                     bad := stClear d.cist.bad (t * 65536) 65536
                     corr := stClear d.cist.corr (t * 65536) 65536
                     remap := d.cist.remap } }

/-! ### The local address map (R20, R22) -/

/-- What a local offset names. -/
inductive Loc where
  | hbm (a : Nat)
  | cist (phys off : Nat)
  | ctl (o : Nat)
  /-- An address error (R22), and the SOURCE it is logged under (R393). -/
  | bad (source : Nat)
deriving DecidableEq, Repr

/-- The placement of a logical tile by the active image. -/
def Dev.place (d : Dev) (l : Nat) : Option Place := d.img.places.find? fun p => p.tile = l

/-- The placement on a physical site. -/
def Dev.placeAt (d : Dev) (t : Nat) : Option Place := d.img.places.find? fun p => p.phys = t

/-- R20–R23: what `n` bytes at a local offset are. A cistern window serves a placed logical tile that is not SPARE. -/
def Dev.locate (d : Dev) (off n : Nat) : Loc :=
  if off < 0x180000000000 then (if off + n ≤ d.get R.ECC_TOP_TOP then .hbm off else .bad 0)
  else if off < 0x1800A0000000 then
    let o := off - 0x180000000000
    match d.place (o / 0x800000) with
    | some p => if p.role ≠ 0 ∧ o % 0x800000 + n ≤ 0x800000 then .cist p.phys (o % 0x800000) else .bad 1
    | none => .bad 1
  else if off < 0x1F0000000000 then .bad 5
  else if off + n ≤ 0x200000000000 then .ctl (off - 0x1F0000000000)
  else .bad 5

/-- R87: a step issued and not ended reads or has reserved a bucket that `n` cistern bytes from byte o on touch. -/
def TileUnit.holds (u : TileUnit) (o n : Nat) : Bool :=
  u.busy.any fun b => decide (b.2.1 / 2048 * 2048 < o + n) && decide (o / 2048 * 2048 < b.2.2)

/-- Accesses to `n` bytes of a cistern window wait at the home: while a placement changes (R62, R63), and for the end of a
step that holds the bucket (R87). -/
def Dev.windowWaits (d : Dev) (off n : Nat) : Bool :=
  decide (0x180000000000 ≤ off) && decide (off < 0x1800A0000000) &&
    (d.img.windowsWait || (match d.locate off n with | .cist t o => (d.tile t).holds o n | _ => false))

/-! ### The commit mailbox (R277) -/

/-- The mailbox, while an image is active and its 256 KiB lie wholly inside one memory-plan region. -/
def Dev.mailbox (d : Dev) : Option Nat :=
  let b := d.get R.UPD_MBOX_BASE
  if d.imageActive && d.img.regions.any (fun r => decide (r.base ≤ b ∧ b + 0x40000 ≤ r.base + r.size)) then some b else none

/-- A write of `n` bytes at an HBM offset goes to the commit unit. -/
def Dev.inMailbox (d : Dev) (a n : Nat) : Bool := d.mailbox.any fun b => overlap a n b 0x40000

/-- A message or a mailbox write is discarded and counted, and MSG_BAD is set. -/
def Dev.msgBad (d : Dev) : Dev := (d.count R.UPD_ABORTS_DISCARDED 1).raise1 R.UPD_ERR_MSG_BAD 0

/-- R277: a write into the mailbox by device `sender`: its form is checked, and the message waits for the commit unit. -/
def Dev.mailboxWrite (d : Dev) (sender a : Nat) (bs : List Byte) : Dev :=
  match d.mailbox with
  | none => d
  | some b =>
    if bs.length ≠ 64 ∨ a % 64 ≠ 0 then d.msgBad
    else
      let d := d.count R.UPD_MSGS_RECEIVED 1
      let m : CommitMsg := { kind := recNat bs 0 1, flags := recNat bs 1 1, src := recNat bs 2 2
                             step := recNat bs 8 8 % 2 ^ 48, beat := recNat bs 16 8 % 2 ^ 48, scale := recNat bs 24 1
                             sender := sender }
      if m.kind = 0 ∨ 5 < m.kind ∨ recNat bs 4 4 ≠ 0 ∨ recNat bs 25 39 ≠ 0 ∨ m.src ≠ sender ∨ a ≠ b + 64 * m.src then
        d.msgBad
      else { d with upd := { d.upd with box := d.upd.box ++ [m] } }

/-- R22, R45, R57, R249, R275, R277, R393: a write of local memory by the requester of an ingress number; `ok` is false when
the write is discarded. Control space answers an address error here (R24): what may reach it does not come this way. -/
def Dev.memWrite (d : Dev) (ingress off : Nat) (bs : List Byte) (pz : Nat → Bool) : Dev × Bool :=
  match d.locate off bs.length with
  | .hbm a =>
    if d.inMailbox a bs.length then (d.mailboxWrite d.id a bs, true) else
    match d.writeDenied a bs.length with
    | none => (if peerIngress ingress then d.hbmPeer a bs pz else d.hbmWrite a bs pz, true)
    | some r =>
      let d := match r with
        | .slot => d.raise1 R.IMG_ERR_ACTIVE_SLOT_WRITE off
        | .retained => d.raise1 R.UPD_ERR_RET_WRITE off
        | _ => d
      (d.contained 0 ingress off, false)
  | .cist t o => (if peerIngress ingress then d.cistStore t o bs pz else (d.cistStore t o bs pz).markStale off bs.length, true)
  | .ctl _ => (d.contained 5 ingress off, false)
  | .bad src => (d.contained src ingress off, false)

/-- R22, R393: a read of local memory; none where it completes with an address error. -/
def Dev.memRead (d : Dev) (ingress off n : Nat) : Dev × Option Got :=
  match d.locate off n with
  | .hbm a => let (d, g) := d.hbmRead a n; (d, some g)
  | .cist t o => let (d, g) := d.cistRead t o n; (d, some g)
  | .ctl _ => (d.contained 5 ingress off, none)
  | .bad src => (d.contained src ingress off, none)

/-- Bytes that the device reads in place for itself (descriptors, tables, page images), without errors: R45, R46. -/
def Dev.peek (d : Dev) (a n : Nat) : List Byte := d.hbmBytes (d.bankAddr a) n

/-- A little-endian number that the device reads in place. -/
def Dev.peekNat (d : Dev) (a n : Nat) : Nat := leNat (d.peek a n)

end Sys2Proof.Machine
end

