-- ==== Sys2Proof/Machine/Tables.lean ====
section
/-!
DEFINITION. The tables of an image in its slot (R45–R58): where a section lies, and what its entries say; the channels
of the active image (R52) and the records an EVENT channel writes (R332, R367); beat-table entries (R32).
-/

namespace Sys2Proof.Machine

/-! ### Sections (Tables 3.1 and 3.2) -/

/-- The section table's entries of the image at `b`: type, offset, length. -/
def Dev.sections (d : Dev) (b : Nat) : List (Nat × Nat × Nat) :=
  (List.range (min (d.peekNat (b + 0x0A) 2) 64)).map fun i =>
    let e := d.peek (b + 0x100 + 16 * i) 16
    (recNat e 0 2, recNat e 4 4, recNat e 8 4)

/-- The HBM offset of the first section of a type in the image at `b`; 0 where there is none. -/
def Dev.section? (d : Dev) (b ty : Nat) : Option (Nat × Nat) :=
  ((d.sections b).find? fun e => e.1 = ty).map fun e => (b + e.2.1, e.2.2)

/-- The HBM offset of the active image. -/
def Dev.activeBase (d : Dev) : Nat := d.slotBase (d.get R.IMG_STATUS_ACTIVE_SLOT)

/-- A section of the active image. -/
def Dev.sec (d : Dev) (ty : Nat) : Option Nat := if d.imageActive then (d.section? d.activeBase ty).map (·.1) else none

/-- The 4-byte count that a section of the active image begins with. -/
def Dev.secCount (d : Dev) (ty : Nat) : Nat := (d.sec ty).elim 0 fun o => d.peekNat o 4

/-- An entry of a section of the active image: `skip` bytes of header, entries of `n` bytes, entry `i`, as a number. -/
def Dev.secEntry (d : Dev) (ty skip n i : Nat) : Nat := (d.sec ty).elim 0 fun o => d.peekNat (o + skip + n * i) n

/-- R53: the operation descriptor and the stream descriptor of an index, as numbers (R6). -/
def Dev.opDesc (d : Dev) (i : Nat) : Nat := d.secEntry 7 8 64 i
def Dev.streamDesc (d : Dev) (i : Nat) : Nat := d.secEntry 6 8 32 i

/-- Where an operation descriptor or stream descriptor lies in HBM. -/
def Dev.opDescAt (d : Dev) (i : Nat) : Nat := (d.sec 7).elim 0 fun o => o + 8 + 64 * i
def Dev.streamDescAt (d : Dev) (i : Nat) : Nat := (d.sec 6).elim 0 fun o => o + 8 + 32 * i

/-- A range of HBM holds a poisoned codeword (R295). -/
def Dev.poisonedAt (d : Dev) (a n : Nat) : Bool :=
  (codewords (d.bankAddr a) n).any fun c => stGet (fun _ => false) d.hbm.poison c

/-- R51: the logical tiles of a group, ascending. -/
def Dev.groupTiles (d : Dev) (g : Nat) : List Nat := setBits 320 (d.secEntry 4 4 64 g)

/-- The physical sites of a group, in the order of their rank (R51). -/
def Dev.groupSites (d : Dev) (g : Nat) : List Nat := (d.groupTiles g).filterMap fun l => (d.place l).map (·.phys)

/-- R54: the dependencies of extended list x, as 16-bit words. -/
def Dev.depList (d : Dev) (x : Nat) : List Nat :=
  if x = 0 then [] else
  let l := d.secEntry 8 4 64 (x - 1)
  (List.range (min (bits l 15 0) 31)).map fun i => bits l (16 * (i + 1) + 15) (16 * (i + 1))

/-- R56: the 64 instruction words of an update program; a parameter group; a schedule curve's knot. -/
def Dev.progWord (d : Dev) (p i : Nat) : Nat := (d.sec 11).elim 0 fun o => d.peekNat (o + 12 + 512 * p + 8 * i) 8
def Dev.progCount (d : Dev) : Nat := (d.sec 11).elim 0 fun o => d.peekNat o 4
def Dev.pgroupCount (d : Dev) : Nat := (d.sec 11).elim 0 fun o => d.peekNat (o + 4) 4
def Dev.curveCount (d : Dev) : Nat := (d.sec 11).elim 0 fun o => d.peekNat (o + 8) 4
def Dev.pgroupAt (d : Dev) (g : Nat) : Nat := (d.sec 11).elim 0 fun o => o + 12 + 512 * d.progCount + 64 * g
def Dev.curveAt (d : Dev) (c : Nat) : Nat := (d.sec 11).elim 0 fun o => o + 12 + 512 * d.progCount + 64 * d.pgroupCount + 2048 * c

/-- R57, Table 3.8: a memory-plan region from its 32 bytes. -/
def regionOfEntry (e : Nat) : Region :=
  { base := bits e 255 224 * 0x4000000, size := bits e 223 192 * 0x4000000
    initOff := bits e 191 160, initLen := bits e 159 128, mask := bits e 127 104
    tag := bits e 63 48, init := bits e 7 6, immutable := bitAt e 5, pinned := bits e 3 2 = 1 }

/-- The memory plan of the image at `b`. -/
def Dev.planOf (d : Dev) (b : Nat) : List Region :=
  (d.section? b 12).elim [] fun o => (List.range (min (d.peekNat o.1 4) 256)).map fun i => regionOfEntry (d.peekNat (o.1 + 4 + 32 * i) 32)

/-- R55: the library page images of the image at `b`: number of main images, number of filler images, and the HBM offset
of library page i. -/
def Dev.libCounts (d : Dev) (b : Nat) : Nat × Nat :=
  ((d.section? b 9).elim 0 fun o => d.peekNat o.1 4, (d.section? b 10).elim 0 fun o => d.peekNat o.1 4)
def Dev.libPageAt (d : Dev) (b i : Nat) : Nat :=
  let m := (d.libCounts b).1
  if i < m then (d.section? b 9).elim 0 fun o => o.1 + 132 + 32768 * i
  else (d.section? b 10).elim 0 fun o => o.1 + 4 + 32768 * (i - m)

/-! ### Channels (R52) -/

/-- The channel entry of the active image, as a number (Table 3.6). -/
def Dev.chan (d : Dev) (c : Nat) : Nat := d.secEntry 5 4 16 c
def chanKind (e : Nat) : Nat := bits e 1 0
def chanConsumer (e : Nat) : Nat := bits e 63 48
def chanProducer (e : Nat) : Nat := bits e 47 32

/-- Tokens held, or full buckets. -/
def Dev.tokens (d : Dev) (c : Nat) : Nat := d.get (R.IMG_CHAN_TOKENS c)

/-- Tokens are taken from a channel. -/
def Dev.takeTokens (d : Dev) (c n : Nat) : Dev := d.set (R.IMG_CHAN_TOKENS c) (d.tokens c - n)

/-- R332, R367: the REPORT record: source kind, index, OP_INDEX, start beat, tokens. -/
def Dev.report (d : Dev) (ring kind index op start toks : Nat) : Dev :=
  let (cyc, d) := d.stamp
  d.ringPut ring fun prod =>
    d.recHeader 0x82 0xFFFF prod d.beatNow ++ leBytes 1 0xC ++ leBytes 1 kind ++ leBytes 2 0 ++ leBytes 4 cyc ++
      leBytes 8 index ++ leBytes 8 op ++ leBytes 8 start ++ leBytes 8 toks ++ leBytes 8 0

/-- R52: a post of `n` tokens on channel `c`. A TOKEN channel saturates at its DEPTH; a channel whose consumer is an
event ring writes a REPORT record there (R332). -/
def Dev.post (d : Dev) (c n : Nat) : Dev :=
  if n = 0 then d else
  let e := d.chan c
  if bits (chanConsumer e) 15 12 = 8 then
    d.report (bits (chanConsumer e) 11 0 % 16) 2 c noArg d.beatNow n
  else
    let v := d.tokens c + n
    let depth := d.get (R.IMG_CHAN_DEPTH c)
    let d := d.set (R.IMG_CHAN_TOKENS c) (min v depth)
    if depth < v ∧ chanKind e = 0 then d.raise1 R.IMG_ERR_CHAN_SATURATE c else d

/-- A 16-bit signal or dependency word (Table 2.2): tokens, and channel. -/
def sigTokens (w : Nat) : Nat := bits w 15 12
def sigChan (w : Nat) : Nat := bits w 11 0

/-- R33: a completion signal is posted. -/
def Dev.postSig (d : Dev) (w : Nat) : Dev := d.post (sigChan w) (sigTokens w)

/-- The channel that an endpoint of a type consumes, or produces (Table 3.7). -/
def Dev.chanTo (d : Dev) (ty : Nat) : Option Nat := (List.range (d.secCount 5)).find? fun c => bits (chanConsumer (d.chan c)) 15 12 = ty
def Dev.chanFrom (d : Dev) (ty : Nat) : Option Nat := (List.range (d.secCount 5)).find? fun c => bits (chanProducer (d.chan c)) 15 12 = ty

/-- R278: this member votes when its deferred queue is empty: its commit state is IDLE, and a VOTE request is pending or
a token stands on the vote channel. -/
def Dev.voteWaiting (d : Dev) : Bool :=
  d.get R.UPD_COMMIT_STATUS_STATE = 0 && (d.upd.voteReq || (d.chanTo 5).any fun c => decide (0 < d.tokens c))

/-! ### Beat-table entries (Table 2.2) -/

/-- The 256 bits of entry e. -/
def Dev.entry (d : Dev) (e : Nat) : Nat :=
  (d.reg (R.BEAT_ENTRY e 0)).toNat + (d.reg (R.BEAT_ENTRY e 1)).toNat * 2 ^ 64 +
    (d.reg (R.BEAT_ENTRY e 2)).toNat * 2 ^ 128 + (d.reg (R.BEAT_ENTRY e 3)).toNat * 2 ^ 192

def entSig0 (w : Nat) : Nat := bits w 255 240
def entSig1 (w : Nat) : Nat := bits w 239 224
def entEst (w : Nat) : Nat := bits w 223 200
def entDeps (w : Nat) : List Nat := [bits w 143 128, bits w 159 144, bits w 175 160, bits w 191 176]
def entOp (w : Nat) : Nat := bits w 127 108
def entSlotPlan (w : Nat) : Nat := bits w 103 88
def entXlist (w : Nat) : Nat := bits w 76 64
def entValid (w : Nat) : Bool := bitAt w 63
def entLane (w : Nat) : Nat := bits w 62 62
def entReport (w : Nat) : Bool := bitAt w 61
def entDlEvent (w : Nat) : Bool := bitAt w 60
def entSealDep (w : Nat) : Bool := bitAt w 59
def entStart (w : Nat) : Nat := bits w 55 32
def entDeadline (w : Nat) : Nat := bits w 31 16
def entGroup (w : Nat) : Nat := bits w 9 0

/-- The writable bits of word k of an entry; the others are reserved (Table 2.2). -/
def entryMask (k : Nat) : Nat :=
  match k with
  | 0 => 0xF8FFFFFFFFFF03FF
  | 1 => 0xFFFFF0FFFF001FFF
  | 2 => 2 ^ 64 - 1
  | _ => 0xFFFFFFFFFFFFFF00

/-- The dependencies of an entry, its own and its extended list's, as channel and summed tokens (R33, R54). -/
def Dev.entryDeps (d : Dev) (w : Nat) : List (Nat × Nat) :=
  let all := (entDeps w ++ d.depList (entXlist w)).filter fun x => sigTokens x ≠ 0
  let chans := (all.map sigChan).eraseDups
  chans.map fun c => (c, (all.filter fun x => sigChan x = c).foldl (fun a x => a + sigTokens x) 0)

/-- The entries of a page whose VALID is 1. An entry with VALID = 1 has its word 0 listed. -/
def Dev.validEntries (d : Dev) (page : Nat) : List Nat :=
  d.regs.filterMap fun (k, w) =>
    let b := R.BEAT_ENTRY (page * 1024) 0
    if b ≤ k ∧ k < b + 0x8000 ∧ (k - b) % 32 = 0 ∧ w.toNat.testBit 63 then some (page * 1024 + (k - b) / 32) else none

/-- R33: an entry's start beat. -/
def Dev.startBeat (d : Dev) (e : Nat) : Nat := beatAdd (d.get (R.BEAT_PAGE_BASE_BEAT (e / 1024))) (entStart (d.entry e))

/-- A page's state (Table 2.13): 0 IDLE, 1 STAGED, 2 ACTIVE, 3 DRAINING. -/
def Dev.pageState (d : Dev) (p : Nat) : Nat := d.get (R.BEAT_PAGE_STATE p)

/-- The lock machine runs beats: LOCKED or HOLDOVER (Table 2.1). -/
def Dev.beating (d : Dev) : Bool := decide (2 ≤ d.get R.BEAT_STATUS_LOCK_STATE)

/-- R33: an entry of an ACTIVE page is due from its start beat on, while it has neither started nor failed its check. -/
def Dev.isDue (d : Dev) (e : Nat) : Bool :=
  d.pageState (e / 1024) = 2 && entValid (d.entry e) && d.beating && beatGe d.beatNow (d.startBeat e) &&
    !d.beat.started.contains e && !d.beat.dropped.contains e

/-- The due entries of a page. -/
def Dev.duePage (d : Dev) (p : Nat) : List Nat :=
  if d.pageState p = 2 then (d.validEntries p).filter d.isDue else []

/-- All due entries. -/
def Dev.dueEntries (d : Dev) : List Nat := (List.range 8).flatMap d.duePage

/-- The entries of a page that are due and not started, a DRAINING page's too (R35). -/
def Dev.waitingOf (d : Dev) (p : Nat) : Nat :=
  if d.pageState p = 2 ∨ d.pageState p = 3 then (d.validEntries p).countP d.isDue else 0

/-- BEAT_PAGE_n.WAITING brought up to date (R35). -/
def Dev.refreshWaiting (d : Dev) : Dev :=
  (List.range 8).foldl (fun (d : Dev) p => d.set (R.BEAT_PAGE_WAITING p) (d.waitingOf p)) d

/-- R395: the range check of an entry against the active image. -/
def Dev.entryInRange (d : Dev) (w : Nat) : Bool :=
  let chans := d.secCount 5
  decide (entGroup w < d.secCount 4) && decide (entOp w < d.secCount 7) && decide (entXlist w ≤ d.secCount 8) &&
    decide (entSlotPlan w ≤ d.secCount 13) &&
    (entDeps w ++ [entSig0 w, entSig1 w]).all fun x => sigTokens x = 0 || decide (sigChan x < chans)

/-- R395: due entries that fail the check leave the schedule; an event names each. -/
def Dev.checkDue (d : Dev) : Dev :=
  d.dueEntries.foldl (fun (d : Dev) e =>
    if d.entryInRange (d.entry e) then d
    else
      let d := { d with beat := { d.beat with dropped := d.beat.dropped ++ [e] } }
      d.raise R.BEAT_ERR_ENTRY_RANGE e e (entOp (d.entry e))) d

/-- The order in which main-lane entries that share a tile start (R33): start beat, page, index. -/
def Dev.before (d : Dev) (e f : Nat) : Bool :=
  let a := d.startBeat e
  let b := d.startBeat f
  if a = b then decide (e < f) else beatGt b a

/-- Logical tiles shared by two groups. -/
def Dev.shareTile (d : Dev) (g h : Nat) : Bool := d.secEntry 4 4 64 g &&& d.secEntry 4 4 64 h ≠ 0

/-- R33: dependencies and seal condition of an entry are met. -/
def Dev.entryReady (d : Dev) (e : Nat) : Bool :=
  let w := d.entry e
  (d.entryDeps w).all (fun (c, n) => decide (n ≤ d.tokens c)) && (!entSealDep w || d.flag R.BEAT_STATUS_SEALS_COMPLETE)

end Sys2Proof.Machine
end

