-- ==== Sys2Proof/Machine/Fabric.lean ====
section
/-!
DEFINITION. Packets and requests on Agxis (spec/07_agxis_links.md): headers (Tables 7.2, 7.4, 7.5), flits and their CRC
(R136), routing (R148, R394), the domain table (R149), tags (R145). What a link does with a flit is in Link.lean.
-/

namespace Sys2Proof.Machine

/-! ### Flits (R136, R142) -/

/-- One byte into the reflected CRC-32 of IEEE 802.3. -/
def crc32Byte (c : Nat) (b : Byte) : Nat :=
  (List.range 8).foldl (fun c _ => if c % 2 = 1 then (c >>> 1) ^^^ 0xEDB88320 else c >>> 1) (c ^^^ b.toNat)

/-- The CRC-32 of R136 over bytes. -/
def crc32 (bs : List Byte) : Nat := (bs.foldl crc32Byte 0xFFFFFFFF) ^^^ 0xFFFFFFFF

/-- Bytes 0–11 of a flit's header (Table 7.2). -/
def flitHeader (f : Flit) : List Byte :=
  leBytes 12 ((f.ftype % 16) <<< 12 + b2n f.nak <<< 17 + b2n f.ackV <<< 18 + (f.vl % 4) <<< 19 + b2n f.rsp <<< 21 +
    b2n f.last <<< 22 + b2n f.first <<< 23 + (f.len % 256) <<< 24 + b2n f.poison <<< 32 + b2n f.mcast <<< 33 +
    b2n f.ind <<< 34 + (f.hops % 4) <<< 35 + (f.crCnt % 64) <<< 37 + (f.crPool % 32) <<< 43 + (f.src % 4096) <<< 48 +
    (f.dest % 4096) <<< 60 + (f.seq % 4096) <<< 72 + (f.ackSeq % 4096) <<< 84)

/-- The CRC that a flit must carry. -/
def flitCrc (f : Flit) : Nat := crc32 (flitHeader f ++ padTo 240 f.payload)

/-- A flit with nothing in it. -/
def flitIdle : Flit :=
  { ftype := 0, ackV := false, ackSeq := 0, nak := false, seq := 0, dest := 0, src := 0, crPool := 0, crCnt := 0, hops := 0
    ind := false, mcast := false, poison := false, len := 0, first := false, last := false, rsp := false, vl := 0, crc := 0
    payload := [] }

/-- The transaction header of a packet (Tables 7.4 and 7.5), 16 bytes. -/
def Pkt.header (p : Pkt) : List Byte :=
  if p.rsp then leBytes 16 (p.opc % 256 + (p.status % 16) <<< 75 + (p.len % 4096) <<< 79 + (p.sector % 128) <<< 91 + (p.tag % 16384) <<< 98)
  else leBytes 16 (p.opc % 256 + (p.mcInfo % 2 ^ 24) <<< 8 + b2n p.fetch <<< 36 + (p.atop % 16) <<< 37 + (p.len % 4096) <<< 41 +
    (p.addr % 2 ^ 45) <<< 53 + (p.tag % 16384) <<< 98 + (p.beatTag % 65536) <<< 112)

/-- The data bytes of a packet cut into flits: 224 in the first, 240 in each later one. -/
def chunk240 : Nat → List Byte → List (List Byte)
  | 0, _ => []
  | n + 1, bs => if bs.isEmpty then [] else bs.take 240 :: chunk240 n (bs.drop 240)

/-- R142: the flits of a packet, without sequence numbers and CRC. A flit whose data byte is poisoned has POISON set. -/
def Pkt.flits (p : Pkt) : List Flit :=
  let parts := (p.header ++ p.data.take 224) :: chunk240 8 (p.data.drop 224)
  (List.range parts.length).zip parts |>.map fun (i, bs) =>
    { flitIdle with ftype := 1, dest := p.dest, src := p.src, hops := p.hops, ind := p.ind, mcast := p.mcast,
                     poison := p.poison.getD i false, len := bs.length, first := i = 0, last := i + 1 = parts.length,
                     rsp := p.rsp, vl := p.vl, payload := bs }

/-- The packet that received flits carry. -/
def Pkt.ofFlits (fs : List Flit) : Option Pkt :=
  match fs with
  | [] => none
  | f :: _ =>
    let h := leNat (f.payload.take 16)
    let data := (f.payload.take f.len).drop 16 ++ (fs.drop 1).flatMap fun g => g.payload.take g.len
    let pz := fs.map (·.poison)
    if f.rsp then
      some { src := f.src, dest := f.dest, vl := f.vl, rsp := true, mcast := f.mcast, ind := f.ind, hops := f.hops
             opc := bits h 7 0, tag := bits h 111 98, addr := 0, len := bits h 90 79, atop := 0, fetch := false, mcInfo := 0
             beatTag := 0, sector := bits h 97 91, status := bits h 78 75, data := data, poison := pz, unit := 63 }
    else
      some { src := f.src, dest := f.dest, vl := f.vl, rsp := false, mcast := f.mcast, ind := f.ind, hops := f.hops
             opc := bits h 7 0, tag := bits h 111 98, addr := bits h 97 53, len := bits h 52 41, atop := bits h 40 37
             fetch := bitAt h 36, mcInfo := bits h 31 8, beatTag := bits h 127 112, sector := 0, status := 0, data := data
             poison := pz, unit := 63 }

/-- Poison of data byte i of a packet: the POISON bit of the flit that carries it. -/
def Pkt.poisonAt (p : Pkt) (i : Nat) : Bool := p.poison.getD (if i < 224 then 0 else 1 + (i - 224) / 240) false

/-- The POISON bits of the flits that carry data with these poisoned bytes. -/
def flitPoison (pz : List Bool) : List Bool :=
  let n := pz.length
  (List.range (1 + (n - 224 + 239) / 240)).map fun i =>
    if i = 0 then (pz.take 224).any id else ((pz.drop (224 + 240 * (i - 1))).take 240).any id

/-- A request of this device, its optional fields empty. -/
def Dev.newReq (d : Dev) (dest vl opc addr : Nat) (data : List Byte) (poison : List Bool) : Pkt :=
  { src := d.id, dest := dest, vl := vl, rsp := false, mcast := false, ind := false, hops := 0, opc := opc, tag := 0
    addr := addr, len := if opc = 1 then 0 else data.length, atop := 0, fetch := false, mcInfo := 0
    beatTag := if opc = 1 ∨ opc = 4 then d.beatNow % 65536 else 0, sector := 0, status := 0, data := data, poison := poison, unit := 63 }

/-- A response to a request. Responses to VL0 requests travel on VL1 (R139, R143). -/
def Dev.newRsp (d : Dev) (q : Pkt) (opc status sector : Nat) (data : List Byte) (poison : List Bool) : Pkt :=
  { src := d.id, dest := q.src, vl := if q.vl = 0 then 1 else q.vl, rsp := true, mcast := false, ind := false, hops := 0
    opc := opc, tag := q.tag, addr := 0, len := data.length, atop := 0, fetch := false, mcInfo := 0, beatTag := 0
    sector := sector, status := status, data := data, poison := poison, unit := 63 }

/-! ### The domain table and fences -/

/-- The two words of a device's domain-table entry (Table 16.4). -/
def Dev.domain (d : Dev) (dev : Nat) : Nat :=
  (d.reg (R.SEC_DOMAIN dev 0)).toNat + (d.reg (R.SEC_DOMAIN dev 1)).toNat * 2 ^ 64

def Dev.present (d : Dev) (dev : Nat) : Bool := bitAt (d.domain dev) 15
def Dev.mgmtCapable (d : Dev) (dev : Nat) : Bool := bitAt (d.domain dev) 15 && bitAt (d.domain dev) 14

/-- GPEER of global port A(31 + i) in this device's row: valid, peer global port index, peer device. -/
def Dev.gpeer (d : Dev) (i : Nat) : Bool × Nat × Nat :=
  let g := bits (d.domain d.id) (16 * i + 63) (16 * i + 48)
  (bitAt g 15, bits g 14 12, bits g 11 0)

/-- A device is fenced out by the active fence table (R168). -/
def Dev.fencedOut (d : Dev) (dev : Nat) : Bool := bitAt (d.get (R.AGX_FENCE_BITS (dev / 64))) (dev % 64)

/-! ### Routing (R148) -/

/-- The active route-table entry of a destination (Table 7.8). -/
def Dev.routeEntry (d : Dev) (dest : Nat) : Nat :=
  let w := (d.reg (R.AGX_ROUTE_PAIR (dest / 2))).toNat
  if dest % 2 = 0 then w % 2 ^ 32 else w / 2 ^ 32

/-- State of a link (Table 7.1): 3 is UP, 7 NIGHT. -/
def Dev.link (d : Dev) (p : Nat) : Nat := d.get (R.AGX_PORT_STATUS_STATE p)

/-- A link that route() may use: UP, its port not draining (R135), its peer not fenced out (Table 8.4). -/
def Dev.linkUp (d : Dev) (p : Nat) : Bool :=
  decide (d.link p = 3) && decide (d.get (R.AGX_PORT_STATUS_PWR p) ≠ 2 ∧ d.get (R.AGX_PORT_STATUS_PWR p) ≠ 3) &&
    !d.fencedOut (d.get (R.AGX_PORT_STATUS_PEER_ID p))

/-- The group port toward a member of this device's group (R131). -/
def Dev.groupPort (d : Dev) (m : Nat) : Nat := (m + 63 - d.get R.AGX_ID_MEMBER) % 32

/-- The port on the way to a device that slot plans claim: the one that its route takes while every port is UP. -/
def Dev.plannedPort (d : Dev) (dest : Nat) : Nat :=
  let e := d.routeEntry dest
  let gm := bits e 18 14
  if dest / 32 = d.get R.AGX_ID_GROUP then d.groupPort (dest % 32)
  else if gm = d.get R.AGX_ID_MEMBER then 31 + bits e 13 11 else d.groupPort gm

/-- Where route() sends a packet. -/
inductive Way where
  | deliver
  | port (p : Nat) (ind : Bool)
  /-- The chosen port is not UP (R394). -/
  | noRoute (p : Nat)
  | invalid
deriving DecidableEq, Repr

/-- route() of R148 without its hop limit, with one port taken as down. -/
def Dev.route (d : Dev) (src dest : Nat) (ind : Bool) (down : Option Nat) : Way :=
  if dest = d.id then .deliver else
  let e := d.routeEntry dest
  if !bitAt e 31 then .invalid else
  let me := d.get R.AGX_ID_MEMBER
  let up (p : Nat) : Bool := d.linkUp p && decide (some p ≠ down)
  let via := bits e 23 19
  let gm := bits e 18 14
  let sameGroup := decide (dest / 32 = d.get R.AGX_ID_GROUP)
  let goMember (target : Nat) (i : Bool) : Way :=
    let p := d.groupPort target
    let alt := bits e 28 24
    let p := if !up p && bitAt e 29 && decide (target = dest % 32) && decide (target ≠ alt) then d.groupPort alt else p
    if up p then .port p i else .noRoute p
  if ind && decide (src = d.id) && decide (via ≠ me) then goMember via true
  else if sameGroup then goMember (dest % 32) false
  else if gm = me then
    let p := 31 + bits e 13 11
    if up p then .port p false else .noRoute p
  else goMember gm false

/-! ### Requests and their tags (R145) -/

/-- The number of tags. -/
def tagCount : Nat := 16384

/-- The lowest tag that is neither held nor in quarantine. -/
def Dev.freeTag (d : Dev) : Option Nat :=
  (List.range tagCount).find? fun t => !(d.agx.tags.any fun e => e.tag = t) && !d.agx.quarantine.contains t

/-- Brings AGX_TAGS up to date. -/
def Dev.refreshTags (d : Dev) : Dev :=
  (d.set R.AGX_TAGS_IN_USE (d.agx.tags.length + d.agx.quarantine.length)).set R.AGX_TAGS_WAITERS d.agx.waiters.length

/-- What arrives is put in front of the units that handle it, in arrival order. -/
def Dev.arrive (d : Dev) (ingress : Nat) (it : Item) : Dev :=
  { d with agx := { d.agx with inbox := d.agx.inbox ++ [⟨ingress, it, [], 0⟩] } }

/-- The source completes its own request with a status (R145, R149, R394): the completion arrives from inside. -/
def Dev.selfComplete (d : Dev) (p : Pkt) (status : Nat) : Dev :=
  d.arrive 63 (.rsp (d.newRsp p 0x10 status 0 [] []))

/-- A request that takes a tag and gets a response. -/
def Pkt.nonPosted (p : Pkt) : Bool := !p.rsp && (p.opc = 1 || p.opc = 2 || p.opc = 4)

/-- R394: a packet at its source for which route() ends at a port that is not UP. -/
def Dev.noRouteSrc (d : Dev) (p : Pkt) (port : Nat) : Dev :=
  let d := (d.raise1 R.AGX_ERR_NO_ROUTE p.dest).count R.AGX_NOROUTE_COUNT 1
  if p.nonPosted then d.selfComplete p (if d.link port = 7 then 6 else 8) else d

/-- A packet of this device as its egress queues hold it, in the beat that runs (R37). -/
def Dev.queued (d : Dev) (p : Pkt) (plan : Option (Nat × Nat)) : QPkt :=
  { pkt := p, flits := p.flits, beat := d.beatNow, plan := plan, relay := none, ahead := false, tree := none, mark := 0, pools := [], sent := 0 }

/-- A queued packet joins a port's egress queue; one that a forced reroute moves goes before every new packet that has not
started (R150). -/
def Dev.enqueue (d : Dev) (port : Nat) (q : QPkt) : Dev :=
  let u := d.port port
  let first (x : QPkt) : Bool := x.ahead || decide (0 < x.sent)
  let u := if q.ahead then { u with txq := u.txq.takeWhile first ++ q :: u.txq.dropWhile first } else { u with txq := u.txq ++ [q] }
  d.setPort port u

/-- A destination behind a route-change fence (R150). -/
def Dev.fencedRoute (d : Dev) (dest : Nat) : Bool := d.agx.fences.any fun f => f.1 = dest

/-- The egress checks and routing of a unicast packet of this device (R148, R149, R150, R168). One for the device's own ID stays
inside, under the ingress number of the unit that issued it (R21). -/
def Dev.launch (d : Dev) (p : Pkt) (plan : Option (Nat × Nat)) : Dev :=
  if p.dest = d.id then
    d.arrive p.unit (if p.rsp then .rsp p else .req p)
  else if d.agx.fenced && p.vl ≠ 3 then d.count R.AGX_COL_CNT_FENCE_DROP p.flits.length
  else if d.fencedOut p.dest then (if p.nonPosted then d.selfComplete p 7 else d.count R.AGX_COL_CNT_FENCE_DROP p.flits.length)
  else if !d.present p.dest then
    let d := (d.raise1 R.AGX_ERR_DENIED_EGRESS p.dest).count R.AGX_FLT_DENIED_EGRESS 1
    if p.nonPosted then d.selfComplete p 2 else d
  else if d.fencedRoute p.dest then
    { d with agx := { d.agx with fences := d.agx.fences.map fun f => if f.1 = p.dest then
        (f.1, f.2.1, f.2.2 ++ [d.queued p plan]) else f } }
  else
    let ind := p.vl = 1 && bitAt (d.routeEntry p.dest) 30
    match d.route d.id p.dest ind none with
    | .deliver => d
    | .port q i =>
      d.enqueue q (d.queued { p with ind := i } plan)
    | .noRoute q => if d.link q = 7 ∧ p.vl = 3 then d.enqueue q (d.queued p plan) else d.noRouteSrc p q
    | .invalid => (d.raise1 R.AGX_ERR_ROUTE_INVALID p.dest)

/-- R40: a READ or ATOMIC carries the beat in which it is issued. -/
def Dev.stampTag (d : Dev) (p : Pkt) : Pkt := if !p.rsp ∧ (p.opc = 1 ∨ p.opc = 4) then { p with beatTag := d.beatNow % 65536 } else p

/-- R145: a non-posted request takes a tag and leaves, or waits for one; a posted one leaves. -/
def Dev.request (d : Dev) (p : Pkt) (w : Waiter) (left : Nat) (plan : Option (Nat × Nat)) : Dev :=
  if !p.nonPosted then d.launch p plan
  else match d.freeTag with
    | some t =>
      let p := { d.stampTag p with tag := t }
      let d := { d with agx := { d.agx with tags := d.agx.tags ++ [(⟨t, p, w, left⟩ : TagEnt)] } }
      (d.launch p plan).refreshTags
    | none => ({ d with agx := { d.agx with waiters := d.agx.waiters ++ [(⟨p, w, left, plan⟩ : TagWait)] } }).refreshTags

/-- A tag is freed; the request that has waited longest takes it (R145). -/
def Dev.freeTagNow (d : Dev) (tag : Nat) : Dev :=
  let d := { d with agx := { d.agx with tags := d.agx.tags.filter fun e => e.tag ≠ tag } }
  match d.agx.waiters with
  | q :: rest =>
    let d : Dev := { d with agx := { d.agx with waiters := rest } }
    d.request q.pkt q.waiter q.left q.plan
  | [] => d.refreshTags

/-- R115: the sector mask of a READ as 16 bytes. -/
def sectorMask (mask : Nat) : List Byte := leBytes 16 mask

/-- The contiguous runs of set sectors of a mask, each of at most 32 sectors (2,048 bytes), as first sector and count. -/
def sectorRuns (mask : Nat) : List (Nat × Nat) :=
  let r := (List.range 129).foldl (fun (acc : List (Nat × Nat) × Option (Nat × Nat)) i =>
    let (done, cur) := acc
    if i < 128 ∧ mask.testBit i then
      match cur with
      | some (a, n) => if n = 32 then (done ++ [(a, n)], some (i, 1)) else (done, some (a, n + 1))
      | none => (done, some (i, 1))
    else match cur with
      | some c => (done ++ [c], none)
      | none => (done, none)) ([], none)
  r.1

end Sys2Proof.Machine
end

