-- ==== Sys2Proof/Machine/Flags.lean ====
section
/-!
DEFINITION. The overflow watch (R105, R106): the flags of the current training step, which stand in UPD_COMMIT_STATUS, and
the watch events of the beat. An event after the vote belongs to the next step (R106).
-/

namespace Sys2Proof.Machine

/-- R105: `n` watch events in a watched output. -/
def Dev.watchEvents (d : Dev) (n : Nat) : Dev :=
  if n = 0 then d else
  let d : Dev := { d with tel := { d.tel with ovf := d.tel.ovf + n } }
  if d.get R.UPD_COMMIT_STATUS_STATE = 0 then d.set R.UPD_COMMIT_STATUS_OVERFLOW 1
  else { d with upd := { d.upd with nextOvf := true } }

/-- R105: `n` poisoned values in a watched output. -/
def Dev.watchPoison (d : Dev) (n : Nat) : Dev :=
  if n = 0 then d else
  let d : Dev := { d with tel := { d.tel with pois := d.tel.pois + n } }
  if d.get R.UPD_COMMIT_STATUS_STATE = 0 then d.set R.UPD_COMMIT_STATUS_POISON 1
  else { d with upd := { d.upd with nextPoison := true } }

/-- R106: both flags clear when the training step ends; what was raised after the vote belongs to the next one. -/
def Dev.clearWatch (d : Dev) : Dev :=
  let d := (d.set R.UPD_COMMIT_STATUS_OVERFLOW (b2n d.upd.nextOvf)).set R.UPD_COMMIT_STATUS_POISON (b2n d.upd.nextPoison)
  { d with upd := { d.upd with nextOvf := false, nextPoison := false } }

/-- R105: bytes at a local offset lie in a region tagged GRADIENT. -/
def Dev.inGradient (d : Dev) (a n : Nat) : Bool :=
  d.img.regions.any fun r => decide (r.tag = 3) && overlap a n r.base r.size

end Sys2Proof.Machine
end

