-- ==== Sys2Proof/Machine/Float.lean ====
section
/-!
DEFINITION. Number formats and arithmetic (spec/05_number_formats.md): encodings of Table 5.1, exact values, one
rounding per operation (R93–R99), MX blocks, the special-function unit (R100) and the rules for NaN, signed zero and
subnormals (R102, R103). A finite value is held exactly, as (−1)^neg × m × 2^e.
-/

namespace Sys2Proof.Machine

/-- The value of an element. -/
inductive Fp where
  | nan
  | inf (neg : Bool)
  | fin (neg : Bool) (m : Nat) (e : Int)
deriving DecidableEq, Repr

/-- What an encoding has beside its finite values. -/
inductive FpKind where
  /-- Infinities and NaN at the all-ones exponent (FP32, BF16, E5M2). -/
  | ieee
  /-- NaN at all ones only, no infinity (E4M3). -/
  | nanOnly
  /-- Every pattern finite (FP6, FP4). -/
  | finiteOnly
deriving DecidableEq, Repr

/-- One row of Table 5.1: exponent bits, fraction bits, bias. -/
structure FpFmt where
  eb : Nat
  mb : Nat
  bias : Nat
  kind : FpKind
deriving DecidableEq, Repr

def fmtFp32 : FpFmt := ⟨8, 23, 127, .ieee⟩
def fmtBf16 : FpFmt := ⟨8, 7, 127, .ieee⟩
def fmtE4m3 : FpFmt := ⟨4, 3, 7, .nanOnly⟩
def fmtE5m2 : FpFmt := ⟨5, 2, 15, .ieee⟩
def fmtE2m3 : FpFmt := ⟨2, 3, 1, .finiteOnly⟩
def fmtE3m2 : FpFmt := ⟨3, 2, 3, .finiteOnly⟩
def fmtE2m1 : FpFmt := ⟨2, 1, 1, .finiteOnly⟩

/-- The width of an element in bits. -/
def FpFmt.width (f : FpFmt) : Nat := 1 + f.eb + f.mb

/-- R89: the value of an encoded element. -/
def fpDec (f : FpFmt) (c : Nat) : Fp :=
  let neg := decide ((c >>> (f.eb + f.mb)) % 2 = 1)
  let ex := (c >>> f.mb) % 2 ^ f.eb
  let fr := c % 2 ^ f.mb
  if f.kind = .ieee ∧ ex = 2 ^ f.eb - 1 then (if fr = 0 then .inf neg else .nan)
  else if f.kind = .nanOnly ∧ ex = 2 ^ f.eb - 1 ∧ fr = 2 ^ f.mb - 1 then .nan
  else if ex = 0 then .fin neg fr (1 - (f.bias : Int) - f.mb)
  else .fin neg (2 ^ f.mb + fr) ((ex : Int) - f.bias - f.mb)

/-- R103, Table 5.1: the canonical NaN. -/
def fpNan (f : FpFmt) : Nat :=
  match f.kind with
  | .ieee => ((2 ^ f.eb - 1) <<< f.mb) + 2 ^ (f.mb - 1)
  | .nanOnly => 2 ^ (f.eb + f.mb) - 1
  | .finiteOnly => 0

/-- The code of the largest finite magnitude. -/
def fpMaxCode (f : FpFmt) : Nat :=
  match f.kind with
  | .ieee => ((2 ^ f.eb - 1) <<< f.mb) - 1
  | .nanOnly => 2 ^ (f.eb + f.mb) - 2
  | .finiteOnly => 2 ^ (f.eb + f.mb) - 1

/-- Sign bit of a code. -/
def fpSign (f : FpFmt) (neg : Bool) : Nat := if neg then 2 ^ (f.eb + f.mb) else 0

/-- The code of infinity, for the formats that have one. -/
def fpInf (f : FpFmt) (neg : Bool) : Nat := fpSign f neg + ((2 ^ f.eb - 1) <<< f.mb)

/-- m × 2^e compared with m' × 2^e': at or above. -/
def dyGe (m : Nat) (e : Int) (m' : Nat) (e' : Int) : Bool :=
  if e' ≤ e then decide (m' ≤ m <<< (e - e').toNat) else decide (m' <<< (e' - e).toNat ≤ m)

/-- How the bits below the last place are rounded. -/
inductive Rnd where
  /-- Round to nearest even (R96). -/
  | rne
  /-- R97: stochastic, with the 16 bits drawn. -/
  | stoch (r : Nat)
  /-- Towards zero; used to bracket a value. -/
  | down
  /-- Away from zero; used to bracket a value. -/
  | up
deriving DecidableEq, Repr

/-- m × 2^(−k) rounded to an integer. -/
def roundShift (rd : Rnd) (m k : Nat) : Nat :=
  let q := m >>> k
  let rem := m % 2 ^ k
  match rd with
  | .rne => if 2 * rem > 2 ^ k then q + 1 else if 2 * rem = 2 ^ k then q + q % 2 else q
  | .stoch r =>
    let t := if k ≤ 16 then rem <<< (16 - k) else rem >>> (k - 16)
    if 2 ^ 16 ≤ t + r % 2 ^ 16 then q + 1 else q
  | .down => q
  | .up => if rem = 0 then q else q + 1

/-- What a conversion did beside giving a code (R98, R105). -/
structure Conv where
  code : Nat
  /-- The rounded magnitude would exceed the largest finite value. -/
  ovf : Bool
deriving DecidableEq, Repr

/-- The magnitude code of a finite value, rounded; `ovf` where it exceeds the largest finite value. -/
def fpMag (f : FpFmt) (rd : Rnd) (m : Nat) (e : Int) : Conv :=
  if m = 0 then ⟨0, false⟩ else
  let emin : Int := 1 - (f.bias : Int)
  let l : Int := (Nat.log2 m : Int) + e
  let q : Int := max l emin - f.mb
  let n := if q ≤ e then m <<< (e - q).toNat else roundShift rd m (q - e).toNat
  let (n, q) := if n = 2 ^ (f.mb + 1) then (2 ^ f.mb, q + 1) else (n, q)
  let code := if n < 2 ^ f.mb then n else ((q + f.mb + f.bias).toNat <<< f.mb) + (n - 2 ^ f.mb)
  -- R98: under round-to-nearest-even, at or above the largest finite value plus half a unit in the last place
  let ovf := match rd with
    | .rne =>
      match fpDec f (fpMaxCode f) with
      | .fin _ mm me => dyGe m e (2 * mm + 1) (me - 1)
      | _ => false
    | _ => decide (fpMaxCode f < code)
  ⟨code, ovf⟩

/-- R96–R98, Table 5.4: the conversion of a value to a format; `sat` is the descriptor's SAT. -/
def fpEnc (f : FpFmt) (rd : Rnd) (sat : Bool) : Fp → Conv
  | .nan => ⟨fpNan f, false⟩
  | .inf neg =>
    match f.kind with
    | .ieee => ⟨fpInf f neg, false⟩
    | _ => ⟨fpNan f, false⟩
  | .fin neg m e =>
    let c := fpMag f rd m e
    if c.ovf then
      match f.kind with
      | .ieee => ⟨fpInf f neg, true⟩
      | .nanOnly => ⟨if sat then fpSign f neg + fpMaxCode f else fpNan f, true⟩
      | .finiteOnly => ⟨fpSign f neg + fpMaxCode f, true⟩
    else ⟨fpSign f neg + c.code, false⟩

/-- The value of an FP32 word. -/
def f32Dec (c : Nat) : Fp := fpDec fmtFp32 c

/-- A value rounded to FP32, to nearest even. -/
def f32Enc (x : Fp) : Nat := (fpEnc fmtFp32 .rne false x).code

/-- The canonical FP32 NaN (R103). -/
def f32NaN : Nat := 0x7FC00000

def f32IsNaN (c : Nat) : Bool := decide (f32Dec c = .nan)

def f32IsInf (c : Nat) : Bool :=
  match f32Dec c with
  | .inf _ => true
  | _ => false

/-- A signed integer times a power of two, as a value; zero is +0. -/
def fpOfInt (n : Int) (e : Int) : Fp := .fin (decide (n < 0)) n.natAbs e

/-- The signed mantissa at a smaller or equal exponent. -/
def alignTo (neg : Bool) (m : Nat) (e e0 : Int) : Int :=
  let v : Int := (m <<< (e - e0).toNat : Nat)
  if neg then -v else v

/-- The exact sum of two values under IEEE 754 (R94): +0 for a zero sum unless both are −0. -/
def fpAdd : Fp → Fp → Fp
  | .nan, _ => .nan
  | _, .nan => .nan
  | .inf a, .inf b => if a = b then .inf a else .nan
  | .inf a, _ => .inf a
  | _, .inf b => .inf b
  | .fin na ma ea, .fin nb mb eb =>
    let e := min ea eb
    let s := alignTo na ma ea e + alignTo nb mb eb e
    if s = 0 then .fin (na && nb && decide (ma = 0) && decide (mb = 0)) 0 0 else fpOfInt s e

/-- The exact product; an infinity times a zero is NaN (R94). -/
def fpMul : Fp → Fp → Fp
  | .nan, _ => .nan
  | _, .nan => .nan
  | .inf a, .inf b => .inf (a != b)
  | .inf a, .fin n m _ => if m = 0 then .nan else .inf (a != n)
  | .fin n m _, .inf b => if m = 0 then .nan else .inf (n != b)
  | .fin na ma ea, .fin nb mb eb => .fin (na != nb) (ma * mb) (ea + eb)

def fpNeg : Fp → Fp
  | .nan => .nan
  | .inf n => .inf (!n)
  | .fin n m e => .fin (!n) m e

def fpAbs : Fp → Fp
  | .nan => .nan
  | .inf _ => .inf false
  | .fin _ m e => .fin false m e

/-- Scaling by 2^k, exact. -/
def fpScale (k : Int) : Fp → Fp
  | .fin n m e => .fin n m (e + k)
  | x => x

/-- The order of two values that are not NaN; ±0 are equal. -/
def fpLt : Fp → Fp → Bool
  | .nan, _ => false
  | _, .nan => false
  | .inf a, .inf b => a && !b
  | .inf a, _ => a
  | _, .inf b => !b
  | .fin na ma ea, .fin nb mb eb =>
    let e := min ea eb
    decide (alignTo na ma ea e < alignTo nb mb eb e)

def fpEq (a b : Fp) : Bool := a != .nan && b != .nan && !fpLt a b && !fpLt b a

def fpIsZero : Fp → Bool
  | .fin _ m _ => m = 0
  | _ => false

/-- FP32 addition, one rounding to nearest even (R95). -/
def f32Add (a b : Nat) : Nat := f32Enc (fpAdd (f32Dec a) (f32Dec b))
def f32Neg (a : Nat) : Nat := if f32IsNaN a then f32NaN else a ^^^ 0x80000000
def f32Sub (a b : Nat) : Nat := f32Add a (f32Neg b)
def f32Mul (a b : Nat) : Nat := f32Enc (fpMul (f32Dec a) (f32Dec b))
/-- Fused multiply-add, one rounding (R78). -/
def f32Fma (a b c : Nat) : Nat := f32Enc (fpAdd (fpMul (f32Dec a) (f32Dec b)) (f32Dec c))
def f32Abs (a : Nat) : Nat := if f32IsNaN a then f32NaN else a % 2 ^ 31

/-- R103: maximum; NaN if either is NaN; of +0 and −0, +0. -/
def f32Max (a b : Nat) : Nat :=
  let x := f32Dec a
  let y := f32Dec b
  if x = .nan ∨ y = .nan then f32NaN
  else if fpIsZero x && fpIsZero y then (if a = 0x80000000 ∧ b = 0x80000000 then 0x80000000 else 0)
  else if fpLt x y then b else a

/-- R103: minimum; NaN if either is NaN; of +0 and −0, −0. -/
def f32Min (a b : Nat) : Nat :=
  let x := f32Dec a
  let y := f32Dec b
  if x = .nan ∨ y = .nan then f32NaN
  else if fpIsZero x && fpIsZero y then (if a = 0 ∧ b = 0 then 0 else 0x80000000)
  else if fpLt y x then b else a

def f32Lt (a b : Nat) : Bool := fpLt (f32Dec a) (f32Dec b)
def f32Gt (a b : Nat) : Bool := fpLt (f32Dec b) (f32Dec a)
def f32Ge (a b : Nat) : Bool := !f32IsNaN a && !f32IsNaN b && !f32Lt a b

/-- An integer as FP32, rounded to nearest even. -/
def f32OfInt (n : Int) : Nat := f32Enc (fpOfInt n 0)

def f32One : Nat := 0x3F800000
def f32NegInf : Nat := 0xFF800000
def f32PosInf : Nat := 0x7F800000

/-! ### The special-function unit (R79, R100) -/

/-- A result below 2^−126 is zero with the sign of the exact result (R100). -/
def sfuFlush (c : Nat) : Nat := if bits c 30 23 = 0 then c &&& 0x80000000 else c

/-- The choice within one unit in the last place between a value's two FP32 neighbours (Table 5.5). -/
def sfuPick (fn x lo hi : Nat) : Nat := if Config.sfuChoice fn x % 2 = 0 then lo else hi

/-- A finite value is an exact power of two. -/
def isPow2 (m : Nat) : Bool := m ≠ 0 && decide (2 ^ Nat.log2 m = m)

/-- The FP32 code of q × 2^e, rounded as asked, where `sticky` says that a part below q was dropped. -/
def f32Quot (rd : Rnd) (neg : Bool) (q : Nat) (e : Int) (sticky : Bool) : Nat :=
  let m := 2 * q + b2n sticky
  (fpEnc fmtFp32 rd false (.fin neg m (e - 1))).code

/-- reciprocal(x), Table 5.5. -/
def sfuRcp (x : Nat) : Nat :=
  match f32Dec x with
  | .nan => f32NaN
  | .inf n => fpSign fmtFp32 n
  | .fin n m e =>
    if m = 0 then fpInf fmtFp32 n
    else if isPow2 m then sfuFlush ((fpEnc fmtFp32 .rne false (.fin n 1 (-(e + Nat.log2 m)))).code)
    else if 126 ≤ e + Nat.log2 m then fpSign fmtFp32 n
    else
      let q := 2 ^ 64 / m
      let st := decide (2 ^ 64 % m ≠ 0)
      sfuFlush (sfuPick 3 x (f32Quot .down n q (-e - 64) st) (f32Quot .up n q (-e - 64) st))

/-- rsqrt(x), Table 5.5. -/
def sfuRsqrt (x : Nat) : Nat :=
  match f32Dec x with
  | .nan => f32NaN
  | .inf n => if n then f32NaN else 0
  | .fin n m e =>
    if m = 0 then fpInf fmtFp32 n
    else if n then f32NaN
    else
      let (m, e) := if e % 2 = 0 then (m, e) else (2 * m, e - 1)
      -- 1/sqrt(m·2^e) = sqrt(2^128 / m) · 2^(−64 − e/2)
      let d := 2 ^ 128 / m
      let r := Nat.sqrt d
      let st := decide (r * r ≠ d) || decide (2 ^ 128 % m ≠ 0)
      let sh : Int := -64 - e / 2
      sfuFlush (sfuPick 2 x (f32Quot .down false r sh st) (f32Quot .up false r sh st))

/-- The integer part of a finite value, towards −∞. -/
def fpFloor (neg : Bool) (m : Nat) (e : Int) : Int :=
  if 0 ≤ e then (if neg then -((m <<< e.toNat : Nat) : Int) else ((m <<< e.toNat : Nat) : Int))
  else
    let k := (-e).toNat
    if neg then -((((m + 2 ^ k - 1) >>> k : Nat)) : Int) else ((m >>> k : Nat) : Int)

/-- Whether a finite value is an integer. -/
def fpIsInt (m : Nat) (e : Int) : Bool := decide (0 ≤ e) || decide (m % 2 ^ (-e).toNat = 0)

/-- ln 2, in units of 2^−128. -/
def ln2Fix : Nat := 235865763225513294137944142764154484399

/-- 2^f − 1 for f = y · 2^−128 in [0, 1), in units of 2^−128: the series of the exponential. -/
def exp2Frac (y : Nat) : Nat :=
  let z := y * ln2Fix / 2 ^ 128
  ((List.range 40).foldl (fun (x : Nat × Nat) k => let t := x.2 * z / 2 ^ 128 / (k + 1); (x.1 + t, t)) (0, 2 ^ 128)).1

/-- exp2 of a value, Table 5.5: one of the two FP32 numbers next to it, `key` naming the choice left open. -/
def exp2Of (key : Nat) (v : Fp) : Nat :=
  match v with
  | .nan => f32NaN
  | .inf n => if n then 0 else f32PosInf
  | .fin n m e =>
    let y := fpFloor n m (e + 128)
    let fl := y / 2 ^ 128
    if m = 0 then f32One
    else if fl < -126 then 0
    else if 128 ≤ fl then f32PosInf
    else if fpIsInt m e then f32Enc (.fin false 1 fl)
    else
      let c := ((fl + 127).toNat <<< 23) + exp2Frac (y % 2 ^ 128).toNat / 2 ^ 105
      sfuPick 0 key c (min (c + 1) 0x7F7FFFFF)

/-- exp2(x), Table 5.5. -/
def sfuExp2 (x : Nat) : Nat := exp2Of x (f32Dec x)

/-- R101: the factor exp2(m − m′), its exponent formed exactly. -/
def exp2Diff (m m' : Nat) : Nat := exp2Of (m + 2 ^ 32 * (m' + 1)) (fpAdd (f32Dec m) (fpNeg (f32Dec m')))

/-- 64 bits of the fraction of log2 t for t = y · 2^−128 in [1, 2): squaring doubles the logarithm. -/
def log2Frac (y : Nat) : Nat :=
  ((List.range 64).foldl (fun (x : Nat × Nat) _ =>
    let q := x.2 * x.2 / 2 ^ 128
    if 2 ^ 129 ≤ q then (2 * x.1 + 1, q / 2) else (2 * x.1, q)) (0, y)).1

/-- log2(x), Table 5.5: one of the two FP32 numbers next to it. -/
def sfuLog2 (x : Nat) : Nat :=
  match f32Dec x with
  | .nan => f32NaN
  | .inf n => if n then f32NaN else f32PosInf
  | .fin n m e =>
    if m = 0 then f32NegInf
    else if n then f32NaN
    else
      let k := Nat.log2 m
      let l : Int := (k : Int) + e
      if isPow2 m then (if l = 0 then 0 else f32OfInt l)
      else
        let v : Int := l * 2 ^ 64 + (log2Frac (m * 2 ^ 128 / 2 ^ k) : Nat)
        let neg := decide (v < 0)
        let q := if neg then (-v - 1).toNat else v.toNat
        sfuFlush (sfuPick 1 x (f32Quot .down neg q (-64) true) (f32Quot .up neg q (-64) true))

/-! ### Format codes of descriptors (Table 4.4) -/

/-- The element format of a format code; none for a reserved code (R81). -/
def codeFmt : Nat → Option FpFmt
  | 0 => some fmtFp32
  | 1 => some fmtBf16
  | 2 => some fmtE4m3
  | 3 => some fmtE5m2
  | 4 => some fmtE4m3
  | 5 => some fmtE5m2
  | 6 => some fmtE2m3
  | 7 => some fmtE3m2
  | 8 => some fmtE2m1
  | _ => none

/-- The code names an MX format. -/
def codeMx (c : Nat) : Bool := decide (4 ≤ c) && decide (c ≤ 8)

/-- Bits per element of a format code. -/
def codeWidth (c : Nat) : Nat := (codeFmt c).elim 32 FpFmt.width

/-- Bytes of `n` elements of a format code, their scales apart. -/
def codeBytes (c n : Nat) : Nat := ceilDiv (n * codeWidth c) 8

/-- R99: EMAX of an element format. -/
def codeEmax : Nat → Int
  | 4 => 8
  | 5 => 15
  | 6 => 2
  | 7 => 4
  | 8 => 2
  | _ => 0

/-- R90: the value of an MX element under its E8M0 scale. -/
def mxVal (scale : Nat) (x : Fp) : Fp := if scale = 0xFF then .nan else fpScale ((scale : Int) - 127) x

/-- A value with its poison bit (R104). -/
structure PV where
  v : Nat
  p : Bool
deriving DecidableEq, Repr

/-- The `i`-th element of width `w` of a packed little-endian bit string (R90). -/
def packedAt (bs : List Byte) (w i : Nat) : Nat :=
  if w % 8 = 0 then recNat bs (w / 8 * i) (w / 8)
  else
    let b0 := w * i / 8
    (recNat bs b0 2 >>> (w * i % 8)) % 2 ^ w

/-- Element codes packed little-endian, element i at bits [w(i+1)−1 : wi] (R90). -/
def packBits (w : Nat) (cs : List Nat) : List Byte :=
  leBytes (ceilDiv (w * cs.length) 8) (cs.foldr (fun c a => c % 2 ^ w + a <<< w) 0)

/-- R99: an MX block formed from exact values; the scale and the element codes. -/
def mxForm (code : Nat) (rd : Nat → Rnd) (vs : List Fp) : Nat × List Nat :=
  match codeFmt code with
  | none => (0, [])
  | some f =>
    if vs.any (fun v => match v with | .fin _ _ _ => false | _ => true) then (0xFF, vs.map fun _ => 0)
    else if vs.all fpIsZero then (0, vs.map fun _ => 0)
    else
      let lg : Fp → Int := fun v =>
        match v with
        | .fin _ m e => if m = 0 then -100000 else (Nat.log2 m : Int) + e
        | _ => -100000
      let top := vs.foldl (fun a v => max a (lg v)) (-100000)
      let e := min (max (top - codeEmax code) (-127)) 127
      let els := (List.range vs.length).zip vs |>.map fun (i, v) =>
        match fpScale (-e) v with
        | .fin neg m x =>
          let c := fpMag f (rd i) m x
          fpSign f neg + (if c.ovf then fpMaxCode f else c.code)
        | _ => 0
      ((e + 127).toNat, els)

end Sys2Proof.Machine
end

