-- ==== Sys2Proof/Machine/Crypto.lean ====
section
/-!
DEFINITION. The algorithms that R47, R336 and R342 name: SHA-384 (with the SHA-256 and SHA-512 that SLH-DSA is built on),
RSASSA-PSS verification and SLH-DSA-SHA2-192s verification, as the standards that define them give them (log entry 11).
-/

namespace Sys2Proof.Machine

/-! ### SHA-2 -/

/-- The round constants, 64 bits each; SHA-256 takes the upper halves of the first 64. -/
def shaK0 : List Nat :=
  [0x428A2F98D728AE22, 0x7137449123EF65CD, 0xB5C0FBCFEC4D3B2F, 0xE9B5DBA58189DBBC, 0x3956C25BF348B538,
   0x59F111F1B605D019, 0x923F82A4AF194F9B, 0xAB1C5ED5DA6D8118, 0xD807AA98A3030242, 0x12835B0145706FBE,
   0x243185BE4EE4B28C, 0x550C7DC3D5FFB4E2, 0x72BE5D74F27B896F, 0x80DEB1FE3B1696B1, 0x9BDC06A725C71235,
   0xC19BF174CF692694, 0xE49B69C19EF14AD2, 0xEFBE4786384F25E3, 0x0FC19DC68B8CD5B5, 0x240CA1CC77AC9C65]
def shaK1 : List Nat :=
  [0x2DE92C6F592B0275, 0x4A7484AA6EA6E483, 0x5CB0A9DCBD41FBD4, 0x76F988DA831153B5, 0x983E5152EE66DFAB,
   0xA831C66D2DB43210, 0xB00327C898FB213F, 0xBF597FC7BEEF0EE4, 0xC6E00BF33DA88FC2, 0xD5A79147930AA725,
   0x06CA6351E003826F, 0x142929670A0E6E70, 0x27B70A8546D22FFC, 0x2E1B21385C26C926, 0x4D2C6DFC5AC42AED,
   0x53380D139D95B3DF, 0x650A73548BAF63DE, 0x766A0ABB3C77B2A8, 0x81C2C92E47EDAEE6, 0x92722C851482353B]
def shaK2 : List Nat :=
  [0xA2BFE8A14CF10364, 0xA81A664BBC423001, 0xC24B8B70D0F89791, 0xC76C51A30654BE30, 0xD192E819D6EF5218,
   0xD69906245565A910, 0xF40E35855771202A, 0x106AA07032BBD1B8, 0x19A4C116B8D2D0C8, 0x1E376C085141AB53,
   0x2748774CDF8EEB99, 0x34B0BCB5E19B48A8, 0x391C0CB3C5C95A63, 0x4ED8AA4AE3418ACB, 0x5B9CCA4F7763E373,
   0x682E6FF3D6B2B8A3, 0x748F82EE5DEFB2FC, 0x78A5636F43172F60, 0x84C87814A1F0AB72, 0x8CC702081A6439EC]
def shaK3 : List Nat :=
  [0x90BEFFFA23631E28, 0xA4506CEBDE82BDE9, 0xBEF9A3F7B2C67915, 0xC67178F2E372532B, 0xCA273ECEEA26619C,
   0xD186B8C721C0C207, 0xEADA7DD6CDE0EB1E, 0xF57D4F7FEE6ED178, 0x06F067AA72176FBA, 0x0A637DC5A2C898A6,
   0x113F9804BEF90DAE, 0x1B710B35131C471B, 0x28DB77F523047D84, 0x32CAAB7B40C72493, 0x3C9EBE0A15C9BEBC,
   0x431D67C49C100D4C, 0x4CC5D4BECB3E42B6, 0x597F299CFC657E2A, 0x5FCB6FAB3AD6FAEC, 0x6C44198C4A475817]
def shaK : List Nat := shaK0 ++ shaK1 ++ shaK2 ++ shaK3

/-- Initial values of SHA-512 and of SHA-384. -/
def shaIv512 : List Nat :=
  [0x6A09E667F3BCC908, 0xBB67AE8584CAA73B, 0x3C6EF372FE94F82B, 0xA54FF53A5F1D36F1,
   0x510E527FADE682D1, 0x9B05688C2B3E6C1F, 0x1F83D9ABFB41BD6B, 0x5BE0CD19137E2179]
def shaIv384 : List Nat :=
  [0xCBBB9D5DC1059ED8, 0x629A292A367CD507, 0x9159015A3070DD17, 0x152FECD8F70E5939,
   0x67332667FFC00B31, 0x8EB44A8768581511, 0xDB0C2E0D64F98FA7, 0x47B5481DBEFA4FA4]

/-- What the two widths of SHA-2 differ in: word bits, rounds, and the rotations of its four functions. -/
structure ShaKind where
  w : Nat
  rounds : Nat
  s0 : Nat × Nat × Nat
  s1 : Nat × Nat × Nat
  e0 : Nat × Nat × Nat
  e1 : Nat × Nat × Nat

def sha64 : ShaKind := ⟨64, 80, (1, 8, 7), (19, 61, 6), (28, 34, 39), (14, 18, 41)⟩
def sha32 : ShaKind := ⟨32, 64, (7, 18, 3), (17, 19, 10), (2, 13, 22), (6, 11, 25)⟩

/-- Rotation to the right of a w-bit word. -/
def rotr (w x n : Nat) : Nat := (x >>> n ||| x <<< (w - n)) % 2 ^ w

/-- The schedule functions: two rotations and a shift. -/
def ShaKind.small (k : ShaKind) (r : Nat × Nat × Nat) (x : Nat) : Nat := rotr k.w x r.1 ^^^ rotr k.w x r.2.1 ^^^ (x >>> r.2.2)
/-- The round functions: three rotations. -/
def ShaKind.big (k : ShaKind) (r : Nat × Nat × Nat) (x : Nat) : Nat := rotr k.w x r.1 ^^^ rotr k.w x r.2.1 ^^^ rotr k.w x r.2.2

/-- The message schedule of a block's 16 words. -/
def ShaKind.schedule (k : ShaKind) (b : List Nat) : List Nat :=
  ((List.range (k.rounds - 16)).foldl (fun (l : List Nat) _ =>
    (k.small k.s1 (l.getD 1 0) + l.getD 6 0 + k.small k.s0 (l.getD 14 0) + l.getD 15 0) % 2 ^ k.w :: l) b.reverse).reverse

/-- The eight working variables after one round, with constant and schedule word added up. -/
def ShaKind.round (k : ShaKind) (v : List Nat) (kw : Nat) : List Nat :=
  match v with
  | [a, b, c, d, e, f, g, h] =>
    let m := 2 ^ k.w
    let t1 := h + k.big k.e1 e + ((e &&& f) ^^^ ((m - 1 - e) &&& g)) + kw
    let t2 := k.big k.e0 a + ((a &&& b) ^^^ (a &&& c) ^^^ (b &&& c))
    [(t1 + t2) % m, a, b, c, (d + t1) % m, e, f, g]
  | _ => v

/-- One block. -/
def ShaKind.block (k : ShaKind) (h b : List Nat) : List Nat :=
  let v := (shaK.zip (k.schedule b)).foldl (fun v x => k.round v (x.1 / 2 ^ (64 - k.w) + x.2)) h
  (h.zip v).map fun x => (x.1 + x.2) % 2 ^ k.w

/-- Big-endian numbers of n bytes each. -/
def beWords (n : Nat) : Nat → List Byte → List Nat
  | 0, _ => []
  | k + 1, l => leNat (l.take n).reverse :: beWords n k (l.drop n)

/-- The hash of a message, as bytes. -/
def ShaKind.hash (k : ShaKind) (iv : List Nat) (msg : List Byte) : List Byte :=
  let n := k.w / 8
  let len := msg.length
  let pad := (16 * n - (len + 1 + 2 * n) % (16 * n)) % (16 * n)
  let all := msg ++ [0x80] ++ List.replicate pad 0 ++ beBytes (2 * n) (8 * len)
  ((List.range (all.length / (16 * n))).foldl (fun (s : List Nat × List Byte) _ =>
    (k.block s.1 (beWords n 16 s.2), s.2.drop (16 * n))) (iv, all)).1.flatMap (beBytes n)

def sha256 (m : List Byte) : List Byte := sha32.hash (shaIv512.map (· / 2 ^ 32)) m
def sha512 (m : List Byte) : List Byte := sha64.hash shaIv512 m
/-- SHA-384, 48 bytes. -/
def sha384 (m : List Byte) : List Byte := (sha64.hash shaIv384 m).take 48

/-- MGF1: n bytes from a seed under a hash of h bytes. -/
def mgf1 (hash : List Byte → List Byte) (h : Nat) (seed : List Byte) (n : Nat) : List Byte :=
  ((List.range (ceilDiv n h)).flatMap fun i => hash (seed ++ beBytes 4 i)).take n

/-! ### RSASSA-PSS (R47: RSA-3072, SHA-384, MGF1 with SHA-384, 48-byte salt) -/

/-- A number of 32 bits as exponent, modulo n. -/
def powMod (b e n : Nat) : Nat :=
  (List.range 32).foldl (fun r i => let q := r * r % n; if e.testBit (31 - i) then q * b % n else q) (1 % n)

/-- The two byte strings differ bit by bit. -/
def xorBytes (a b : List Byte) : List Byte := (a.zip b).map fun x => x.1 ^^^ x.2

/-- An encoded message of n bytes for a modulus of `bits` bits is one of the message that hashes to `h`. -/
def pssValid (n mbits : Nat) (em h : List Byte) : Bool :=
  let dbLen := n - 49
  let top := 8 * n - (mbits - 1)
  let seed := (em.drop dbLen).take 48
  let db := xorBytes (em.take dbLen) (mgf1 sha384 48 seed dbLen)
  let db0 := (leNat db.reverse) % 2 ^ (8 * dbLen - top)
  let db := beBytes dbLen db0
  let salt := db.drop (dbLen - 48)
  decide (em.length = n) && decide (em.getLast? = some 0xBC) && decide (leNat (em.take 1) < 2 ^ (8 - top)) &&
    decide (db.take (dbLen - 48) = List.replicate (dbLen - 49) 0 ++ [1]) &&
    decide (sha384 (List.replicate 8 0 ++ h ++ salt) = seed)

/-- A signature of a message under a key: modulus (384 bytes) and exponent (4), numbers in the byte order of R6; the signature is
an octet string, first byte most significant. -/
def rsaVerify (key msg sig : List Byte) : Bool :=
  let n := leNat (key.take 384)
  let e := leNat ((key.drop 384).take 4)
  let s := leNat sig.reverse
  decide (sig.length = 384) && decide (2 ^ 3071 ≤ n) && decide (s < n) && pssValid 384 3072 (beBytes 384 (powMod s e n)) (sha384 msg)

/-! ### SLH-DSA-SHA2-192s (R47: pure mode, empty context) -/

/-- Security parameter, heights and counts of the parameter set: n, h / d, d, a, k. -/
def slN : Nat := 24
def slHp : Nat := 9
def slD : Nat := 7
def slA : Nat := 14
def slK : Nat := 17
/-- WOTS+ chains: 48 for the message, 3 for its checksum. -/
def slLen : Nat := 51

/-- A compressed address: layer, tree, type, three words. -/
structure SlAddr where
  layer : Nat
  tree : Nat
  ty : Nat
  w1 : Nat
  w2 : Nat
  w3 : Nat

def SlAddr.bytes (a : SlAddr) : List Byte :=
  beBytes 1 a.layer ++ beBytes 8 a.tree ++ beBytes 1 a.ty ++ beBytes 4 a.w1 ++ beBytes 4 a.w2 ++ beBytes 4 a.w3

/-- The tweakable hashes: of one value, and of several. -/
def slF (seed : List Byte) (a : SlAddr) (m : List Byte) : List Byte := (sha256 (seed ++ List.replicate 40 0 ++ a.bytes ++ m)).take slN
def slT (seed : List Byte) (a : SlAddr) (m : List Byte) : List Byte := (sha512 (seed ++ List.replicate 104 0 ++ a.bytes ++ m)).take slN

/-- n digits of b bits each, the most significant first. -/
def slDigits (b n : Nat) (l : List Byte) : List Nat :=
  let v := leNat l.reverse
  let t := 8 * l.length
  (List.range n).map fun i => v / 2 ^ (t - b * (i + 1)) % 2 ^ b

/-- `s` steps of a chain from place i on. -/
def slChain (seed : List Byte) (a : SlAddr) (i s : Nat) (x : List Byte) : List Byte :=
  (List.range s).foldl (fun x j => slF seed { a with w3 := i + j } x) x

/-- Up a Merkle tree of height n from node `idx` at height 0. -/
def slClimb (seed : List Byte) (a : SlAddr) (idx n : Nat) (auth node : List Byte) : List Byte :=
  (List.range n).foldl (fun node j =>
    let s := (auth.drop (slN * j)).take slN
    slT seed { a with w2 := j + 1, w3 := idx / 2 ^ (j + 1) } (if idx / 2 ^ j % 2 = 0 then node ++ s else s ++ node)) node

/-- The WOTS+ public key that a signature of m gives. -/
def slWots (seed : List Byte) (layer tree kp : Nat) (sig m : List Byte) : List Byte :=
  let d := slDigits 4 48 m
  let c := d.foldl (fun x v => x + (15 - v)) 0
  let d := d ++ slDigits 4 3 (beBytes 2 (c * 16))
  let ends := (List.range slLen).flatMap fun i =>
    let v := d.getD i 0
    slChain seed ⟨layer, tree, 0, kp, i, 0⟩ v (15 - v) ((sig.drop (slN * i)).take slN)
  slT seed ⟨layer, tree, 1, kp, 0, 0⟩ ends

/-- The root of an XMSS tree that a signature of m gives. -/
def slXmss (seed : List Byte) (layer tree idx : Nat) (sig m : List Byte) : List Byte :=
  slClimb seed ⟨layer, tree, 2, 0, 0, 0⟩ idx slHp (sig.drop (slN * slLen)) (slWots seed layer tree idx (sig.take (slN * slLen)) m)

/-- The FORS public key that a signature gives. -/
def slFors (seed : List Byte) (tree kp : Nat) (sig md : List Byte) : List Byte :=
  let ix := slDigits slA slK md
  let roots := (List.range slK).flatMap fun i =>
    let s := (sig.drop ((slA + 1) * slN * i)).take ((slA + 1) * slN)
    let leaf := i * 2 ^ slA + ix.getD i 0
    slClimb seed ⟨0, tree, 3, kp, 0, 0⟩ leaf slA (s.drop slN) (slF seed ⟨0, tree, 3, kp, 0, leaf⟩ (s.take slN))
  slT seed ⟨0, tree, 4, kp, 0, 0⟩ roots

/-- A signature of a message under a key: seed and root. -/
def slhVerify (key msg sig : List Byte) : Bool :=
  let seed := key.take slN
  let root := (key.drop slN).take slN
  let r := sig.take slN
  let m := [0, 0] ++ msg
  let dg := mgf1 sha512 64 (r ++ seed ++ sha512 (r ++ seed ++ root ++ m)) 39
  let tree := leNat ((dg.drop 30).take 7).reverse % 2 ^ 54
  let leaf := leNat ((dg.drop 37).take 2).reverse % 2 ^ 9
  let fors := (slA + 1) * slK * slN
  let xm := (slLen + slHp) * slN
  let pk := slFors seed tree leaf ((sig.drop slN).take fors) (dg.take 30)
  let top := (List.range slD).foldl (fun (node : List Byte) j =>
    slXmss seed j (tree / 2 ^ (9 * j)) (if j = 0 then leaf else tree / 2 ^ (9 * (j - 1)) % 2 ^ 9)
      ((sig.drop (slN + fors + xm * j)).take xm) node) pk
  decide (sig.length = 16224) && decide (top = root)

end Sys2Proof.Machine
end

