-- ==== Sys2Proof/Machine/Loader.lean ====
section
/-!
DEFINITION. The image loader: the checks of Table 3.9 in the order of its Order column (R46–R59, R76, R84, R157, R273,
R278, R288) and the placement of R60.
-/

namespace Sys2Proof.Machine

/-- A failed check: result code and DETAIL (Table 3.9). -/
structure LoadFail where
  code : Nat
  detail : Nat
deriving DecidableEq, Repr

/-- An image under load: the device, and the HBM offset of its slot. -/
structure Img where
  d : Dev
  b : Nat

/-- Little-endian field of `n` bytes at image offset `o`. -/
def Img.u (m : Img) (o n : Nat) : Nat := m.d.peekNat (m.b + o) n

/-- LOAD_FORMAT at an image offset, where the condition holds. -/
def badAt (c : Bool) (o : Nat) : Option LoadFail := if c then some ⟨2, o⟩ else none

/-- LOAD_MEMPLAN for a region, where the condition holds. -/
def badRegion (c : Bool) (i : Nat) : Option LoadFail := if c then some ⟨0xC, i⟩ else none

/-- The first check that fails. -/
def firstFail (l : List (Option LoadFail)) : Option LoadFail := l.findSome? fun x => x

/-- The first non-zero byte of a reserved field. -/
def Img.zero (m : Img) (o n : Nat) : Option LoadFail :=
  ((List.range n).find? fun i => decide (m.u (o + i) 1 ≠ 0)).map fun i => ⟨2, o + i⟩

/-- The lowest of the offsets at which something offends. -/
def lowest (l : List (Bool × Nat)) : Option LoadFail :=
  (l.filter (·.1)).foldl (fun (x : Option LoadFail) e => match x with
    | some f => if e.2 < f.detail then some ⟨2, e.2⟩ else x
    | none => some ⟨2, e.2⟩) none

/-! ### Order 2: header and section table (R46, Tables 3.1 and 3.2) -/

def Img.count (m : Img) : Nat := m.u 0x0A 2
def Img.signed (m : Img) : Nat := m.u 0x14 4
def Img.size (m : Img) : Nat := m.u 0x10 4

/-- The section-table entries: type, offset, length. -/
def Img.secs (m : Img) : List (Nat × Nat × Nat) :=
  (List.range m.count).map fun i => (m.u (0x100 + 16 * i) 2, m.u (0x104 + 16 * i) 4, m.u (0x108 + 16 * i) 4)

/-- Offset of the first section of a type, and its length. -/
def Img.sec (m : Img) (ty : Nat) : Option (Nat × Nat) := (m.secs.find? fun e => e.1 = ty).map (·.2)
def Img.at (m : Img) (ty : Nat) : Nat := (m.sec ty).elim 0 (·.1)
def Img.len (m : Img) (ty : Nat) : Nat := (m.sec ty).elim 0 (·.2)

/-- Table 3.2: how often a section type may occur. -/
def secMost (ty : Nat) : Nat := if ty = 0 ∨ 0xF < ty then 0 else if ty = 0xE then 50 else 1
def secLeast (ty : Nat) : Nat := if ty = 3 ∨ ty = 0xE then 0 else 1

/-- Entry i of the section table. -/
def Img.secFault (m : Img) (i : Nat) : Option LoadFail :=
  let e := 0x100 + 16 * i
  let before := m.secs.take i
  let ty := m.u e 2
  let o := m.u (e + 4) 4
  let n := m.u (e + 8) 4
  firstFail [badAt (decide (secMost ty ≤ (before.filter fun x => x.1 = ty).length)) e, m.zero (e + 2) 2,
    badAt (decide (o % 4096 ≠ 0 ∨ o < 4096) || (if ty = 0xF then decide (o ≠ m.signed) else decide (m.signed ≤ o))
      || before.any fun x => overlap o n x.2.1 x.2.2) (e + 4),
    badAt (if ty = 0xF then decide (n ≠ 16624) else decide (m.signed < o + n)) (e + 8), m.zero (e + 12) 4]

def Img.headerFault (m : Img) : Option LoadFail :=
  firstFail ([badAt (decide (m.u 0 8 ≠ 0x474D494D554C454D)) 0, badAt (decide (m.u 8 2 ≠ 1)) 8,
      badAt (decide (m.count < 13 ∨ 64 < m.count)) 0xA, badAt (decide (m.u 0xC 4 / 2 ≠ 0)) 0xC,
      badAt (decide (m.signed % 4096 ≠ 0)) 0x14, m.zero 0x2A 6, m.zero 0x60 160] ++
    (List.range (min m.count 64)).map m.secFault ++
    [badAt ((List.range 16).any fun ty => decide (1 ≤ ty) && decide ((m.secs.filter fun x => x.1 = ty).length < secLeast ty)) 0xA])

/-! ### Orders 3 to 7 -/

/-- Orders 3 and 4: size and target device. -/
def Img.sizeFault (m : Img) : Option LoadFail :=
  if m.size ≠ m.signed + 16624 ∨ 536870912 < m.size then some ⟨3, m.size⟩
  else if m.u 0x28 2 ≠ 0xFFFF ∧ m.u 0x28 2 ≠ m.d.id then some ⟨4, m.d.id⟩
  else none

/-- R47: the SHA-384 digest of the signed bytes, which is also the measurement. -/
def Img.digest (m : Img) : List Byte := sha384 (m.d.peek m.b m.signed)

/-- An owner key slot holds a key (R339): its 512 bytes are not all zero. -/
def Dev.enrolled (d : Dev) (k : Nat) : Bool := (d.trust.keys.getD k []).any fun b => decide (b ≠ 0)

/-- Orders 5 to 7: key, signatures, rollback (R47). -/
def Img.trustFault (m : Img) : Option LoadFail :=
  let k := m.u m.signed 1
  let key := m.d.trust.keys.getD k []
  if !m.d.enrolled k then some ⟨5, k⟩ else
  let rsa := rsaVerify key m.digest (m.d.peek (m.b + m.signed + 0x10) 384)
  let slh := slhVerify ((key.drop 388).take 48) m.digest (m.d.peek (m.b + m.signed + 0x190) 16224)
  if !rsa || !slh then some ⟨6, b2n (!rsa) + 2 * b2n (!slh)⟩
  else if m.u 0x24 4 < m.d.trust.minSvn then some ⟨7, m.d.trust.minSvn⟩ else none

/-! ### Orders 8 and 9: requirement and strength (R2, R3, R48) -/

def Img.strength (m : Img) : Nat := m.u (m.at 1 + 7) 1

/-- The good sites, by physical index (R313). -/
def Dev.goodSite (d : Dev) (p : Nat) : Bool := (d.get (R.PWR_SITES_W3_GOOD (p / 48))).testBit (p % 48)
def Dev.goodSites (d : Dev) : List Nat := (List.range 384).filter d.goodSite

/-- Usable HBM bytes at strength k (Table 14.2). -/
def Dev.usable (d : Dev) (k : Nat) : Nat :=
  d.stacks.length * 64 * usableSlots (d.get (R.HBM_STATUS_HEIGHT (d.stacks.headD 0))) k * 2048

/-- The fields of Table 3.3 that are counts: offset, size, offer (Table 0.2). -/
def Dev.offers (d : Dev) (k : Nat) : List (Nat × Nat × Nat) :=
  [(0x00, 1, d.get R.GLB_ID_ARCH_LEVEL), (0x01, 1, d.get R.GLB_OFFER_0_COMPUTE_DIES), (0x02, 2, d.get R.GLB_OFFER_0_TILES_TOTAL),
   (0x04, 1, d.get R.GLB_OFFER_0_TILES_PER_DIE), (0x05, 1, d.get R.GLB_OFFER_0_GANG_2X2), (0x06, 1, d.get R.GLB_OFFER_0_HBM_STACKS),
   (0x08, 2, d.usable k / 0x20000000), (0x0A, 1, d.get R.GLB_OFFER_1_AGX_GROUP_PORTS), (0x0B, 1, d.get R.GLB_OFFER_1_AGX_GLOBAL_PORTS),
   (0x0C, 1, d.get R.GLB_OFFER_1_ETH_PORTS), (0x0D, 1, d.get R.GLB_OFFER_0_CTRL_CORES), (0x10, 2, 128), (0x12, 2, 8192),
   (0x14, 4, 262144), (0x18, 4, 131072)]

def Img.requirementFault (m : Img) : Option LoadFail :=
  let r := m.at 1
  let k := m.strength
  let f (e : Nat × Nat × Nat) : Option LoadFail := if e.2.2 < m.u (r + e.1) e.2.1 then some ⟨8, e.1⟩ else none
  let o := m.d.offers k
  firstFail ((o.take 6).map f ++ [badAt (decide (k ≠ 1 ∧ k ≠ 2 ∧ k ≠ 4)) (r + 7)] ++ ((o.drop 6).take 5).map f ++
    [if (m.u (r + 0xE) 1 % 32) &&& (31 - m.d.get R.GLB_OFFER_0_FORMAT_MASK % 32) ≠ 0 then some ⟨8, 0xE⟩ else none] ++ (o.drop 11).map f)

/-- Order 9 (R62). -/
def Img.strengthFault (m : Img) : Option LoadFail :=
  if m.strength = m.d.strength then none
  else if m.d.imageActive then some ⟨9, m.d.strength⟩
  else if m.d.goodSites.length < ceilDiv m.size 0x800000 then some ⟨9, 8 * m.d.goodSites.length⟩
  else none

/-! ### Order 10: R49 to R58 -/

/-- A section is long enough for what its counts say. -/
def Img.needs (m : Img) (ty n : Nat) : Option LoadFail := badAt (decide (m.len ty < n)) (m.at ty)

def Img.tiles (m : Img) : Nat := m.u (m.at 2) 4
def Img.tileEntry (m : Img) (n : Nat) : Nat := m.u (m.at 2 + 4 + 8 * n) 8
def Img.role (m : Img) (n : Nat) : Nat := bits (m.tileEntry n) 2 0
def Img.die (m : Img) (n : Nat) : Nat := bits (m.tileEntry n) 7 4
def Img.gangOf (m : Img) (n : Nat) : Nat := bits (m.tileEntry n) 15 8

/-- R49, and the reserved fields of Table 3.3. -/
def Img.tilesFault (m : Img) : Option LoadFail :=
  let r := m.at 1
  firstFail ([m.needs 1 64, badAt (decide (m.u (r + 0xE) 1 / 32 ≠ 0)) (r + 0xE), m.zero (r + 0xF) 1, m.zero (r + 0x1C) 36,
      badAt (decide (m.tiles = 0 ∨ 320 < m.tiles ∨ m.tiles ≠ m.u (r + 2) 2)) (m.at 2), m.needs 2 (4 + 8 * m.tiles)] ++
    (List.range (min m.tiles 320)).flatMap fun n =>
      let e := m.at 2 + 4 + 8 * n
      [badAt (decide (m.role n = 7) || bitAt (m.tileEntry n) 3 || decide (8 ≤ m.die n ∧ m.die n ≤ 14)) e, m.zero (e + 2) 6])

def Img.gangs (m : Img) : Nat := if (m.sec 3).isSome then m.u (m.at 3) 4 else 0
/-- The four members of a gang: anchor, east, south, south-east. -/
def Img.gang (m : Img) (g : Nat) : List Nat := (List.range 4).map fun j => m.u (m.at 3 + 4 + 8 * g + 2 * j) 2

/-- R50. -/
def Img.gangsFault (m : Img) : Option LoadFail :=
  let o := m.at 3
  let g := m.gangs
  firstFail ([badAt (decide (80 < g) || (decide (0 < g) && decide (m.u (m.at 1 + 5) 1 = 0))) o,
      if (m.sec 3).isSome then m.needs 3 (4 + 8 * g) else none] ++
    ((List.range (min g 80)).flatMap fun i =>
      let l := m.gang i
      let earlier := (List.range i).flatMap m.gang
      (((List.range 4).zip l).map fun (j, t) =>
        badAt (decide (m.tiles ≤ t) || earlier.contains t || (l.take j).contains t || decide (m.gangOf t ≠ i)) (o + 4 + 8 * i + 2 * j)) ++
      [badAt (decide ((l.map m.role).eraseDups.length ≠ 1) || !([1, 2, 5, 6].contains (m.role (l.headD 0))) ||
        decide ((l.map m.die).eraseDups.length ≠ 1)) (o + 4 + 8 * i)]) ++
    (List.range (min m.tiles 320)).map fun n =>
      badAt (decide (m.gangOf n ≠ 0xFF) && !(decide (m.gangOf n < g) && (m.gang (m.gangOf n)).contains n)) (m.at 2 + 4 + 8 * n + 1))

def Img.groups (m : Img) : Nat := m.u (m.at 4) 4
/-- The logical tiles of a group. -/
def Img.group (m : Img) (g : Nat) : List Nat := setBits 320 (m.u (m.at 4 + 4 + 64 * g) 64)

/-- R51. -/
def Img.groupsFault (m : Img) : Option LoadFail :=
  let o := m.at 4
  firstFail ([badAt (decide (m.groups = 0 ∨ 1024 < m.groups)) o, m.needs 4 (4 + 64 * m.groups)] ++
    (List.range (min m.groups 1024)).flatMap fun g =>
      let e := o + 4 + 64 * g
      [m.zero (e + 40) 24, badAt ((m.group g).isEmpty || (m.group g).any fun t => decide (m.tiles ≤ t)) e])

/-- Table 3.7: an endpoint exists in this image. -/
def Img.endpointBad (m : Img) (x : Nat) : Bool :=
  let ty := bits x 15 12
  let i := bits x 11 0
  decide ((match ty with
    | 0 => m.tiles | 1 => m.tiles | 2 => 1 | 3 => 1 | 4 => 1 | 5 => 1 | 6 => 36 | 7 => 2 | 8 => 16 | _ => 0) ≤ i)

def Img.chans (m : Img) : Nat := m.u (m.at 5) 4
def Img.chan (m : Img) (c : Nat) : Nat := m.u (m.at 5 + 4 + 16 * c) 16

/-- R52, R278. -/
def Img.chansFault (m : Img) : Option LoadFail :=
  let o := m.at 5
  firstFail ([badAt (decide (m.chans = 0 ∨ 4096 < m.chans)) o, m.needs 5 (4 + 16 * m.chans)] ++
    (List.range (min m.chans 4096)).map fun c =>
      let e := o + 4 + 16 * c
      let v := m.chan c
      let data := decide (chanKind v = 1)
      let earlier (f : Nat → Nat) : Bool := (List.range c).any fun i => decide (f (m.chan i) / 4096 = 5)
      let ring := bits v 127 96
      let depth := bits v 79 64
      lowest ([(decide (2 ≤ chanKind v), e),
        (m.endpointBad (chanProducer v) || (decide (chanProducer v / 4096 = 5) && earlier chanProducer), e + 4),
        (m.endpointBad (chanConsumer v) || (decide (chanConsumer v / 4096 = 5) && earlier chanConsumer) ||
          (data && decide (1 < chanConsumer v / 4096)), e + 6),
        (decide (depth = 0) || (data && decide (4096 < depth)), e + 8), (decide (depth < bits v 95 80), e + 10),
        (if data then decide (ring % 2048 ≠ 0 ∨ 0x800000 < ring + 2048 * depth) else decide (ring ≠ 0), e + 12)] ++
        (List.range 4).map fun i => (decide ((bits v 31 2 * 4) >>> (8 * i) % 256 ≠ 0), e + i)))

def Img.streams (m : Img) : Nat := m.u (m.at 6) 4
def Img.opCount (m : Img) : Nat := m.u (m.at 7) 4
def Img.op (m : Img) (i : Nat) : Nat := m.u (m.at 7 + 8 + 64 * i) 64

/-- R53. -/
def Img.poolsFault (m : Img) : Option LoadFail :=
  firstFail ([(6, 32), (7, 64)].flatMap fun (ty, n) =>
    [badAt (decide (1048576 < m.u (m.at ty) 4)) (m.at ty), badAt (decide (m.u (m.at ty + 4) 4 ≠ n)) (m.at ty + 4),
     m.needs ty (8 + n * m.u (m.at ty) 4)])

def Img.deps (m : Img) : Nat := m.u (m.at 8) 4

/-- R54. DESIGN CHOICE: words after a list's count that are not zero fail the load (log entry 52). -/
def Img.depsFault (m : Img) : Option LoadFail :=
  let o := m.at 8
  firstFail ([badAt (decide (8191 < m.deps)) o, m.needs 8 (4 + 64 * m.deps)] ++
    (List.range (min m.deps 8191)).flatMap fun x =>
      let e := o + 4 + 64 * x
      let k := m.u e 2
      [badAt (decide (k = 0 ∨ 31 < k)) e] ++ ((List.range (min k 31)).map fun i =>
        let w := m.u (e + 2 + 2 * i) 2
        badAt (decide (sigTokens w ≠ 0 ∧ m.chans ≤ sigChan w)) (e + 2 + 2 * i)) ++ [m.zero (e + 2 + 2 * k) (62 - 2 * k)])

def Img.mainPages (m : Img) : Nat := m.u (m.at 9) 4
def Img.fillerPages (m : Img) : Nat := m.u (m.at 10) 4
/-- Image offset of library page i. -/
def Img.pageAt (m : Img) (i : Nat) : Nat :=
  if i < m.mainPages then m.at 9 + 132 + 32768 * i else m.at 10 + 4 + 32768 * (i - m.mainPages)
/-- Image offset of entry e of library page i. -/
def Img.entryAt (m : Img) (i e : Nat) : Nat := m.pageAt i + 32 * e

/-- The entries of every library page, as page and entry. -/
def Img.entries (m : Img) : List (Nat × Nat) :=
  (List.range (min (m.mainPages + m.fillerPages) 1024)).flatMap fun i => (List.range 1024).map fun e => (i, e)

/-- The reserved bits of an entry that are not zero (Table 2.2). -/
def entryReserved (w : Nat) : Nat :=
  (List.range 4).foldl (fun x k => x + ((bits w (64 * k + 63) (64 * k)) &&& (2 ^ 64 - 1 - entryMask k)) * 2 ^ (64 * k)) 0

/-- Where an operation descriptor names a stream: the low bits of the indices that are valid in its common part (Table 4.3) and in
the class parts of MATMUL_GROUPED (Table 4.5) and of attention (Table 9.4). -/
def streamRefs (v : Nat) : List Nat :=
  let c := bits v 7 0
  let attn := decide (0x10 ≤ c) && decide (c ≤ 0x12)
  ([(12, 32), (13, 52), (14, 72), (15, 92)].filter fun z => bitAt v z.1).map (·.2) ++
    (if c = 2 then [288] else []) ++
    (if attn then ([(208, 128), (209, 148), (210, 168), (211, 188)].filter fun z => bitAt v z.1).map (·.2) else []) ++
    (if c = 0x11 ∧ bitAt v 484 then [464] else [])

/-- R53: the stream indices in stream descriptor s: its scale stream, its index or expert list (Tables 6.1, 6.2). -/
def Img.streamFault (m : Img) (s : Nat) : Option LoadFail :=
  let q := m.at 6 + 8 + 32 * s
  let v := m.u q 32
  let k := bits v 60 57
  lowest [(bitAt v 103 && decide (m.streams ≤ bits v 123 104), q + 13), (decide (k = 4) && decide (m.streams ≤ bits v 163 144), q + 18),
    (decide (k = 2) && decide (m.streams ≤ bits v 207 188), q + 23)]

/-- One entry of a library page: reserved bits, lane, and the references of a valid entry. -/
def Img.entryFault (m : Img) (i e : Nat) : Option LoadFail :=
  let o := m.entryAt i e
  let w := m.u o 32
  let res := entryReserved w
  let slotCount := m.u (m.at 13) 4
  let dep (p : Nat × Nat) : Bool × Nat := (decide (sigTokens p.1 ≠ 0 ∧ m.chans ≤ sigChan p.1), o + p.2)
  let refs := if !entValid w then [] else
    [(decide (entLane w ≠ if i < m.mainPages then 0 else 1), o + 7), (decide (m.groups ≤ entGroup w), o),
     (decide (m.deps < entXlist w), o + 8), (decide (slotCount < entSlotPlan w), o + 11), (decide (m.opCount ≤ entOp w), o + 13)] ++
    ((entDeps w).zip [16, 18, 20, 22]).map dep ++ [dep (entSig1 w, 28), dep (entSig0 w, 30)]
  let q := m.at 7 + 8 + 64 * entOp w
  let v := m.op (entOp w)
  firstFail [lowest (((List.range 32).map fun j => (decide (res >>> (8 * j) % 256 ≠ 0), o + j)) ++ refs),
    if !entValid w then none else lowest ((streamRefs v).map fun lo => (decide (m.streams ≤ bits v (lo + 19) lo), q + lo / 8)),
    if !entValid w then none else
      firstFail (((streamRefs v).map fun lo => bits v (lo + 19) lo).map fun s => if s < m.streams then m.streamFault s else none)]

/-- R55. DESIGN CHOICE: a row with LIB = 0xFFFF and STATE = ACTIVE fails the load (log entry 53). -/
def Img.pagesFault (m : Img) : Option LoadFail :=
  let o := m.at 9
  firstFail ([badAt (decide (m.mainPages = 0 ∨ 1024 < m.mainPages)) o, badAt (decide (1024 < m.mainPages + m.fillerPages)) (m.at 10),
      m.needs 9 (132 + 32768 * m.mainPages), m.needs 10 (4 + 32768 * m.fillerPages)] ++
    ((List.range 8).flatMap fun p =>
      let r := o + 4 + 16 * p
      let lib := m.u r 2
      [badAt (decide (lib ≠ 0xFFFF ∧ m.mainPages + m.fillerPages ≤ lib)) r,
       badAt (decide (m.u (r + 2) 1 ≠ 0 ∧ (m.u (r + 2) 1 ≠ 2 ∨ lib = 0xFFFF))) (r + 2),
       badAt (decide (1 < m.u (r + 3) 1)) (r + 3), m.zero (r + 4) 4]) ++
    m.entries.map fun x => m.entryFault x.1 x.2)

/-- R56. -/
def Img.updateFault (m : Img) : Option LoadFail :=
  let o := m.at 11
  firstFail [badAt (decide (256 < m.u o 4)) o, badAt (decide (4096 < m.u (o + 4) 4)) (o + 4), badAt (decide (4096 < m.u (o + 8) 4)) (o + 8),
    m.needs 11 (12 + 512 * m.u o 4 + 64 * m.u (o + 4) 4 + 2048 * m.u (o + 8) 4)]

def Img.regions (m : Img) : List Region :=
  (List.range (min (m.u (m.at 12) 4) 256)).map fun i => regionOfEntry (m.u (m.at 12 + 4 + 32 * i) 32)

/-- Slots that the PINNED regions of a plan take on each pseudo-channel of stack s (R288). -/
def pinnedOn (rs : List Region) (s : Nat) : Nat :=
  rs.foldl (fun x r => if r.pinned && r.mask.testBit s then x + r.size / 0x4000000 * 512 / (setBits 24 r.mask).length else x) 0

/-- R57 for region i: its fields, what it overlaps, its pinning (R288) and its initial contents. -/
def Img.regionFault (m : Img) (i : Nat) : Option LoadFail :=
  let e := m.at 12 + 4 + 32 * i
  let w := m.u e 32
  let rs := m.regions
  let r := regionOfEntry w
  let earlier := rs.take i
  let k := m.strength
  let top := m.d.usable k
  let u := usableSlots (m.d.get (R.HBM_STATUS_HEIGHT (m.d.stacks.headD 0))) k
  let n := (setBits 24 r.mask).length
  let res := w &&& (2 ^ 104 - 2 ^ 64 + (2 ^ 48 - 2 ^ 8) + 16 + 3)
  firstFail [lowest (((List.range 32).map fun j => (decide (res >>> (8 * j) % 256 ≠ 0), e + j)) ++
      [(decide (r.init = 3 ∨ 1 < bits w 3 2), e), (decide (9 < r.tag), e + 6), (!r.pinned && decide (r.mask ≠ 0), e + 13)]),
    badRegion (decide (r.size = 0) || decide (top - 0x40000000 < r.base + r.size) ||
      (earlier.any fun q => overlap r.base r.size q.base q.size) ||
      ([6, 7, 8, 9].contains r.tag && earlier.any fun q => decide (q.tag = r.tag)) ||
      (r.pinned && (decide (n = 0) || (setBits 24 r.mask).any (fun s => !m.d.stacks.contains s) ||
        decide (r.size / 0x4000000 * 512 % n ≠ 0) || m.d.stacks.any fun s => decide (u < pinnedOn (rs.take (i + 1)) s))) ||
      (decide (r.init = 2) && (decide (r.initOff % 4096 ≠ 0 ∨ r.size < r.initLen) ||
        !(m.secs.any fun q => q.1 = 0xE && decide (q.2.1 ≤ r.initOff) && decide (r.initOff + r.initLen ≤ q.2.1 + q.2.2))))) i]

/-- R57, R273, R288: the whole plan. -/
def Img.planFault (m : Img) : Option LoadFail :=
  let o := m.at 12
  let n := m.u o 4
  let rs := m.regions
  let idx (p : Region → Bool) : List Nat := ((List.range rs.length).zip rs).filterMap fun (i, r) => if p r then some i else none
  let ev := idx fun r => r.tag = 1
  let od := idx fun r => r.tag = 2
  let pins := m.d.stacks.map (pinnedOn rs)
  firstFail ([badAt (decide (n = 0 ∨ 256 < n)) o, m.needs 12 (4 + 32 * n)] ++ (List.range (min n 256)).map m.regionFault ++
    [badRegion (decide (1 < pins.eraseDups.length)) ((idx fun r => r.pinned).getLastD 0),
     match ev, od with
     | [], [] => none
     | [a], [b] =>
       let p := rs.getD a (regionOfEntry 0)
       let q := rs.getD b (regionOfEntry 0)
       badRegion (decide (p.size ≠ q.size ∨ p.pinned ≠ q.pinned ∨ p.mask ≠ q.mask) || p.immutable || q.immutable) (max a b)
     | _, _ => some ⟨0xC, (ev ++ od).foldl max 0⟩])

/-- R58, Table 8.1: slot-plan entry p, from 1. -/
def Img.plan (m : Img) (p : Nat) : Nat := m.u (m.at 13 + 4 + 16 * (p - 1)) 16
def planNext (w : Nat) : Nat := bits w 127 112

/-- R157: the chain from entry p revisits no entry and has at most 36. -/
def Img.chainBad (m : Img) (c : Nat) : Nat → List Nat → Nat → Bool
  | 0, _, _ => true
  | n + 1, seen, p => if p = 0 ∨ c < p then false else if seen.contains p then true else m.chainBad c n (p :: seen) (planNext (m.plan p))

/-- R58, R157. -/
def Img.slotsFault (m : Img) : Option LoadFail :=
  let o := m.at 13
  let c := m.u o 4
  firstFail ([badAt (decide (65535 < c)) o, m.needs 13 (4 + 16 * c)] ++
    ((List.range (min c 65535)).map fun i =>
      let e := o + 4 + 16 * i
      let w := m.plan (i + 1)
      let res := w &&& (2 ^ 95 - 2 ^ 80 + (2 ^ 50 - 1))
      lowest (((List.range 16).map fun j => (decide (res >>> (8 * j) % 256 ≠ 0), e + j)) ++
        [(decide (bits w 57 50 = 0), e + 6), (decide (64 < bits w 63 58 + bits w 57 50), e + 7), (decide (bits w 71 64 = 0), e + 8),
         (decide (35 < bits w 111 106), e + 13), (decide (c < planNext w), e + 14)])) ++
    ((List.range (min c 65535)).map fun i => badAt (m.chainBad c 37 [] (i + 1)) (o + 4 + 16 * i + 14)) ++ [m.zero (m.signed + 1) 15])

/-- Order 10, in the order R49 to R58. -/
def Img.contentsFault (m : Img) : Option LoadFail :=
  firstFail [m.tilesFault, m.gangsFault, m.groupsFault, m.chansFault, m.poolsFault, m.depsFault, m.pagesFault, m.updateFault,
    m.planFault, m.slotsFault]

/-! ### Order 11: roles (R49, R76, R84) -/

/-- Table 3.5: the classes that a role permits. -/
def roleClasses : Nat → List Nat
  | 1 => [0x01, 0x02, 0x03, 0x40, 0x41, 0x50]
  | 2 => [0x10, 0x11, 0x12, 0x13, 0x01, 0x40, 0x41, 0x50]
  | 3 => [0x20, 0x21, 0x31, 0x40, 0x41, 0x50]
  | 4 => [0x22, 0x23, 0x40, 0x41, 0x50]
  | 5 => [0x31, 0x20, 0x40, 0x41, 0x50]
  | 6 => [0x30, 0x20, 0x40, 0x41, 0x50]
  | _ => []

/-- The class of an operation descriptor, and its GANG bit (Table 4.3). -/
def opClass (v : Nat) : Nat := bits v 7 0
def opGang (v : Nat) : Bool := bitAt v 11

def Img.rolesFault (m : Img) : Option LoadFail :=
  m.entries.findSome? fun (i, e) =>
    let w := m.u (m.entryAt i e) 32
    if !entValid w then none else
    let v := m.op (entOp w)
    let g := m.group (entGroup w)
    let ok (t : Nat) : Bool := (roleClasses (m.role t)).contains (opClass v) &&
      (!opGang v || (decide (m.gangOf t < m.gangs) && (m.gang (m.gangOf t)).all g.contains))
    if g.all ok then none else some ⟨0xB, 1024 * i + e⟩

/-! ### Order 12: placement (R60) -/

/-- A placement in work: the free good sites of each die, ascending, and what is placed. -/
structure Placing where
  free : List (List Nat)
  done : List (Nat × Nat)
deriving DecidableEq, Repr

/-- Dies by most free sites, the lowest first on ties. -/
def Placing.byMost (p : Placing) : List Nat :=
  let n (d : Nat) : Nat := (p.free.getD d []).length
  (List.range 8).foldl (fun l d =>
    let before := l.takeWhile fun x => decide (n d ≤ n x)
    before ++ d :: l.drop before.length) []

def Placing.take (p : Placing) (t d s : Nat) : Placing :=
  { free := p.free.set d ((p.free.getD d []).erase s), done := p.done ++ [(t, 48 * d + s)] }

/-- Pass 1, one gang. -/
def Placing.gang (p : Placing) (m : Img) (g : Nat) : Placing ⊕ Nat :=
  let l := m.gang g
  let die := m.die (l.headD 0)
  let dies := if die ≤ 7 then [die] else p.byMost
  let fit (d : Nat) : Option (Nat × Nat) :=
    let f := p.free.getD d []
    (f.find? fun s => decide (s / 8 ≤ 4) && decide (s % 8 ≤ 6) && [s, s + 1, s + 8, s + 9].all f.contains).map fun s => (d, s)
  match dies.findSome? fit with
  | some (d, s) => .inl ((l.zip [s, s + 1, s + 8, s + 9]).foldl (fun (q : Placing) x => q.take x.1 d x.2) p)
  | none => .inr (l.headD 0)

/-- Passes 2 to 4, one tile. -/
def Placing.tile (p : Placing) (m : Img) (t : Nat) : Placing ⊕ Nat :=
  let d := if m.die t ≤ 7 then m.die t else p.byMost.headD 0
  match p.free.getD d [] with
  | s :: _ => .inl (p.take t d s)
  | [] => .inr t

/-- R60: the placement, or the logical index of the first tile not placed. -/
def Img.placement (m : Img) : List Place ⊕ Nat :=
  let p0 : Placing := ⟨(List.range 8).map fun d => (List.range 48).filter fun s => m.d.goodSite (48 * d + s), []⟩
  let step {α : Type} (f : Placing → α → Placing ⊕ Nat) (r : Placing ⊕ Nat) (x : α) : Placing ⊕ Nat :=
    match r with | .inl p => f p x | .inr n => .inr n
  let ts := List.range m.tiles
  let loose := ts.filter fun t => m.gangOf t = 0xFF
  let order := (loose.filter fun t => m.role t ≠ 0 ∧ m.die t ≤ 7) ++ (loose.filter fun t => m.role t ≠ 0 ∧ 7 < m.die t) ++
    ts.filter fun t => m.role t = 0
  let r := (List.range m.gangs).foldl (step fun p g => p.gang m g) (.inl p0)
  match order.foldl (step fun p t => p.tile m t) r with
  | .inl p => .inl (p.done.map fun (t, s) =>
      { tile := t, phys := s, role := m.role t, gang := m.gangOf t
        pos := if m.gangOf t < m.gangs then (m.gang (m.gangOf t)).idxOf t else 0 })
  | .inr n => .inr n

/-- R59, Table 3.10: every check in its order; a RESTAGE leaves out orders 5 to 7. -/
def Img.check (m : Img) (restage : Bool) : LoadFail ⊕ List Place :=
  match firstFail [m.headerFault, m.sizeFault, if restage then none else m.trustFault, m.requirementFault, m.strengthFault,
      m.contentsFault, m.rolesFault] with
  | some f => .inl f
  | none => match m.placement with
    | .inl p => .inr p
    | .inr n => .inl ⟨0xA, n⟩

end Sys2Proof.Machine
end

