-- ==== Sys2Proof/Machine/Units.lean ====
section
/-!
DEFINITION. The unit power machine of R321 (Table 15.10), which tile sites, Agxis ports and Ethernet ports share, and
powering tiles in waves (R62, R309).
-/

namespace Sys2Proof.Machine

/-- Unit numbers: tile site t is t, Agxis port p is 384 + p, Ethernet port e is 420 + e. -/
def tileUnit (t : Nat) : Nat := t
def agxUnit (p : Nat) : Nat := 384 + p
def ethUnit (e : Nat) : Nat := 420 + e

/-- The field that shows a unit's state: 0 OFF, 1 ON, 2 DRAINING, 3 PEND_ON. -/
def unitPwr (u : Nat) : Fld :=
  if u < 384 then R.TILE_STATUS_PWR u else if u < 420 then R.AGX_PORT_STATUS_PWR (u - 384) else R.ETH_PORT_STATUS_PWR (u - 420)

/-- What an OFF_DONE or ON_DONE event names beside the state field: 0 for OFF_DONE, 1 for ON_DONE. -/
def Dev.powerEvent (d : Dev) (u : Nat) (on : Bool) : Dev := d.event (unitPwr u) (b2n on) noArg noArg

/-- A unit's state, and IMG_PLACE.POWERED of the logical tile on a site. -/
def Dev.setPwr (d : Dev) (u v : Nat) : Dev :=
  let d := d.set (unitPwr u) v
  if u < 384 then (d.placeAt u).elim d fun p => d.set (R.IMG_PLACE_POWERED p.tile) (b2n (v ≠ 0)) else d

/-- OFF to ON: power up. A port is usable at once, at TRAIN; a tile 200 µs later (Table 15.10). -/
def Dev.powerUp (d : Dev) (u : Nat) : Dev :=
  let d := d.setPwr u 1
  if u < 384 then { d with pwr := { d.pwr with rising := d.pwr.rising ++ [u] } }
  else
    let st : Fld := if u < 420 then R.AGX_PORT_STATUS_STATE (u - 384) else R.ETH_PORT_STATUS_STATE (u - 420)
    ((d.set st 1).event st (u - 384) noArg noArg).powerEvent u true

/-- Event Enable of Table 15.10. -/
def Dev.enableUnit (d : Dev) (u : Nat) : Dev :=
  match d.get (unitPwr u) with
  | 0 =>
    if d.pwr.offHold.contains u then
      { d with pwr := { d.pwr with held := if d.pwr.held.contains u then d.pwr.held else d.pwr.held ++ [u] } }
    else d.powerUp u
  | 2 => (d.set (unitPwr u) 3).count R.PWR_DOMAIN_EV_PEND_ON 1
  | _ => d

/-- Event Disable of Table 15.10. -/
def Dev.disableUnit (d : Dev) (u : Nat) : Dev :=
  match d.get (unitPwr u) with
  | 0 => { d with pwr := { d.pwr with held := d.pwr.held.erase u } }
  | 1 => { (d.set (unitPwr u) 2) with pwr := { d.pwr with rising := d.pwr.rising.erase u } }
  | 3 => d.set (unitPwr u) 2
  | _ => d

/-- Event Drain complete of Table 15.10. -/
def Dev.unitOff (d : Dev) (u : Nat) : Dev :=
  let held := decide (d.get (unitPwr u) = 3)
  let d := (d.setPwr u 0).count R.PWR_DOMAIN_EV_OFF_DONE 1
  let d := { d with pwr := { d.pwr with offHold := d.pwr.offHold ++ [u], held := if held then d.pwr.held ++ [u] else d.pwr.held } }
  d.powerEvent u false

/-- A tile site is ON and usable. -/
def Dev.tileReady (d : Dev) (t : Nat) : Bool := d.get (R.TILE_STATUS_PWR t) = 1 && !d.pwr.rising.contains t

/-- R62, R309: the next wave of at most 48 sites starts once the last has ended. -/
def Dev.nextWave (d : Dev) : Dev :=
  if d.pwr.rising.isEmpty && !d.pwr.wave.isEmpty then
    let w := d.pwr.wave.take 48
    let d := { d with pwr := { d.pwr with wave := d.pwr.wave.drop 48 } }
    w.foldl Dev.enableUnit d
  else d

/-- A start is in its steps 7 to 11 (Table 15.2); the sites are not reconciled before step 9. -/
def Dev.starting (d : Dev) : Bool := d.pins.on && decide (d.get R.PWR_STATE_DEV_STATE ≤ 1) && decide (7 ≤ d.get R.PWR_STATE_BOOT_STEP)

/-- R309: the sites in the order of their waves: wave w is sites 6w to 6w + 5 of every compute die. -/
def waveOrder : List Nat :=
  (List.range 8).flatMap fun w => (List.range 8).flatMap fun c => (List.range 6).map fun i => 48 * c + 6 * w + i

/-- Step 7: all 384 sites are powered, in waves (R14, R309). -/
def Dev.powerSites (d : Dev) : Dev := { d.set R.PWR_STATE_BOOT_STEP 7 with pwr := { d.pwr with wave := waveOrder } }.nextWave

/-- When step 10 has ended every site goes OFF (Table 15.2). The minimum off time passes during step 11. -/
def Dev.sitesOff (d : Dev) : Dev :=
  let d : Dev := { d with pwr := { d.pwr with rising := [], wave := [] } }
  ((List.range 384).filter fun t => decide (d.get (unitPwr t) ≠ 0)).foldl (fun (d : Dev) t =>
    ((d.setPwr t 0).count R.PWR_DOMAIN_EV_OFF_DONE 1).powerEvent t false) d

/-- No site is powering up or waits for a wave. -/
def Dev.powerSettled (d : Dev) : Bool := d.pwr.rising.isEmpty && d.pwr.wave.isEmpty && !(d.pwr.held.any fun u => decide (u < 384))

end Sys2Proof.Machine
end

