-- ==== Sys2Proof/Machine/Kv.lean ====
section
/-!
DEFINITION. KV pages, prefixes and sequence contexts (spec/10_kv_pages.md): frame entries and free lists (R203, R204,
R209), page tables (R205), the frame machine (Table 10.6), APPEND and COW (R212, R213), the prefix index (R214–R219),
contexts (R220–R223), translation (R206, R207).
-/

namespace Sys2Proof.Machine

/-- No frame (R203). -/
def noFrame : Nat := 0xFFFFFFFF

/-- A result code of Table 10.5 and RESULT_ARG, or the command waits. -/
inductive KvRes where
  | done (d : Dev) (code arg : Nat)
  | wait

/-! ### Frames and their entries -/

def Dev.frameSize (d : Dev) : Nat := if d.flag R.KVP_CFG_FRAME_32K then 32768 else 16384

/-- N (R203). -/
def Dev.frameCount (d : Dev) : Nat :=
  let total := (d.img.regions.filter fun r => r.tag = 5).foldl (fun x r => x + r.size / d.frameSize) 0
  min (min total (((d.tagged 6).elim 0 (·.size)) / 272)) (2 ^ 32 - 2)

/-- HBM offset of frame f: frames are numbered through the KV_FRAMES regions in plan order. -/
def Dev.frameAddr (d : Dev) (f : Nat) : Nat :=
  ((d.img.regions.filter fun r => r.tag = 5).foldl (fun (x : Nat × Option Nat) r =>
    let n := r.size / d.frameSize
    match x.2 with
    | some _ => x
    | none => if x.1 < n then (x.1, some (r.base + d.frameSize * x.1)) else (x.1 - n, none)) (f, none)).2.getD 0

/-- Where the entry and the summary of frame f lie (R203, R204). -/
def Dev.entryAt (d : Dev) (f : Nat) : Nat := ((d.tagged 6).elim 0 (·.base)) + 16 * f
def Dev.summaryAt (d : Dev) (f : Nat) : Nat := ((d.tagged 6).elim 0 (·.base)) + 16 * d.frameCount + 256 * f

/-- The entry of frame f, through the entry cache; none where it is lost to an uncorrectable error (R224) or there is no
such frame. -/
def Dev.frameEntry (d : Dev) (f : Nat) : Option Nat :=
  if d.frameCount ≤ f then none else
  match d.kv.cache.find? fun e => e.1 = f with
  | some e => some e.2
  | none => if d.poisonedAt (d.entryAt f) 16 then none else some (d.peekNat (d.entryAt f) 16)

/-- Fields of a frame entry (Table 10.1). -/
def feState (e : Nat) : Nat := bits e 34 32
def fePin (e : Nat) : Nat := bits e 31 16
def feRef (e : Nat) : Nat := bits e 15 0
def feFill (e : Nat) : Nat := bits e 70 64
def feMake (next fmt dim fill state pin ref : Nat) : Nat :=
  next * 2 ^ 96 + fmt % 4 * 2 ^ 72 + dim % 2 * 2 ^ 71 + fill % 128 * 2 ^ 64 + state % 8 * 2 ^ 32 + pin % 65536 * 65536 + ref % 65536
/-- An entry with some fields changed. -/
def feWith (e : Nat) (fill state pin ref : Nat) : Nat := feMake (bits e 127 96) (bits e 73 72) (bits e 71 71) fill state pin ref

/-- A cached entry goes to HBM. -/
def Dev.writeBack (d : Dev) (e : Nat × Nat) : Dev := d.hbmWrite (d.entryAt e.1) (leBytes 16 e.2) fun _ => false

/-- A frame entry is written: into the write-back cache of 131,072 entries, of which the oldest goes to HBM. -/
def Dev.setFrame (d : Dev) (f e : Nat) : Dev :=
  let c := (f, e) :: d.kv.cache.filter fun x => x.1 ≠ f
  let d := { d with kv := { d.kv with cache := c.take 131072 } }
  (c.drop 131072).foldl Dev.writeBack d

/-- KVP_CTL.FLUSH: the cache is written back. -/
def Dev.flushFrames (d : Dev) : Dev :=
  let d := d.kv.cache.foldl Dev.writeBack d
  { d with kv := { d.kv with cache := [] } }

/-- The free list of a bank, head first. -/
def Dev.freeList (d : Dev) (b : Nat) : List Nat := stGet (fun _ => []) d.kv.free b
def Dev.setFree (d : Dev) (b : Nat) (l : List Nat) : Dev := { d with kv := { d.kv with free := stSet (fun _ => []) d.kv.free b l } }

/-- R209: a frame becomes FREE, linked at the head of its bank's list. -/
def Dev.linkFrame (d : Dev) (f : Nat) : Dev :=
  let b := f % 64
  let l := d.freeList b
  let d := (d.setFree b (f :: l)).setFrame f (feMake (l.headD noFrame) 0 0 0 0 0 0)
  (d.set R.KVP_STATUS_FREE (d.get R.KVP_STATUS_FREE + 1)).count R.KVP_FRAMES_RETURNS 1

/-- R209: the first non-empty free list after the bank of the previous ALLOC gives its head. -/
def Dev.takeFrame (d : Dev) : Option (Nat × Dev) :=
  let banks := (List.range 64).map fun i => (d.kv.lastBank + 1 + i) % 64
  match banks.find? fun b => !(d.freeList b).isEmpty with
  | none => none
  | some b =>
    let l := d.freeList b
    let d := d.setFree b l.tail
    let d := { d with kv := { d.kv with lastBank := b } }
    some (l.headD 0, (d.set R.KVP_STATUS_FREE (d.get R.KVP_STATUS_FREE - 1)).count R.KVP_FRAMES_ALLOCS 1)

/-- R211: an ALLOC finds no frame. -/
def Dev.noFrames (d : Dev) (arg : Nat) : KvRes := .done (d.raise1 R.KVP_ERR_NO_FRAME arg) 1 0
def Dev.badState (d : Dev) (f : Nat) : KvRes := .done (d.raise1 R.KVP_ERR_BAD_STATE f) 2 0

/-- A frame whose entry is lost (R224). -/
def Dev.lostFrame (d : Dev) (f : Nat) : KvRes := ((d.raise1 R.KVP_ERR_POISON f).contained 0 63 (d.entryAt f)).badState f

/-! ### Contexts and their tables -/

def Dev.seqCtx (d : Dev) (h : Nat) : Option SeqRec := stGet (fun _ => none) d.kv.ctxs h
def Dev.ctxState (d : Dev) (h : Nat) : Nat := (d.seqCtx h).elim 0 (·.state)

/-- SEQ_STATUS and SEQ_CTX_h brought up to date for a handle. -/
def Dev.refreshSeq (d : Dev) (h : Nat) : Dev :=
  let n (p : SeqRec → Bool) : Nat := (d.kv.ctxs.filter fun e => e.2.elim false p).length
  let d := (((d.set R.SEQ_STATUS_LIVE (n fun _ => true)).set R.SEQ_STATUS_SPILLED (n fun r => r.state = 3)).set
    R.SEQ_STATUS_RESIDENT (n fun r => r.state ≠ 3)).set R.SEQ_STATUS_PARKED (n fun r => r.state = 2)
  let r := d.seqCtx h
  ((d.set (R.SEQ_CTX_STATE h) (r.elim 0 (·.state))).set (R.SEQ_CTX_CLASS h) (r.elim 0 (·.cls))).set
    (R.SEQ_CTX_PARK_BEAT h) (r.elim 0 (·.park))

def Dev.setCtx (d : Dev) (h : Nat) (r : Option SeqRec) : Dev :=
  ({ d with kv := { d.kv with ctxs := stSet (fun _ => none) d.kv.ctxs h r } }).refreshSeq h

/-- The handle bound to a context number, as bound in force (R220). -/
def Dev.bound (d : Dev) (ctx : Nat) : Option Nat :=
  if 128 ≤ ctx then none
  else if d.force (R.SEQ_BIND_VALID ctx) = 1 then some (d.force (R.SEQ_BIND_HANDLE ctx)) else none

/-- The context numbers bound now, with their handles. -/
def Dev.bindings (d : Dev) : List (Nat × Nat) := (List.range 128).filterMap fun c => (d.bound c).map fun h => (c, h)

/-- The 16-byte level-1 entry of (layer, head); none where they are outside the context. -/
def Dev.l1Entry (d : Dev) (r : SeqRec) (layer head : Nat) : Option Nat :=
  if r.layers ≤ layer ∨ r.heads ≤ head then none
  else
    let e := d.peekNat (r.l1 + 16 * (layer * r.heads + head)) 16
    if bitAt e 45 then some e else none

/-- Where the level-2 entry of a page lies (R205); none outside the tables. -/
def Dev.l2At (d : Dev) (r : SeqRec) (layer head page : Nat) : Option Nat :=
  match d.l1Entry r layer head with
  | some e => if page < bits e 95 64 then some (bits e 44 0 + 4 * page) else none
  | none => none

/-- R207: a key leaves every look-aside buffer. -/
def Dev.dropKey (d : Dev) (h layer head page : Nat) : Dev :=
  { d with kv := { d.kv with lab := d.kv.lab.map fun e => (e.1, e.2.filter fun k => k.key ≠ ⟨h, layer, head, page⟩) } }

/-- R207: every look-aside and level-1 entry of a context is dropped. -/
def Dev.dropHandle (d : Dev) (h : Nat) : Dev :=
  { d with kv := { d.kv with lab := d.kv.lab.map fun e => (e.1, e.2.filter fun k => k.key.h ≠ h)
                             l1 := d.kv.l1.map fun e => (e.1, e.2.filter fun k => k.key.h ≠ h) } }

/-- The page manager changes a level-2 entry. -/
def Dev.setL2 (d : Dev) (h layer head page at_ f : Nat) : Dev :=
  ((d.memWrite 63 at_ (leBytes 4 f) fun _ => false).1).dropKey h layer head page

/-! ### The frame machine (Table 10.6) -/

/-- PIN. -/
def Dev.pinFrame (d : Dev) (f : Nat) : KvRes :=
  match d.frameEntry f with
  | none => d.lostFrame f
  | some e =>
    if [1, 3, 4].contains (feState e) then
      if fePin e = 65535 then .wait
      else .done ((d.setFrame f (feWith e (feFill e) (feState e) (fePin e + 1) (feRef e))).count R.KVP_PIN_PINS 1) 0 (feState e)
    else if feState e = 2 then .wait
    else d.badState f

/-- UNPIN. -/
def Dev.unpinFrame (d : Dev) (f : Nat) : KvRes :=
  match d.frameEntry f with
  | none => d.lostFrame f
  | some e =>
    if fePin e = 0 then d.badState f
    else
      let d := d.count R.KVP_PIN_UNPINS 1
      if feState e = 5 ∧ fePin e = 1 then .done (d.linkFrame f) 0 0
      else .done (d.setFrame f (feWith e (feFill e) (feState e) (fePin e - 1) (feRef e))) 0 0

/-- FREE of a frame that is no group: one reference is dropped. -/
def Dev.freeRef (d : Dev) (f : Nat) : KvRes :=
  match d.frameEntry f with
  | none => d.lostFrame f
  | some e =>
    match feState e with
    | 3 => .wait
    | 0 => d.badState f
    | 5 => d.badState f
    | _ =>
      if 1 < feRef e then .done (d.setFrame f (feWith e (feFill e) (feState e) (fePin e) (feRef e - 1))) 0 0
      else if fePin e = 0 then .done (d.linkFrame f) 0 0
      else .done (d.setFrame f (feWith e (feFill e) 5 (fePin e) 0)) 0 0

/-- The device after an operation whose refusal changes nothing else. -/
def KvRes.dev (r : KvRes) (d : Dev) : Dev := match r with | .done d _ _ => d | .wait => d

/-- R217: a reference on a group is dropped; at 0 its frames and its parent are freed, and the group frame. `fuel` bounds
the chain of parents by the number of frames. -/
def Dev.freeGroup (d : Dev) (fuel f : Nat) : Dev :=
  match fuel, d.frameEntry f with
  | n + 1, some e =>
    if feState e ≠ 6 then d
    else if 1 < feRef e then d.setFrame f (feWith e (feFill e) 6 0 (feRef e - 1))
    else
      let a := d.frameAddr f
      let cnt := d.peekNat (a + 0x10) 2 * d.peekNat (a + 0x12) 2
      let parent := d.peekNat (a + 0x08) 4
      let d := (List.range cnt).foldl (fun (d : Dev) i => (d.freeRef (d.peekNat (a + 0x200 + 4 * i) 4)).dev d) d
      let d := if parent = noFrame then d else d.freeGroup n parent
      d.linkFrame f
  | _, _ => d

/-- FREE, for a frame of any state. -/
def Dev.freeAny (d : Dev) (f : Nat) : KvRes :=
  match d.frameEntry f with
  | none => d.lostFrame f
  | some e => if feState e = 6 then .done (d.freeGroup (d.frameCount + 1) f) 0 0 else d.freeRef f

/-- SHARE's reference. -/
def Dev.shareRef (d : Dev) (f : Nat) : KvRes :=
  match d.frameEntry f with
  | none => d.lostFrame f
  | some e =>
    match feState e with
    | 4 =>
      if feRef e = 65535 then .done (d.raise1 R.KVP_ERR_REF_SAT f) 4 0
      else .done (d.setFrame f (feWith e (feFill e) 4 (fePin e) (feRef e + 1))) 0 f
    | 3 => .wait
    | _ => d.badState f

/-- Work joins the queue of the append engine (R209). -/
def Dev.queueWork (d : Dev) (w : KvWork) : Dev := { d with kv := { d.kv with work := d.kv.work ++ [w] } }

/-- SEAL: the summary is the append engine's work (R187, R209, R211). -/
def Dev.sealFrame (d : Dev) (f : Nat) : KvRes :=
  match d.frameEntry f with
  | none => d.lostFrame f
  | some e =>
    match feState e with
    | 1 =>
      if feFill e < 64 then .done d 3 0
      else .done ((d.setFrame f (feWith e 64 3 (fePin e) (feRef e))).queueWork (.sealing f)) 0 f
    | 4 => .done d 0 f
    | 3 => .wait
    | 2 => .wait
    | _ => d.badState f

/-! ### Commands (Table 10.3) -/

def kvSig (r : Nat) : Nat := bits r 255 240
def kvAddr (r : Nat) : Nat := bits r 172 128
def kvArg (r : Nat) : Nat := bits r 127 96
def kvPos (r : Nat) : Nat := bits r 95 64
def kvKeep (r : Nat) : Nat := bits r 46 40
def kvHeadCnt (r : Nat) : Nat := bits r 39 32 + 1
def kvHead (r : Nat) : Nat := bits r 31 24
def kvLayer (r : Nat) : Nat := bits r 23 16
def kvCtx (r : Nat) : Nat := bits r 15 8
def kvOp (r : Nat) : Nat := bits r 7 0

/-- A reserved field is set (Table 10.3). -/
def kvReserved (r : Nat) : Bool := decide (bits r 63 47 ≠ 0) || decide (bits r 199 173 ≠ 0)

/-- A context that a command names: none where it is unbound or FREE; a SPILLED one must be restored first. -/
inductive Named where
  | noCtx
  | spilled (h : Nat)
  | ctx (h : Nat) (r : SeqRec)

def Dev.named (d : Dev) (ctx : Nat) : Named :=
  match d.bound ctx with
  | none => .noCtx
  | some h => match d.seqCtx h with
    | none => .noCtx
    | some r => if r.state = 3 then .spilled h else .ctx h r

/-- A record read (Table 10.9). -/
def seqOfBytes (b : List Byte) : SeqRec :=
  { state := recNat b 2 1, cls := recNat b 3 1, fmt := recNat b 4 1, dim := recNat b 5 1, layers := recNat b 6 2, heads := recNat b 8 2
    l1 := recNat b 0x10 8, hwm := recNat b 0x18 4, park := recNat b 0x20 8 }

/-- Where the record of a handle lies. -/
def Dev.spillAt (d : Dev) (h : Nat) : Option Nat := (d.tagged 7).map fun r => r.base + 256 * h

/-- The record of a context, read back where it is SPILLED. -/
def Dev.fullRec (d : Dev) (h : Nat) : Option SeqRec :=
  match d.seqCtx h with
  | some r => if r.state = 3 then (d.spillAt h).map fun a => { seqOfBytes (d.peek a 256) with state := 3 } else some r
  | none => none

/-- An operation names a SPILLED context: it waits to be restored (Table 10.10). -/
def Dev.wantRestore (d : Dev) (h : Nat) : Dev :=
  if d.kv.restores.contains h then d else { d with kv := { d.kv with restores := d.kv.restores ++ [h] } }

/-- An operation on the page (CTX, LAYER, HEAD, POS) of a record: its level-2 entry's offset and value. -/
def Dev.onPage (d : Dev) (r : Nat) (f : Nat → SeqRec → Nat → Nat → KvRes) : KvRes :=
  match d.named (kvCtx r) with
  | .noCtx => .done (d.raise1 R.KVP_ERR_NO_CTX (kvCtx r)) 6 0
  | .spilled _ => .wait
  | .ctx h c =>
    match d.l2At c (kvLayer r) (kvHead r) (kvPos r / 64) with
    | none => .done d 5 0
    | some a => f h c a (d.peekNat a 4)

/-- ALLOC. -/
def Dev.kvAlloc (d : Dev) (r : Nat) : KvRes :=
  d.onPage r fun h c a f =>
    if f ≠ noFrame then d.badState f
    else if d.kv.rebuild then .wait
    else match d.takeFrame with
      | none => d.noFrames h
      | some (n, d) =>
        let d := d.setFrame n (feMake 0 c.fmt c.dim 0 1 0 1)
        .done (d.setL2 h (kvLayer r) (kvHead r) (kvPos r / 64) a n) 0 n

/-- SHARE. -/
def Dev.kvShare (d : Dev) (r : Nat) : KvRes :=
  d.onPage r fun h _ a f =>
    if f ≠ noFrame then d.badState f
    else match d.shareRef (kvArg r) with
      | .done d 0 n => .done (d.setL2 h (kvLayer r) (kvHead r) (kvPos r / 64) a n) 0 n
      | x => x

/-- R213: a page is copied from F, with entry e and then in state `st` with `ref` references, into the new frame n; both
are pinned, and `keep` positions of n count as written. -/
def Dev.copyPage (d : Dev) (f e n st ref keep : Nat) : Dev :=
  let d := d.setFrame n (feMake 0 (bits e 73 72) (bits e 71 71) 0 2 1 1)
  let d := d.setFrame f (feWith e (feFill e) st (fePin e + 1) ref)
  ((d.count R.KVP_PIN_PINS 2).count R.KVP_COPY_COWS 1).queueWork (.copy ⟨f, n, keep⟩)

/-- COW (R213). Its pin of the source waits at PIN = 65,535 (R211). -/
def Dev.kvCow (d : Dev) (r : Nat) : KvRes :=
  d.onPage r fun h _ a f =>
    if f = noFrame then d.badState f
    else match d.frameEntry f with
      | none => d.lostFrame f
      | some e =>
        match feState e with
        | 1 => .done d 0 f
        | 2 => .wait
        | 3 => .wait
        | 4 =>
          if d.kv.rebuild || decide (fePin e = 65535) then .wait
          else match d.takeFrame with
            | none => d.noFrames h
            | some (n, d) =>
              let d := d.copyPage f e n (if feRef e ≤ 1 then 5 else 4) (feRef e - 1) (if kvKeep r = 0 then 64 else kvKeep r)
              .done (d.setL2 h (kvLayer r) (kvHead r) (kvPos r / 64) a n) 0 n
        | _ => d.badState f

/-- FREE. -/
def Dev.kvFree (d : Dev) (r : Nat) : KvRes :=
  if kvCtx r = 0xFF then d.freeAny (kvArg r)
  else d.onPage r fun h _ a f =>
    if f = noFrame then d.badState f
    else match d.freeAny f with
      | .done d 0 x => .done (d.setL2 h (kvLayer r) (kvHead r) (kvPos r / 64) a noFrame) 0 x
      | x => x

/-- SEAL. -/
def Dev.kvSeal (d : Dev) (r : Nat) : KvRes :=
  if kvCtx r = 0xFF then d.sealFrame (kvArg r)
  else d.onPage r fun _ _ _ f => if f = noFrame then d.badState f else d.sealFrame f

/-! ### APPEND (R212) -/

/-- Bytes of an element of a page format; head dimension. -/
def pageElem (fmt : Nat) : Nat := if fmt = 0 then 2 else 1
def pageDim (dim : Nat) : Nat := if dim = 0 then 128 else 64

/-- The frame and the entry of page `page` of head HEAD + j; none where the page is outside the tables. -/
def Dev.headPage (d : Dev) (c : SeqRec) (r j page : Nat) : Option (Nat × Option Nat) :=
  (d.l2At c (kvLayer r) (kvHead r + j) page).map fun a => let f := d.peekNat a 4; (f, if f = noFrame then none else d.frameEntry f)

/-- POS is 64 × page + FILL of a head's tail frame: FILL positions of its page are written and, at the start of a page, all
64 of the page before. None where a copy into one of these frames still runs, so that its FILL is not known yet. -/
def Dev.appendPos (d : Dev) (c : SeqRec) (r j : Nat) : Option Bool :=
  let page := kvPos r / 64
  let fill (p : Nat) : Option Nat := match d.headPage c r j p with
    | some (f, e) => if f = noFrame then some 0 else e.elim (some 0) fun e => if feState e = 2 then none else some (feFill e)
    | none => some 0
  match fill page with
  | none => none
  | some x =>
    if x ≠ kvPos r % 64 then some false
    else if x ≠ 0 ∨ page = 0 then some true
    else (fill (page - 1)).map fun y => decide (y = 64)

/-- What the state of one head's page gives: a refusal or a wait, or the frame it has. -/
def Dev.appendPage (d : Dev) (c : SeqRec) (r j page : Nat) : KvRes ⊕ Option Nat :=
  match d.headPage c r j page with
  | none => .inl (.done d 5 0)
  | some (f, e) =>
    if f = noFrame then .inr none
    else match e with
      | none => .inl (d.lostFrame f)
      | some e =>
        if feState e = 2 then .inl .wait
        else if feState e ≠ 1 ∨ (page ≠ kvPos r / 64 ∧ feFill e ≠ 0) then .inl (d.badState f)
        else .inr (some f)

/-- The pages that an APPEND of n positions writes. -/
def appendPages (r : Nat) : List Nat :=
  if kvArg r = 0 then [] else (List.range ((kvPos r % 64 + kvArg r - 1) / 64 + 1)).map (· + kvPos r / 64)

/-- APPEND takes the positions of one head's page: FILL grows, and at 64 the page is SEALING (Table 10.6). -/
def Dev.appendFill (d : Dev) (r : Nat) (x : Nat × Nat × Nat) : Dev :=
  match d.frameEntry x.2.2 with
  | some e =>
    let fill := min (kvPos r + kvArg r) (64 * x.2.1 + 64) - 64 * x.2.1
    d.setFrame x.2.2 (feWith e fill (if fill = 64 then 3 else 1) (fePin e) (feRef e))
  | none => d

/-- A page without a frame is allocated (R212). -/
def Dev.appendAlloc (d : Dev) (h : Nat) (c : SeqRec) (r j page : Nat) : Dev × Option Nat :=
  match d.takeFrame, d.l2At c (kvLayer r) (kvHead r + j) page with
  | some (f, d), some a => ((d.setFrame f (feMake 0 c.fmt c.dim 0 1 0 1)).setL2 h (kvLayer r) (kvHead r + j) page a f, some f)
  | _, _ => (d, none)

/-- APPEND takes effect (R209, R212): the new pages are allocated, FILL and POS_HWM grow; the engine has the positions to
write, and then the summaries of the pages that filled. -/
def Dev.appendTake (d : Dev) (cmd : KvCmd) (h : Nat) (c : SeqRec) (pages : List (Nat × Nat × Option Nat)) : Dev :=
  let r := cmd.word
  let (d, l) := pages.foldl (fun (x : Dev × List (Nat × Nat × Nat)) y => match y.2.2 with
    | some f => (x.1, x.2 ++ [(y.1, y.2.1, f)])
    | none => match x.1.appendAlloc h c r y.1 y.2.1 with
      | (d, some f) => (d, x.2 ++ [(y.1, y.2.1, f)])
      | (d, none) => (d, x.2)) (d, [])
  let d := l.foldl (fun (d : Dev) x => d.appendFill r x) d
  let d := if kvArg r = 0 then d else d.setCtx h (some { c with hwm := max c.hwm (kvPos r + kvArg r) })
  let full := l.filter fun x => decide (64 * x.2.1 + 64 ≤ kvPos r + kvArg r)
  full.foldl (fun (d : Dev) x => d.queueWork (.sealing x.2.2)) (d.queueWork (.append ⟨cmd, c.fmt, c.dim, l⟩))

/-- APPEND: first every check, in the order of R212's list; the ranges come before them. -/
def Dev.kvAppend (d : Dev) (cmd : KvCmd) : KvRes :=
  let r := cmd.word
  match d.named (kvCtx r) with
  | .noCtx => .done (d.raise1 R.KVP_ERR_NO_CTX (kvCtx r)) 6 0
  | .spilled _ => .wait
  | .ctx h c =>
    let heads := List.range (kvHeadCnt r)
    let all := heads.flatMap fun j => (appendPages r).map fun p => (j, p)
    if all.any fun x => (d.headPage c r x.1 x.2).isNone then .done d 5 0
    else
      let pos := heads.map fun j => d.appendPos c r j
      if pos.any (·.isNone) then .wait
      else if pos.any (· == some false) then .done d 3 0
      else
        let checks := all.map fun x => (x.1, x.2, d.appendPage c r x.1 x.2)
        match checks.findSome? fun x => match x.2.2 with | .inl y => some y | .inr _ => none with
        | some y => y
        | none =>
          let pages := checks.filterMap fun x => match x.2.2 with | .inr f => some (x.1, x.2.1, f) | .inl _ => none
          if d.kv.rebuild then .wait
          else if d.get R.KVP_STATUS_FREE < (pages.filter fun x => x.2.2.isNone).length then d.noFrames h
          else .done (d.appendTake cmd h c pages) 0xFF 0

/-- The positions of one head and page are written: keys into the K part, values scattered into the V part (R202, R212). -/
def Dev.appendWrite (d : Dev) (fmt dim r : Nat) (x : Nat × Nat × Nat) : Dev :=
  let (j, page, f) := x
  let e := pageElem fmt
  let dm := pageDim dim
  let n := kvArg r
  let src := kvAddr r + j * 2 * n * dm * e
  let base := d.frameAddr f
  let lo := max (kvPos r) (64 * page)
  let hi := min (kvPos r + n) (64 * page + 64)
  (List.range (hi - lo)).foldl (fun (d : Dev) i =>
    let t := lo + i - kvPos r
    let slot := lo + i - 64 * page
    let (d, k) := d.memRead 63 (src + t * dm * e) (dm * e)
    let (d, v) := d.memRead 63 (src + (n + t) * dm * e) (dm * e)
    match k, v with
    | some k, some v =>
      let d := d.hbmWrite (base + slot * dm * e) k.bytes fun o => k.poison.getD o false
      (List.range dm).foldl (fun (d : Dev) m =>
        d.hbmWrite (base + 64 * dm * e + (64 * m + slot) * e) ((v.bytes.drop (m * e)).take e) fun o => v.poison.getD (m * e + o) false) d
    | _, _ => d) d

/-! ### The prefix index (R214–R219) -/

/-- R215: the hash of a chunk's 64 tokens after its predecessor's. -/
def prefixHash (salt : Nat) (c g : Nat) (tok : List Nat) : Nat :=
  let m (x : Nat) : Nat := x % 2 ^ 64
  let h0 := if c = 0 then 0x6A3D91C407E2B85F ^^^ salt else g
  let h := (List.range 32).foldl (fun h i =>
    let w := tok.getD (2 * i) 0 + tok.getD (2 * i + 1) 0 * 2 ^ 32
    let h := m ((h ^^^ w) * 0x9B1F4C37E2A658D5)
    h ^^^ (h >>> 31)) h0
  let h := m ((h ^^^ (h >>> 29)) * 0xC3A56E190B7DF247)
  h ^^^ (h >>> 32)

/-- The tokens of chunk c of a token array. -/
def Dev.tokensOf (d : Dev) (addr c : Nat) : List Nat := (List.range 64).map fun i => d.peekNat (addr + 256 * c + 4 * i) 4

/-- The ways of a set that are in use, with their index. -/
def Dev.pfxWays (d : Dev) (set : Nat) : List (Nat × PfxEnt) :=
  (List.range 8).filterMap fun w => (stGet (fun _ => none) d.kv.pfx (8 * set + w)).map fun e => (8 * set + w, e)

def Dev.setPfx (d : Dev) (k : Nat) (e : Option PfxEnt) : Dev :=
  let d := { d with kv := { d.kv with pfx := stSet (fun _ => none) d.kv.pfx k e, pfxClock := d.kv.pfxClock + 1 } }
  d.set R.PFX_STATUS_VALID d.kv.pfx.length

/-- R218: a group of chunk c with these tokens, this parent and this context's shape. -/
def Dev.groupMatches (d : Dev) (e : PfxEnt) (h c parent : Nat) (tok : List Nat) (r : SeqRec) : Bool :=
  let a := d.frameAddr e.frame
  decide (e.hash = h) && decide (d.peekNat a 8 = h) && decide (d.peekNat (a + 8) 4 = parent) && decide (d.peekNat (a + 0xC) 4 = c) &&
    decide (d.peekNat (a + 0x10) 2 = r.layers) && decide (d.peekNat (a + 0x12) 2 = r.heads) && decide (d.peekNat (a + 0x14) 1 = r.fmt) &&
    decide (d.peekNat (a + 0x15) 1 = r.dim) && decide (d.tokensOf (a + 0x100) 0 = tok)

/-- The verified way for a chunk. -/
def Dev.findGroup (d : Dev) (h c parent : Nat) (tok : List Nat) (r : SeqRec) : Option (Nat × PfxEnt) :=
  (d.pfxWays (h % 32768)).find? fun x => d.groupMatches x.2 h c parent tok r

/-- A way has the hash and fails verification. -/
def Dev.hashHit (d : Dev) (h : Nat) : Bool := (d.pfxWays (h % 32768)).any fun x => x.2.hash = h

/-- Layer and head of pair i of a context. -/
def pairOf (r : SeqRec) (i : Nat) : Nat × Nat := (i / r.heads, i % r.heads)

/-- R218: the pages of one matched group are shared into page c. -/
def Dev.shareGroup (d : Dev) (hd : Nat) (r : SeqRec) (frame c : Nat) : KvRes :=
  let a := d.frameAddr frame
  let pairs := List.range (r.layers * r.heads)
  let at_ (i : Nat) : Option Nat := d.l2At r (pairOf r i).1 (pairOf r i).2 c
  if pairs.any fun i => (at_ i).isNone then .done d 5 0
  else if pairs.any fun i => (at_ i).elim false fun x => d.peekNat x 4 ≠ noFrame then d.badState frame
  else if pairs.any fun i => match d.frameEntry (d.peekNat (a + 0x200 + 4 * i) 4) with
      | some e => decide (feRef e = 65535)
      | none => false then .done (d.raise1 R.KVP_ERR_REF_SAT frame) 4 0
  else .done (pairs.foldl (fun (d : Dev) i =>
    match d.shareRef (d.peekNat (a + 0x200 + 4 * i) 4), d.l2At r (pairOf r i).1 (pairOf r i).2 c with
    | .done d 0 f, some x => d.setL2 hd (pairOf r i).1 (pairOf r i).2 c x f
    | .done d _ _, _ => d
    | .wait, _ => d) d) 0 0

/-- R218: the loop over chunks, from chunk c on. -/
def Dev.matchFrom (d : Dev) (hd : Nat) (r : SeqRec) (addr chunks : Nat) : Nat → Nat → Nat → Nat → KvRes
  | 0, c, _, _ => .done d 0 c
  | n + 1, c, prev, g =>
    if chunks ≤ c then .done d 0 c else
    let tok := d.tokensOf addr c
    let h := prefixHash (d.get R.PFX_SALT_SALT) c g tok
    match d.findGroup h c prev tok r with
    | none =>
      let d := if d.hashHit h then d.count R.PFX_VERIFY_COLLISIONS 1 else d
      .done (d.count R.PFX_LOOKUP_MISSES 1) 0 c
    | some (k, e) =>
      match d.shareGroup hd r e.frame c with
      | .done d 0 _ => ((d.setPfx k (some { e with used := d.kv.pfxClock })).count R.PFX_LOOKUP_HITS 1).matchFrom hd r addr chunks n (c + 1) e.frame h
      | .done d code _ => .done d code c
      | .wait => .wait

/-- PFX_MATCH. -/
def Dev.pfxMatch (d : Dev) (r : Nat) : KvRes :=
  match d.named (kvCtx r) with
  | .noCtx => .done (d.raise1 R.KVP_ERR_NO_CTX (kvCtx r)) 6 0
  | .spilled _ => .wait
  | .ctx h c => if d.flag R.PFX_CTL_ENABLE then d.matchFrom h c (kvAddr r) (kvArg r) (kvArg r) 0 noFrame 0 else .done d 0 0

/-- R219: an index entry goes, with its reference. -/
def Dev.pfxRemove (d : Dev) (k : Nat) (e : PfxEnt) : Dev :=
  ((d.setPfx k none).freeGroup (d.frameCount + 1) e.frame).count R.PFX_INSERT_EVICTIONS 1

/-- A way of a set for a new entry; a full set evicts its least recently used one. -/
def Dev.pfxWay (d : Dev) (set : Nat) : Nat × Dev :=
  match (List.range 8).find? fun w => (stGet (fun _ => none) d.kv.pfx (8 * set + w)).isNone with
  | some w => (8 * set + w, d)
  | none =>
    match d.pfxWays set with
    | [] => (8 * set, d)
    | x :: rest =>
      let o := rest.foldl (fun (a : Nat × PfxEnt) b => if b.2.used < a.2.used then b else a) x
      (o.1, d.pfxRemove o.1 o.2)

/-- R216, R219: chunk c becomes a group. -/
def Dev.insertGroup (d : Dev) (r : SeqRec) (h c parent : Nat) (tok : List Nat) : KvRes :=
  let pairs := List.range (r.layers * r.heads)
  let frames := pairs.map fun i => (d.l2At r (pairOf r i).1 (pairOf r i).2 c).elim noFrame fun a => d.peekNat a 4
  let st (p : Nat → Bool) : Bool := frames.all fun f => (d.frameEntry f).elim false p
  if !st (fun e => feState e = 4) then d.badState 0
  else if !st (fun e => feRef e < 65535) then .done (d.raise1 R.KVP_ERR_REF_SAT 0) 4 0
  else if d.kv.rebuild then .wait
  else match d.takeFrame with
    | none => d.noFrames 0
    | some (g, d) =>
      let d := frames.foldl (fun (d : Dev) f => (d.shareRef f).dev d) (d.setFrame g (feMake 0 0 0 0 6 0 1))
      let d := match d.frameEntry parent with
        | some e => if parent = noFrame then d else d.setFrame parent (feWith e (feFill e) 6 0 (feRef e + 1))
        | none => d
      let bytes := leBytes 8 h ++ leBytes 4 parent ++ leBytes 4 c ++ leBytes 2 r.layers ++ leBytes 2 r.heads ++ leBytes 1 r.fmt ++
        leBytes 1 r.dim ++ leBytes 234 0 ++ tok.flatMap (leBytes 4) ++ frames.flatMap (leBytes 4)
      let d := d.hbmWrite (d.frameAddr g) bytes fun _ => false
      let (k, d) := d.pfxWay (h % 32768)
      .done ((d.setPfx k (some ⟨h, g, d.kv.pfxClock⟩)).count R.PFX_INSERT_INSERTS 1) 0 g

/-- R219: the loop over chunks. -/
def Dev.insertFrom (d : Dev) (r : SeqRec) (addr chunks : Nat) : Nat → Nat → Nat → Nat → KvRes
  | 0, c, _, _ => .done d 0 c
  | n + 1, c, prev, g =>
    if chunks ≤ c then .done d 0 c else
    let tok := d.tokensOf addr c
    let h := prefixHash (d.get R.PFX_SALT_SALT) c g tok
    match d.findGroup h c prev tok r with
    | some (_, e) => (d.count R.PFX_VERIFY_DUPLICATES 1).insertFrom r addr chunks n (c + 1) e.frame h
    | none =>
      if d.hashHit h then .done (d.count R.PFX_VERIFY_COLLISIONS 1) 0 c
      else match d.insertGroup r h c prev tok with
        | .done d 0 f => d.insertFrom r addr chunks n (c + 1) f h
        | .done d code _ => .done d code c
        | .wait => .wait

/-- PFX_INSERT. -/
def Dev.pfxInsert (d : Dev) (r : Nat) : KvRes :=
  match d.named (kvCtx r) with
  | .noCtx => .done (d.raise1 R.KVP_ERR_NO_CTX (kvCtx r)) 6 0
  | .spilled _ => .wait
  | .ctx _ c =>
    if !d.flag R.PFX_CTL_ENABLE then .done d 0 0
    else if (d.frameSize - 512) / 4 < c.layers * c.heads then .done d 5 0
    else d.insertFrom c (kvAddr r) (kvArg r) (kvArg r) 0 noFrame 0

/-- PFX_EVICT. -/
def Dev.pfxEvict (d : Dev) (r : Nat) : KvRes :=
  match d.kv.pfx.find? fun e => e.2.elim false fun x => x.frame = kvArg r with
  | some (k, some e) => .done (d.pfxRemove k e) 0 0
  | _ => d.badState (kvArg r)

/-- R214: the index is cleared. -/
def Dev.pfxClearAll (d : Dev) : Dev :=
  d.kv.pfx.foldl (fun (d : Dev) e => match e.2 with | some x => d.pfxRemove e.1 x | none => d) d

/-! ### Running the commands (R208–R210) -/

/-- A command completes: RESULT and RESULT_ARG are written, its signal is posted (R208). -/
def Dev.kvFinish (d : Dev) (cmd : KvCmd) (code arg : Nat) : Dev :=
  let d := if cmd.src < 16 then
      ((d.set (R.KVP_CMD_RESULT_BUSY cmd.src) 0).set (R.KVP_CMD_RESULT_CODE cmd.src) code).set (R.KVP_CMD_RESULT_ARG cmd.src) arg
    else
      let q := cmd.src - 16
      let d := (d.memWrite 63 (cmd.at_ + 25) (leBytes 1 code ++ leBytes 4 arg) fun _ => false).1
      d.bump (R.KVP_CMDQ_DONE_DONE q) 1
  d.postSig (kvSig cmd.word)

/-- The commands that each OP performs; PENDING means that the append engine goes on with it. -/
def Dev.kvRun (d : Dev) (cmd : KvCmd) : KvRes :=
  let r := cmd.word
  if kvReserved r then .done d 7 0 else
  match kvOp r with
  | 0x01 => d.kvAlloc r
  | 0x02 => d.kvShare r
  | 0x03 => d.kvCow r
  | 0x04 => d.kvFree r
  | 0x05 => d.pinFrame (kvArg r)
  | 0x06 => d.unpinFrame (kvArg r)
  | 0x07 => d.kvSeal r
  | 0x10 => d.kvAppend cmd
  | 0x20 => d.pfxMatch r
  | 0x21 => d.pfxInsert r
  | 0x22 => d.pfxEvict r
  | _ => .done d 7 0

/-- A SPILLED context that the command names is asked back. -/
def Dev.kvNames (d : Dev) (r : Nat) : Dev :=
  if [5, 6, 0x22].contains (kvOp r) then d else match d.named (kvCtx r) with | .spilled h => d.wantRestore h | _ => d

/-- The frame of a page through the level-2 table. -/
def Dev.walkL2 (d : Dev) (r : SeqRec) (layer head page : Nat) : Option Nat :=
  match d.l2At r layer head page with
  | some a => let f := d.peekNat a 4; if f = noFrame then none else some f
  | none => none

/-- What a page-manager operation is on: frames, and level-2 entries by their offset above all frame numbers. -/
def Dev.pageKeys (d : Dev) (c : SeqRec) (layer head page : Nat) : List Nat :=
  ((d.l2At c layer head page).elim [] fun a => [2 ^ 32 + a]) ++ (d.walkL2 c layer head page).toList

/-- What a command is on (R209): its frame, its page, and all the pages of an APPEND, a PFX_MATCH or a PFX_INSERT. Commands on the
prefix index are on the index too. -/
def Dev.kvOn (d : Dev) (r : Nat) : List Nat :=
  let named : Option SeqRec := (d.bound (kvCtx r)).bind d.fullRec
  let own : List Nat := if [2, 5, 6, 0x22].contains (kvOp r) || decide (kvCtx r = 0xFF) then [kvArg r] else []
  let index : List Nat := if [0x20, 0x21, 0x22].contains (kvOp r) then [2 ^ 64] else []
  let pages : List Nat := match named with
    | none => []
    | some c =>
      if [1, 2, 3, 4, 7].contains (kvOp r) then d.pageKeys c (kvLayer r) (kvHead r) (kvPos r / 64)
      else if kvOp r = 0x10 then
        (List.range (kvHeadCnt r)).flatMap fun j => (appendPages r).flatMap fun p => d.pageKeys c (kvLayer r) (kvHead r + j) p
      else if kvOp r = 0x20 ∨ kvOp r = 0x21 then
        (List.range (kvArg r)).flatMap fun p => (List.range (c.layers * c.heads)).flatMap fun i => d.pageKeys c (i / c.heads) (i % c.heads) p
      else []
  own ++ index ++ pages

/-- The pages of a context in level-2 order: layer, head, page, entry offset, frame. -/
def Dev.pagesOf (d : Dev) (r : SeqRec) : List (Nat × Nat × Nat × Nat × Nat) :=
  (List.range r.layers).flatMap fun l => (List.range r.heads).flatMap fun h =>
    match d.l1Entry r l h with
    | none => []
    | some e => (List.range (bits e 95 64)).filterMap fun p =>
      let a := bits e 44 0 + 4 * p
      let f := d.peekNat a 4
      if f = noFrame then none else some (l, h, p, a, f)

/-- The handle that a sequence command names. -/
def scHandle (c : SeqCmd) : Nat := bits c.a1 59 48

/-- A sequence command that works on frames (RELEASE, FORK) and a page-manager command are on one context or frame. -/
def Dev.seqMeets (d : Dev) (q : SeqCmd) (r : Nat) : Bool :=
  (decide (q.op = 3) || decide (q.op = 4)) &&
    (decide (d.bound (kvCtx r) = some (scHandle q)) ||
      (d.fullRec (scHandle q)).elim false fun x => let on := d.kvOn r; (d.pagesOf x).any fun p => on.contains p.2.2.2.2)

/-- An UNPIN passes what waits on its frame because PIN is 65,535 (R211). -/
def Dev.pinsFull (d : Dev) (r : Nat) : Bool := decide (kvOp r = 6) && (d.frameEntry (kvArg r)).elim false fun e => decide (fePin e = 65535)

/-- R209, R211: a command keeps its place among the earlier arrivals on the same frame. -/
def Dev.kvBlocked (d : Dev) (earlier : List KvCmd) (c : KvCmd) : Bool :=
  !d.pinsFull c.word &&
    ((let on := d.kvOn c.word; earlier.any fun e => (d.kvOn e.word).any on.contains) ||
      d.kv.seqArrivals.any fun q => decide (q.no < c.no) && d.seqMeets q c.word)

/-- The first command, in arrival order, that neither waits nor stands behind one on the same frame. -/
def Dev.kvNext (d : Dev) : List KvCmd → List KvCmd → Option KvCmd
  | _, [] => none
  | earlier, c :: rest =>
    let waits : Bool := match d.kvRun c with | .wait => true | .done _ _ _ => false
    if waits || d.kvBlocked earlier c then d.kvNext (earlier ++ [c]) rest else some c

/-- R209, R211: the command of a source runs if it is the first that may; operations on other frames pass one that waits. -/
def Dev.kvServe (d : Dev) (src : Nat) (ops : Nat → Bool) : Dev :=
  match d.kvNext [] d.kv.arrivals with
  | some c =>
    if c.src = src && ops (kvOp c.word) then
      match d.kvRun c with
      | .done d code arg =>
        let d := { d with kv := { d.kv with arrivals := d.kv.arrivals.erase c } }
        if code = 0xFF then d else d.kvFinish c code arg
      | .wait => d
    else d
  | none => d.kv.arrivals.foldl (fun (d : Dev) c => d.kvNames c.word) d

def execAlloc (c : Nat) (s : State) : Host.Outcome State Fault Refusal := run s fun d => d.kvServe c (· = 0x01)
def execSharePage (c : Nat) (s : State) : Host.Outcome State Fault Refusal := run s fun d => d.kvServe c (· = 0x02)
def execCow (c : Nat) (s : State) : Host.Outcome State Fault Refusal := run s fun d => d.kvServe c (· = 0x03)
def execFreeFrame (c : Nat) (s : State) : Host.Outcome State Fault Refusal := run s fun d => d.kvServe c (· = 0x04)
def execPin (c : Nat) (s : State) : Host.Outcome State Fault Refusal := run s fun d => d.kvServe c (· = 0x05)
def execUnpin (c : Nat) (s : State) : Host.Outcome State Fault Refusal := run s fun d => d.kvServe c (· = 0x06)
def execSealPage (c : Nat) (s : State) : Host.Outcome State Fault Refusal := run s fun d => d.kvServe c (· = 0x07)
def execAppendKv (c : Nat) (s : State) : Host.Outcome State Fault Refusal := run s fun d => d.kvServe c (· = 0x10)
def execPfxMatch (c : Nat) (s : State) : Host.Outcome State Fault Refusal := run s fun d => d.kvServe c (· = 0x20)
def execPfxInsert (c : Nat) (s : State) : Host.Outcome State Fault Refusal := run s fun d => d.kvServe c (· = 0x21)
/-- PFX_EVICT. A window's record with an opcode outside Table 10.4 completes with BAD_OP here. -/
def execPfxEvict (c : Nat) (s : State) : Host.Outcome State Fault Refusal :=
  run s fun d => d.kvServe c fun o => !([1, 2, 3, 4, 5, 6, 7, 0x10, 0x20, 0x21].contains o)

/-- A command arrives (R209). -/
def Dev.kvArrive (d : Dev) (src word at_ : Nat) : Dev :=
  { d with kv := { d.kv with arrivals := d.kv.arrivals ++ [⟨src, word, at_, d.kv.next⟩], next := d.kv.next + 1 } }

/-- R208: a token admits the next record of a queue. -/
def Dev.kvAdmit (d : Dev) (q : Nat) : Dev :=
  let ch := d.get (R.KVP_CMDQ_CFG_CHANNEL q)
  if q < 8 ∧ d.flag (R.KVP_CMDQ_CFG_ENABLE q) ∧ d.chan ch ≠ 0 ∧ chanKind (d.chan ch) = 0 ∧ chanConsumer (d.chan ch) / 4096 = 3 ∧ 0 < d.tokens ch then
    let n := d.get (R.KVP_CMDQ_HEAD_ADMITTED q)
    let a := d.get (R.KVP_CMDQ_BASE_BASE q) + 32 * (n % 2 ^ min (max (d.get (R.KVP_CMDQ_CFG_SIZE_LOG2 q)) 4) 16)
    let d := (d.takeTokens ch 1).set (R.KVP_CMDQ_HEAD_ADMITTED q) (n + 1)
    d.kvArrive (16 + q) (d.peekNat a 32) a
  else d

def execKvpCmdqAdmit (q : Nat) (s : State) : Host.Outcome State Fault Refusal := run s fun d => d.kvAdmit q

/-- A store to KVP_CMD_n GO (R208, R225). -/
def Dev.kvpGoWrite (d : Dev) (n v : Nat) : Dev :=
  if !v.testBit 63 then d
  else if d.flag (R.KVP_CMD_RESULT_BUSY n) then d.raise1 R.KVP_ERR_CMD_BUSY n
  else
    let rec_ := (List.range 4).foldl (fun x k => x + (d.reg (R.KVP_CMD_REC n k)).toNat * 2 ^ (64 * k)) 0
    let d := (d.set (R.KVP_CMD_RESULT_BUSY n) 1).set (R.KVP_CMD_RESULT_CODE n) 0xFF
    d.kvArrive n rec_ 0

/-! ### What the append engine ends -/

/-- A finite FP32 square root of an exact sum of squares, and its code rounded up. -/
def sqrtUp (m : Nat) (e : Int) : Nat :=
  let (m, e) := if e % 2 = 0 then (m, e) else (2 * m, e - 1)
  let r := Nat.sqrt (m <<< 64)
  f32Quot .up false r (e / 2 - 32) (decide (r * r ≠ m <<< 64))

/-- The elements of a key or of a centroid. -/
def pageFmt (fmt : Nat) : FpFmt := if fmt = 0 then fmtBf16 else if fmt = 1 then fmtE4m3 else fmtE5m2

/-- R187: the summary of 64 keys of D elements: centroid codes and radius. -/
def pageSummary (fmt dm : Nat) (keys : List (List Nat)) : List Nat × Nat :=
  let f := pageFmt fmt
  let val (k : List Nat) (i : Nat) : Nat := f32Enc (fpDec f (k.getD i 0))
  let cen := (List.range dm).map fun i =>
    let s := keys.foldl (fun a k => f32Add a (val k i)) 0
    (fpEnc fmtE4m3 .rne true (fpScale (-6) (f32Dec s))).code
  let cv := cen.map fun c => f32Enc (fpDec fmtE4m3 c)
  let dist (k : List Nat) : Nat :=
    let s := (List.range dm).foldl (fun a i => let x := f32Sub (val k i) (cv.getD i 0); f32Fma x x a) 0
    match f32Dec s with
    | .fin _ m e => sqrtUp m e
    | _ => s
  let r := keys.foldl (fun a k => f32Max a (dist k)) 0
  let r := match f32Dec r with
    | .fin _ m e => (fpEnc fmtFp32 .up false (.fin false (m * (2 ^ 18 + 1)) (e - 18))).code
    | _ => r
  (cen, r)

/-- SEALING to SEALED: the summary is written (R187, R204, R211). -/
def Dev.sealingDone (d : Dev) (f : Nat) : Dev :=
  match d.frameEntry f with
  | some e =>
    if feState e ≠ 3 then d else
    let fmt := bits e 73 72
    let dm := pageDim (bits e 71 71)
    let w := pageElem fmt
    let (d, g) := d.hbmRead (d.frameAddr f) (64 * dm * w)
    let keys := (List.range 64).map fun i => (List.range dm).map fun j => recNat g.bytes ((i * dm + j) * w) w
    let (cen, r) := pageSummary fmt dm keys
    let d := d.hbmWrite (d.summaryAt f) (cen.flatMap (leBytes 1) ++ leBytes (252 - dm) 0 ++ leBytes 4 r) fun _ => g.anyPoison
    (d.setFrame f (feWith e (feFill e) 4 (fePin e) (feRef e))).count R.KVP_COPY_SEALS 1
  | none => d

/-- R213: a copy ends; the new frame becomes OPEN, and both pins are released. -/
def Dev.copyDone (d : Dev) (c : KvCopy) : Dev :=
  match d.frameEntry c.dst with
  | none => d
  | some e =>
    let n := 128 * pageDim (bits e 71 71) * pageElem (bits e 73 72)
    let (d, g) := d.hbmRead (d.frameAddr c.src) n
    let d := d.hbmWrite (d.frameAddr c.dst) g.bytes fun i => g.poison.getD i false
    let d := match d.frameEntry c.dst with
      | some e => if feState e = 2 then d.setFrame c.dst (feWith e c.keep 1 (fePin e) (feRef e)) else d
      | none => d
    let d := (d.unpinFrame c.dst).dev d
    (d.unpinFrame c.src).dev d

/-- R212: an APPEND's positions are written, and the command completes. -/
def Dev.appendDone (d : Dev) (a : KvApp) : Dev :=
  let r := a.cmd.word
  let d := a.pages.foldl (fun (d : Dev) x => d.appendWrite a.fmt a.dim r x) d
  (d.count R.KVP_APPEND_BYTES (kvArg r * kvHeadCnt r * 2 * pageDim a.dim * pageElem a.fmt)).kvFinish a.cmd 0 (kvArg r)

/-- A piece of the append engine's work ends. -/
def Dev.workDone (d : Dev) : KvWork → Dev
  | .append a => d.appendDone a
  | .copy c => d.copyDone c
  | .sealing f => d.sealingDone f

/-- The append engine ends the work at the head of its queue, which must be of the kind named (R209: in arrival order). -/
def Dev.engineEnds (d : Dev) (p : KvWork → Bool) : Dev :=
  match d.kv.work with
  | [] => d
  | w :: rest => if p w then ({ d with kv := { d.kv with work := rest } } : Dev).workDone w else d

def execSealingDone (f : Nat) (s : State) : Host.Outcome State Fault Refusal :=
  run s fun d => d.engineEnds fun w => decide (w = .sealing f)

def execCowCopyDone (f : Nat) (s : State) : Host.Outcome State Fault Refusal :=
  run s fun d => d.engineEnds fun w => match w with | .copy c => decide (c.dst = f) | _ => false

/-- The operand numbers the APPENDs in work; only the first can end. -/
def execAppendDone (i : Nat) (s : State) : Host.Outcome State Fault Refusal :=
  run s fun d => d.engineEnds fun w => match w with | .append _ => decide (i = 0) | _ => false

/-- R204: the pass over the frame entries ends: every FREE frame is on its bank's list. -/
def Dev.rebuildDone (d : Dev) : Dev :=
  if d.kv.rebuild then
    let d := { d with kv := { d.kv with rebuild := false, free := [] } }
    let d := d.set R.KVP_STATUS_FREE 0
    (List.range d.frameCount).foldl (fun (d : Dev) f =>
      match d.frameEntry f with
      | some e =>
        if feState e ≠ 0 then d else
        let l := d.freeList (f % 64)
        ((d.setFree (f % 64) (f :: l)).setFrame f (feMake (l.headD noFrame) 0 0 0 0 0 0)).set R.KVP_STATUS_FREE (d.get R.KVP_STATUS_FREE + 1)
      | none => (d.raise1 R.KVP_ERR_POISON f).contained 0 63 (d.entryAt f)) d
  else d

def execFreeListRebuildDone (s : State) : Host.Outcome State Fault Refusal := run s Dev.rebuildDone

/-- A store to KVP_CTL, KVP_WALK_INV and KVP_FRAME_RD. -/
def Dev.kvpCtlWrite (d : Dev) (v : Nat) : Dev := if v.testBit 63 then d.flushFrames else d
def Dev.kvpWalkInvWrite (d : Dev) (v : Nat) : Dev :=
  if v.testBit 63 then (match d.bound (v % 128) with | some h => d.dropHandle h | none => d) else d
def Dev.kvpFrameRdWrite (d : Dev) (v : Nat) : Dev :=
  let d := d.set R.KVP_FRAME_RD_FRAME (v % 2 ^ 32)
  if !v.testBit 63 then d
  else match d.frameEntry (v % 2 ^ 32) with
    | some e => (d.set (R.KVP_FRAME_DATA_ENTRY 0) (e % 2 ^ 64)).set (R.KVP_FRAME_DATA_ENTRY 1) (e / 2 ^ 64)
    | none => d

/-! ### Sequence commands (R220–R222) -/

/-- A record as the 256 bytes of Table 10.9. -/
def seqBytes (h : Nat) (r : SeqRec) : List Byte :=
  leBytes 2 h ++ leBytes 1 r.state ++ leBytes 1 r.cls ++ leBytes 1 r.fmt ++ leBytes 1 r.dim ++ leBytes 2 r.layers ++ leBytes 2 r.heads ++
    leBytes 6 0 ++ leBytes 8 r.l1 ++ leBytes 4 r.hwm ++ leBytes 4 0 ++ leBytes 8 r.park ++ leBytes 216 0

/-- A PARKED context is spilled: its record is written, and its walker entries dropped. -/
def Dev.spill (d : Dev) (h : Nat) : Dev :=
  match d.seqCtx h, d.spillAt h with
  | some r, some a =>
    let d := d.hbmWrite a (seqBytes h { r with state := 3 }) fun _ => false
    let d := d.setCtx h (some { state := 3, cls := r.cls, fmt := 0, dim := 0, layers := 0, heads := 0, l1 := 0, hwm := 0, park := r.park })
    (d.dropHandle h).count R.SEQ_SPILL_SPILLS 1
  | _, _ => d

/-- The contexts that are resident; the PARKED one with the lowest PARK_BEAT, the lowest handle on ties. -/
def Dev.residents (d : Dev) : List (Nat × SeqRec) := d.kv.ctxs.filterMap fun e => e.2.bind fun r => if r.state = 3 then none else some (e.1, r)
def Dev.oldestParked (d : Dev) : Option Nat :=
  ((d.residents.filter fun e => e.2.state = 2).foldl (fun (x : Option (Nat × SeqRec)) e => match x with
    | some y => if e.2.park < y.2.park then some e else x
    | none => some e) none).map (·.1)

/-- A slot of the sequence table is made: free, or by spilling. -/
def Dev.makeSlot (d : Dev) : Option Dev :=
  if d.residents.length < 128 then some d else d.oldestParked.map fun h => d.spill h

/-- A sequence command completes. -/
def Dev.seqFinish (d : Dev) (c : SeqCmd) (code h : Nat) : Dev :=
  ((d.set (R.SEQ_CMD_RESULT_BUSY c.win) 0).set (R.SEQ_CMD_RESULT_CODE c.win) code).set (R.SEQ_CMD_RESULT_HANDLE c.win) h

/-- The device no longer admits contexts: Dusk has begun (R319). -/
def Dev.atDusk (d : Dev) : Bool := d.get R.PWR_STATE_DEV_STATE = 4

/-- R221: a context is admitted with a record; none where no slot or no handle is free. -/
def Dev.admitRec (d : Dev) (r : SeqRec) : Option (Nat × Dev) :=
  let fs := (List.range 4096).filter fun h => (d.seqCtx h).isNone
  if d.atDusk ∨ fs.isEmpty then none
  else match d.makeSlot with
    | none => none
    | some d =>
      let (k, d) := d.draw
      let h := fs.getD (Config.pickHandle k % fs.length) 0
      some (h, d.setCtx h (some r))

/-- The front sequence command, where it comes from window n with operation op. -/
def Dev.seqFront (d : Dev) (n op : Nat) (f : Dev → SeqCmd → Dev) : Dev :=
  match d.kv.seqArrivals with
  | c :: rest => if c.win = n ∧ c.op = op then f { d with kv := { d.kv with seqArrivals := rest } } c else d
  | [] => d

/-- ADMIT. -/
def Dev.seqAdmit (d : Dev) (c : SeqCmd) : Dev :=
  let layers := bits c.a1 15 0
  let heads := bits c.a1 31 16
  let fmt := bits c.a1 33 32
  let dim := bits c.a1 34 34
  let l1 := bits c.a0 44 0
  if layers = 0 ∨ 256 < layers ∨ heads = 0 ∨ 256 < heads ∨ l1 % 64 ≠ 0 ∨ fmt = 3 ∨ d.frameSize < 128 * pageDim dim * pageElem fmt then d.seqFinish c 9 0
  else match d.admitRec ⟨1, bits c.a1 35 35, fmt, dim, layers, heads, l1, 0, 0⟩ with
    | some (h, d) => d.seqFinish c 0 h
    | none => (d.count R.SEQ_REFUSE_FULL 1).seqFinish c 8 0

/-- PARK. -/
def Dev.seqPark (d : Dev) (c : SeqCmd) : Dev :=
  match d.seqCtx (scHandle c) with
  | none => d.seqFinish c 6 0
  | some r => if r.state = 1 then (d.setCtx (scHandle c) (some { r with state := 2, park := d.beatNow })).seqFinish c 0 0 else d.seqFinish c 2 0

/-- ACTIVATE; a SPILLED context is restored first. -/
def Dev.seqActivate (d : Dev) (c : SeqCmd) : Dev :=
  let h := scHandle c
  match d.seqCtx h with
  | none => d.seqFinish c 6 0
  | some r =>
    if r.state = 2 then (d.setCtx h (some { r with state := 1 })).seqFinish c 0 0
    else if r.state = 3 then
      let d := d.wantRestore h
      { d with kv := { d.kv with activates := d.kv.activates ++ [c] } }
    else d.seqFinish c 2 0

/-- A page of the list is in a state. -/
def Dev.anyIn (d : Dev) (pages : List (Nat × Nat × Nat × Nat × Nat)) (st : Nat) : Bool :=
  pages.any fun x => (d.frameEntry x.2.2.2.2).elim false fun e => feState e = st

/-- A page-manager command that arrived earlier is on the context or on one of its frames (R209, R221). -/
def Dev.seqBlocked (d : Dev) (c : SeqCmd) : Bool := d.kv.arrivals.any fun e => decide (e.no < c.no) && d.seqMeets c e.word

/-- RELEASE; it waits while a page of the context is SEALING (Table 10.6). -/
def Dev.seqRelease (d0 : Dev) (d : Dev) (c : SeqCmd) : Dev :=
  let h := scHandle c
  match d.fullRec h with
  | none => d.seqFinish c 6 0
  | some r =>
    let pages := d.pagesOf r
    if d.anyIn pages 3 || d0.seqBlocked c then d0 else
    let d := pages.foldl (fun (d : Dev) x => ((d.freeAny x.2.2.2.2).dev d).setL2 h x.1 x.2.1 x.2.2.1 x.2.2.2.1 noFrame) d
    let d := { d with kv := { d.kv with restores := d.kv.restores.erase h } }
    ((d.setCtx h none).dropHandle h).seqFinish c 0 0

/-- FORK gives page (layer, head, page) of the source, in frame f, to the new context h: shared where it is SEALED, copied
where it is OPEN (R222). -/
def Dev.forkPage (d : Dev) (h : Nat) (nr : SeqRec) (x : Nat × Nat × Nat × Nat × Nat) : Dev :=
  let (l, hd, p, _, f) := x
  match d.frameEntry f, d.l2At nr l hd p with
  | some e, some a =>
    if feState e = 4 then ((d.shareRef f).dev d).setL2 h l hd p a f
    else if feState e = 1 then
      match d.takeFrame with
      | some (n, d) => (d.copyPage f e n 1 (feRef e) (feFill e)).setL2 h l hd p a n
      | none => d
    else d
  | _, _ => d

/-- A page of the list is pinned 65,535 times. -/
def Dev.anyPinned (d : Dev) (pages : List (Nat × Nat × Nat × Nat × Nat)) : Bool :=
  pages.any fun x => (d.frameEntry x.2.2.2.2).elim false fun e => feState e = 1 && fePin e = 65535

/-- FORK (R222). -/
def Dev.seqFork (d0 : Dev) (d : Dev) (c : SeqCmd) : Dev :=
  let src := scHandle c
  match d.seqCtx src with
  | none => d.seqFinish c 6 0
  | some r =>
    if r.state = 3 then d0.wantRestore src else
    let l1 := bits c.a0 44 0
    let pages := d.pagesOf r
    if l1 % 64 ≠ 0 then d.seqFinish c 9 0
    else if d.anyIn pages 3 || d.anyIn pages 2 || d.anyPinned pages || d.kv.rebuild || d0.seqBlocked c then d0
    else if d.get R.KVP_STATUS_FREE < r.layers * r.heads then (d.raise1 R.KVP_ERR_NO_FRAME src).seqFinish c 1 0
    else if pages.any (fun x => (d.frameEntry x.2.2.2.2).elim false fun e => feState e = 4 && feRef e = 65535) then
      (d.raise1 R.KVP_ERR_REF_SAT src).seqFinish c 4 0
    else match d.admitRec { r with state := 1, l1 := l1, park := 0 } with
      | none => (d.count R.SEQ_REFUSE_FULL 1).seqFinish c 8 0
      | some (h, d) =>
        let d := pages.foldl (fun (d : Dev) x => d.forkPage h { r with l1 := l1 } x) d
        d.seqFinish c 0 h

def execAdmit (c : Nat) (s : State) : Host.Outcome State Fault Refusal := run s fun d => d.seqFront c 0 Dev.seqAdmit
def execPark (c : Nat) (s : State) : Host.Outcome State Fault Refusal := run s fun d => d.seqFront c 1 Dev.seqPark
def execActivate (c : Nat) (s : State) : Host.Outcome State Fault Refusal := run s fun d => d.seqFront c 2 Dev.seqActivate
def execSeqRelease (c : Nat) (s : State) : Host.Outcome State Fault Refusal := run s fun d => d.seqFront c 3 (d.seqRelease · ·)
def execFork (c : Nat) (s : State) : Host.Outcome State Fault Refusal := run s fun d => d.seqFront c 4 (d.seqFork · ·)

/-- Table 10.10: the SPILLED context that waits longest is restored, once a slot is free or a PARKED context can be spilled. -/
def Dev.restore (d : Dev) (h : Nat) : Dev :=
  if d.kv.restores.head? = some h then
    match d.fullRec h, d.makeSlot with
    | some r, some d =>
      let d := { d with kv := { d.kv with restores := d.kv.restores.tail } }
      let d := (d.setCtx h (some { r with state := 1 })).count R.SEQ_SPILL_RESTORES 1
      let (done, keep) := d.kv.activates.partition fun c => scHandle c = h
      let d := { d with kv := { d.kv with activates := keep } }
      done.foldl (fun (d : Dev) c => d.seqFinish c 0 0) d
    | _, _ => d
  else d

def execContextRestore (h : Nat) (s : State) : Host.Outcome State Fault Refusal := run s fun d => d.restore h

/-- A store to SEQ_CMD_n GO. A GO to a busy window is ignored (R225). -/
def Dev.seqGoWrite (d : Dev) (n v : Nat) : Dev :=
  if !v.testBit 63 then d
  else if d.flag (R.SEQ_CMD_RESULT_BUSY n) then d.raise1 R.KVP_ERR_CMD_BUSY n
  else
    let c : SeqCmd := ⟨n, (d.reg (R.SEQ_CMD_ARG0 n)).toNat, (d.reg (R.SEQ_CMD_ARG1 n)).toNat, v % 8, d.kv.next⟩
    if 4 < c.op then d.seqFinish c 9 0
    else
      let d := (d.set (R.SEQ_CMD_RESULT_BUSY n) 1).set (R.SEQ_CMD_RESULT_CODE n) 0xFF
      { d with kv := { d.kv with seqArrivals := d.kv.seqArrivals ++ [c], next := d.kv.next + 1 } }

/-! ### Translation (R206, R207) -/

/-- What a translation came to. -/
inductive Xlate where
  | hole (d : Dev)
  | wait (d : Dev)
  | ok (d : Dev) (frame : Nat) (isSealed : Bool)

/-- A command that has arrived works on the frame: a walker's PIN stands behind it (R209). -/
def Dev.frameBusy (d : Dev) (f : Nat) : Bool := d.kv.arrivals.any fun c => (d.kvOn c.word).contains f

/-- The set of a level-1 cache that a pair lies in. DESIGN CHOICE: the index function (log entry 70). -/
def l1Set (k : PageKey) : Nat := (k.h * 65536 + k.layer * 256 + k.head) % 512

/-- R206: the level-1 entry of (layer, head), from the cache of the die's walker; a miss reads the table, and a valid entry takes
the place of the least recently used of its 8 ways. -/
def Dev.l1Look (d : Dev) (die h layer head : Nat) (r : SeqRec) : Dev × Option Nat :=
  let key : PageKey := ⟨h, layer, head, 0⟩
  let l1 := stGet (fun _ => []) d.kv.l1 die
  let put (d : Dev) (v : Nat) : Dev :=
    let others := l1.filter fun k => k.key ≠ key
    let keep := (others.filter fun k => l1Set k.key = l1Set key).take 7 ++ others.filter fun k => l1Set k.key ≠ l1Set key
    { d with kv := { d.kv with l1 := stSet (fun _ => []) d.kv.l1 die (⟨key, v⟩ :: keep) } }
  match l1.find? fun k => k.key = key with
  | some k => (put d k.val, some k.val)
  | none =>
    let d := d.count (R.KVP_WALK_L1_MISSES die) 1
    match d.l1Entry r layer head with
    | some e => (put d e, some e)
    | none => (d, none)

/-- R206: the walk of both levels to a frame; none is a walk hole. -/
def Dev.walk (d : Dev) (die h layer head page : Nat) (r : SeqRec) : Dev × Option Nat :=
  match d.l1Look die h layer head r with
  | (d, none) => (d, none)
  | (d, some e) =>
    let f := d.peekNat (bits e 44 0 + 4 * page) 4
    (d, if page < bits e 95 64 ∧ f ≠ noFrame then some f else none)

/-- R207: a tile's look-aside buffer without a key, and with a translation as its most recently used. -/
def Dev.labDrop (d : Dev) (t : Nat) (key : PageKey) : Dev :=
  { d with kv := { d.kv with lab := stSet (fun _ => []) d.kv.lab t ((stGet (fun _ => []) d.kv.lab t).filter fun k => k.key ≠ key) } }
def Dev.labPut (d : Dev) (t : Nat) (key : PageKey) (f : Nat) : Dev :=
  let old := (stGet (fun _ => []) d.kv.lab t).filter fun k => k.key ≠ key
  { d with kv := { d.kv with lab := stSet (fun _ => []) d.kv.lab t ((⟨key, f⟩ :: old).take 64) } }

/-- The PIN of a translation; a pin taken completes it. -/
def Dev.takePin (d : Dev) (t : Nat) (key : PageKey) (f : Nat) : Xlate :=
  if d.frameBusy f then .wait d
  else match d.pinFrame f with
    | .done d 0 st => .ok ((d.labPut t key f).count (R.KVP_WALK_TRANSLATIONS (t / 48)) 1) f (decide (st = 4))
    | .done d _ _ => .hole d
    | .wait => .wait d

/-- R206, R207: tile t asks for a page of a context; `again` where its lookup has been made and it has waited since. A refused PIN
drops the tile's entry, level 2 is read once more, and a second refusal is a walk hole. -/
def Dev.translate (d : Dev) (t : Nat) (again : Bool) (h layer head page : Nat) : Xlate :=
  match d.seqCtx h with
  | none => .hole d
  | some r =>
    if r.state = 3 then .wait (d.wantRestore h) else
    let key : PageKey := ⟨h, layer, head, page⟩
    let hit := (stGet (fun _ => []) d.kv.lab t).find? fun k => k.key = key
    let d := if again then d else d.count (if hit.isSome then R.KVP_LAB_HITS t else R.KVP_LAB_MISSES t) 1
    let (d, first) := match hit with
      | some k => (d, some k.val)
      | none => d.walk (t / 48) h layer head page r
    match first with
    | none => .hole d
    | some f =>
      match d.takePin t key f with
      | .hole d =>
        match (d.labDrop t key).walk (t / 48) h layer head page r with
        | (d, none) => .hole d
        | (d, some f) => d.takePin t key f
      | x => x

/-- Before the memory plan of an image is in force, the entry cache goes to the old frame table; where the new one clears its entries,
work of the append engine on frames ends first (DESIGN CHOICE, log entry 71). -/
def Dev.kvLeave (d : Dev) (plan : List Region) : Dev :=
  let fresh := plan.any fun r => decide (r.tag = 6) && decide (r.init ≠ 0)
  let d := if fresh then (List.range d.kv.work.length).foldl (fun (d : Dev) _ => d.engineEnds fun _ => true) d else d
  d.flushFrames

/-- R204: what image activation does to frames and the prefix index. Where INIT is not NONE every entry becomes FREE. Commands that
wait go on waiting. -/
def Dev.kvActivate (d : Dev) : Dev :=
  let fresh := (d.tagged 6).elim false fun r => r.init ≠ 0
  let d := if fresh then
      ({ d with kv := { d.kv with cache := [], pfx := [] }
                hbm := { d.hbm with cells := stClear d.hbm.cells (d.bankAddr (d.entryAt 0)) (16 * d.frameCount) } } : Dev).set R.PFX_STATUS_VALID 0
    else d
  let d := { d with kv := { d.kv with rebuild := true, free := [], lab := [], l1 := [] } }
  ((d.set R.KVP_STATUS_FRAMES d.frameCount).set R.KVP_STATUS_FREE 0)

end Sys2Proof.Machine
end

