-- ==== Sys2Proof/Machine/Wire.lean ====
section
/-!
DEFINITION. One Agxis port's wire: lanes and codewords (R134), receive pools and credits (R139, R140), flits that leave (R136,
R137, R141), SEAL and CONTROL flits (R151, R152), arrivals that leave the receive buffer, the set of ports whose seals are
waited for (R39). What happens on arrival is in Link.lean.
-/

namespace Sys2Proof.Machine

/-! ### Pools and credits (R139, R140, Table 7.3) -/

/-- Table 7.3: flits of a pool. -/
def poolSize (n : Nat) : Nat := if n < 4 then 96 else if n < 0x1C then 9 else 936

/-- The dedicated pool of a PACKET flit: its virtual lane, direction and hop class. -/
def flitPool (f : Flit) : Nat :=
  if f.vl = 0 then f.hops % 4
  else 8 * (f.vl % 4) - 4 + (if f.rsp then 4 else 0) + f.hops % 4

/-- The credit that a flit takes (R140): its pool, 0x1F for the shared one, and the counts afterwards. -/
def takeCredit (used : List (Nat × Nat)) (shared : List Nat) (f : Flit) : Option (List (Nat × Nat) × List Nat) :=
  let own := flitPool f
  let n := stGet (fun _ => 0) used own
  let ownFree := decide (n < poolSize own)
  let sharedFree := decide (shared.length < 936) && (decide (f.vl ≠ 1) || decide ((shared.filter fun v => v = 1).length < 640))
  let takeOwn := some (stSet (fun _ => 0) used own (n + 1), shared)
  let takeShared := some (used, shared ++ [f.vl])
  if f.vl = 0 then (if ownFree then takeOwn else if sharedFree then takeShared else none)
  else if sharedFree then takeShared
  else if ownFree then takeOwn
  else none

/-- Credits for all flits of a packet, or none (R140). -/
def takeCredits (u : PortUnit) (fs : List Flit) : Option PortUnit :=
  (fs.foldl (fun (a : Option (List (Nat × Nat) × List Nat)) f => a.bind fun (x, y) => takeCredit x y f) (some (u.used, u.shared))).map
    fun (x, y) => { u with used := x, shared := y }

/-- A peer's credit return. A shared credit is taken back from the lane that has held one longest (log entry 40). -/
def PortUnit.credited (u : PortUnit) (pool n : Nat) : PortUnit :=
  if pool = 0x1F then { u with shared := u.shared.drop n }
  else { u with used := stSet (fun _ => 0) u.used pool (stGet (fun _ => 0) u.used pool - n) }

/-- The shared space that VL1 holds is kept apart from the rest of the shared pool, under a number that no flit carries. -/
def sharedVl1 : Nat := 0x20

/-- The number of a pool as a flit names it (Table 7.3). -/
def poolName (n : Nat) : Nat := if n = sharedVl1 then 0x1F else n

/-- The pool that an arriving flit fills, by the rule of R140 as this receiver sees its own buffer (log entry 40). -/
def PortUnit.rxPool (u : PortUnit) (f : Flit) : Nat :=
  let held (n : Nat) : Nat := stGet (fun _ => 0) u.taken n + stGet (fun _ => 0) u.owed n
  let shared := held 0x1F + held sharedVl1
  if f.vl = 0 then (if held (flitPool f) < poolSize (flitPool f) then flitPool f else 0x1F)
  else if f.vl = 1 then (if shared < poolSize 0x1F ∧ held sharedVl1 < 640 then sharedVl1 else flitPool f)
  else if shared < poolSize 0x1F then 0x1F else flitPool f

def bumpPool (l : List (Nat × Nat)) (p : Nat) : List (Nat × Nat) := stSet (fun _ => 0) l p (stGet (fun _ => 0) l p + 1)
def dropPool (l : List (Nat × Nat)) (p : Nat) : List (Nat × Nat) := stSet (fun _ => 0) l p (stGet (fun _ => 0) l p - 1)

/-- Credits of flits that have left the receive buffer of a port become owed to its peer. -/
def Dev.giveBack (d : Dev) (ingress : Nat) (pools : List (Nat × Nat)) : Dev :=
  if 36 ≤ ingress ∨ pools.isEmpty then d else
  let u := d.port ingress
  d.setPort ingress (pools.foldl (fun (u : PortUnit) (e : Nat × Nat) =>
    (List.range e.2).foldl (fun (u : PortUnit) _ => { u with taken := dropPool u.taken e.1, owed := bumpPool u.owed e.1 }) u) u)

/-- Arrival k leaves the receive buffer. -/
def Dev.takeIn (d : Dev) (k : Nat) : Option (Arrival × Dev) :=
  match d.agx.inbox[k]? with
  | none => none
  | some a =>
    let d : Dev := { d with agx := { d.agx with inbox := d.agx.inbox.eraseIdx k } }
    some (a, d.giveBack a.ingress a.pools)

/-- Table 7.6: the virtual lanes of a request. -/
def laneOk (p : Pkt) : Bool :=
  if p.opc = 4 then p.vl = 2 else if p.opc = 5 ∨ p.opc = 6 then decide (p.vl ≤ 1) else decide (p.vl ≤ 1 ∨ p.vl = 3)

/-- Every request and multicast packet of a source that came before arrival k by the same port and lane has been handled, and, for a
write, every REDUCE_PUT among them has been added: the home applies writes in arrival order on their lane (R150). -/
def Dev.laneTurn (d : Dev) (k ingress src vl : Nat) (write : Bool) : Bool :=
  ((d.agx.inbox.take k).all fun x => decide (x.ingress ≠ ingress) || match x.item with
    | .req q => decide (q.src ≠ src ∨ q.vl ≠ vl)
    | .mcast q => decide (q.src ≠ src ∨ q.vl ≠ vl)
    | _ => true) &&
  (!write || d.agx.red.all fun x => decide (x.ingress ≠ ingress ∨ x.src ≠ src ∨ x.vl ≠ vl))

/-- Arrival k, where it is a CONTROL flit of a subtype: the port it came by and its payload from byte 17. -/
def Dev.takeCtl (d : Dev) (k subtype : Nat) : Option (Nat × List Byte × Dev) :=
  match d.takeIn k with
  | some (a, d') => match a.item with
    | .ctl t pl => if t = subtype then some (a.ingress, pl, d') else none
    | _ => none
  | none => none

/-! ### Lanes and codewords (R134) -/

/-- The 256 bytes of a flit (R136). -/
def flitBytes (f : Flit) : List Byte := flitHeader f ++ leBytes 4 f.crc ++ padTo 240 f.payload

/-- Chunk c of a flit travels on logical lane c: 32 bytes at width 8, 64 at width 4, all 256 at width 1. -/
def laneChunks (lanes : List Nat) (f : Flit) : List (Nat × List Byte) :=
  let n := 256 / lanes.length
  lanes.zipIdx.map fun (l, c) => (l, ((flitBytes f).drop (n * c)).take n)

/-- Chunk positions of 256 bits that a flit takes on each lane. -/
def chunksPerFlit (width : Nat) : Nat := 8 / max 1 width

/-- The 20-bit lane tag: physical lane number and codeword counter. The order of the two is presumed (log entry 62). -/
def laneTag (lane counter : Nat) : Nat := lane % 16 * 65536 + counter % 65536

/-- The 5,140 message bits of a codeword: 20 chunks in transmission order, then the lane tag. -/
def codeword (lane counter : Nat) (chunks : List (List Byte)) : Nat :=
  leNat ((chunks.take 20).flatMap (padTo 32)) + laneTag lane counter * 2 ^ 5120

/-- The lanes whose skew, in codewords behind the earliest lane, is more than the receiver tolerates, as a mask. -/
def lateLanes (skew : List Nat) : Nat := skew.zipIdx.foldl (fun m e => if 16 < e.1 ∧ e.2 < 9 then m + 2 ^ e.2 else m) 0

/-- Lanes of a port that are not marked bad, lowest first. -/
def Dev.goodLanes (d : Dev) (p : Nat) : List Nat := (List.range 9).filter fun i => !(d.get (R.AGX_PORT_STATUS_LANE_BAD p)).testBit i

/-- A sequence number at or after another (R136). -/
def seqGe (a b : Nat) : Bool := decide ((a + 4096 - b % 4096) % 4096 < 2048)

/-- The physical lanes that a flit's chunks take, logical lane 0 first: from the switch number onward the new lane map (R138). -/
def Dev.lanesFor (d : Dev) (p : Nat) (switched : Bool) : List Nat :=
  if switched then (d.goodLanes p).take 8 else setBits 9 (d.get (R.AGX_PORT_STATUS_LANE_ACTIVE p))

/-! ### Flits that leave -/

/-- A sequenced flit: PACKET, SEAL, and CONTROL but for LINK_ID, RTT_PROBE and RTT_ECHO (R136). -/
def sequencedFlit (f : Flit) : Bool :=
  decide (f.ftype = 1 ∨ f.ftype = 2) || (decide (f.ftype = 4) && !(decide (f.payload.headD 0 = 1 ∨ f.payload.headD 0 = 2 ∨ f.payload.headD 0 = 3)))

/-- The flit as it stands on the lanes: outside, or back at the port's own receiver in a loop-back inside the port (Table 7.10). -/
def Dev.onLanes (d : Dev) (p : Nat) (f : Flit) : Dev :=
  let u := d.port p
  let passed := u.sparing.any fun x => x.tx || (sequencedFlit f && seqGe f.seq x.mySeq)
  let lanes := d.lanesFor p passed
  let d := d.setPort p { u with sparing := u.sparing.map (fun x => { x with tx := passed }), chunks := u.chunks + chunksPerFlit lanes.length }
  let l := d.get (R.AGX_PORT_CTL_LOOP p)
  if d.link p = 8 ∧ 1 ≤ l ∧ l ≤ 3 then d.setPort p { d.port p with loop := (d.port p).loop ++ [f] }
  else d.emit (.flit p f lanes (u.chunks / 20 % 65536))

/-- A flit goes onto the link of port p: acknowledgement, credit return and CRC are put in, and it is counted. -/
def Dev.wire (d : Dev) (p : Nat) (f : Flit) (nak : Bool) : Dev :=
  let u := d.port p
  let ack := nak || decide (0 < u.sinceAck)
  let (pool, n) := match u.owed with
    | (q, m) :: _ => (q, min m 63)
    | [] => (0, 0)
  let f := { f with ackV := ack, ackSeq := if ack then (u.expSeq + 4095) % 4096 else 0, nak := nak, crPool := poolName pool, crCnt := n }
  let u := { u with sinceAck := if ack then 0 else u.sinceAck
                    owed := if n = 0 then u.owed else stSet (fun _ => 0) u.owed pool (stGet (fun _ => 0) u.owed pool - n) }
  let d := (d.setPort p u).count (R.AGX_PORT_FLITS_TX p) 1
  let crc := flitCrc f
  -- R155: the next sequenced flit leaves with a wrong CRC, which one is open (log entry 13)
  if sequencedFlit f && d.flag (R.AGX_PORT_INJECT_CRC_NEXT p) && d.testEnable then
    let (k, d) := d.draw
    (d.set (R.AGX_PORT_INJECT_CRC_NEXT p) 0).onLanes p { f with crc := (crc + 1 + Config.freeWord k 0 % (2 ^ 32 - 1)) % 2 ^ 32 }
  else d.onLanes p { f with crc := crc }

/-- An IDLE flit, for an acknowledgement. -/
def Dev.sendAck (d : Dev) (p : Nat) (nak : Bool) : Dev := d.wire p flitIdle nak

/-- A sequenced flit leaves, and is kept until it is acknowledged (R137); `x` is what is kept with it. -/
def Dev.sendKept (d : Dev) (p : Nat) (x : Sent) : Dev :=
  let u := d.port p
  let f := { x.flit with seq := u.nextSeq }
  (d.setPort p { u with nextSeq := (u.nextSeq + 1) % 4096, replay := u.replay ++ [{ x with flit := f }] }).wire p f false

/-- A SEAL, CONTROL or test flit of this device leaves in sequence. -/
def Dev.sendSeq (d : Dev) (p : Nat) (f : Flit) : Dev := d.sendKept p ⟨f, d.beatNow, none, 0⟩

/-- The replay buffer has room for n flits (R137). -/
def PortUnit.room (u : PortUnit) (n : Nat) : Bool := decide (u.replay.length + n ≤ 512)

/-- SEAL and CONTROL flits that wait leave as the replay buffer has room. -/
def Dev.flushCtl (d : Dev) (p : Nat) : Dev :=
  (d.port p).ctlq.foldl (fun (d : Dev) f =>
    let u := d.port p
    if (d.link p = 3 ∨ d.link p = 7) ∧ u.room 1 then (d.setPort p { u with ctlq := u.ctlq.drop 1 }).sendSeq p f else d) d

/-- A SEAL or CONTROL flit of this device: its payload from byte 16. -/
def Dev.ctlFlit (d : Dev) (p ftype : Nat) (pl : List Byte) : Flit :=
  { flitIdle with ftype := ftype, dest := d.get (R.AGX_PORT_STATUS_PEER_ID p), src := d.id, len := pl.length, payload := pl }

/-- Whether a port may send a SEAL (2) or CONTROL (4) flit now: a FATAL device sends IDLE only (R297), a fenced device and
a port to a fenced peer send no CONTROL flit but FENCE_NOTE (R169, Table 8.4). -/
def Dev.mayCtl (d : Dev) (p ftype : Nat) (pl : List Byte) : Bool :=
  d.alive && (d.link p = 3 || d.link p = 4 || d.link p = 7) &&
    (ftype = 2 || (!d.agx.fenced && (!d.fencedOut (d.get (R.AGX_PORT_STATUS_PEER_ID p)) || pl.headD 0 = 0x25)))

/-- A sequenced SEAL or CONTROL flit is sent, in order (R141, R151, R152). -/
def Dev.sendCtl (d : Dev) (p ftype : Nat) (pl : List Byte) : Dev :=
  if !d.mayCtl p ftype pl then d else
  let u := d.port p
  let f := d.ctlFlit p ftype pl
  if u.ctlq.isEmpty && u.room 1 && decide (d.link p ≠ 4) then d.sendSeq p f
  else d.setPort p { u with ctlq := u.ctlq ++ [f] }

/-- An unsequenced CONTROL or MARK flit may leave: with a full replay buffer only MARK does (R137), and a fenced device and a
port to a fenced peer send no CONTROL flit but FENCE_NOTE (R169, Table 8.4). -/
def Dev.mayRaw (d : Dev) (p ftype : Nat) : Bool :=
  d.alive && (decide (ftype = 3) || ((d.port p).room 1 && (decide (d.link p = 2 ∨ d.link p = 6) ||
    (!d.agx.fenced && !d.fencedOut (d.get (R.AGX_PORT_STATUS_PEER_ID p))))))

/-- An unsequenced CONTROL or MARK flit (R136). -/
def Dev.sendRaw (d : Dev) (p ftype : Nat) (pl : List Byte) : Dev :=
  if d.mayRaw p ftype then d.wire p (d.ctlFlit p ftype pl) false else d

/-- RTT_PROBE leaves at timebase tick t, where it may (R152). -/
def Dev.probe (d : Dev) (p t : Nat) : Dev :=
  if d.mayRaw p 4 then (d.setPort p { d.port p with probeAt := some t }).sendRaw p 4 (leBytes 1 2) else d

/-- R152: LINK_ID: device ID (2 bytes), port (1), hash of the domain table (48). The order is presumed (log entry 41). -/
def Dev.sendLinkId (d : Dev) (p : Nat) : Dev :=
  d.sendRaw p 4 (leBytes 1 1 ++ leBytes 2 d.id ++ leBytes 1 p ++ (List.range 6).flatMap fun n => leBytes 8 (d.reg (R.SEC_DOMAIN_HASH n)).toNat)

/-- The link machine moves, with its event (Table 7.1). -/
def Dev.setLink (d : Dev) (p st : Nat) : Dev :=
  let d := d.set (R.AGX_PORT_STATUS_STATE p) st
  d.event (R.AGX_PORT_STATUS_STATE p) p noArg noArg

/-! ### The set of ports whose seals are waited for (R39) -/

/-- A port may be in the set of R39: its power state is ON, its link is UP, RETRAIN or NIGHT, and its peer is not fenced out
(R167). -/
def Dev.mayJoin (d : Dev) (p : Nat) : Bool :=
  decide (d.get (R.AGX_PORT_STATUS_PWR p) = 1) && (d.link p = 3 || d.link p = 4 || d.link p = 7) &&
    !d.fencedOut (d.get (R.AGX_PORT_STATUS_PEER_ID p))

/-- A port of the set of R39: it has joined, and may still be in it. -/
def Dev.inSet (d : Dev) (p : Nat) : Bool := (d.port p).inSet && d.mayJoin p

/-- The set of R39. -/
def Dev.sealSet (d : Dev) : List Nat := (List.range 36).filter d.inSet

/-- Runs of beats named by seals hold beat k. A beat before the first that they name was over before the port came up
(log entry 63). -/
def namesBeat (runs : List (Nat × Nat)) (k : Nat) : Bool :=
  match runs with
  | [] => false
  | r :: _ => beatGt r.1 k || runs.any fun x => beatGe k x.1 && beatGe x.2 k

/-- The stage-h seal of beat k has been processed on port p. -/
def Dev.sealedBy (d : Dev) (p h k : Nat) : Bool := namesBeat ((d.port p).named.getD h []) k

/-- It has arrived on port p. -/
def Dev.sealCameBy (d : Dev) (p h k : Nat) : Bool := namesBeat ((d.port p).came.getD h []) k

/-- A beat that a seal names joins the runs of beats named: it lengthens a run, or begins one. -/
def nameBeat (runs : List (Nat × Nat)) (b : Nat) : List (Nat × Nat) :=
  if runs.any fun x => beatGe b x.1 && beatGe x.2 b then runs
  else if runs.any fun x => decide (beatAdd x.2 1 = b) then runs.map fun x => if beatAdd x.2 1 = b then (x.1, b) else x
  else runs ++ [(b, b)]

/-- The beat-k seals have arrived on every port of the set. -/
def Dev.sealed (d : Dev) (k : Nat) : Bool := d.sealSet.all fun p => d.sealedBy p 3 k

/-- R39: SEALS_COMPLETE shows whether the seals of the previous beat have arrived; a boundary has cleared it. As it rises, AGX_SEAL
and AGX_SEAL_LAT follow. The latency is a time that the model does not count: a free value, 0 where the set is empty. -/
def Dev.refreshSeals (d : Dev) : Dev :=
  let now := d.sealed (beatSub d.beatNow 1)
  let old := d.flag R.BEAT_STATUS_SEALS_COMPLETE
  let d := d.set R.BEAT_STATUS_SEALS_COMPLETE (b2n now)
  if now && !old && d.beating then
    let d := d.set R.AGX_SEAL_LAST_BEAT (beatSub d.beatNow 1)
    if d.sealSet.isEmpty then d
    else
      let (k, d) := d.draw
      d.countMax R.AGX_SEAL_LAT_NS (Config.freeWord k 0 % 2 ^ 32)
  else d

end Sys2Proof.Machine
end

