-- ==== Sys2Proof/Machine/Trees.lean ====
section
/-!
DEFINITION. Multicast trees (R162–R166, R172): the source's packets and retention, forwarding and delivery,
acknowledgements, pruning and pulls.
-/

namespace Sys2Proof.Machine

def Dev.tree (d : Dev) (n : Nat) : TreeUnit := stGet (fun _ => TreeUnit.reset) d.trees n
def Dev.setTree (d : Dev) (n : Nat) (u : TreeUnit) : Dev := { d with trees := stSet (fun _ => TreeUnit.reset) d.trees n u }

/-- R34, R58, R158: the plan of an operation selects a stream role on a port. -/
def Dev.planSelects (d : Dev) (plan port bit : Nat) : Nat → Bool
  | 0 => false
  | n + 1 =>
    if plan = 0 then false else
    let e := d.secEntry 13 4 16 (plan - 1)
    (bits e 111 106 = port && !bitAt e 99 && bitAt (bits e 98 95) bit) || d.planSelects (bits e 127 112) port bit n

/-- The bit of a role in STR_SEL. -/
def roleBit : Role → Nat
  | .mov => 0 | .sta => 1 | .out => 2 | .aux => 3 | _ => 31

/-! ### A tree's entry (Table 8.6) -/

def Dev.mcValid (d : Dev) (n : Nat) : Bool := d.flag (R.AGX_MC_TREE_W0_VALID n)
def Dev.mcSource (d : Dev) (n : Nat) : Bool := d.flag (R.AGX_MC_TREE_W0_SOURCE n)
def Dev.mcDeliver (d : Dev) (n : Nat) : Bool := d.flag (R.AGX_MC_TREE_W0_DELIVER n)
def Dev.mcUp (d : Dev) (n : Nat) : Nat := d.get (R.AGX_MC_TREE_W0_UP_PORT n)
def Dev.mcEpoch (d : Dev) (n : Nat) : Nat := d.get (R.AGX_MC_TREE_W0_EPOCH n)
def Dev.mcDown (d : Dev) (n : Nat) : List Nat := setBits 36 (d.get (R.AGX_MC_TREE_W1_DOWN_MASK n))

/-- Branches that are not pruned. -/
def Dev.mcLive (d : Dev) (n : Nat) : List Nat :=
  (d.mcDown n).filter fun p => !(d.get (R.AGX_MC_TREE_W3_PRUNED_MASK n)).testBit p

/-- A CONTROL flit of Table 8.3 travels along the tree; downward it ignores pruning (R165). -/
def Dev.mcSendUp (d : Dev) (n : Nat) (pl : List Byte) : Dev := if d.mcUp n < 36 then d.sendCtl (d.mcUp n) 4 pl else d
def Dev.mcSendDown (d : Dev) (n : Nat) (pl : List Byte) : Dev := (d.mcDown n).foldl (fun (d : Dev) p => d.sendCtl p 4 pl) d

/-- Flits in a port's branch buffer, of 1,024 (R163). -/
def Dev.branchFlits (d : Dev) (p : Nat) : Nat :=
  ((d.port p).txq.filter fun q => q.tree.isSome).foldl (fun x q => x + q.flits.length) 0

/-- Every live branch has room for k flits. -/
def Dev.branchRoom (d : Dev) (n k : Nat) : Bool := (d.mcLive n).all fun p => decide (d.branchFlits p + k ≤ 1024)

/-- The packet is copied into the branch buffer of every live branch. A copy of the source's own stream uses the windows
that select the stream on that port (R158), a relayed one those of its ingress port (R159): `relay` is that port and the seals
that had arrived on it before the packet (R151). -/
def Dev.mcCopy (d : Dev) (n : Nat) (p : Pkt) (own : Option (Nat × Nat)) (relay : Option (Nat × Nat)) : Dev :=
  (d.mcLive n).foldl (fun (d : Dev) port =>
    let plan := own.bind fun (op, sel) => (d.ops.find? fun o => o.id = op).bind fun o =>
      if d.planSelects o.slotPlan port sel 37 then some (op, sel) else none
    let p := if own.isSome then { p with vl := if plan.isSome then 0 else 1 } else p
    let q := d.queued p plan
    if d.agx.fenced then d.count R.AGX_COL_CNT_FENCE_DROP q.flits.length
    else d.enqueue port { q with tree := some n, relay := relay.map (·.1), mark := relay.elim 0 (·.2) }) d

/-- A packet lies in the receive buffer (R162). -/
def Dev.mcInBounds (d : Dev) (n : Nat) (p : Pkt) : Bool :=
  decide (p.addr + p.data.length ≤ d.get (R.AGX_MC_TREE_W1_RX_SIZE_64K n) * 65536)

/-- Delivery waits for a cistern window whose placement changes (R62, R63). -/
def Dev.mcWaits (d : Dev) (n : Nat) (p : Pkt) : Bool := d.mcDeliver n && d.windowWaits (d.get (R.AGX_MC_TREE_W0_RX_BASE n) + p.addr) p.data.length

/-- SEQ of the packet that this receiver applies next (R163). -/
def Dev.mcNext (d : Dev) (n : Nat) : Nat := if (d.tree n).any then d.get (R.AGX_MC_TREE_W3_ACKED_SEQ n) + 1 else 0

/-- Delivery at this device: the packet is written at RX_BASE + ADDR and acknowledged in its turn (R163). A MISSED receiver stays
MISSED (R164). -/
def Dev.mcDeliverPkt (d : Dev) (n ingress : Nat) (p : Pkt) : Dev :=
  if !d.mcDeliver n then d
  else if !d.mcInBounds n p then d.count R.AGX_COL_CNT_MC_DISCARD p.flits.length
  else
  let seq := bits p.mcInfo 15 0
  let d := (d.memWrite ingress (d.get (R.AGX_MC_TREE_W0_RX_BASE n) + p.addr) p.data p.poisonAt).1
  let d := (d.set (R.AGX_MC_TREE_W3_ACKED_SEQ n) seq).set (R.AGX_MC_TREE_W3_ACK_EPOCH n) (d.mcEpoch n)
  let d := if d.get (R.AGX_MC_TREE_W3_RX_STATE n) = 2 then d else d.set (R.AGX_MC_TREE_W3_RX_STATE n) 1
  d.setTree n { d.tree n with any := true, base := p.addr - 2048 * seq }

/-- Branches that lead to a fenced device: they are pruned in every epoch (Table 8.4). -/
def Dev.mcFenced (d : Dev) (n : Nat) : List Nat := (d.mcDown n).filter fun p => d.fencedOut (d.get (R.AGX_PORT_STATUS_PEER_ID p))

/-- This device begins an epoch of a tree: branches are whole again, but for those through a fenced device; nothing is
acknowledged (R163, R164). -/
def Dev.mcBegin (d : Dev) (n epoch : Nat) : Dev :=
  let cut := d.mcFenced n
  let d := ((d.set (R.AGX_MC_TREE_W0_EPOCH n) epoch).set (R.AGX_MC_TREE_W3_PRUNED_MASK n) (cut.foldl (fun m p => m + 2 ^ p) 0)).count
    R.AGX_COL_CNT_PRUNES cut.length
  let d := if d.mcDeliver n then ((d.set (R.AGX_MC_TREE_W3_RX_STATE n) 1).set (R.AGX_MC_TREE_W3_ACKED_SEQ n) 0).set (R.AGX_MC_TREE_W3_ACK_EPOCH n) epoch else d
  d.setTree n { d.tree n with branches := [], last := none, sent := 0, any := false, base := 0, acked := none, pulling := false
                              pullBad := false, lag := [] }

/-! ### Acknowledgement and release (R165) -/

/-- The aggregate SEQ and receiver count: this device's own, and those of its live branches; none while some part of it
has acknowledged nothing. -/
def Dev.mcAggregate (d : Dev) (n : Nat) : Option (Nat × Nat) :=
  let u := d.tree n
  let own : List (Option (Nat × Nat)) := if d.mcDeliver n then [if u.any then some (d.get (R.AGX_MC_TREE_W3_ACKED_SEQ n), 1) else none] else []
  let below := (d.mcLive n).map fun p => (u.branches.find? fun b => b.port = p ∧ b.epoch = d.mcEpoch n).map fun b => (b.seq, b.receivers)
  let all := own ++ below
  if all.any (·.isNone) then none
  else match all.filterMap fun x => x with
    | [] => none
    | x :: r => some (r.foldl (fun (a : Nat × Nat) y => (min a.1 y.1, a.2 + y.2)) x)

/-- No part of the tree below is left to acknowledge: every branch is pruned, and nothing is delivered here. -/
def Dev.mcNoneLeft (d : Dev) (n : Nat) : Bool := !d.mcDeliver n && (d.mcLive n).isEmpty

/-- R165: the source releases the epoch. -/
def Dev.mcRelease (d : Dev) (n : Nat) : Dev :=
  if d.flag (R.AGX_MC_TREE_W2_RET_BUSY n) && decide (d.get (R.AGX_MC_TREE_W2_OUT_PULLS n) = 0) then
    match (d.tree n).last, d.mcAggregate n with
    | some (l, _), some (a, _) => if l ≤ a then d.set (R.AGX_MC_TREE_W2_RET_BUSY n) 0 else d
    | some _, none => if d.mcNoneLeft n then d.set (R.AGX_MC_TREE_W2_RET_BUSY n) 0 else d
    | _, _ => d
  else d

/-! ### The source (R162) -/

/-- The source closes the epoch and tells the tree (R165). -/
def Dev.mcClose (d : Dev) (n bytes : Nat) : Dev :=
  let u := d.tree n
  let d := d.setTree n { u with last := some (u.sent - 1, bytes) }
  (d.mcSendDown n (leBytes 1 0x24 ++ leBytes 1 n ++ leBytes 1 (d.mcEpoch n) ++ leBytes 2 (u.sent - 1) ++ leBytes 2 bytes)).mcRelease n

/-- One waiting packet of the source leaves, if its epoch and its branches allow. -/
def Dev.mcSendOne (d : Dev) (n : Nat) : Option Dev :=
  let u := d.tree n
  let pick := match u.cur with
    | some c => u.pend.find? fun (q : McPkt) => decide (q.tile = c.1 ∧ q.op = c.2)
    | none => u.pend.find? fun (q : McPkt) => q.first
  match pick with
  | none => none
  | some q =>
    if !d.mcValid n || !d.mcSource n then
      some (((d.raise1 R.AGX_ERR_DENIED_EGRESS n).count R.AGX_FLT_DENIED_EGRESS 1).setTree n
        { u with pend := u.pend.erase q, cur := if q.last then none else some (q.tile, q.op) })
    else
    let busy := d.flag (R.AGX_MC_TREE_W2_RET_BUSY n)
    -- the 65,537th packet of a stream closes the epoch
    if busy && u.last.isNone && !q.first && u.sent = 65536 then some (d.mcClose n 2048)
    else
      let opens := q.first || u.last.isSome
      if opens && busy then none
      else
        let d := if opens then (d.mcBegin n ((d.mcEpoch n + 1) % 256)).set (R.AGX_MC_TREE_W2_RET_BUSY n) 1 else d
        let u := d.tree n
        let info := u.sent + (d.mcEpoch n) * 65536
        let p : Pkt := { d.newReq n 1 6 q.addr q.data (flitPoison q.poison) with mcast := true, mcInfo := info }
        if !d.branchRoom n p.flits.length || d.mcWaits n p then none
        else
          let ing := tileIngress q.tile
          let d := (d.memWrite ing (d.get (R.AGX_MC_TREE_W2_RET_BASE n) + q.addr) q.data fun i => q.poison.getD i false).1
          let d := d.mcCopy n p (some (q.op, q.sel)) none
          let d := d.mcDeliverPkt n ing p
          let u := d.tree n
          let d := d.setTree n { u with sent := u.sent + 1, pend := u.pend.erase q, cur := if q.last then none else some (q.tile, q.op) }
          some (if q.last then d.mcClose n q.data.length else d)

/-- Waiting packets of the source leave as far as they may. -/
def Dev.mcPump (d : Dev) (n : Nat) : Nat → Dev
  | 0 => d
  | k + 1 => match d.mcSendOne n with
    | some d' => d'.mcPump n k
    | none => d

def Dev.mcGo (d : Dev) (n : Nat) : Dev := d.mcPump n (3 * (d.tree n).pend.length)

/-- Full packets, or the last one, that unfinished bytes hold. -/
def mcCut (tile op sel off total : Nat) (b : McBuf) : Nat → McBuf × List McPkt
  | 0 => (b, [])
  | k + 1 =>
    let lo := 2048 * b.next
    let n := min 2048 (total - lo)
    let vs := (List.range n).map fun i => stGet (fun _ => (512 : Nat)) b.got (lo + i)
    if n = 0 ∨ vs.any (fun v => v = 512) then (b, [])
    else
      let q : McPkt := { tile := tile, op := op, sel := sel, first := b.next = 0, last := total ≤ lo + n, addr := off + lo
                         data := vs.map fun v => BitVec.ofNat 8 v, poison := vs.map fun v => decide (256 ≤ v) }
      let (b', r) := mcCut tile op sel off total { b with next := b.next + 1, got := stClear b.got lo n } k
      (b', q :: r)

/-- R162: bytes of a multicast stream at offset o of it: packets form as they fill, and wait for the tree. -/
def Dev.mcCollect (d : Dev) (t op sel dest off total o : Nat) (bs : List Byte) (pz : List Bool) : Dev :=
  if 256 ≤ dest then (d.raise1 R.AGX_ERR_DENIED_EGRESS dest).count R.AGX_FLT_DENIED_EGRESS 1 else
  let u := d.tree dest
  let b := (u.bufs.find? fun b => b.tile = t ∧ b.op = op).getD ⟨t, op, 0, []⟩
  let vals := (List.range bs.length).zip bs |>.map fun (i, x) => x.toNat + 256 * b2n (pz.getD i false)
  let (b, ps) := mcCut t op sel off total { b with got := stPut (fun _ => 512) b.got o vals } (bs.length / 2048 + 2)
  let rest := u.bufs.filter fun b => b.tile ≠ t ∨ b.op ≠ op
  let u := { u with pend := u.pend ++ ps, bufs := if total ≤ 2048 * b.next then rest else rest ++ [b] }
  (d.setTree dest u).mcGo dest

/-- R165: MC_ACK goes upstream when the aggregate advances; at the source the epoch may be released. HELD_BELOW says that
a live branch has no room for a packet or said so itself. -/
def Dev.mcAck (d : Dev) (n : Nat) : Dev :=
  if d.mcSource n then (d.mcRelease n).mcGo n
  else match d.mcAggregate n with
    | none => d
    | some (a, r) =>
      let u := d.tree n
      if u.acked.any (fun x => decide (a ≤ x)) then d
      else
        let held := !d.branchRoom n 9 || u.branches.any fun b => (d.mcLive n).contains b.port && b.heldBelow
        (d.setTree n { u with acked := some a }).mcSendUp n
          (leBytes 1 0x20 ++ leBytes 1 n ++ leBytes 1 (d.mcEpoch n) ++ leBytes 2 a ++ leBytes 2 r ++ leBytes 1 (b2n held))

/-! ### Pulls (R165) -/

/-- The READs of a byte range of the root's retention range: window, sectors. -/
def pullWindows (lo hi : Nat) : List (Nat × List Nat) :=
  (List.range ((hi + 8191) / 8192 - lo / 8192)).map fun i =>
    let w := (lo / 8192 + i) * 8192
    (w, (List.range 128).filter fun j => decide (w + 64 * j < hi) && decide (lo < w + 64 * j + 64))

/-- The missing bytes of this receiver's epoch, as offsets into the buffer: from the packet after ACKED_SEQ through the last. -/
def Dev.mcMissing (d : Dev) (n : Nat) : Option (Nat × Nat) :=
  let u := d.tree n
  u.last.map fun (l, bytes) =>
    let from_ := if u.any then d.get (R.AGX_MC_TREE_W3_ACKED_SEQ n) + 1 else 0
    (u.base + 2048 * from_, u.base + 2048 * l + bytes)

/-- R165: a MISSED receiver that knows the end pulls what it lacks from the root, on VL1. -/
def Dev.mcPull (d : Dev) (n : Nat) : Dev :=
  let u := d.tree n
  if d.mcDeliver n && decide (d.get (R.AGX_MC_TREE_W3_RX_STATE n) = 2) && d.flag R.AGX_MC_CTL_AUTO_PULL && !u.pulling then
    match d.mcMissing n with
    | none => d
    | some (lo, hi) =>
      let base := d.get (R.AGX_MC_TREE_W2_RET_BASE n)
      let d := d.setTree n { u with pulling := true, pullBad := false }
      if hi ≤ lo then d else
      (pullWindows (base + lo) (base + hi)).foldl (fun (d : Dev) (w : Nat × List Nat) =>
        d.request (d.newReq (d.get (R.AGX_MC_TREE_W1_SRC_ID n)) 1 1 w.1 (sectorMask (w.2.foldl (fun m i => m + 2 ^ i) 0)) [])
          (.pull n w.1) w.2.length none) d
  else d

/-- Sectors of a pull arrive from offset g of the root: the missing bytes among them are written at the receiver. -/
def Dev.pullData (d : Dev) (n ingress g : Nat) (got : Got) : Dev :=
  match d.mcMissing n with
  | none => d
  | some (lo, hi) =>
    let base := d.get (R.AGX_MC_TREE_W2_RET_BASE n)
    let a := max g (base + lo)
    let e := min (g + got.bytes.length) (base + hi)
    if e ≤ a then d else
    (d.memWrite ingress (d.get (R.AGX_MC_TREE_W0_RX_BASE n) + (a - base)) ((got.bytes.drop (a - g)).take (e - a))
      fun i => got.poison.getD (a - g + i) false).1

/-- A READ of the pull has ended without its data (R144, R145, R168). -/
def Dev.pullFailed (d : Dev) (n : Nat) : Dev := d.setTree n { d.tree n with pullBad := true }

/-- The receiver is whole: MC_PULLED goes upstream, RX_STATE is DONE (R165). -/
def Dev.mcPulled (d : Dev) (n : Nat) : Dev :=
  let d := d.setTree n { d.tree n with pulling := false }
  (d.set (R.AGX_MC_TREE_W3_RX_STATE n) 3).mcSendUp n (leBytes 1 0x23 ++ leBytes 1 n ++ leBytes 1 (d.mcEpoch n) ++ leBytes 2 d.id)

/-- A receiver that has applied every packet through the last is DONE. -/
def Dev.mcWhole (d : Dev) (n : Nat) : Dev :=
  let u := d.tree n
  if d.mcDeliver n && decide (d.get (R.AGX_MC_TREE_W3_RX_STATE n) = 1) && u.any &&
     u.last.any (fun l => decide (l.1 = d.get (R.AGX_MC_TREE_W3_ACKED_SEQ n))) then d.set (R.AGX_MC_TREE_W3_RX_STATE n) 3 else d

/-! ### Arrivals -/

/-- MULTICAST_WRITE (R163): accepted from the upstream port for the current epoch or the next, in bounds; delivered in SEQ order and
copied at once, or held where a live branch has no room or it is not its turn (R150). A MISSED receiver takes no packet behind a
gap. -/
def Dev.multicastWrite (d : Dev) (k : Nat) : Dev :=
  match d.agx.inbox[k]?, d.takeIn k with
  | some a, some (_, d') =>
    match a.item with
    | .mcast p =>
      let n := p.dest % 256
      let epoch := bits p.mcInfo 23 16
      let next := (d.mcEpoch n + 1) % 256
      let begins := decide (epoch ≠ d.mcEpoch n)
      let inSeq := !d.mcDeliver n || decide (bits p.mcInfo 15 0 = if begins then 0 else d.mcNext n)
      let missed := !begins && decide (d.get (R.AGX_MC_TREE_W3_RX_STATE n) = 2)
      let ok := decide (p.dest < 256) && laneOk p && d.mcValid n && decide (a.ingress = d.mcUp n) && decide (epoch = d.mcEpoch n ∨ epoch = next) &&
        d.mcInBounds n p && (inSeq || !missed)
      if !d.laneTurn k a.ingress p.src p.vl true then d
      else if !ok then d'.count R.AGX_COL_CNT_MC_DISCARD p.flits.length
      else if p.hops = 3 && !(d.mcDown n).isEmpty then d'.raise1 R.AGX_ERR_HOP_LIMIT p.dest
      else
        let forward (d : Dev) : Dev := d.mcCopy n { p with hops := p.hops + 1 } none (some (a.ingress, a.mark))
        let e (d : Dev) : Dev := if begins then d.mcBegin n epoch else d
        if !inSeq || d.mcWaits n p || !(e d).branchRoom n p.flits.length then d
        else ((((e d').mcDeliverPkt n a.ingress p) |> forward).mcWhole n).mcAck n
    | _ => d
  | _, _ => d

/-- MULTICAST_WRITE. -/
def execMulticastWrite (k : Nat) (s : State) : Host.Outcome State Fault Refusal := run s fun d => d.multicastWrite k

/-- A CONTROL flit of Table 8.3 about a valid tree: the tree, its epoch, the rest of its payload, the port. -/
def Dev.takeTree (d : Dev) (k subtype : Nat) : Option (Nat × Nat × List Byte × Nat × Dev) :=
  (d.takeCtl k subtype).map fun (p, pl, d') => (recNat pl 0 1, recNat pl 1 1, pl.drop 2, p, d')

/-- MC_ACK (R165). -/
def execMcAck (k : Nat) (s : State) : Host.Outcome State Fault Refusal :=
  run s fun d => match d.takeTree k 0x20 with
    | none => d
    | some (n, e, r, p, d) =>
      if !d.mcValid n || !(d.mcDown n).contains p || e ≠ d.mcEpoch n then d
      else
        let b : Branch := ⟨p, e, recNat r 0 2, recNat r 2 2, bitAt (recNat r 4 1) 0⟩
        let u := d.tree n
        (d.setTree n { u with branches := (u.branches.filter fun x => x.port ≠ p) ++ [b] }).mcAck n

/-- The receivers below, this one among them, are MISSED (R164). -/
def Dev.mcMissed (d : Dev) (n : Nat) : Dev := if d.mcDeliver n then (d.set (R.AGX_MC_TREE_W3_RX_STATE n) 2).mcPull n else d

/-- MC_PRUNE (R165). -/
def execMcPrune (k : Nat) (s : State) : Host.Outcome State Fault Refusal :=
  run s fun d => match d.takeTree k 0x21 with
    | none => d
    | some (n, e, r, p, d) =>
      if !d.mcValid n || p ≠ d.mcUp n then d
      else
        let d := if e = (d.mcEpoch n + 1) % 256 then d.mcBegin n e else d
        if e ≠ d.mcEpoch n then d
        else (d.mcMissed n).mcSendDown n (leBytes 1 0x21 ++ leBytes 1 n ++ leBytes 1 e ++ r.take 2)

/-- MC_PRUNED (R165). -/
def execMcPruned (k : Nat) (s : State) : Host.Outcome State Fault Refusal :=
  run s fun d => match d.takeTree k 0x22 with
    | none => d
    | some (n, e, r, p, d) =>
      if !d.mcValid n || !(d.mcDown n).contains p then d
      else if d.mcSource n then
        (if e = d.mcEpoch n then (d.set (R.AGX_MC_TREE_W2_OUT_PULLS n) (d.get (R.AGX_MC_TREE_W2_OUT_PULLS n) + recNat r 0 2)).mcAck n else d)
      else d.mcSendUp n (leBytes 1 0x22 ++ leBytes 1 n ++ leBytes 1 e ++ r.take 2)

/-- One pull fewer is outstanding at the source (R165, R172). -/
def Dev.pullLess (d : Dev) (n : Nat) : Dev := (d.set (R.AGX_MC_TREE_W2_OUT_PULLS n) (d.get (R.AGX_MC_TREE_W2_OUT_PULLS n) - 1)).mcAck n

/-- MC_PULLED (R165). -/
def execMcPulled (k : Nat) (s : State) : Host.Outcome State Fault Refusal :=
  run s fun d => match d.takeTree k 0x23 with
    | none => d
    | some (n, e, r, p, d) =>
      if !d.mcValid n || !(d.mcDown n).contains p then d
      else if d.mcSource n then (if e = d.mcEpoch n then d.pullLess n else d)
      else d.mcSendUp n (leBytes 1 0x23 ++ leBytes 1 n ++ leBytes 1 e ++ r.take 2)

/-- MC_END (R165). -/
def execMcEnd (k : Nat) (s : State) : Host.Outcome State Fault Refusal :=
  run s fun d => match d.takeTree k 0x24 with
    | none => d
    | some (n, e, r, p, d) =>
      if !d.mcValid n || p ≠ d.mcUp n then d
      else
        let d := if e = (d.mcEpoch n + 1) % 256 then d.mcBegin n e else d
        if e ≠ d.mcEpoch n then d
        else
          let d := d.setTree n { d.tree n with last := some (recNat r 0 2, recNat r 2 2) }
          let d := d.mcSendDown n (leBytes 1 0x24 ++ leBytes 1 n ++ leBytes 1 e ++ r.take 4)
          (d.mcWhole n).mcPull n

/-- MC_PULL_DONE (R165): every READ of the pull has ended. Where one failed, its bytes are not written and the receiver holds its state
(Table 8.8). -/
def execMcPullDone (n : Nat) (s : State) : Host.Outcome State Fault Refusal :=
  run s fun d =>
    let open_ := d.agx.tags.any (fun t => match t.waiter with | .pull m _ => decide (m = n) | _ => false) ||
      d.agx.waiters.any fun w => match w.waiter with | .pull m _ => decide (m = n) | _ => false
    if !(d.tree n).pulling || open_ then d
    else if (d.tree n).pullBad then d.setTree n { d.tree n with pulling := false }
    else d.mcPulled n

/-! ### Pruning (R164) -/

/-- A live branch is pruned: its packets that have not started go, and both directions are told. -/
def Dev.prune (d : Dev) (n p : Nat) : Dev :=
  if !d.mcValid n || !(d.mcLive n).contains p then d else
  let u := d.port p
  let d := d.setPort p { u with txq := u.txq.filter fun q => q.tree ≠ some n || decide (0 < q.sent) }
  let t := d.tree n
  let b := t.branches.find? fun b => b.port = p ∧ b.epoch = d.mcEpoch n
  let first := b.elim 0 fun b => b.seq + 1
  let d := (d.set (R.AGX_MC_TREE_W3_PRUNED_MASK n) (d.get (R.AGX_MC_TREE_W3_PRUNED_MASK n) + 2 ^ p)).count R.AGX_COL_CNT_PRUNES 1
  let d := d.sendCtl p 4 (leBytes 1 0x21 ++ leBytes 1 n ++ leBytes 1 (d.mcEpoch n) ++ leBytes 2 first)
  let r := b.elim 0 (·.receivers)
  let d := if d.mcSource n then d.set (R.AGX_MC_TREE_W2_OUT_PULLS n) (d.get (R.AGX_MC_TREE_W2_OUT_PULLS n) + r)
    else d.mcSendUp n (leBytes 1 0x22 ++ leBytes 1 n ++ leBytes 1 (d.mcEpoch n) ++ leBytes 2 r)
  d.mcAck n

/-- BRANCH_PRUNE: a branch has held its tree's intake for more than half of each of the `beats` told in a row, the running one the last
(log entry 68): with PRUNE_BEATS of them the boundary that ends it prunes the branch; never where its last MC_ACK carried HELD_BELOW. -/
def execBranchPrune (n : Nat) (p : Told) (s : State) : Host.Outcome State Fault Refusal :=
  run s fun d =>
    let ⟨p, beats⟩ := p
    let u := d.tree n
    let held := u.branches.any fun b => b.port = p ∧ b.epoch = d.mcEpoch n ∧ b.heldBelow
    let least := d.get R.AGX_MC_CTL_PRUNE_BEATS
    if least = 0 ∨ beats < least ∨ held ∨ !d.mcValid n ∨ !(d.mcLive n).contains p ∨ u.lag.contains p then d
    else d.setTree n { u with lag := u.lag ++ [p] }

/-- R164: the boundary prunes the branches that have lagged. -/
def Dev.pruneBoundary (d : Dev) : Dev :=
  (d.trees.filter fun e => !e.2.lag.isEmpty).foldl (fun (d : Dev) e =>
    e.2.lag.foldl (fun (d : Dev) p => d.prune e.1 p) (d.setTree e.1 { d.tree e.1 with lag := [] })) d

/-! ### Writes to tree entries (R172) -/

/-- Bits of words 0–2 that a store reaches. -/
def treeMask (k : Nat) : Nat :=
  if k = 0 then 0x3F * 2 ^ 55 + 7 * 2 ^ 61 + (2 ^ 45 - 1) else if k = 1 then 2 ^ 64 - 1 else if k = 2 then 2 ^ 45 - 1 else 0

/-- PULL_DONE and PULL_DROP of a store to word 2. -/
def Dev.pullBits (d : Dev) (n v : Nat) : Dev :=
  let d := if bitAt v 63 && decide (d.get (R.AGX_MC_TREE_W3_RX_STATE n) = 2) && !d.flag R.AGX_MC_CTL_AUTO_PULL then d.mcPulled n else d
  if bitAt v 62 && d.mcSource n then d.pullLess n else d

/-- A store to word k of tree n. PULL_DONE and PULL_DROP act in a valid entry too (log entry 42). -/
def Dev.treeWrite (d : Dev) (n k v : Nat) : Dev :=
  let o := R.AGX_MC_TREE_W0 n + 8 * k
  let old := (d.reg o).toNat
  let new := (v &&& treeMask k) + (old - (old &&& treeMask k))
  if 3 ≤ k then d
  else if d.mcValid n then
    if k = 0 && !bitAt v 63 then (d.setWord o (BitVec.ofNat 64 new)).setTree n TreeUnit.reset
    else if k = 2 && (bitAt v 63 || bitAt v 62) then d.pullBits n v
    else d.raise1 R.AGX_COL_ERR_TREE_WRITE n
  else
    let d := d.setWord o (BitVec.ofNat 64 new)
    if k = 2 then d.pullBits n v else d

/-- A store to AGX_MC_CTL: with AUTO_PULL 1 every MISSED receiver that has MC_END pulls (R165). -/
def Dev.mcCtlWrite (d : Dev) (v : Nat) : Dev :=
  let d := (d.set R.AGX_MC_CTL_PRUNE_BEATS (bits v 7 4)).set R.AGX_MC_CTL_AUTO_PULL (bits v 3 3)
  (List.range 256).foldl (fun (d : Dev) n => if d.mcValid n then d.mcPull n else d) d

end Sys2Proof.Machine
end

