-- ==== Sys2Proof/Machine/Pump.lean ====
section
/-!
DEFINITION. Pumps and streams (spec/06_pumps_cisterns.md): stream descriptors (R110–R113), buckets, pieces, requests and
slots (R114–R116), watches (R120–R122), the near cache (R126), and the expert directory and residency that a DIR_WALK
stream reads (R230, R240, R242).
-/

namespace Sys2Proof.Machine

/-! ### Stream descriptors (Tables 6.1 and 6.2) -/

def sdAddr (w : Nat) : Nat := bits w 56 0
def sdKind (w : Nat) : Nat := bits w 60 57
def sdOut (w : Nat) : Bool := bitAt w 61
def sdImm (w : Nat) : Bool := bitAt w 62
def sdCache (w : Nat) : Bool := bitAt w 63
def sdRingBase (w : Nat) : Nat := bits w 75 64
def sdRingLen (w : Nat) : Nat := if bits w 87 76 = 0 then 4096 else bits w 87 76
def sdPrime (w : Nat) : Nat := bits w 95 88
def sdFmt (w : Nat) : Nat := bits w 99 96
def sdOutOp (w : Nat) : Nat := bits w 101 100
def sdEarly (w : Nat) : Bool := bitAt w 102
def sdScaleV (w : Nat) : Bool := bitAt w 103
def sdScaleStr (w : Nat) : Nat := bits w 123 104
/-- The index or expert-list stream. -/
def sdIdx (w : Nat) : Nat := if sdKind w = 4 then bits w 163 144 else bits w 207 188
/-- COUNT of INDEXED and of DIR_WALK. -/
def sdCount (w : Nat) : Nat := if sdKind w = 4 then bits w 179 164 else bits w 239 208

/-- A signed 24-bit stride, in bytes. -/
def strideOf (v : Nat) : Int := 32 * (if v.testBit 23 then (v : Int) - 2 ^ 24 else (v : Int))

/-- Table 6.3: element buckets per group, element bytes and scale bytes per element bucket. -/
def mxG (f : Nat) : Nat := if f = 4 ∨ f = 5 then 32 else if f = 6 ∨ f = 7 then 24 else if f = 8 then 16 else 1
def mxE (f : Nat) : Nat := if f = 6 ∨ f = 7 then 2040 else 2048
def mxS (f : Nat) : Nat := if f = 4 ∨ f = 5 then 64 else if f = 6 ∨ f = 7 then 85 else if f = 8 then 128 else 0
/-- Element bytes of one MX block. -/
def mxBlock (f : Nat) : Nat := if f = 4 ∨ f = 5 then 32 else if f = 6 ∨ f = 7 then 24 else 16

/-- The bytes that a LINEAR or STRIDED stream has; the 32-bit values that an index stream holds are a quarter of them. -/
def sdPlainLen (w : Nat) : Nat :=
  if sdKind w = 0 then bits w 167 128
  else bits w 147 128 * ((bits w 159 148 + 1) * (bits w 171 160 + 1) * (bits w 183 172 + 1))

/-- R111: what an index, expert-list or scale stream must be. -/
def sdPlainIn (w : Nat) : Bool := decide (sdKind w ≤ 1) && !sdOut w && decide (sdFmt w = 0)

/-- Reserved fields of the class part, by kind (Table 6.2). -/
def sdReserved (w : Nat) : Bool :=
  match sdKind w with
  | 0 => decide (bits w 255 168 ≠ 0)
  | 1 => false
  | 2 => decide (bits w 255 241 ≠ 0)
  | 3 => decide (bits w 255 218 ≠ 0) || decide (bits w 216 215 = 3)
  | 4 => decide (bits w 255 244 ≠ 0)
  | _ => true

/-- Values of the class part outside the ranges that Table 6.2 gives. -/
def sdRange (w : Nat) : Bool :=
  match sdKind w with
  | 0 => decide (bits w 167 128 = 0)
  | 1 => decide (bits w 147 128 = 0)
  | 2 => decide (bits w 147 128 = 0) || decide (sdCount w = 0)
  | 3 => decide (bits w 182 151 % 64 ≠ 0) || decide (bits w 214 183 = 0) || decide (sdAddr w ≠ 0)
  | 4 => decide (sdCount w = 0) || decide (bits w 243 212 = 0) || decide (sdAddr w ≠ 0)
  | _ => true

/-- R113: fields that every stream descriptor must keep to. -/
def Dev.sdBad (d : Dev) (i : Nat) : Bool :=
  let w := d.streamDesc i
  sdReserved w || sdRange w || decide (bits w 127 124 ≠ 0) || decide (d.secCount 6 ≤ i) || (sdOut w && decide (3 ≤ sdKind w)) ||
  (!sdOut w && decide (sdOutOp w ≠ 0)) || (decide (sdOutOp w = 2) && decide (sdFmt w ≠ 0)) ||
  decide (4096 < sdRingBase w + sdRingLen w) || decide (sdRingLen w < sdPrime w) || decide (8 < sdFmt w) || (sdOutOp w = 3 && sdKind w ≠ 0)

/-- R111, R113: index or expert-list stream `i` is invalid, or holds fewer than n values. -/
def Dev.listBad (d : Dev) (i n : Nat) : Bool :=
  d.sdBad i || !sdPlainIn (d.streamDesc i) || sdScaleV (d.streamDesc i) || decide (sdPlainLen (d.streamDesc i) < 4 * n)

/-- R113: stream `i` is invalid. `fmt` is the operation's format field for it. That a step needs more buckets than the
ring holds is judged with the class's steps. -/
def Dev.streamBad (d : Dev) (i fmt : Nat) : Bool :=
  let w := d.streamDesc i
  let k := sdKind w
  let mx := codeMx (sdFmt w)
  d.sdBad i || decide (sdFmt w ≠ fmt) ||
  (sdScaleV w && (!mx || decide (k = 4))) || (!sdScaleV w && mx && decide (k ≠ 4)) ||
  (mx && decide (sdRingLen w % (mxG (sdFmt w) + 1) ≠ 0)) ||
  (k = 3 && !([1, 2, 3].contains (sdFmt w))) || ((k = 2 || k = 4) && d.listBad (sdIdx w) (sdCount w)) ||
  (sdScaleV w &&
    (let s := d.streamDesc (sdScaleStr w)
     d.sdBad (sdScaleStr w) || decide (sdFmt s ≠ 0) || decide (sdOut s ≠ sdOut w) || sdScaleV s ||
       !(decide (sdKind s ≤ 1) || (decide (sdKind s = 2) && decide (k = 2) && decide (sdIdx s = sdIdx w)))))

/-! ### The expert directory (R230–R232) -/

/-- The index of expert e of layer l; none where it is at or above COUNT or the directory's end. -/
def Dev.dirIndex (d : Dev) (l e : Nat) : Option Nat :=
  if 256 ≤ l then none
  else
    let i := d.force (R.EXP_LAYER_BASE l) + e
    if e < d.force (R.EXP_LAYER_COUNT l) ∧ i < 131072 then some i else none

/-- Directory entry i as a number. -/
def Dev.dirWord (d : Dev) (i : Nat) : Nat :=
  (List.range 4).foldl (fun x k => x + (d.reg (R.EXP_DIR i k)).toNat * 2 ^ (64 * k)) 0

def deVersion (e : Nat) : Nat := bits e 255 224
def deScaleOff (e : Nat) : Nat := bits e 223 192
def deBytes (e : Nat) : Nat := bits e 191 160
def deHome (e : Nat) : Nat := bits e 127 116
def deRank (e : Nat) : Nat := bits e 115 108
def deSlot (e : Nat) : Nat := bits e 107 96
def deFmt (e : Nat) : Nat := bits e 95 92
def deValid (e : Nat) : Bool := bitAt e 91
def deAddr (e : Nat) : Nat := bits e 44 0

/-- The entry of an expert for an operation: as it first read it, or as it is. None is a directory fault (R230). -/
def Dev.dirEntry (d : Dev) (op l e : Nat) : Option Nat :=
  match d.dirIndex l e with
  | none => none
  | some i =>
    let w := match d.exp.seen.find? fun s => s.op = op ∧ s.index = i with | some s => s.entry | none => d.dirWord i
    if deValid w then some w else none

/-- R231: the operation keeps the entry that it has now read. -/
def Dev.dirKeep (d : Dev) (op l e : Nat) : Dev :=
  match d.dirIndex l e with
  | none => d
  | some i =>
    if d.exp.seen.any fun s => s.op = op ∧ s.index = i then d
    else { d with exp := { d.exp with seen := d.exp.seen ++ [⟨op, i, d.dirWord i⟩] } }

/-- The residency entry for (layer, expert, version), unless it is FREE or retired (R235, R242). -/
def Dev.residency (d : Dev) (l e ver : Nat) : Option Nat :=
  (List.range 256).find? fun r => decide (d.get (R.EXP_RES_W0_STATE r) ≠ 0) && decide (d.get (R.EXP_RES_W0_LAYER r) = l) &&
    decide (d.get (R.EXP_RES_W0_EXPERT r) = e) && decide (d.get (R.EXP_RES_W1_VERSION r) = ver) && !d.exp.retired.contains r

/-- The travel group's sites, by rank. -/
def Dev.travelSites (d : Dev) : List Nat :=
  if d.force R.EXP_TRAVEL_WBUF_FRAMES = 0 then [] else d.groupSites (d.force R.EXP_TRAVEL_TGRP)

/-- Bytes of a group of a widened copy, and groups of a copy whose stored form has `bytes` bytes in format `f` (R240). -/
def groupBytes (wide : Nat) : Nat := mxG wide * mxE wide
def copyGroups (wide f bytes : Nat) : Nat := ceilDiv (ceilDiv (bytes * 8 / codeWidth f * codeWidth wide) 8) (groupBytes wide)
/-- Frames per group. -/
def groupFrames (wide : Nat) : Nat := if codeMx wide then 1 + mxG wide else 1

/-! ### Rows of a stream -/

/-- The context record that a PAGE_WALK stream reads: that of the handle bound when its operation started (R224). -/
def Dev.walkCtx (d : Dev) (st : Stream) : Option (Nat × SeqRec) :=
  let c := bits st.desc 134 128
  let h := if st.primed then d.bound c
    else match d.ops.find? fun o => o.id = st.op with
      | some o => (o.binds.find? fun b => b.1 = c).map (·.2)
      | none => d.bound c
  h.bind fun h => (d.fullRec h).map fun r => (h, r)

/-- Pages of a PAGE_WALK stream that are not withdrawn, ascending. -/
def walkPages (st : Stream) : List Nat :=
  let p0 := bits st.desc 182 151 / 64
  let p1 := (bits st.desc 182 151 + bits st.desc 214 183 - 1) / 64
  ((List.range (p1 + 1 - p0)).map (· + p0)).filter fun p => !st.withdrawn.contains p

/-- A stream that carries the scales that the directory locates (R112). -/
def Stream.dirScale (st : Stream) : Bool := match st.role with | .scale _ => decide (sdKind st.desc = 4) | _ => false

/-- Bytes per row, and rows: runs of STRIDED, rows of INDEXED, parts of PAGE_WALK and DIR_WALK. -/
def Dev.rowsOf (d : Dev) (st : Stream) : Nat × Nat :=
  let w := st.desc
  match sdKind w with
  | 0 => (bits w 167 128, 1)
  | 1 => (bits w 147 128, (bits w 159 148 + 1) * (bits w 171 160 + 1) * (bits w 183 172 + 1))
  | 2 => (bits w 147 128, sdCount w)
  | 3 =>
    let part := (d.walkCtx st).elim 0 fun x => 64 * pageDim x.2.dim * pageElem x.2.fmt
    (part, (walkPages st).length * (if bits w 216 215 = 0 then 2 else 1))
  | _ => (if st.dirScale then bits w 243 212 / mxBlock (sdFmt w) else bits w 243 212, sdCount w)

def PlanPart.len : PlanPart → Nat
  | .mem _ n => n
  | .src _ n => n
  | .null n => n

/-- Bytes that a part of an ordered stream takes: whole buckets. -/
def PlanPart.room (p : PlanPart) : Nat := ceilDiv p.len 2048 * 2048

/-- Bytes of a stream. -/
def Dev.streamLen (d : Dev) (st : Stream) : Nat :=
  match st.plan with
  | some l => l.foldl (fun n p => n + p.room) 0
  | none => (d.rowsOf st).1 * (d.rowsOf st).2

/-- The data format whose scales a scale stream carries; bytes of the stream in one of its buckets. -/
def Stream.bucketBytes (st : Stream) (dataFmt : Nat) : Nat :=
  match st.role with
  | .scale _ => mxG dataFmt * mxS dataFmt
  | _ => mxE (sdFmt st.desc)

/-- The format of the data that a stream belongs to: its own, or for a scale stream that of its data stream. -/
def TileUnit.dataFmt (u : TileUnit) (st : Stream) : Nat :=
  match st.role with
  | .scale k => (u.streams.find? fun x => x.ctx = k).elim (sdFmt st.desc) fun x => sdFmt x.desc
  | _ => sdFmt st.desc

/-- The number of its buckets. -/
def Dev.bucketCount (d : Dev) (u : TileUnit) (st : Stream) : Nat := ceilDiv (d.streamLen st) (st.bucketBytes (u.dataFmt st))

/-- Value j of an index or expert-list stream, once its bucket is resident, and whether it is poisoned (R111). -/
def TileUnit.listVal (u : TileUnit) (role : Role) (j : Nat) : Option (Nat × Bool) :=
  match u.streams.find? fun x => x.role = role with
  | none => none
  | some s => (s.buckets.find? fun b => b.idx = j / 512 ∧ b.ready.isEmpty ∧ b.sent = 0 ∧ ¬b.stale).map fun b =>
      (recNat b.bytes (4 * (j % 512)) 4, b.poison.testBit (4 * (j % 512) / 128))

/-- The context of the list that a stream reads: a scale stream reads the indices of its data stream (R112). -/
def Stream.listOf (st : Stream) : Nat := match st.role with | .scale k => k | _ => st.ctx

/-- Where a row lies. -/
inductive RowAt where
  /-- Not yet known. -/
  | wait
  /-- No access; delivered as zeros, or discarded. -/
  | null
  /-- Named by a poisoned index (R111). -/
  | bad
  | at_ (dev : Nat) (off : Nat)
  /-- From byte `o` of residency entry r's widened copy on (R242). -/
  | copy (r o : Nat)
  /-- An address error (R22); the global address. -/
  | fault (g : Nat)
  /-- A directory fault, a format that differs, a part outside the tile's slice. -/
  | dirFault
  | fmtFault
  | sliceFault

/-- R111: a row of `n` bytes at a displacement from a local offset; outside its device it sends no request. -/
def rowRange (dev : Nat) (base : Nat) (disp : Int) (n : Nat) : RowAt :=
  let a : Int := base + disp
  if a < 0 ∨ (2 : Int) ^ 45 < a + n then .fault (dev * 2 ^ 45 + (a % 2 ^ 45).toNat) else .at_ dev a.toNat

/-- Where row j of a stream of tile t lies. -/
def Dev.rowAt (d : Dev) (t : Nat) (st : Stream) (j : Nat) : RowAt :=
  let w := st.desc
  let u := d.tile t
  let dev := sdAddr w / 2 ^ 45
  let base := sdAddr w % 2 ^ 45
  let len := (d.rowsOf st).1
  match sdKind w with
  | 0 => rowRange dev base 0 len
  | 1 =>
    let c1 := bits w 159 148 + 1
    let c2 := bits w 171 160 + 1
    rowRange dev base ((j % c1 : Nat) * strideOf (bits w 207 184) + (j / c1 % c2 : Nat) * strideOf (bits w 231 208) +
      (j / (c1 * c2) : Nat) * strideOf (bits w 255 232)) len
  | 2 =>
    match u.listVal (.index st.listOf) j with
    | none => .wait
    | some (v, p) =>
      if p then .bad
      else if bitAt w 240 ∧ v = 0xFFFFFFFF then .null
      else rowRange dev base ((v * bits w 187 148 : Nat) : Int) len
  | 3 =>
    let two := decide (bits w 216 215 = 0)
    let page := (walkPages st).getD (if two then j / 2 else j) 0
    let second := if two then decide (j % 2 = 1) else decide (bits w 216 215 = 2)
    match st.trans.find? fun x => x.1 = page with
    | none => .wait
    | some (_, f, _) => .at_ d.id (d.frameAddr f + (if second then len else 0))
  | _ =>
    match u.listVal (.experts st.listOf) j with
    | none => .wait
    | some (e, p) =>
      if p then .bad else
      let l := bits w 143 128
      match d.dirEntry st.op l e with
      | none => .dirFault
      | some en =>
        let off := bits w 211 180
        let plen := bits w 243 212
        let travel := d.travelSites
        match (if travel.contains t then d.residency l e (deVersion en) else none) with
        | some r =>
          let wide := d.force (R.EXP_LAYER_WIDE_FMT l)
          let g := groupBytes wide
          let ng := copyGroups wide (deFmt en) (deBytes en)
          let n := travel.length
          let rank := (travel.takeWhile fun x => x ≠ t).length
          if sdFmt w ≠ wide then .fmtFault
          else if d.get (R.EXP_RES_W0_STATE r) = 3 then .fault (deHome en * 2 ^ 45 + deAddr en)
          else if off < rank * ng / n * g ∨ (rank + 1) * ng / n * g < off + plen then .sliceFault
          else if d.get (R.EXP_RES_W0_STATE r) = 1 then .wait
          else .copy r (off - rank * ng / n * g)
        | none =>
          if deFmt en ≠ sdFmt w then .fmtFault
          else if st.dirScale then rowRange (deHome en) (deAddr en) ((deScaleOff en + off / mxBlock (sdFmt w) : Nat) : Int) len
          else rowRange (deHome en) (deAddr en) (off : Int) len

/-- Bytes [o, o + n) of the slice of a widened copy in tile t's cistern (R240, Table 6.3): scales, or elements. -/
def Dev.copyBytes (d : Dev) (t r wide : Nat) (scales : Bool) (o n : Nat) : Got :=
  let f0 := d.get (R.EXP_RES_W0_FRAME r)
  let at_ (i : Nat) : Nat :=
    let y := o + i
    if scales then
      let per := mxG wide * mxS wide
      (f0 + y / per * groupFrames wide) * 2048 + y % per
    else
      let g := groupBytes wide
      let k := y % g / mxE wide
      (f0 + y / g * groupFrames wide + (if codeMx wide then 1 + k else 0)) * 2048 + y % g % mxE wide
  ⟨(List.range n).map fun i => stGet (fun _ => (0 : Byte)) d.cist.cells (cistKey t (at_ i)),
   (List.range n).map fun i => stGet (fun _ => false) d.cist.poison (cistKey t (at_ i) / 128)⟩

/-! ### Forming buckets (R110, R114) -/

/-- The part of row r that bytes [a, a + n) of a stream hold: row, first byte in the row, length, place in [a, a + n). -/
def rowParts (rowLen a n : Nat) : List (Nat × Nat × Nat × Nat) :=
  if rowLen = 0 ∨ n = 0 then [] else
  (List.range ((a + n - 1) / rowLen - a / rowLen + 1)).map fun i =>
    let r := a / rowLen + i
    let lo := max a (r * rowLen)
    let hi := min (a + n) ((r + 1) * rowLen)
    (r, lo - r * rowLen, hi - lo, lo - a)

/-- The part of an ordered stream that holds byte a, with the bytes of it from there on. -/
def planPart : List PlanPart → Nat → Option PlanPart
  | [], _ => none
  | p :: r, a =>
    if p.room ≤ a then planPart r (a - p.room)
    else if p.len ≤ a then none
    else some (match p with
      | .mem o n => .mem (o + a) (n - a)
      | .src o n => .src (o + a) (n - a)
      | .null n => .null (n - a))

/-- A global range cut at the aligned 8 KiB windows: place, address, length. -/
def windowParts (g n at_ : Nat) : List (Nat × Nat × Nat) :=
  if n = 0 then [] else
  (List.range ((g + n - 1) / 8192 - g / 8192 + 1)).map fun i =>
    let lo := max g ((g / 8192 + i) * 8192)
    let hi := min (g + n) ((g / 8192 + i + 1) * 8192)
    (at_ + (lo - g), lo, hi - lo)

/-- Bits of the 128-byte lines that bytes [a, a + n) of a bucket touch. -/
def lineMask (a n : Nat) : Nat := (codewords a n).foldl (fun m l => m ||| 2 ^ l) 0

/-- What forming a bucket comes to. -/
inductive Formed where
  | wait
  | fault (r : RowAt)
  | bucket (b : Bucket)

/-- R111, R114: bucket i of a stream. -/
def Dev.formBucket (d : Dev) (t : Nat) (st : Stream) (i : Nat) : Formed :=
  let u := d.tile t
  let fmt := u.dataFmt st
  let bb := st.bucketBytes fmt
  let n := min bb (d.streamLen st - i * bb)
  let skipped (o len : Nat) : Bool := st.skip.any fun k => decide (k.1 ≤ o) && decide (o + len ≤ k.1 + k.2)
  let own (a n at_ : Nat) : List ((Nat × Nat × Nat × Nat) × RowAt) := (rowParts (d.rowsOf st).1 a n).map fun p => ((p.1, p.2.1, p.2.2.1, p.2.2.2 + at_), d.rowAt t st p.1)
  let parts : List ((Nat × Nat × Nat × Nat) × RowAt) := match st.plan with
  | some l => (match planPart l (i * bb) with
    | some (.mem o m) => [((0, 0, min m bb, 0), RowAt.at_ d.id o)]
    | some (.src o m) => own o (min m bb) 0
    | _ => [])
  | none => (rowParts (d.rowsOf st).1 (i * bb) n).flatMap fun p =>
    -- a part that spans groups of which one is not fetched is cut where they meet
    let cuts := st.skip.flatMap fun k => [k.1, k.1 + k.2]
    let o := i * bb + p.2.2.2
    let pts := ([o] ++ sortBy (fun a b => decide (a ≤ b)) (cuts.filter fun c => decide (o < c) && decide (c < o + p.2.2.1)) ++ [o + p.2.2.1])
    (pts.zip (pts.drop 1)).map fun (x, y) =>
      ((p.1, p.2.1 + (x - o), y - x, p.2.2.2 + (x - o)), if skipped x (y - x) then RowAt.null else d.rowAt t st p.1)
  if parts.any fun p => match p.2 with | .wait => true | _ => false then .wait
  else match parts.findSome? fun p => match p.2 with
      | .fault g => some (.fault g) | .dirFault => some .dirFault | .fmtFault => some .fmtFault | .sliceFault => some .sliceFault
      | _ => (none : Option RowAt) with
  | some r => .fault r
  | none =>
    let b : Bucket := ⟨i, [], [], 0, false, false, true, [], List.replicate 2048 0, 0, [], false⟩
    .bucket (parts.foldl (fun (b : Bucket) p =>
      let (_, o, len, at_) := p.1
      match p.2 with
      | .bad =>
        { b with all := b.all ++ [⟨st.ctx, i, at_, none, len, true⟩], poison := b.poison ||| lineMask at_ len }
      | .at_ dev off =>
        let ps := (windowParts (dev * 2 ^ 45 + off + o) len at_).map fun x => (⟨st.ctx, i, x.1, some x.2.1, x.2.2, false⟩ : Piece)
        { b with all := b.all ++ ps, ready := b.ready ++ ps
                 src := if dev = d.id then b.src ++ [(off + o, len)] else b.src }
      | .copy r q =>
        let got := d.copyBytes t r fmt st.dirScale (if st.dirScale then q / mxBlock fmt + o else q + o) len
        { b with bytes := b.bytes.take at_ ++ got.bytes ++ b.bytes.drop (at_ + len)
                 poison := b.poison ||| (if got.anyPoison then lineMask at_ len else 0) }
      | _ => b) b)

/-! ### Faults of a tile and of a stream -/

/-- R368: the beat-table entry and OP_INDEX of an operation, for ARG3 and ARG4. -/
def Dev.opArgs (d : Dev) (op : Nat) : Nat × Nat :=
  (d.ops.find? fun o => o.id = op).elim (noArg, noArg) fun o => (o.entry.getD noArg, o.opIndex)

/-- The same for the operation of a stream. -/
def Dev.streamArgs (d : Dev) (s : Stream) : Nat × Nat := if s.primed then (s.op, entOp (d.entry s.op)) else d.opArgs s.op

/-- A pump's error bit is set for a stream of its. -/
def Dev.raiseStream (d : Dev) (f : Fld) (arg2 : Nat) (s : Stream) : Dev :=
  let (e, i) := d.streamArgs s
  d.raise f arg2 e i

/-- R85: the tile halts; the CONTAINED error is logged at the descriptor that its operation read. -/
def Dev.haltTile (d : Dev) (t : Nat) : Dev :=
  let u := d.tile t
  match u.exec with
  | none => d
  | some x =>
    let d := (d.setTile t { u with exec := some { x with halted := true } }).set (R.TILE_STATUS_EXEC_STATE t) 4
    let (e, i) := d.opArgs x.op
    d.event (R.TILE_STATUS_EXEC_STATE t) 0 e i

/-- PUMP_FAULT_ADDR and PUMP_FAULT_STR keep the first address fault since PUMP_ERR was last cleared. -/
def Dev.pumpFault (d : Dev) (t : Nat) (f : Fld) (g : Nat) (s : Stream) : Dev :=
  let first := !(d.flag (R.PUMP_ERR_ADDR t) || d.flag (R.PUMP_ERR_REMOTE_ERR t) || d.flag (R.PUMP_ERR_DIR_FMT t))
  let d := if first then (d.set (R.PUMP_FAULT_ADDR_ADDR t) g).set (R.PUMP_FAULT_STR_STREAM t) s.strm else d
  d.raiseStream f g s

/-- R22, R111, R128: an address error ends a stream. The operation of a running stream halts; that of a primed one halts
when it starts. -/
def Dev.streamFault (d : Dev) (t ctx : Nat) (f : Fld) (g : Nat) : Dev :=
  let u := d.tile t
  match u.streams.find? fun s => s.ctx = ctx with
  | none => d
  | some s =>
    if s.fault then d else
    let d := d.setTile t { u with streams := u.streams.map fun x => if x.ctx = ctx then { x with fault := true } else x }
    let d := d.pumpFault t f g s
    if s.primed then d else d.haltTile t

/-- A fault found where a bucket was to be formed: no request is sent, and the source logs it (R111, R393). -/
def Dev.formFault (d : Dev) (t : Nat) (st : Stream) (r : RowAt) : Dev :=
  let g := match r with | .fault g => g | _ => 0
  let d := match r with
    | .dirFault => d.raise1 R.EXP_ERR_DIR_INVALID st.strm
    | .sliceFault => d.raise1 R.EXP_ERR_SLICE_RANGE st.strm
    | _ => d
  let d := d.logError 2 4 t (g % 2 ^ 45) (tileIngress t) st.strm
  let f := match r with | .fmtFault => R.PUMP_ERR_DIR_FMT t | _ => R.PUMP_ERR_ADDR t
  d.streamFault t st.ctx f g

/-! ### The near cache (R126) -/

/-- Full invalidation is running: lookups miss. -/
def Dev.ncBusy (d : Dev) (t : Nat) : Bool := d.flag (R.CIST_NC_CTL_BUSY t)

/-- A line, if it is held. -/
def Dev.ncLine (d : Dev) (t line : Nat) : Option NcLine := if d.ncBusy t then none else (d.tile t).nc.find? fun l => l.line = line

/-- A line becomes the most recently used of its set of 8 ways. -/
def TileUnit.ncPut (u : TileUnit) (l : NcLine) : TileUnit :=
  let rest := u.nc.filter fun x => x.line ≠ l.line
  let mine := rest.filter fun x => x.line % 512 = l.line % 512
  let out := mine.drop 7
  { u with nc := l :: rest.filter fun x => !out.contains x }

/-- Descriptor fetches fill and use the near cache. -/
def Dev.ncFetch (d : Dev) (t a n : Nat) : Dev :=
  (codewords (d.id * 2 ^ 45 + a) n).foldl (fun (d : Dev) line =>
    match d.ncLine t line with
    | some l => (d.setTile t ((d.tile t).ncPut l)).count (R.CIST_NC_HITS t) 1
    | none =>
      let l : NcLine := ⟨line, d.peek (line * 128 % 2 ^ 45) 128, d.poisonedAt (line * 128 % 2 ^ 45) 128, none⟩
      (d.setTile t ((d.tile t).ncPut l)).count (R.CIST_NC_MISSES t) 1) d

/-- The whole near cache is invalidated. -/
def Dev.ncClear (d : Dev) (t : Nat) : Dev := d.setTile t { d.tile t with nc := [] }

/-- Lines that an IMM = 0 stream filled go when it ends. -/
def Dev.ncDrop (d : Dev) (t ctx : Nat) : Dev :=
  let u := d.tile t
  let n := (u.nc.filter fun l => l.strm = some ctx).length
  if n = 0 then d else (d.setTile t { u with nc := u.nc.filter fun l => l.strm ≠ some ctx }).count (R.CIST_NC_DROP_DROPPED t) n

/-! ### Watches (R120, R122) -/

/-- The lowest watch that is free. -/
def TileUnit.freeWatch (u : TileUnit) : Option Nat := (List.range 16).find? fun n => !(u.streams.any fun s => s.watch = some n)

/-- Local source offsets of a LINEAR or STRIDED stream lie wholly in an IMMUTABLE region. -/
def Dev.wholeImmutable (d : Dev) (st : Stream) : Bool :=
  let (len, rows) := d.rowsOf st
  decide (sdKind st.desc ≤ 1) && (List.range rows).all fun j =>
    match d.rowAt 0 { st with buckets := [] } j with
    | .at_ _ off => d.img.regions.any fun r => r.immutable && decide (r.base ≤ off) && decide (off + len ≤ r.base + r.size)
    | _ => false

/-- R120: the stream claims a watch when it starts. -/
def Dev.wantsWatch (d : Dev) (st : Stream) : Bool :=
  let w := st.desc
  !sdImm w && !sdOut w && decide (sdKind w ≤ 2) && decide (sdAddr w / 2 ^ 45 = d.id) &&
    decide (sdAddr w % 2 ^ 45 < 0x1F0000000000) && !d.wholeImmutable st

/-- A stream claims a watch, or waits for one (R122). -/
def TileUnit.claim (u : TileUnit) (ctx : Nat) : TileUnit :=
  match u.freeWatch with
  | some n => { u with streams := u.streams.map fun s => if s.ctx = ctx then { s with watch := some n, waitWatch := false } else s }
  | none => { u with streams := u.streams.map fun s => if s.ctx = ctx then { s with waitWatch := true } else s }

/-! ### Slots (R114, R116) -/

/-- Pieces of a bucket that need an access. -/
def Bucket.needs (b : Bucket) : Nat := (b.all.filter (·.addr.isSome)).length

/-- The bucket holds a slot: from its first piece's request to its last piece's arrival (R114, R121). -/
def Bucket.slot (b : Bucket) : Bool := decide (0 < b.sent) || b.kept || (!b.ready.isEmpty && decide (b.ready.length < b.needs))

def TileUnit.slots (u : TileUnit) : Nat := u.streams.foldl (fun x s => x + (s.buckets.filter Bucket.slot).length) 0

/-- Slots held against a pseudo-channel. -/
def TileUnit.against (u : TileUnit) (pc : Nat) : Nat :=
  u.streams.foldl (fun x s => x + (s.buckets.filter fun b => b.slot && b.pcs.contains pc).length) 0

/-- The pseudo-channel of a piece in local HBM. -/
def Dev.piecePc (d : Dev) (p : Piece) : Option Nat :=
  p.addr.bind fun g => if g / 2 ^ 45 = d.id ∧ g % 2 ^ 45 < 0x180000000000 ∧ ¬d.stacks.isEmpty then some (d.pcOf (g % 2 ^ 45)) else none

/-! ### Registers of a pump (Tables 6.7 and 6.8) -/

/-- The bounding range of a stream's live buckets. -/
def Stream.bounds (s : Stream) : Option (Nat × Nat) :=
  ((s.buckets.filter Bucket.isLive).flatMap (·.src)).foldl (fun (x : Option (Nat × Nat)) r =>
    match x with
    | none => some (r.1, r.1 + r.2)
    | some (a, b) => some (min a r.1, max b (r.1 + r.2))) none

/-- PUMP_STATUS and the watch registers brought up to date. -/
def Dev.refreshPump (d : Dev) (t : Nat) : Dev :=
  let u := d.tile t
  let waits := u.streams.foldl (fun x s => x + (s.buckets.filter fun b => !b.ready.isEmpty && !b.slot).length) 0
  let pcs := (u.streams.flatMap fun s => s.buckets.flatMap (·.pcs)).eraseDups
  let d := ((((d.set (R.PUMP_STATUS_SLOTS t) u.slots).set (R.PUMP_STATUS_CONTEXTS t) u.streams.length).set
    (R.PUMP_STATUS_WATCHES t) (u.streams.filter (·.watch.isSome)).length).set (R.PUMP_STATUS_ISSUE_WAIT t) (min waits 255)).set
    (R.PUMP_STATUS_PC_AT_CAP t) (min 3 (pcs.filter fun p => 16 ≤ u.against p).length)
  let d := d.set (R.PUMP_STATUS_PRIMING t) (b2n (u.streams.any (·.primed)))
  (List.range 16).foldl (fun (d : Dev) n =>
    match u.streams.find? fun s => s.watch = some n with
    | none => (d.setWord (R.PUMP_WATCH_LO t n) 0).setWord (R.PUMP_WATCH_HI t n) 0
    | some s =>
      let (lo, hi) := s.bounds.getD (0, 1)
      (((d.set (R.PUMP_WATCH_LO_VALID t n) 1).set (R.PUMP_WATCH_LO_LOW t n) lo).set (R.PUMP_WATCH_HI_STREAM t n) s.strm).set
        (R.PUMP_WATCH_HI_HIGH_64 t n) ((hi - 1) / 64)) d

/-! ### Starting and ending streams (R117) -/

/-- The lowest context number free. -/
def TileUnit.freeCtx (u : TileUnit) : Nat := ((List.range 24).find? fun c => !(u.streams.any fun s => s.ctx = c)).getD u.streams.length

/-- One stream context is taken. -/
def Dev.openCtx (d : Dev) (t i op : Nat) (primed : Bool) (role : Role) (desc : Nat) (plan : Option (List PlanPart)) : Dev × Nat :=
  let u := d.tile t
  let c := u.freeCtx
  let s : Stream := ⟨c, i, role, desc, op, primed, false, none, [], [], [], plan, false, none, [], []⟩
  let u := { u with streams := u.streams ++ [s] }
  (d.setTile t (if d.wantsWatch s then u.claim c else u), c)

/-- A stream that an operation opens on a tile: its role and index, what its ADDR is advanced by (R186), and whether its
order is the operation's. -/
structure Opening where
  role : Role
  strm : Nat
  adv : Nat
  ordered : Bool
deriving DecidableEq, Repr

/-- A stream starts, with its index, expert-list and scale streams (R111, R112). -/
def Dev.openStream (d : Dev) (t op : Nat) (primed : Bool) (o : Opening) : Dev :=
  let i := o.strm
  let w := d.streamDesc i
  let w := w - sdAddr w + (sdAddr w + o.adv) % 2 ^ 57
  let d := d.ncFetch t (d.streamDescAt i) 32
  let (d, c) := d.openCtx t i op primed o.role w (if o.ordered then some [] else none)
  let sub (d : Dev) (j : Nat) (r : Role) : Dev := ((d.ncFetch t (d.streamDescAt j) 32).openCtx t j op primed r (d.streamDesc j) none).1
  let d := if sdKind w = 2 then sub d (sdIdx w) (.index c) else if sdKind w = 4 then sub d (sdIdx w) (.experts c) else d
  if sdScaleV w then sub d (sdScaleStr w) (.scale c)
  else if codeMx (sdFmt w) ∧ sdKind w = 4 then (d.openCtx t i op primed (.scale c) w none).1
  else d

/-- A page's pin that a stream took is released (R206). -/
def Dev.releasePages (d : Dev) (s : Stream) : Dev :=
  s.trans.foldl (fun (d : Dev) x => (d.unpinFrame x.2.1).dev d) d

/-- Streams end: their buckets are discarded, their watches freed, their pins released. -/
def Dev.closeStreams (d : Dev) (t : Nat) (p : Stream → Bool) : Dev :=
  let u := d.tile t
  let gone := u.streams.filter p
  if gone.isEmpty then d else
  let ctxs := gone.map (·.ctx)
  let d := d.setTile t { u with
    streams := u.streams.filter fun s => !p s
    reqs := (u.reqs.map fun r => { r with pieces := r.pieces.filter fun q => !ctxs.contains q.ctx }).filter fun r => !r.pieces.isEmpty
    order := u.order.filter fun c => !ctxs.contains c }
  let d := gone.foldl (fun (d : Dev) s => (d.releasePages s).ncDrop t s.ctx) d
  d.refreshPump t

/-- R117: the streams of an entry that will never start are abandoned, on every tile. -/
def Dev.abandon (d : Dev) (p : Nat → Bool) : Dev :=
  d.tiles.foldl (fun (d : Dev) e => if e.2.streams.any (fun s => s.primed && p s.op) then d.closeStreams e.1 fun s => s.primed && p s.op else d) d

/-! ### Issue (R115, R116) -/

/-- How many buckets of a stream its ring holds at once: element buckets, or groups for a scale stream. -/
def Stream.ringCap (s : Stream) (fmt ring : Nat) : Nat :=
  match s.role with
  | .scale _ => ring / (mxG fmt + 1)
  | .extra _ => 2 ^ 40
  | _ => if codeMx fmt then ring / (mxG fmt + 1) * mxG fmt else ring

/-- The buckets of a stream among the first `n` of its ring, scale buckets being counted (R117, R118). -/
def Stream.primeCap (s : Stream) (fmt n : Nat) : Nat :=
  match s.role with
  | .scale _ => ceilDiv n (mxG fmt + 1)
  | _ => if codeMx fmt then n / (mxG fmt + 1) * mxG fmt + (n % (mxG fmt + 1) - 1) else n

/-- The ring that a stream's buckets lie in: that of its data stream for a scale stream. -/
def TileUnit.ringOf (u : TileUnit) (s : Stream) : Nat :=
  match s.role with
  | .scale k => (u.streams.find? fun x => x.ctx = k).elim s.desc (·.desc)
  | _ => s.desc

/-- The frame of bucket j in its ring (R110, R112). -/
def ringFrame (s : Stream) (ring fmt j : Nat) : Nat :=
  let g := mxG fmt
  let pos := match s.role with
    | .scale _ => j * (g + 1)
    | _ => if codeMx fmt then j / g * (g + 1) + 1 + j % g else j
  sdRingBase ring + pos % sdRingLen ring

/-- A bucket's bytes go to its frame of the ring. A request that an operation makes of its own belongs to no ring. -/
def Dev.ringStore (d : Dev) (t : Nat) (s : Stream) (i : Nat) (b : Bucket) : Dev :=
  match s.role with
  | .extra _ => d
  | _ =>
    let u := d.tile t
    d.cistStore t (ringFrame s (u.ringOf s) (u.dataFmt s) i * 2048) b.bytes fun k => b.poison.testBit (k / 128)

/-- The first bucket not formed may be formed: its frame is free, and a primed stream keeps to PRIME (R117). -/
def Dev.mayForm (d : Dev) (u : TileUnit) (s : Stream) : Bool :=
  let fmt := u.dataFmt s
  let n := s.buckets.length
  let ring := u.ringOf s
  let cap := s.ringCap fmt (sdRingLen ring)
  let live := (s.buckets.filter (·.live)).length
  decide (n < d.bucketCount u s) && decide (live < cap) && !s.fault && !s.waitWatch && s.hold.isNone && !sdOut s.desc &&
    (!s.primed || (sdEarly s.desc && decide (n < s.primeCap fmt (sdPrime ring))))

/-- An index or expert list whose values have all been used gives its buckets back; the pump reads it itself (R111). -/
def Stream.usedUp (s : Stream) (rows total : Nat) : Stream :=
  let s : Stream := { s with buckets := s.buckets.map fun (b : Bucket) => if 512 * (b.idx + 1) ≤ rows ∨ total ≤ rows then { b with live := false } else b }
  { s with watch := if total ≤ rows then none else s.watch }

/-- Rows of a stream that its formed buckets have used. -/
def Dev.rowsFormed (d : Dev) (u : TileUnit) (s : Stream) : Nat :=
  let len := (d.rowsOf s).1
  if len = 0 then 0 else min ((d.rowsOf s).2) (s.buckets.length * s.bucketBytes (u.dataFmt s) / len)

/-- R242: operation `op` on travel tile t reads the widened copy of an expert. -/
def Dev.copyRead (d : Dev) (t op l e : Nat) : Dev :=
  if !d.travelSites.contains t then d else
  match (d.dirEntry op l e).bind fun en => d.residency l e (deVersion en) with
  | some r => if d.exp.reads.contains (op, r) then d else { d with exp := { d.exp with reads := d.exp.reads ++ [(op, r)] } }
  | none => d

/-- One more bucket of the stream in context c is formed, if it may be; `true` where it was. A DIR_WALK stream claims its
watch at its first expert on this device (R120). -/
def Dev.formOne (d : Dev) (t c : Nat) : Dev × Bool :=
  let u := d.tile t
  match u.streams.find? fun s => s.ctx = c with
  | none => (d, false)
  | some s =>
    if !d.mayForm u s then (d, false) else
    match d.formBucket t s s.buckets.length with
    | .wait => (d, false)
    | .fault r => (d.formFault t s r, false)
    | .bucket b =>
      let claims := sdKind s.desc = 4 ∧ !sdImm s.desc ∧ s.watch.isNone ∧ !b.src.isEmpty ∧ !s.dirScale
      if claims ∧ u.freeWatch.isNone then (d.setTile t (u.claim c), false)
      else
        let u := if claims then u.claim c else u
        let lists := (rowParts (d.rowsOf s).1 (b.idx * s.bucketBytes (u.dataFmt s)) 2048).map (·.1)
        let d := if sdKind s.desc = 4 then lists.foldl (fun (d : Dev) j =>
            match u.listVal (.experts s.listOf) j with | some (e, _) => (d.dirKeep s.op (bits s.desc 143 128) e).copyRead t s.op (bits s.desc 143 128) e | none => d) d else d
        let u := { u with streams := u.streams.map fun (x : Stream) => if x.ctx = c then { x with buckets := x.buckets ++ [b] } else x }
        let rows := (u.streams.find? fun (x : Stream) => x.ctx = c).elim 0 fun x => d.rowsFormed u x
        let u := { u with streams := u.streams.map fun (x : Stream) =>
          if x.role = .index c ∨ x.role = .experts c then x.usedUp rows (d.rowsOf s).2 else x }
        let d := if b.all.any (·.bad) then d.raiseStream (R.PUMP_ERR_POISON_IN t) 0 s else d
        let d := d.setTile t u
        (if b.ready.isEmpty then d.ringStore t s b.idx b else d, true)

/-- Every bucket that may be formed is: at most 255 wait in one stream for a slot. -/
def Dev.formAll (d : Dev) (t : Nat) : Nat → Nat → Dev
  | 0, _ => d
  | n + 1, c =>
    let u := d.tile t
    let waiting := (u.streams.find? fun s => s.ctx = c).elim 255 fun s => (s.buckets.filter fun b => !b.ready.isEmpty).length
    if 255 ≤ waiting then d else
    let (d, more) := d.formOne t c
    if more then d.formAll t n c else d

/-- A bucket whose lines the near cache holds is filled from it (R126). -/
def Dev.ncFill (d : Dev) (t : Nat) (s : Stream) (b : Bucket) : Dev :=
  if !sdCache s.desc || b.slot || b.ready.isEmpty then d else
  let lines := (b.ready.flatMap fun p => codewords (p.addr.getD 0) p.len).eraseDups
  let held := lines.filterMap fun l => d.ncLine t l
  if held.length ≠ lines.length then d else
  let byte (g : Nat) : Byte := (held.find? fun l => l.line = g / 128).elim 0 fun l => l.bytes.getD (g % 128) 0
  let pz (g : Nat) : Bool := (held.find? fun l => l.line = g / 128).elim false (·.poison)
  let b' := b.ready.foldl (fun (b : Bucket) p =>
    let g := p.addr.getD 0
    { b with bytes := b.bytes.take p.at_ ++ ((List.range p.len).map fun i => byte (g + i)) ++ b.bytes.drop (p.at_ + p.len)
             poison := b.poison ||| (if (codewords g p.len).any fun l => pz (l * 128) then lineMask p.at_ p.len else 0) }) { b with ready := [] }
  let u := d.tile t
  let u := held.foldl TileUnit.ncPut u
  let u := { u with streams := u.streams.map fun x => if x.ctx = s.ctx then
      { x with buckets := x.buckets.map fun y => if y.idx = b.idx then b' else y } else x }
  let n := b.ready.foldl (fun x p => x + p.len) 0
  let d := ((d.setTile t u).count (R.CIST_NC_HITS t) lines.length).count (R.PUMP_BYTES_IN_BYTES t) n
  d.ringStore t s b.idx b'

/-- R75: the group counts are read as they come; once all have, the weights of groups with rows may be fetched. -/
def Dev.releaseHold (d : Dev) (t : Nat) : Dev :=
  let u := d.tile t
  let read (s : Stream) : Stream :=
    if !s.primed && decide (s.role = .groups) then
      { s with buckets := s.buckets.map fun (b : Bucket) => if b.resident then { b with live := false } else b }
    else s
  let d := d.setTile t { u with streams := u.streams.map read }
  let u := d.tile t
  match u.streams.find? fun s => s.hold.isSome with
  | none => d
  | some s =>
    match s.hold with
    | none => d
    | some (n, _) =>
      let counts := (List.range n).map fun g => u.listVal .groups g
      if counts.any Option.isNone then d else
      let empty := (List.range n).filter fun g => (counts.getD g none).elim true fun v => v.1 = 0
      d.setTile t { u with streams := u.streams.map fun (x : Stream) =>
        match x.hold with
        | some (_, b) => { x with hold := none, skip := empty.map fun g => (g * b, b) }
        | none => x }

/-- Buckets formed, and those that the near cache holds filled; lists before the streams that read them. -/
def Dev.prepare (d : Dev) (t : Nat) : Dev :=
  let d := d.releaseHold t
  let cs := (d.tile t).streams.map (·.ctx)
  let d := (cs.reverse ++ cs).foldl (fun (d : Dev) c => d.formAll t 256 c) d
  let u := d.tile t
  u.streams.foldl (fun (d : Dev) s => s.buckets.foldl (fun (d : Dev) b => d.ncFill t s b) d) d

/-- The contexts in the order in which they are served: the running operation's before primed ones, each least recently
granted first (R42, R116). -/
def TileUnit.served (u : TileUnit) : List Nat :=
  let rank (p : Bool) : List Nat :=
    let cs := (List.range 24).filter fun c => u.streams.any fun s => s.ctx = c ∧ s.primed = p
    cs.filter (fun c => !u.order.contains c) ++ u.order.filter fun c => cs.contains c
  rank false ++ rank true

/-- Gathering one request. -/
structure Pick where
  u : TileUnit
  win : Option Nat
  pieces : List Piece
  first : Option Nat

/-- R116: bucket i of context c joins the request, if its pieces lie in the window and its slot is free; `false` where the
buckets behind it must wait. -/
def Dev.pickBucket (d : Dev) (k : Pick) (c i : Nat) : Pick × Bool :=
  match (k.u.streams.find? fun s => s.ctx = c).bind fun s => s.buckets.find? fun b => b.idx = i with
  | none => (k, true)
  | some b =>
    if b.ready.isEmpty then (k, true) else
    let win := k.win.getD (((b.ready.head?.bind (·.addr)).getD 0) / 8192)
    let go := b.ready.filter fun p => p.addr.getD 0 / 8192 = win
    if go.isEmpty then (k, b.slot) else
    let pcs := (go.filterMap d.piecePc).eraseDups
    if (!b.slot && decide (48 ≤ k.u.slots)) || pcs.any (fun p => !(b.slot && b.pcs.contains p) && decide (16 ≤ k.u.against p)) then (k, false)
    else
      let b' := { b with ready := b.ready.filter (fun p => !go.contains p), sent := b.sent + go.length, kept := false, pcs := (b.pcs ++ pcs).eraseDups }
      let u := { k.u with streams := k.u.streams.map fun s => if s.ctx = c then
        { s with buckets := s.buckets.map fun x => if x.idx = i then b' else x } else s }
      ({ u := u, win := some win, pieces := k.pieces ++ go, first := some (k.first.getD c) }, true)

/-- The virtual lane and the windows of a packet of a stream to a device: VL0 where its operation's slot plan selects the stream
on the port claimed, else VL1 (R158). On a detour it keeps VL0 but has no window (Table 8.8). -/
def Dev.streamLane (d : Dev) (op : Nat) (role : Role) (dest : Nat) : Nat × Option (Nat × Nat) :=
  match d.ops.find? fun o => o.id = op with
  | none => (1, none)
  | some o =>
    let p := d.plannedPort dest
    if !d.planSelects o.slotPlan p (roleBit role) 37 then (1, none)
    else match d.route d.id dest false none with
      | .port q _ => (0, if q = p then some (op, roleBit role) else none)
      | _ => (0, none)

/-- The 64-byte sectors that pieces touch in their window. -/
def pieceMask (ps : List Piece) : Nat :=
  ps.foldl (fun m p => ((List.range 128).filter fun i =>
    let g := p.addr.getD 0 % 8192
    decide (g < 64 * i + 64) && decide (64 * i < g + p.len)).foldl (fun m i => m ||| 2 ^ i) m) 0

/-- R115, R116: the pieces of the next request, in the order in which streams are served. -/
def Dev.picks (d : Dev) (u : TileUnit) : Pick :=
  u.served.foldl (fun (k : Pick) c =>
    let idxs := (u.streams.find? fun s => s.ctx = c).elim [] fun s => (s.buckets.filter fun b => !b.ready.isEmpty).map (·.idx)
    (idxs.foldl (fun (x : Pick × Bool) i => if x.2 then d.pickBucket x.1 c i else x) (k, true)).1) ⟨u, none, [], none⟩

/-- R115: one request leaves: the pieces that are ready and lie in one window. -/
def Dev.pieceIssue (d : Dev) (t : Nat) : Dev :=
  if !d.tileReady t || !d.alive then d else
  let d := d.prepare t
  let u := d.tile t
  let k := d.picks u
  match k.pieces, k.win with
  | p :: _, some win =>
    let dev := win * 8192 / 2 ^ 45
    let remote := decide (dev ≠ d.id)
    let inject := d.flag (R.PUMP_INJECT_ADDR_ERR_NEXT t) && d.testEnable
    let id := u.nextReq
    let grants := (k.pieces.map (·.ctx)).eraseDups
    let u := { k.u with reqs := k.u.reqs ++ [(⟨id, k.pieces, remote, inject, false⟩ : PumpReq)], nextReq := id + 1
                        order := k.u.order.filter (fun c => !grants.contains c) ++ grants }
    let d := (((d.setTile t u).count (R.PUMP_REQ_REQUESTS t) 1).count (R.PUMP_REQ_MERGED t) (k.pieces.length - 1))
    let d := if inject then d.set (R.PUMP_INJECT_ADDR_ERR_NEXT t) 0 else d
    let d := if remote then
        let mask := pieceMask k.pieces
        let s := u.streams.find? fun s => s.ctx = p.ctx
        let (vl, plan) := s.elim (1, none) fun s => d.streamLane s.op s.role dev
        d.request (d.newReq dev vl 1 (win * 8192 % 2 ^ 45) (sectorMask mask) []) (.pump t id) (setBits 128 mask).length plan
      else d
    d.refreshPump t
  | _, _ => d.refreshPump t

/-- PIECE_ISSUE. -/
def execPieceIssue (t : Nat) (s : State) : Host.Outcome State Fault Refusal := run s fun d => d.pieceIssue t

/-! ### Arrival (R114, R121) -/

/-- Bytes arrive for a piece, or for part of it: `o` is their place in the bucket. -/
def TileUnit.fill (u : TileUnit) (c i o : Nat) (g : Got) : TileUnit :=
  { u with streams := u.streams.map fun s => if s.ctx ≠ c then s else
      { s with buckets := s.buckets.map fun b => if b.idx ≠ i then b else
        let m := (List.range g.bytes.length).foldl (fun m k => if g.poison.getD k false then m ||| 2 ^ ((o + k) / 128) else m) 0
        { b with bytes := b.bytes.take o ++ g.bytes ++ b.bytes.drop (o + g.bytes.length), poison := b.poison ||| m } } }

/-- The bucket after its last piece has arrived: refetched where it is stale, else resident in its ring frame. -/
def Dev.settle (d : Dev) (t c i : Nat) : Dev :=
  let u := d.tile t
  match u.streams.find? fun s => s.ctx = c with
  | none => d
  | some s => match s.buckets.find? fun b => b.idx = i with
    | none => d
    | some b =>
      if 0 < b.sent ∨ !b.ready.isEmpty then d else
      let put (u : TileUnit) (b' : Bucket) : TileUnit := { u with streams := u.streams.map fun x => if x.ctx = c then
        { x with buckets := x.buckets.map fun y => if y.idx = i then b' else y } else x }
      let inj := d.flag (R.PUMP_INJECT_STALE_NEXT t) && d.testEnable && s.watch.isSome && b.live && !b.stale
      let d := if inj then (d.set (R.PUMP_INJECT_STALE_NEXT t) 0).count (R.PUMP_REFETCH_STALE_MARKS t) 1 else d
      if b.stale || inj then
        let bad := (b.all.filter (·.bad)).foldl (fun m p => m ||| lineMask p.at_ p.len) 0
        let b' := { b with stale := false, refetch := true, ready := b.all.filter (·.addr.isSome), poison := bad, pcs := [], kept := true }
        (d.setTile t (put u b')).count (R.PUMP_REFETCH_REFETCHES t) 1
      else
        let n := (b.all.filter (·.addr.isSome)).foldl (fun x p => x + p.len) 0
        let u := put u { b with refetch := false, pcs := [] }
        let lines := if sdCache s.desc && !d.ncBusy t then ((b.all.filter (·.addr.isSome)).flatMap fun p =>
            let g := p.addr.getD 0
            (codewords g p.len).filterMap fun l =>
              if g ≤ 128 * l ∧ 128 * l + 128 ≤ g + p.len then
                let o := p.at_ + (128 * l - g)
                some (⟨l, (b.bytes.drop o).take 128, decide (b.poison &&& lineMask o 128 ≠ 0), if sdImm s.desc then none else some c⟩ : NcLine)
              else none) else []
        let u := lines.foldl TileUnit.ncPut u
        let d := ((d.setTile t u).count (R.PUMP_BYTES_IN_BYTES t) n).count (R.CIST_NC_MISSES t) lines.length
        d.ringStore t s i b

/-- The pieces of a request have all arrived. -/
def Dev.requestDone (d : Dev) (t : Nat) (r : PumpReq) : Dev :=
  let u := d.tile t
  let n (s : Stream) (b : Bucket) : Nat := (r.pieces.filter fun p => p.ctx = s.ctx ∧ p.bucket = b.idx).length
  let rest := u.reqs.filter fun x => x.id ≠ r.id
  let pcs (s : Stream) (b : Bucket) : List Nat :=
    ((rest.flatMap fun x => x.pieces.filter fun p => p.ctx = s.ctx ∧ p.bucket = b.idx).filterMap d.piecePc).eraseDups
  let one (s : Stream) (b : Bucket) : Bucket := if n s b = 0 then b else { b with sent := b.sent - n s b, pcs := pcs s b }
  let u := { u with reqs := rest, streams := u.streams.map fun s => { s with buckets := s.buckets.map (one s) } }
  let d := d.setTile t u
  let bs := (r.pieces.map fun p => (p.ctx, p.bucket)).eraseDups
  (bs.foldl (fun (d : Dev) x => d.settle t x.1 x.2) d).refreshPump t

/-- A request completes with an address error (R22), or with another error from Agxis. -/
def Dev.requestError (d : Dev) (t : Nat) (r : PumpReq) (f : Fld) : Dev :=
  let u := d.tile t
  let d := d.setTile t { u with reqs := u.reqs.filter fun x => x.id ≠ r.id }
  let d := r.pieces.foldl (fun (d : Dev) p => d.streamFault t p.ctx f (p.addr.getD 0)) d
  d.refreshPump t

/-- Poison that came with data sets PUMP_ERR.POISON_IN (Table 6.7). -/
def Dev.poisonIn (d : Dev) (t : Nat) (g : Got) (c : Nat) : Dev :=
  if g.anyPoison then ((d.tile t).streams.find? fun s => s.ctx = c).elim d fun s => d.raiseStream (R.PUMP_ERR_POISON_IN t) 0 s else d

/-- R114, R293: the data of a local request arrives. -/
def Dev.pieceArrive (d : Dev) (t id : Nat) : Dev :=
  match (d.tile t).reqs.find? fun r => r.id = id with
  | none => d
  | some r =>
    if r.remote then d
    else if r.err then d.requestError t r (R.PUMP_ERR_ADDR t)
    else
      let (d, ok) := r.pieces.foldl (fun (x : Dev × Bool) p =>
        if !x.2 then x else
        match x.1.memRead (tileIngress t) (p.addr.getD 0 % 2 ^ 45) p.len with
        | (d, some g) => ((d.poisonIn t g p.ctx).setTile t ((d.tile t).fill p.ctx p.bucket p.at_ g), true)
        | (d, none) => (d, false)) (d, true)
      if ok then d.requestDone t r else d.requestError t r (R.PUMP_ERR_ADDR t)

/-- PIECE_ARRIVE. The data of a remote request comes with READ_DATA. -/
def execPieceArrive (t r : Nat) (s : State) : Host.Outcome State Fault Refusal := run s fun d => d.pieceArrive t r

/-- READ_DATA for a pump: the sectors from `g` on reach the pieces that lie there. -/
def Dev.pumpData (d : Dev) (t id g : Nat) (got : Got) : Dev :=
  match (d.tile t).reqs.find? fun r => r.id = id with
  | none => d
  | some r =>
    r.pieces.foldl (fun (d : Dev) p =>
      let a := p.addr.getD 0
      let lo := max a g
      let hi := min (a + p.len) (g + got.bytes.length)
      if hi ≤ lo then d else
      let part : Got := ⟨(got.bytes.drop (lo - g)).take (hi - lo), (got.poison.drop (lo - g)).take (hi - lo)⟩
      (d.poisonIn t part p.ctx).setTile t ((d.tile t).fill p.ctx p.bucket (p.at_ + (lo - a)) part)) d

/-- The last response of a remote request has come, with a status (Table 7.7). -/
def Dev.pumpEnd (d : Dev) (t id status : Nat) : Dev :=
  match (d.tile t).reqs.find? fun r => r.id = id with
  | none => d
  | some r =>
    if r.err then d.requestError t r (R.PUMP_ERR_ADDR t)
    else if status = 0 then d.requestDone t r
    else d.requestError t r (if status = 1 then R.PUMP_ERR_ADDR t else R.PUMP_ERR_REMOTE_ERR t)

/-- R122: a watch that is free goes to the stream that waits, in the order of R116. -/
def Dev.watchGrant (d : Dev) (t : Nat) : Dev :=
  let u := d.tile t
  match u.served.find? fun c => u.streams.any fun s => s.ctx = c ∧ s.waitWatch with
  | some c => if u.freeWatch.isSome then (d.setTile t (u.claim c)).refreshPump t else d
  | none => d

/-- WATCH_GRANT. -/
def execWatchGrant (t : Nat) (s : State) : Host.Outcome State Fault Refusal := run s fun d => d.watchGrant t

/-! ### Translation for a stream (R206) -/

/-- PAGE_TRANSLATE: page pg of the PAGE_WALK stream in context c is translated; its pin is taken. An unbound context and a walk
hole take the address-error path (R206, R220). The first frame that is not sealed claims the watch (R120). -/
def Dev.pageTranslate (d : Dev) (t c pg : Nat) : Dev :=
  let u := d.tile t
  match u.streams.find? fun s => s.ctx = c with
  | none => d
  | some s =>
    if sdKind s.desc ≠ 3 ∨ s.fault ∨ s.waitWatch ∨ !(walkPages s).contains pg ∨ s.trans.any (fun x => x.1 = pg) then d else
    let upd (d : Dev) (f : Stream → Stream) : Dev :=
      let u := d.tile t
      d.setTile t { u with streams := u.streams.map fun x => if x.ctx = c then f x else x }
    match d.walkCtx s with
    | none =>
      (d.raise1 R.KVP_ERR_NO_CTX (bits s.desc 134 128)).formFault t s (.fault 0)
    | some (h, _) =>
      match d.translate t (s.looks.contains pg) h (bits s.desc 142 135) (bits s.desc 150 143) pg with
      | .hole d => (d.raise1 R.KVP_ERR_WALK_HOLE (bits s.desc 134 128)).formFault t s (.fault 0)
      | .wait d => upd d fun x => { x with looks := if x.looks.contains pg then x.looks else pg :: x.looks }
      | .ok d f isSealed =>
        let d := upd d fun x => { x with trans := x.trans ++ [(pg, f, isSealed)], looks := x.looks.filter (· ≠ pg) }
        let d := if isSealed || sdImm s.desc || s.watch.isSome then d else d.setTile t ((d.tile t).claim c)
        d.refreshPump t

def execPageTranslate (t c pg : Nat) (s : State) : Host.Outcome State Fault Refusal := run s fun d => d.pageTranslate t c pg

/-! ### Buckets and steps (R118, R119) -/

/-- The stream of a role that belongs to the running operation. -/
def TileUnit.roleStream (u : TileUnit) (r : Role) : Option Stream := u.streams.find? fun s => !s.primed && decide (s.role = r)

/-- Buckets 0 to n − 1 of a stream, with their scale buckets, are resident and not stale. -/
def Dev.prefixReady (d : Dev) (t : Nat) (s : Stream) (n : Nat) : Bool :=
  let u := d.tile t
  let n := min n (d.bucketCount u s)
  let ok (x : Stream) (m : Nat) : Bool := (List.range m).all fun i => x.buckets.any fun b => b.idx = i && (b.resident || !b.live)
  let sc := u.streams.find? fun x => x.role = .scale s.ctx
  ok s n && (sc.elim true fun x => ok x (ceilDiv n (mxG (sdFmt s.desc))))

/-- Buckets 0 to n − 1 of a stream of `total` buckets have been read by their last step, with the scale buckets of whole
groups; the watch is freed with the last of them (R120). -/
def TileUnit.freePrefix (u : TileUnit) (c n total : Nat) : TileUnit :=
  let fmt := (u.streams.find? fun s => s.ctx = c).elim 0 fun s => sdFmt s.desc
  let all := (u.streams.find? fun s => s.ctx = c).elim 0 fun s => s.buckets.length
  { u with streams := u.streams.map fun s =>
      let m := if s.ctx = c then n else match s.role with
        | .scale k => if k ≠ c then 0 else if all ≤ n then ceilDiv n (mxG fmt) else n / mxG fmt
        | _ => 0
      if m = 0 then s else
      let s := { s with buckets := s.buckets.map fun (b : Bucket) => if b.idx < m then { b with live := false } else b }
      { s with watch := if total ≤ n then none else s.watch } }

/-- The bytes of an IN stream from byte o on, as its buckets hold them, and their poison (R104). -/
def TileUnit.streamBytes (u : TileUnit) (s : Stream) (o n : Nat) : Got :=
  let bb := s.bucketBytes (u.dataFmt s)
  let get (i : Nat) : Byte × Bool := (s.buckets.find? fun b => b.idx = (o + i) / bb).elim (0, false) fun b =>
    (b.bytes.getD ((o + i) % bb) 0, b.poison.testBit ((o + i) % bb / 128))
  let l := (List.range n).map get
  ⟨l.map (·.1), l.map (·.2)⟩

/-! ### Output (R119) -/

/-- R115, R236: a contiguous range cut into packets of at most 2,048 bytes that lie in one 8 KiB window: place, length. -/
def packetParts : Nat → Nat → Nat → Nat → List (Nat × Nat)
  | 0, _, _, _ => []
  | k + 1, g, n, at_ =>
    if n = 0 then [] else
    let m := min (min n 2048) (8192 - g % 8192)
    (at_, m) :: packetParts k (g + m) (n - m) (at_ + m)

/-- One packet of output leaves: into local memory, or onto Agxis. -/
def Dev.sendOut (d : Dev) (t op : Nat) (role : Role) (outOp dev off : Nat) (bs : List Byte) (pz : List Bool) : Dev :=
  if outOp = 2 then
    let (vl, plan) := d.streamLane op role dev
    d.request { d.newReq dev (if dev = d.id then 1 else vl) 5 off bs (flitPoison pz) with unit := tileIngress t } (.outWrite t) 1 plan
  else if dev = d.id then (d.memWrite (tileIngress t) off bs fun i => pz.getD i false).1
  else
    let (vl, plan) := d.streamLane op role dev
    let d := if outOp = 1 then
        let u := d.tile t
        d.setTile t { u with exec := u.exec.map fun x => { x with acks := x.acks + 1 } }
      else d
    d.request (d.newReq dev vl (if outOp = 1 then 2 else 3) off bs (flitPoison pz)) (.outWrite t) 1 plan

/-- Bytes [o, o + n) of an OUT stream go to their rows (R110, R111), or into a multicast tree (R162). -/
def Dev.outRows (d : Dev) (t : Nat) (s : Stream) (o : Nat) (bs : List Byte) (pz : List Bool) : Dev :=
  let n := min bs.length (d.streamLen s - o)
  if sdOutOp s.desc = 3 then
    match d.rowAt t s 0 with
    | .at_ tree off => (d.count (R.PUMP_BYTES_OUT_BYTES t) n).mcCollect t s.op (roleBit s.role) (tree % 4096) off (d.streamLen s) o (bs.take n) pz
    | r => d.formFault t s r
  else
  (rowParts (d.rowsOf s).1 o n).foldl (fun (d : Dev) p =>
    let (j, ro, len, at_) := p
    match d.rowAt t s j with
    | .at_ dev off =>
      let d := d.count (R.PUMP_BYTES_OUT_BYTES t) len
      (packetParts (len / 2048 + len / 8192 + 3) (off + ro) len 0).foldl (fun (d : Dev) q =>
        d.sendOut t s.op s.role (sdOutOp s.desc) dev (off + ro + q.1) ((bs.drop (at_ + q.1)).take q.2) ((pz.drop (at_ + q.1)).take q.2)) d
    | .bad => d.raiseStream (R.PUMP_ERR_POISON_IN t) 0 s
    | .null => d
    | .wait => d
    | r => d.formFault t s r) d

/-- R162: while its tree holds an unreleased epoch that is closed or another stream's, a step of a multicast stream waits. -/
def Dev.mcHeld (d : Dev) (t : Nat) (s : Stream) : Bool :=
  decide (sdOutOp s.desc = 3) && match d.rowAt t s 0 with
    | .at_ tree _ =>
      let u := d.tree (tree % 256)
      d.flag (R.AGX_MC_TREE_W2_RET_BUSY (tree % 256)) && (decide (u.cur ≠ some (t, s.op)) || u.last.isSome)
    | _ => false

/-- An OUT stream whose first `n` bytes have left gives back the index buckets that named their rows (R111). -/
def Dev.listFree (d : Dev) (t : Nat) (s : Stream) (n : Nat) : Dev :=
  let (len, rows) := d.rowsOf s
  if sdKind s.desc ≠ 2 ∨ len = 0 then d else
  let u := d.tile t
  d.setTile t { u with streams := u.streams.map fun (x : Stream) => if x.role = .index s.ctx then x.usedUp (n / len) rows else x }

/-- A remote request of a pump waits for a tag, or at its port for credit. -/
def Dev.heldOut (d : Dev) (t id : Nat) : Bool :=
  d.agx.waiters.any (fun w => w.waiter = .pump t id) ||
  d.agx.tags.any fun e => decide (e.waiter = .pump t id) && d.ports.any fun p => p.2.txq.any fun q =>
    !q.pkt.rsp && decide (q.pkt.opc = 1) && decide (q.pkt.src = d.id) && decide (q.pkt.tag = e.tag) && decide (q.sent = 0)

/-- The ring frames that output bytes from byte o on have passed through. -/
def Dev.outRing (d : Dev) (t : Nat) (s : Stream) (o : Nat) (bs : List Byte) (pz : List Bool) : Dev :=
  let u := d.tile t
  let fmt := u.dataFmt s
  let bb := s.bucketBytes fmt
  if bb = 0 then d else
  (List.range (ceilDiv (o % bb + bs.length) bb)).foldl (fun (d : Dev) k =>
    let i := o / bb + k
    let lo := max o (i * bb)
    let hi := min (o + bs.length) ((i + 1) * bb)
    d.cistStore t (ringFrame s (u.ringOf s) fmt i * 2048 + (lo - i * bb)) ((bs.drop (lo - o)).take (hi - lo))
      fun x => pz.getD (lo - o + x) false) d

end Sys2Proof.Machine
end

