-- ==== Sys2Proof/Machine/Operands.lean ====
section
/-!
DEFINITION. Operands of operations: the operation descriptor's common part (Table 4.3), elements read from a stream
(R81, R90, R104, R112), results converted and written to an output stream (R96–R99, R119), and the steps of a class as
its streams see them (R72, R118).
-/

namespace Sys2Proof.Machine

/-! ### The operation descriptor (Table 4.3) -/

def odClass (w : Nat) : Nat := bits w 7 0
def odSat (w : Nat) : Bool := bitAt w 8
def odSround (w : Nat) : Bool := bitAt w 9
def odAccIn (w : Nat) : Bool := bitAt w 10
def odGang (w : Nat) : Bool := bitAt w 11
def odMovV (w : Nat) : Bool := bitAt w 12
def odStaV (w : Nat) : Bool := bitAt w 13
def odOutV (w : Nat) : Bool := bitAt w 14
def odAuxV (w : Nat) : Bool := bitAt w 15
def odFmtMov (w : Nat) : Nat := bits w 19 16
def odFmtSta (w : Nat) : Nat := bits w 23 20
def odFmtOut (w : Nat) : Nat := bits w 27 24
def odFmtAux (w : Nat) : Nat := bits w 31 28
def odMov (w : Nat) : Nat := bits w 51 32
def odSta (w : Nat) : Nat := bits w 71 52
def odOut (w : Nat) : Nat := bits w 91 72
def odAux (w : Nat) : Nat := bits w 111 92
def odSeed (w : Nat) : Nat := bits w 127 112
/-- R81: a format field holds a reserved code. -/
def odFmtBad (w : Nat) : Bool := decide (8 < odFmtMov w) || decide (8 < odFmtSta w) || decide (8 < odFmtOut w) || decide (8 < odFmtAux w)

/-! ### Elements -/

/-- An element: its exact value, and its poison. -/
structure Val where
  x : Fp
  p : Bool
deriving DecidableEq, Repr

def Val.zero : Val := ⟨.fin false 0 0, false⟩

/-- `w` bits from bit position `pos` of a byte string. -/
def bitField (bs : List Byte) (pos w : Nat) : Nat := (recNat bs (pos / 8) ((w + 14) / 8) >>> (pos % 8)) % 2 ^ w

/-- The scale stream of a data stream. -/
def TileUnit.scaleOf (u : TileUnit) (s : Stream) : Option Stream := u.streams.find? fun x => x.role = .scale s.ctx

/-- Elements e to e + n − 1 of an IN stream, as exact values; an MX element with its block's scale applied. -/
def TileUnit.vals (u : TileUnit) (s : Stream) (e n : Nat) : List Val :=
  let c := sdFmt s.desc
  match codeFmt c with
  | none => []
  | some f =>
    let w := f.width
    let o := e * w / 8
    let g := u.streamBytes s o (ceilDiv ((e + n) * w) 8 - o)
    let at_ (i : Nat) : Nat := (e + i) * w - 8 * o
    let pz (i : Nat) : Bool := g.poison.getD (at_ i / 8) false || g.poison.getD ((at_ i + w - 1) / 8) false
    if codeMx c then
      let b0 := e / 32
      let sc : Got := match u.scaleOf s with
        | some q => u.streamBytes q b0 ((e + n + 31) / 32 - b0)
        | none => ⟨[], []⟩
      (List.range n).map fun i =>
        let b := (e + i) / 32 - b0
        ⟨mxVal (sc.bytes.getD b 0).toNat (fpDec f (bitField g.bytes (at_ i) w)), pz i || sc.poison.getD b false⟩
    else (List.range n).map fun i => ⟨fpDec f (bitField g.bytes (at_ i) w), pz i⟩

/-- The elements as FP32 codes (R78: a load widens exactly; an MX value beyond FP32 is rounded). -/
def Val.f32 (v : Val) : PV := ⟨f32Enc v.x, v.p⟩

/-- An FP32 code as an element. -/
def PV.val (v : PV) : Val := ⟨f32Dec v.v, v.p⟩

/-! ### Results -/

/-- Encoded results: element bytes and scale bytes with their poison, watch events and poisoned values (R105). -/
structure Enc where
  bytes : List Byte
  pz : List Bool
  scales : List Byte
  spz : List Bool
  events : Nat
  bad : Nat
deriving DecidableEq, Repr

/-- Lists of at most n elements. -/
def chunksOf {α : Type} (n : Nat) : Nat → List α → List (List α)
  | 0, _ => []
  | k + 1, l => if l.isEmpty then [] else l.take n :: chunksOf n k (l.drop n)

/-- The bytes of packed codes, and which of them hold a poisoned element. -/
def packPoison (w : Nat) (ps : List Bool) : List Bool :=
  (List.range (ceilDiv (w * ps.length) 8)).map fun b =>
    (List.range ps.length).any fun i => ps.getD i false && decide (w * i < 8 * b + 8) && decide (8 * b < w * i + w)

/-- R96–R99: values converted to a format. `rd i` rounds element i. -/
def encode (fmt : Nat) (rd : Nat → Rnd) (sat : Bool) (vs : List Val) : Enc :=
  match codeFmt fmt with
  | none => ⟨[], [], [], [], 0, 0⟩
  | some f =>
    let w := f.width
    let bad := (vs.filter (·.p)).length
    let ps := vs.map (·.p)
    if codeMx fmt then
      let blocks := chunksOf 32 vs.length vs
      let formed := (List.range blocks.length).zip blocks |>.map fun (x : Nat × List Val) =>
        mxForm fmt (fun i => rd (32 * x.1 + i)) (x.2.map (·.x))
      let clean := (blocks.zip formed).filter fun x => x.2.1 = 0xFF ∧ !(x.1.any (·.p))
      ⟨packBits w (formed.flatMap (·.2)), packPoison w ps, formed.map fun x => BitVec.ofNat 8 x.1, blocks.map fun l => l.any (·.p),
        clean.length, bad⟩
    else
      let cs := (List.range vs.length).zip vs |>.map fun (i, v) => (fpEnc f (rd i) sat v.x, v.p)
      let ev := cs.filter fun c => !c.2 && (match fpDec f c.1.code with | .fin _ _ _ => decide (fmt = 2) && c.1.ovf | _ => true)
      ⟨packBits w (cs.map (·.1.code)), packPoison w ps, [], [], ev.length, bad⟩

/-- How an operation's outputs round: element i of a step's output (R96, R97). -/
def odRound (desc rank step : Nat) (fmt i : Nat) : Rnd :=
  if odSround desc && decide (fmt ≠ 0) then .stoch (Config.srDraw (odSeed desc) rank step i) else .rne

/-- Bytes [o, o + n) of an OUT stream go to a region tagged GRADIENT (R105). -/
def Dev.inWatch (d : Dev) (t : Nat) (s : Stream) (o n : Nat) : Bool :=
  (rowParts (d.rowsOf s).1 o n).any fun p => match d.rowAt t s p.1 with
    | .at_ dev off => decide (dev = d.id) && d.inGradient (off + p.2.1) (max 1 p.2.2.1)
    | _ => false

/-- R119: results go to an OUT stream, elements from e on and scales from block b on; `watched` outputs feed the overflow
watch, and so do those that go to a GRADIENT region (R105). -/
def Dev.putBlocks (d : Dev) (t : Nat) (s : Stream) (e b : Nat) (x : Enc) (watched : Bool) : Dev :=
  let o := e * codeWidth (sdFmt s.desc) / 8
  let hot := watched || d.inWatch t s o x.bytes.length
  let d := (d.outRing t s o x.bytes x.pz).outRows t s o x.bytes x.pz
  let d := match (d.tile t).scaleOf s with
    | some q => (d.outRing t q b x.scales x.spz).outRows t q b x.scales x.spz
    | none => d
  if hot then (d.watchEvents x.events).watchPoison x.bad else d

/-- The same where the blocks lie at multiples of 32 elements of the stream. -/
def Dev.putOut (d : Dev) (t : Nat) (s : Stream) (e : Nat) (x : Enc) (watched : Bool) : Dev := d.putBlocks t s e (e / 32) x watched

/-- Bytes that are copied, as results: what the watch sees in them (R105). -/
def rawEnc (fmt : Nat) (bytes : List Byte) (pz : List Bool) (scales : List Byte) (spz : List Bool) : Enc :=
  let w := codeWidth fmt
  let f := (codeFmt fmt).getD fmtFp32
  let n := bytes.length * 8 / w
  let bad (i : Nat) : Bool := pz.getD (i * w / 8) false || pz.getD ((i * w + w - 1) / 8) false
  if codeMx fmt then
    ⟨bytes, pz, scales, spz, ((List.range scales.length).filter fun b => (scales.getD b 0).toNat = 0xFF && !spz.getD b false &&
        !((List.range 32).any fun i => bad (32 * b + i))).length, ((List.range n).filter bad).length⟩
  else
    ⟨bytes, pz, scales, spz, ((List.range n).filter fun i => !bad i &&
        (match fpDec f (bitField bytes (i * w) w) with | .fin _ _ _ => false | _ => true)).length, ((List.range n).filter bad).length⟩

/-- Raw bytes of 32-bit values go to an OUT stream at byte o. -/
def Dev.putRaw (d : Dev) (t : Nat) (s : Stream) (o : Nat) (bs : List Byte) (pz : List Bool) : Dev :=
  d.putOut t s (o * 8 / codeWidth (sdFmt s.desc)) ⟨bs, pz, [], [], 0, 0⟩ false

/-! ### Steps as the streams see them (R72, R118) -/

/-- What the steps of an operation on a tile need: how many there are; before step s, how many bytes of a role's stream
must be resident; after it, how many are read for the last time, and how many of an OUT stream have been written. -/
structure Steps where
  count : Nat
  /-- The count is final. -/
  final : Bool
  need : Role → Nat → Nat
  done : Role → Nat → Nat
  outs : Role → Nat → Nat

def Steps.none : Steps := ⟨0, false, fun _ _ => 0, fun _ _ => 0, fun _ _ => 0⟩

/-- The tile at a place of the tile's gang, for a gang operation; else the tile itself (R76). -/
def Dev.site (d : Dev) (t desc pos : Nat) : Nat :=
  if odGang desc then
    match d.placeAt t with
    | some a => (d.img.places.find? fun p => p.gang = a.gang && p.pos = pos).elim t (·.phys)
    | none => t
  else t

/-- A tile of a gang operation that is not the anchor; its results are formed with the anchor's (R76). -/
def Dev.gangMember (d : Dev) (t desc : Nat) : Bool := odGang desc && (d.placeAt t).elim false fun p => decide (p.pos ≠ 0)

/-- Bytes of a stream that a bucket holds. -/
def TileUnit.bucketOf (u : TileUnit) (s : Stream) : Nat := s.bucketBytes (u.dataFmt s)

/-- Buckets from the first on that must be resident before a step: those it needs; before the first step also PRIME, the
scale buckets of an MX ring among them (R118). -/
def Dev.needBuckets (d : Dev) (u : TileUnit) (p : Steps) (s : Stream) (step : Nat) : Nat :=
  let n := min (ceilDiv (p.need s.role step) (u.bucketOf s)) (d.bucketCount u s)
  if step = 0 then max n (min (s.primeCap (u.dataFmt s) (sdPrime s.desc)) (d.bucketCount u s)) else n

/-- Buckets that the steps before one have read for the last time. -/
def Dev.freedBuckets (d : Dev) (u : TileUnit) (p : Steps) (s : Stream) (step : Nat) : Nat :=
  if step = 0 then 0
  else
    let b := p.done s.role (step - 1)
    if d.streamLen s ≤ b then d.bucketCount u s else b / max 1 (u.bucketOf s)

/-- Buckets of an OUT stream that the first n steps begin; those that they complete. -/
def Dev.outBegun (d : Dev) (u : TileUnit) (p : Steps) (s : Stream) (n : Nat) : Nat :=
  if n = 0 then 0 else ceilDiv (min (p.outs s.role (n - 1)) (d.streamLen s)) (max 1 (u.bucketOf s))
def Dev.outFull (d : Dev) (u : TileUnit) (p : Steps) (s : Stream) (n : Nat) : Nat :=
  if n = 0 then 0
  else
    let b := p.outs s.role (n - 1)
    if d.streamLen s ≤ b ∨ (p.final ∧ p.count ≤ n) then d.outBegun u p s n else b / max 1 (u.bucketOf s)

/-- R113, last case: the step needs more buckets of a stream than its ring holds. -/
def Dev.ringShort (d : Dev) (u : TileUnit) (p : Steps) (s : Stream) (step : Nat) : Bool :=
  let cap := s.ringCap (u.dataFmt s) (sdRingLen s.desc)
  (match s.role with | .extra _ => false | .index _ | .experts _ | .scale _ => false | _ => true) &&
    (if sdOut s.desc then decide (cap + d.outFull u p s step < d.outBegun u p s (step + 1))
     else decide (cap + d.freedBuckets u p s step < min (ceilDiv (p.need s.role step) (u.bucketOf s)) (d.bucketCount u s)))

/-- R52: the DATA channel whose ring holds a local offset. -/
def Dev.dataChan (d : Dev) (off : Nat) : Option Nat :=
  if off < 0x180000000000 then none else
  (List.range (d.secCount 5)).find? fun c =>
    let e := d.chan c
    let base := 0x180000000000 + chanConsumer e % 4096 * 0x800000 + bits e 127 96
    chanKind e = 1 && decide (chanConsumer e / 4096 ≤ 1) && decide (base ≤ off) && decide (off < base + 2048 * bits e 79 64)

/-- The DATA channel whose ring a LINEAR or STRIDED stream begins in. -/
def Dev.streamChan (d : Dev) (t : Nat) (s : Stream) : Option Nat :=
  if 1 < sdKind s.desc then none else
  match d.rowAt t s 0 with
  | .at_ dev off => if dev = d.id then d.dataChan off else none
  | _ => none

/-- R72, R52: an OUT stream takes `begun` buckets in all, of which `full` have left: its ring has the frames, and the DATA
channel it fills has free buckets for those that have not. -/
def Dev.outFits (d : Dev) (t : Nat) (s : Stream) (begun full : Nat) : Bool :=
  let u := d.tile t
  decide (begun ≤ full + s.ringCap (u.dataFmt s) (sdRingLen s.desc)) &&
    (match d.streamChan t s with | some c => decide (d.tokens c + (begun - full) ≤ d.get (R.IMG_CHAN_DEPTH c)) | none => true)

/-- An index stream of an OUT stream has the values for bytes below `n` (R111). -/
def Dev.outIndexed (d : Dev) (u : TileUnit) (s : Stream) (n : Nat) : Bool :=
  decide (sdKind s.desc ≠ 2) || (let len := (d.rowsOf s).1
    decide (n = 0) || decide (len = 0) || (u.listVal (.index s.listOf) ((min n (d.streamLen s) - 1) / len)).isSome)

/-- The index or expert lists of a stream hold what their PRIME asks before the first step (R118). -/
def Dev.listsPrimed (d : Dev) (t : Nat) (s : Stream) : Bool :=
  let u := d.tile t
  u.streams.all fun q => !(decide (q.role = .index s.listOf) || decide (q.role = .experts s.listOf)) || q.primed ||
    d.prefixReady t q (min (q.primeCap (u.dataFmt q) (sdPrime q.desc)) (d.bucketCount u q))

/-- A step's OUT stream is ready: reserved, its tree free, its index rows known. -/
def Dev.outReady (d : Dev) (t : Nat) (x : Exec) (p : Steps) (s : Stream) : Bool :=
  let u := d.tile t
  d.outFits t s (d.outBegun u p s (x.step + 1)) (d.outFull u p s x.worked) && !d.mcHeld t s &&
    d.outIndexed u s (if p.final ∧ x.step + 1 = p.count then d.streamLen s else p.outs s.role x.step)

/-! ### Cistern-window accesses (R22, R23, R87) -/

/-- The local offset of byte `o` of the window of logical tile `l`. -/
def windowOff (l o : Nat) : Nat := 0x180000000000 + l % 320 * 0x800000 + o % 0x800000

/-- An access by `w` of `n` bytes at offset `o` of the window of logical tile `l`, once it is served: what is loaded reaches the
requester; an address error, or poisoned data loaded (Table 14.3), is an access fault of a core. -/
def Dev.windowServe (d : Dev) (w : Who) (l o n : Nat) (wr : Bool) (bs : List Byte) : Dev :=
  let off := windowOff l o
  let d := (d.place (l % 320)).elim d fun p => if p.role = 0 then d else d.count (R.CIST_WINDOW_ACCESSES p.phys) 1
  let fault (d : Dev) : Dev := (coreOf w).elim d fun c => d.emit (.coreFault c wr)
  if wr then
    let (d, ok) := d.memWrite (ingressOf w) off bs fun _ => false
    if ok then d else fault d
  else
    match d.memRead (ingressOf w) off n with
    | (d, some g) =>
      if g.anyPoison && (coreOf w).isSome then fault (d.contained 4 (ingressOf w) off) else d.emit (.loadData (ingressOf w) g.bytes)
    | (d, none) => fault d

/-- The accesses that wait are served in their order, as far as nothing holds them any more. -/
def Dev.windowsServe (d : Dev) : Dev :=
  let ws := d.img.waiting
  if d.img.windowsWait || ws.isEmpty then d else
  let d : Dev := { d with img := { d.img with waiting := [] } }
  ws.foldl (fun (d : Dev) i => match i with
    | .cisternWindowAccess w l o n wr bs =>
      if d.windowWaits (windowOff l o) (max n bs.length) then { d with img := { d.img with waiting := d.img.waiting ++ [i] } }
      else d.windowServe w l o n wr bs
    | _ => d) d

/-! ### The end of a step (R87, R118, R119) -/

/-- Steps before n of a tile have ended: what they held of the cistern is free, and accesses that waited for it are served. -/
def Dev.stepEnd (d : Dev) (t n : Nat) : Dev :=
  let u := d.tile t
  (d.setTile t { u with exec := u.exec.map (fun (y : Exec) => { y with worked := n }), busy := u.busy.filter fun b => n ≤ b.1 }).windowsServe

/-- A tile holds nothing of its cistern any more. -/
def Dev.holdsNone (d : Dev) (t : Nat) : Dev := (d.setTile t { d.tile t with busy := [] }).windowsServe

/-- Step s ends: its results have been formed; the buckets read for the last time are freed, DATA tokens taken and posted. -/
def Dev.stepFree (d : Dev) (t : Nat) (p : Steps) (s : Nat) : Dev :=
  let d := (d.tile t).streams.foldl (fun (d : Dev) (q : Stream) =>
    if q.primed then d else
    let u := d.tile t
    if sdOut q.desc then
      let n := d.outFull u p q (s + 1) - d.outFull u p q s
      let d := match d.streamChan t q with | some c => if n = 0 then d else d.post c n | none => d
      d.listFree t q (p.outs q.role s)
    else
      let n := d.freedBuckets u p q (s + 1)
      let before := d.freedBuckets u p q s
      if n ≤ before then d else
      let d := match d.streamChan t q with | some c => d.takeTokens c (n - before) | none => d
      d.setTile t ((d.tile t).freePrefix q.ctx n (d.bucketCount u q))) d
  d.stepEnd t (s + 1)

/-- Every step has ended: the operation's outputs have been accepted. -/
def Dev.stepsDone (d : Dev) (t : Nat) : Dev :=
  let u := d.tile t
  let d := if u.exec.elim false fun x => x.planned && x.step = x.steps && x.worked = x.steps && !x.done && !x.halted then
      (d.setTile t { u with exec := u.exec.map fun (y : Exec) => { y with done := true } }).set (R.TILE_STATUS_EXEC_STATE t) 3
    else d
  (d.prepare t).refreshPump t

/-- The work of a class on a tile: every step that has been issued ends, `f` forming its results; so do those of a tile that
has halted since. -/
def Dev.classRun (d : Dev) (t cls : Nat) (plan : Dev → Exec → Steps) (f : Dev → Exec → Nat → Dev) : Dev :=
  match (d.tile t).exec with
  | none => d
  | some x =>
    if odClass x.desc ≠ cls ∨ x.done then d else
    ((List.range (x.step - x.worked)).foldl (fun (d : Dev) i =>
      let p := plan d x
      (f d x (x.worked + i)).stepFree t p (x.worked + i)) d).stepsDone t

/-- A class whose results are formed at once, when its last step has been issued. -/
def Dev.classRow (d : Dev) (t cls : Nat) (plan : Dev → Exec → Steps) (f : Dev → TileUnit → Exec → Dev) : Dev :=
  if (d.tile t).exec.elim false fun x => x.planned && x.step = x.steps then
    d.classRun t cls plan fun d x s => if s + 1 = x.steps then f d (d.tile t) x else d
  else d

/-- The outputs of step s are poisoned where an injection or a shadow-parity error says so (R86, R88). -/
def Exec.bad (x : Exec) (s : Nat) : Bool := x.poisoned.contains s
def Exec.taint (x : Exec) (s : Nat) (v : Val) : Val := { v with p := v.p || x.bad s }

/-- The operation that an exec belongs to. -/
def Dev.opOf (d : Dev) (i : Nat) : Option Op := d.ops.find? fun o => o.id = i

/-- Elements of a format as bytes of their stream. -/
def elemBytes (fmt n : Nat) : Nat := codeBytes fmt n

/-- A list, expert or scale stream of a stream, and the stream itself (R111, R112). -/
def TileUnit.family (u : TileUnit) (s : Stream) : List Stream :=
  s :: u.streams.filter fun q => q.role = .index s.listOf || q.role = .experts s.listOf || q.role = .scale s.ctx

/-- Table 4.11 code that the pump reports for a stream of which `n` buckets are wanted (R127): watch, context, translation,
then what the first bucket that is lacking waits for. -/
def Dev.stallCause (d : Dev) (t : Nat) (s : Stream) (n : Nat) : Nat :=
  let u := d.tile t
  if (u.family s).any (·.waitWatch) then 7
  else if sdKind s.desc = 3 ∧ (d.walkCtx s).elim false (fun x => d.ctxState x.1 = 3) then 6
  else if sdKind s.desc = 3 ∧ (walkPages s).any (fun p => !(s.trans.any fun x => x.1 = p)) ∧ (s.buckets.all fun b => b.resident) then 5
  else
    let lack := (u.family s).findSome? fun q =>
      (((List.range (if q.ctx = s.ctx then n else q.buckets.length)).filterMap fun i => q.buckets.find? fun b => b.idx = i && b.live && !b.resident).head?).map
        fun b => (q, b)
    match lack with
    | none => 0
    | some (q, b) =>
      let mine := u.reqs.filter fun r => r.pieces.any fun p => p.ctx = q.ctx && p.bucket = b.idx
      if b.stale || b.refetch then 0xA
      else if mine.any fun r => !r.remote && r.retry then 9
      else if mine.any fun r => r.remote && d.heldOut t r.id then 4
      else 0

end Sys2Proof.Machine
end

