-- ==== Sys2Proof/Machine/Matrix.lean ====
section
/-!
DEFINITION. The matrix classes MATMUL, MATMUL_GROUPED and MATMUL_WGRAD (R68–R71, R75, R76, R82, R93, R94, R96).
-/

namespace Sys2Proof.Machine

/-! ### The class part (Table 4.5) -/

def mdM (w : Nat) : Nat := bits w 151 128
def mdK (w : Nat) : Nat := bits w 175 152
def mdN (w : Nat) : Nat := bits w 199 176
def mdMTile (w : Nat) : Nat := bits w 212 200
def mdOrder (w : Nat) : Nat := bits w 217 216
def mdTransSta (w : Nat) : Bool := bitAt w 218
def mdTransMov (w : Nat) : Bool := bitAt w 219
def mdAccOff (w : Nat) : Nat := bits w 255 224
def mdGroups (w : Nat) : Nat := bits w 271 256
def mdStrGroups (w : Nat) : Nat := bits w 307 288
def mdRowMask (w : Nat) : Nat := bits w 351 320
def mdOutScale (w : Nat) : Nat := bits w 383 352
def mdDefer (w : Nat) : Bool := bitAt w 385

/-- Table 4.1: K_BLK of a format pair, for one tile. -/
def matPair (a b : Nat) : Option Nat :=
  if a = 1 ∧ b = 1 then some 128
  else if (a = 2 ∨ a = 3) ∧ (b = 2 ∨ b = 3) then some 256
  else if 4 ≤ a ∧ a ≤ 7 ∧ 4 ≤ b ∧ b ≤ 7 then some 256
  else if a = 8 ∧ b = 8 then some 512
  else none

/-- The class is one of the three. -/
def isMatrix (c : Nat) : Bool := c = 1 || c = 2 || c = 3

/-- K_BLK and the width of an N block, gangs being twice as wide (R76). -/
def mdKBlk (w : Nat) : Nat := (if odGang w then 2 else 1) * (matPair (odFmtMov w) (odFmtSta w)).getD 128
def mdNBlk (w : Nat) : Nat := if odGang w then 256 else 128

/-- R69, R82, R125: what is wrong with a matrix descriptor, as the bit of TILE_ERR that records it (Table 4.10).
DESIGN CHOICE: of several faults the first is recorded, in the order FMT_PAIR, DESC_FIELD, ACC_RANGE (log entry 61); the 2^32
steps of a grouped descriptor are counted from M, and a sum of M_g above M is not looked at (log entry 60). -/
def matFault (w : Nat) : Option Nat :=
  let c := odClass w
  let mx := codeMx (odFmtMov w) || codeMx (odFmtSta w)
  let acc := mdMTile w * 512 * (if mdOrder w = 1 then ceilDiv (mdN w) (mdNBlk w) else 1)
  let steps := ceilDiv (mdM w) (mdMTile w) * ceilDiv (mdN w) (mdNBlk w) * ceilDiv (mdK w) (mdKBlk w)
  if (matPair (odFmtMov w) (odFmtSta w)).isNone then some 0
  else if bits w 511 386 ≠ 0 ∨ bitAt w 384 ∨ bits w 319 308 ≠ 0 ∨ bits w 287 272 ≠ 0 ∨ bits w 223 220 ≠ 0 ∨ bits w 215 213 ≠ 0 ∨
      mdM w = 0 ∨ mdK w = 0 ∨ mdN w = 0 ∨ mdMTile w = 0 ∨ 4096 < mdMTile w ∨ 2 ≤ mdOrder w ∨ mdAccOff w % 512 ≠ 0 ∨
      (mx ∧ mdK w % 32 ≠ 0) ∨ (mdTransMov w ∧ mdTransSta w) ∨ (mx ∧ (mdTransMov w ∨ mdTransSta w)) ∨ 2 ^ 32 < steps ∨
      (c = 1 ∧ (!odMovV w ∨ !odStaV w ∨ !odOutV w)) ∨ (odAccIn w ∧ !odAuxV w) ∨ odFmtBad w ∨
      (c ≠ 2 ∧ (mdGroups w ≠ 0 ∨ mdStrGroups w ≠ 0)) ∨ (c = 2 ∧ mdGroups w = 0) ∨ (c ≠ 3 ∧ (mdRowMask w ≠ 0 ∨ mdDefer w)) ∨
      (c = 3 ∧ (!mdTransMov w ∨ (mdRowMask w ≠ 0xFFFFFFFF ∧
        (mdRowMask w % 8 ≠ 0 ∨ 0x800000 < mdRowMask w + ceilDiv (ceilDiv (mdM w) 128) 8)))) then some 1
  else if 0x800000 < mdAccOff w + acc then some 3
  else none

/-! ### Steps (R75) -/

/-- A matrix operation as its steps see it: rows of each product, whether the stream delivers a block anew for each use. -/
structure Mat where
  w : Nat
  groups : List Nat
  /-- Row-block mask; none computes every row. -/
  mask : Option Nat
  redoA : Bool
  redoB : Bool
  /-- The first group whose count is poisoned: what follows it is poisoned (R104). -/
  bad : Option Nat
deriving DecidableEq, Repr

/-- One pass: product, M chunk, N block, K block. -/
structure Pass where
  g : Nat
  c : Nat
  nb : Nat
  kb : Nat
deriving DecidableEq, Repr

def Mat.nbs (m : Mat) : Nat := ceilDiv (mdN m.w) (mdNBlk m.w)
def Mat.kbs (m : Mat) : Nat := ceilDiv (mdK m.w) (mdKBlk m.w)
def Mat.chunks (m : Mat) (g : Nat) : Nat := ceilDiv (m.groups.getD g 0) (mdMTile m.w)
/-- Rows of an M chunk, columns of an N block, K positions of a K block: the last ones may be shorter. -/
def Mat.rows (m : Mat) (g c : Nat) : Nat := min (mdMTile m.w) (m.groups.getD g 0 - c * mdMTile m.w)
def Mat.cols (m : Mat) (nb : Nat) : Nat := min (mdNBlk m.w) (mdN m.w - nb * mdNBlk m.w)
def Mat.ks (m : Mat) (kb : Nat) : Nat := min (mdKBlk m.w) (mdK m.w - kb * mdKBlk m.w)

/-- Table 4.6: row r of the output is computed. -/
def Mat.rowOn (m : Mat) (r : Nat) : Bool := m.mask.elim true fun k => k.testBit (r / 128)

/-- A chunk has a row that is computed. -/
def Mat.chunkOn (m : Mat) (g c : Nat) : Bool := (List.range (m.rows g c)).any fun i => m.rowOn (c * mdMTile m.w + i)

/-- R75: the steps, in order. -/
def Mat.passes (m : Mat) : List Pass :=
  (List.range m.groups.length).flatMap fun g => ((List.range (m.chunks g)).filter (m.chunkOn g)).flatMap fun c =>
    if mdOrder m.w = 0 then (List.range m.nbs).flatMap fun nb => (List.range m.kbs).map fun kb => (⟨g, c, nb, kb⟩ : Pass)
    else (List.range m.kbs).flatMap fun kb => (List.range m.nbs).map fun nb => (⟨g, c, nb, kb⟩ : Pass)

/-- Rows of the products before g. -/
def Mat.rowsBefore (m : Mat) (g : Nat) : Nat := (m.groups.take g).foldl (· + ·) 0

/-- First element of the A block of a pass in the MOV stream. DESIGN CHOICE: blocks follow one another in the order of the
passes that first use them, as do those of `bAt` and `cAt` (log entry 57). -/
def Mat.aAt (m : Mat) (p : Pass) : Nat :=
  let k := mdK m.w
  let mc := m.rows p.g p.c
  let base := (m.rowsBefore p.g + p.c * mdMTile m.w) * k
  if m.redoA then base * m.nbs + (if mdOrder m.w = 0 then p.nb * mc * k + p.kb * mdKBlk m.w * mc
      else p.kb * mdKBlk m.w * mc * m.nbs + p.nb * mc * m.ks p.kb)
  else base + p.kb * mdKBlk m.w * mc

/-- First element of the B block of a pass in the STA stream; DESIGN CHOICE (log entry 57). -/
def Mat.bAt (m : Mat) (p : Pass) : Nat :=
  let k := mdK m.w
  let n := mdN m.w
  let base := (if m.redoB then p.c else 0) * k * n + p.g * k * n
  base + (if mdOrder m.w = 0 then p.nb * mdNBlk m.w * k + p.kb * mdKBlk m.w * m.cols p.nb
    else p.kb * mdKBlk m.w * n + p.nb * mdNBlk m.w * m.ks p.kb)

/-- First element of the C block of a chunk and N block, in OUT and in AUX; DESIGN CHOICE (log entry 57). -/
def Mat.cAt (m : Mat) (g c nb : Nat) : Nat :=
  (m.rowsBefore g + c * mdMTile m.w) * mdN m.w + nb * mdNBlk m.w * m.rows g c

/-- The same for the block scales of an MX output, whose blocks do not span rows (R81). -/
def Mat.sAt (m : Mat) (g c nb : Nat) : Nat :=
  (m.rowsBefore g + c * mdMTile m.w) * ceilDiv (mdN m.w) 32 + nb * (mdNBlk m.w / 32) * m.rows g c

/-- What each pass needs, what it reads for the last time, and what it completes. -/
def Mat.plan (m : Mat) : Steps :=
  let ps := m.passes
  let at_ (s : Nat) : Pass := ps.getD s ⟨0, 0, 0, 0⟩
  let aEnd (p : Pass) : Nat := m.aAt p + m.rows p.g p.c * m.ks p.kb
  let bEnd (p : Pass) : Nat := m.bAt p + m.cols p.nb * m.ks p.kb
  let cEnd (g c nb : Nat) : Nat := m.cAt g c nb + m.rows g c * m.cols nb
  let lastC (p : Pass) : Bool := !((List.range (m.chunks p.g)).any fun c => decide (p.c < c) && m.chunkOn p.g c)
  -- the first pass of a chunk and N block reads its AUX block
  let auxEnd (p : Pass) : Nat := cEnd p.g p.c (if mdOrder m.w = 1 ∧ p.kb ≠ 0 then m.nbs - 1 else p.nb)
  { count := ps.length, final := true
    need := fun r s =>
      let p := at_ s
      match r with
      | .mov => elemBytes (odFmtMov m.w) (aEnd p)
      | .sta => elemBytes (odFmtSta m.w) (bEnd p)
      | .aux => if odAccIn m.w then elemBytes (odFmtAux m.w) (auxEnd p) else 0
      | _ => 0
    done := fun r s =>
      let p := at_ s
      match r with
      | .mov =>
        elemBytes (odFmtMov m.w) (if m.redoA ∨ p.nb + 1 = m.nbs then aEnd p
          else if mdOrder m.w = 0 then (m.rowsBefore p.g + p.c * mdMTile m.w) * mdK m.w else m.aAt p)
      | .sta => elemBytes (odFmtSta m.w) (if m.redoB ∨ lastC p then bEnd p else p.g * mdK m.w * mdN m.w)
      | .aux => if odAccIn m.w then elemBytes (odFmtAux m.w) (auxEnd p) else 0
      | _ => 0
    outs := fun r s => match r with
      | .out => (((ps.take (s + 1)).filter fun p => p.kb + 1 = m.kbs).getLast?).elim 0 fun p => elemBytes (odFmtOut m.w) (cEnd p.g p.c p.nb)
      | _ => 0 }

/-- The row-block mask in a tile's cistern (R257). -/
def Dev.readMask (d : Dev) (t w : Nat) : Option Nat :=
  if odClass w = 3 ∧ mdRowMask w ≠ 0xFFFFFFFF then
    some (leNat ((List.range (ceilDiv (mdM w) 1024)).map fun i => stGet (fun _ => (0 : Byte)) d.cist.cells (cistKey t (mdRowMask w + i))))
  else none

/-- The matrix operation of a tile's running descriptor; none while the group counts have not come. A gang's is its anchor's.
DEDUCED: a stream long enough for every use delivers a block anew for each (R118: what is wanted twice is described twice;
log entry 58). -/
def Dev.matOf (d : Dev) (t w : Nat) : Option Mat :=
  let u := d.tile (d.site t w 0)
  let elems (r : Role) (fmt : Nat) : Nat := (u.roleStream r).elim 0 fun s => d.streamLen s * 8 / codeWidth fmt
  let groups : Option (List (Nat × Bool)) :=
    if odClass w = 2 then
      let l := (List.range (mdGroups w)).map fun g => u.listVal .groups g
      if l.any Option.isNone then none else some (l.map fun v => v.getD (0, false))
    else some [(mdM w, false)]
  groups.map fun gp =>
    let gs := gp.map (·.1)
    let nbs := ceilDiv (mdN w) (mdNBlk w)
    let rows := gs.foldl (· + ·) 0
    let ch := ceilDiv (mdM w) (mdMTile w)
    { w := w, groups := gs, mask := u.exec.bind (·.mask)
      redoA := decide (1 < nbs) && decide (rows * mdK w * nbs ≤ elems .mov (odFmtMov w))
      redoB := odClass w ≠ 2 && decide (1 < ch) && decide (ch * mdK w * mdN w ≤ elems .sta (odFmtSta w))
      bad := gp.findIdx? (·.2) }

/-! ### Arithmetic (R93, R94) -/

/-- A group sum: exact; an exact zero is +0. -/
def groupSum (as bs : List Val) : Fp :=
  match (as.zip bs).foldl (fun s x => fpAdd s (fpMul x.1.x x.2.x)) (.fin false 0 0) with
  | .fin n m e => if m = 0 then .fin false 0 0 else .fin n m e
  | x => x

/-- The accumulator takes a group sum, one rounding; a sum that rounds beyond the FP32 range adds an infinity. -/
def accGroup (acc : Nat) (g : Fp) : Nat :=
  match f32Dec (f32Enc g) with
  | .inf n => f32Enc (fpAdd (f32Dec acc) (.inf n))
  | _ => f32Enc (fpAdd (f32Dec acc) g)

/-- One pass of a row past a column: groups of 32 in K order. -/
def accRow (acc : Nat) (as bs : List Val) : Nat :=
  let n := ceilDiv as.length 32
  (List.range n).foldl (fun a i => accGroup a (groupSum ((as.drop (32 * i)).take 32) ((bs.drop (32 * i)).take 32))) acc

/-- R125: place of stored row i, column j of `rows` × `cols` elements that the transpose port reads: strips of 128 columns,
each row by row (log entry 57). -/
def transAt (rows cols i j : Nat) : Nat := j / 128 * 128 * rows + i * min 128 (cols - j / 128 * 128) + j % 128

/-- Elements of a role's stream on a tile; an input without a stream is not read (R80). -/
def Dev.roleVals (d : Dev) (t : Nat) (r : Role) (e n : Nat) : List Val :=
  match (d.tile t).roleStream r with
  | some s => (d.tile t).vals s e n
  | none => List.replicate n Val.zero

/-- The moving rows and the stationary columns of a pass, in K order. In a gang the anchor and the south tile supply the halves
of K of each moving row, and each member its own quadrant of the stationary block (R76). -/
def Dev.passVals (d : Dev) (t : Nat) (m : Mat) (p : Pass) : List (List Val) × List (List Val) :=
  let mc := m.rows p.g p.c
  let nw := m.cols p.nb
  let kw := m.ks p.kb
  let half := if odGang m.w then mdKBlk m.w / 2 else kw
  let south (k : Nat) : Nat := b2n (decide (half ≤ k))
  let a := [0, 2].map fun q => if q = 0 ∨ odGang m.w then d.roleVals (d.site t m.w q) .mov (m.aAt p) (mc * kw) else []
  let b := [0, 1, 2, 3].map fun q => if q = 0 ∨ odGang m.w then d.roleVals (d.site t m.w q) .sta (m.bAt p) (nw * kw) else []
  let nMajor := codeMx (odFmtSta m.w)
  ((List.range mc).map fun r => (List.range kw).map fun k =>
      (a.getD (south k) []).getD (if mdTransMov m.w then transAt kw mc k r else r * kw + k) Val.zero,
    (List.range nw).map fun j => (List.range kw).map fun k =>
      (b.getD (2 * south k + j / 128) []).getD
        (if mdTransSta m.w then transAt nw kw j k else if nMajor then j * kw + k else k * nw + j) Val.zero)

/-- The tiles whose accumulator regions take columns 0–127 and 128–255 (R76). -/
def Dev.accSites (d : Dev) (t w : Nat) : List Nat := if odGang w then [d.site t w 2, d.site t w 3] else [t]

/-- Where the accumulator rows of a pass begin in their cisterns (R75). -/
def Mat.accAt (m : Mat) (p : Pass) : Nat := mdAccOff m.w + (if mdOrder m.w = 1 then p.nb * mdMTile m.w * 512 else 0)

/-- Accumulator row r of a pass, as the cisterns hold it. -/
def Dev.accRead (d : Dev) (t : Nat) (m : Mat) (p : Pass) (r : Nat) : List Nat :=
  let sites := d.accSites t m.w
  (List.range (m.cols p.nb)).map fun j =>
    let at_ := m.accAt p + r * 512 + j % 128 * 4
    leNat ((List.range 4).map fun i => stGet (fun _ => (0 : Byte)) d.cist.cells (cistKey (sites.getD (j / 128) t) (at_ + i)))

/-- The row of values and poison that the accumulators of a pass start from: zeros, or with ACC_IN the AUX stream (R75). -/
def Dev.accStart (d : Dev) (t : Nat) (m : Mat) (p : Pass) (r : Nat) : List PV :=
  let nw := m.cols p.nb
  if odAccIn m.w then (d.roleVals t .aux (m.cAt p.g p.c p.nb + r * nw) nw).map Val.f32 else List.replicate nw ⟨0, false⟩

/-- What poisons row r, column j of a chunk and N block up to pass p: AUX, operands, counts, injections (R86, R104). -/
def Dev.accPoison (d : Dev) (t : Nat) (x : Exec) (m : Mat) (p : Pass) : Nat → Nat → Bool :=
  let before := (List.range (p.kb + 1)).map fun kb => ({ p with kb := kb } : Pass)
  let vals := before.map fun q => d.passVals t m q
  let rows := vals.map fun v => v.1.map fun l => l.any (·.p)
  let cols := vals.map fun v => v.2.map fun l => l.any (·.p)
  let start := (List.range (m.rows p.g p.c)).map fun r => d.accStart t m p r
  let all := m.bad.any (fun g => decide (g ≤ p.g)) || before.any fun q => (m.passes.findIdx? fun y => y = q).elim false x.bad
  fun r j => all || rows.any (fun l => l.getD r false) || cols.any (fun l => l.getD j false) || ((start.getD r []).getD j ⟨0, false⟩).p

/-- The drain: multiplied by OUT_SCALE exactly, to be rounded once (R96). -/
def drain (scale : Nat) (v : PV) : Val := ⟨fpMul (f32Dec v.v) (f32Dec scale), v.p⟩

/-- R81, R99: rows of `n` values encoded row by row, element i of the step's output being the i-th of them. -/
def encodeRows (fmt : Nat) (rd : Nat → Rnd) (sat : Bool) (rows : List (List Val)) (n : Nat) : Enc :=
  if codeMx fmt then
    (List.range rows.length).foldl (fun (e : Enc) r =>
      let x := encode fmt (fun i => rd (r * n + i)) sat (rows.getD r [])
      ⟨e.bytes ++ x.bytes, e.pz ++ x.pz, e.scales ++ x.scales, e.spz ++ x.spz, e.events + x.events, e.bad + x.bad⟩) ⟨[], [], [], [], 0, 0⟩
  else encode fmt rd sat (rows.flatMap id)

/-- One pass (R68, R75): its products enter the accumulator rows; a pass that completes K drains them to OUT. Masked rows have
no part in it. -/
def Dev.matPass (d : Dev) (t : Nat) (x : Exec) (m : Mat) (p : Pass) (s : Nat) : Dev :=
  let (rows, cols) := d.passVals t m p
  let pz := d.accPoison t x m p
  let nw := m.cols p.nb
  let on := (List.range (m.rows p.g p.c)).filter fun r => m.rowOn (p.c * mdMTile m.w + r)
  let sums := on.map fun r =>
    let start := if p.kb = 0 then (d.accStart t m p r).map (·.v) else d.accRead t m p r
    (r, (List.range nw).map fun j => (⟨accRow (start.getD j 0) (rows.getD r []) (cols.getD j []), pz r j⟩ : PV))
  let sites := d.accSites t m.w
  let d := sums.foldl (fun (d : Dev) z =>
    (List.range sites.length).zip sites |>.foldl (fun (d : Dev) q =>
      let part := (z.2.drop (128 * q.1)).take 128
      d.cistStore q.2 (m.accAt p + z.1 * 512) (part.flatMap fun v => leBytes 4 v.v) fun i => (part.getD (i / 4) ⟨0, false⟩).p) d) d
  if p.kb + 1 ≠ m.kbs then d else
  match (d.tile t).roleStream .out with
  | none => d
  | some o =>
    let fmt := odFmtOut m.w
    let vals (z : Nat × List PV) : List Val := z.2.map (drain (mdOutScale m.w))
    let rd (i : Nat) : Rnd := odRound m.w x.rank s fmt i
    let e0 := m.cAt p.g p.c p.nb
    let b0 := m.sAt p.g p.c p.nb
    let watched := decide (odClass m.w = 3)
    if on.length = m.rows p.g p.c then d.putBlocks t o e0 b0 (encodeRows fmt rd (odSat m.w) (sums.map vals) nw) watched
    else sums.foldl (fun (d : Dev) z =>
      d.putBlocks t o (e0 + z.1 * nw) (b0 + z.1 * ceilDiv nw 32)
        (encodeRows fmt (fun i => rd (z.1 * nw + i)) (odSat m.w) [vals z] nw) watched) d

/-- Rows of a pass that are computed. -/
def Mat.liveRows (m : Mat) (p : Pass) : Nat := ((List.range (m.rows p.g p.c)).filter fun r => m.rowOn (p.c * mdMTile m.w + r)).length

/-- Useful multiply-accumulates of passes, and the blocks that the transpose port delivered (R125). -/
def Mat.mac (m : Mat) (ps : List Pass) : Nat := ps.foldl (fun x p => x + m.liveRows p * m.cols p.nb * m.ks p.kb) 0
def Mat.transBlocks (m : Mat) (ps : List Pass) : Nat :=
  ps.foldl (fun x p =>
    x + (if mdTransSta m.w then ceilDiv (m.ks p.kb) 128 * ceilDiv (m.cols p.nb) 128 else 0) +
      (if mdTransMov m.w then ceilDiv (m.ks p.kb) 128 * ceilDiv (m.rows p.g p.c) 128 else 0)) 0

/-- Slices of a deferred product are cut where an output block completes: a chunk and N block, or a whole chunk under
N_INNER (R252). The place of a pass's output block among those of the product without its mask. -/
def Mat.ord (m : Mat) (p : Pass) : Nat := if mdOrder m.w = 0 then p.c * m.nbs + p.nb else p.c

/-- The passes of the output block that step s belongs to, from s on; and whether s is its last step. -/
def Mat.blockFrom (m : Mat) (s : Nat) : List Pass :=
  match m.passes.drop s with
  | [] => []
  | p :: r => p :: r.takeWhile fun q => m.ord q = m.ord p
def Mat.blockEnd (m : Mat) (s : Nat) : Bool := (m.blockFrom s).length = 1

/-- R77: the cycles of a run of passes, stalls left out. -/
def Mat.cycles (m : Mat) (ps : List Pass) : Nat :=
  let f := if mdTransSta m.w then 256 else 128
  let r := if mdTransMov m.w then 2 else 1
  let n := ps.length
  f + (ps.take (n - 1)).foldl (fun x p => x + max (r * m.liveRows p) f) 0 + (ps.getLast?).elim 0 (fun p => r * m.liveRows p) +
    (if odGang m.w then 512 else 256)

/-- The blocks that the transpose port of a gang member delivers in a pass: its own quadrant, and the anchor's and the south
tile's halves of the moving rows (R76, R125). -/
def Dev.countTrans (d : Dev) (t : Nat) (m : Mat) (p : Pass) : Dev :=
  if !odGang m.w then d.count (R.CIST_PORT_TRANS_BLOCKS t) (m.transBlocks [p]) else
  let half := mdKBlk m.w / 2
  let kn (s : Bool) : Nat := if s then m.ks p.kb - half else min half (m.ks p.kb)
  let nn (e : Bool) : Nat := if e then m.cols p.nb - 128 else min 128 (m.cols p.nb)
  [0, 1, 2, 3].foldl (fun (d : Dev) q =>
    let k := ceilDiv (kn (decide (2 ≤ q))) 128
    let n := (if mdTransSta m.w then k * ceilDiv (nn (decide (q % 2 = 1))) 128 else 0) +
      (if mdTransMov m.w ∧ q % 2 = 0 then k * ceilDiv (m.rows p.g p.c) 128 else 0)
    d.count (R.CIST_PORT_TRANS_BLOCKS (d.site t m.w q)) n) d

/-- Step s of the three classes. -/
def Dev.matStep (d : Dev) (t : Nat) (x : Exec) (s : Nat) : Dev :=
  if d.gangMember t x.desc then d else
  match d.matOf t x.desc with
  | none => d
  | some m => match m.passes[s]? with
    | none => d
    | some p => ((d.matPass t x m p s).count (R.TILE_MAC_MAC t) (m.mac [p])).countTrans t m p

/-- What the steps of a matrix operation need. -/
def Dev.matSteps (d : Dev) (t : Nat) (x : Exec) : Steps := (d.matOf t x.desc).elim Steps.none Mat.plan

/-- MATMUL, MATMUL_GROUPED, MATMUL_WGRAD: the steps issued end. -/
def Dev.matRun (d : Dev) (t cls : Nat) : Dev := d.classRun t cls (fun d x => d.matSteps t x) fun d x s => d.matStep t x s

def execMatmul (t : Nat) (s : State) : Host.Outcome State Fault Refusal := run s fun d => d.matRun t 0x01
def execMatmulGrouped (t : Nat) (s : State) : Host.Outcome State Fault Refusal := run s fun d => d.matRun t 0x02
def execMatmulWgrad (t : Nat) (s : State) : Host.Outcome State Fault Refusal := run s fun d => d.matRun t 0x03

end Sys2Proof.Machine
end

