-- ==== Sys2Proof/Machine/Wgq.lean ====
section
/-!
DEFINITION. The deferred queue (R249–R251, R254–R256): its entries in HBM (Table 12.1), posting, queue order, urgency.
Slices are in Schedule.lean.
-/

namespace Sys2Proof.Machine

/-! ### Entries (Table 12.1) -/

def wqSig0 (q : Nat) : Nat := bits q 255 240
def wqSig1 (q : Nat) : Nat := bits q 239 224
def wqSeq (q : Nat) : Nat := bits q 223 192
def wqPost (q : Nat) : Nat := bits q 191 144
def wqDue (q : Nat) : Nat := bits q 143 96
def wqOp (q : Nat) : Nat := bits q 95 76
def wqGroup (q : Nat) : Nat := bits q 75 66
def wqReport (q : Nat) : Bool := bitAt q 64
def wqDlEvent (q : Nat) : Bool := bitAt q 65
/-- 0 EMPTY, 1 QUEUED, 2 SLICE, 3 PARKED. -/
def wqState (q : Nat) : Nat := bits q 63 61
def wqUrgent (q : Nat) : Bool := bitAt q 60
def wqNext (q : Nat) : Nat := bits q 31 0

/-- An entry from its fields. -/
def wqMake (sig0 sig1 seq post due op group flags state : Nat) (urgent : Bool) (next : Nat) : Nat :=
  sig0 % 2 ^ 16 * 2 ^ 240 + sig1 % 2 ^ 16 * 2 ^ 224 + seq % 2 ^ 32 * 2 ^ 192 + post % 2 ^ 48 * 2 ^ 144 + due % 2 ^ 48 * 2 ^ 96 +
    op % 2 ^ 20 * 2 ^ 76 + group % 2 ^ 10 * 2 ^ 66 + flags % 4 * 2 ^ 64 + state % 8 * 2 ^ 61 + b2n urgent * 2 ^ 60 + next % 2 ^ 32

/-- An entry with its state, urgency and next step changed. -/
def wqWith (q state : Nat) (urgent : Bool) (next : Nat) : Nat :=
  wqMake (wqSig0 q) (wqSig1 q) (wqSeq q) (wqPost q) (wqDue q) (wqOp q) (wqGroup q) (bits q 65 64) state urgent next

/-- Slots of the queue. -/
def wgqSlots : Nat := 1024

/-- The entry in a slot; a slot of an image without the region is EMPTY. -/
def Dev.wgqEntry (d : Dev) (n : Nat) : Nat := (d.tagged 9).elim 0 fun r => d.peekNat (r.base + 32 * n) 32

/-- The STATE of a slot's entry, the top bits of its eighth byte. -/
def Dev.queueState (d : Dev) (n : Nat) : Nat := (d.tagged 9).elim 0 fun r => d.peekNat (r.base + 32 * n + 7) 1 / 32

/-- Slots that are not EMPTY, ascending. -/
def Dev.wgqUsed (d : Dev) : List Nat :=
  if (d.tagged 9).isNone then [] else (List.range wgqSlots).filter fun n => d.queueState n ≠ 0

/-- WGQ_STATUS brought up to date. -/
def Dev.refreshWgq (d : Dev) : Dev :=
  let qs := d.wgqUsed.map d.wgqEntry
  ((d.set R.WGQ_STATUS_ENTRIES qs.length).set R.WGQ_STATUS_STARTED (qs.filter fun q => 2 ≤ wqState q).length).set
    R.WGQ_STATUS_URGENT (qs.filter wqUrgent).length

/-- The sequencer writes a slot. -/
def Dev.setWgq (d : Dev) (n q : Nat) : Dev :=
  match d.tagged 9 with
  | some r => (d.hbmWrite (r.base + 32 * n) (leBytes 32 q) fun _ => false).refreshWgq
  | none => d

/-! ### Posting (R249, R250) -/

/-- The descriptor posts when a main-lane entry starts it. -/
def deferring (entry desc : Nat) : Bool := entLane entry = 0 && odClass desc = 3 && mdDefer desc

/-- No slot is EMPTY. -/
def Dev.wgqFull (d : Dev) : Bool := (d.tagged 9).isSome && decide (wgqSlots ≤ d.wgqUsed.length)

/-- A beat-table entry posts its product. While a vote waits for the queue, every entry is URGENT (R256). -/
def Dev.wgqPost (d : Dev) (e : Nat) : Dev :=
  let w := d.entry e
  match (List.range wgqSlots).find? fun n => d.queueState n = 0 with
  | none => d
  | some n =>
    let due := if entDeadline w = 0 then 0 else beatAdd d.beatNow (entDeadline w)
    let q := wqMake (entSig0 w) (entSig1 w) d.wgq.seq d.beatNow due (entOp w) (entGroup w)
      (b2n (entReport w) + 2 * b2n (entDlEvent w)) 1 d.voteWaiting 0
    let d := { d with wgq := { d.wgq with seq := (d.wgq.seq + 1) % 2 ^ 32 } }
    (d.setWgq n q).count R.WGQ_POST_POSTED 1

/-! ### Order (R251) -/

/-- Sequence numbers compare modulo 2^32. -/
def seqBefore (a b : Nat) : Bool := decide (a ≠ b) && decide (sub32 b a < 2 ^ 31)

/-- Entry a is before entry b in queue order. -/
def Dev.wgqBefore (d : Dev) (a b : Nat) : Bool :=
  if d.get R.WGQ_CTL_ORDER = 1 ∧ wqOp a ≠ wqOp b then decide (wqOp a < wqOp b) else seqBefore (wqSeq a) (wqSeq b)

/-- No incomplete entry earlier in queue order shares a tile with the one in slot n. -/
def Dev.wgqFirst (d : Dev) (n : Nat) : Bool :=
  let q := d.wgqEntry n
  d.wgqUsed.all fun m => m = n || !d.shareTile (wqGroup (d.wgqEntry m)) (wqGroup q) || !d.wgqBefore (d.wgqEntry m) q

/-! ### Urgency (R254, R256) -/

/-- An entry becomes URGENT; a slice that runs goes on as an urgent one. -/
def Dev.makeUrgent (d : Dev) (n : Nat) : Dev :=
  let q := d.wgqEntry n
  if wqUrgent q then d
  else { d.setWgq n (wqWith q (wqState q) true (wqNext q)) with
    ops := d.ops.map fun o => if o.wgq = some n then { o with urgent := true } else o }

/-- Every entry becomes URGENT. -/
def Dev.urgentAll (d : Dev) : Dev := d.wgqUsed.foldl Dev.makeUrgent d

/-- At the boundary that starts DUE_BEAT an entry becomes URGENT. -/
def Dev.wgqDue (d : Dev) : Dev :=
  d.wgqUsed.foldl (fun (d : Dev) n =>
    let q := d.wgqEntry n
    if wqDue q ≠ 0 && wqDue q = d.beatNow then
      let d := (d.makeUrgent n).set R.WGQ_ERR_URGENT_REACHED 1
      if wqDlEvent q then d.event R.WGQ_ERR_URGENT_REACHED n noArg (wqOp q) else d
    else d) d

/-- A store to WGQ_CTL with DRAIN = 1. -/
def Dev.wgqCtlWrite (d : Dev) (v : Nat) : Dev := if v.testBit 7 then d.urgentAll else d

/-- R256: every slot EMPTY. -/
def Dev.wgqClear (d : Dev) : Dev :=
  let d := { d with wgq := ⟨0, []⟩ }
  match d.tagged 9 with
  | some r =>
    let a := d.bankAddr r.base
    { d with hbm := { d.hbm with cells := stClear d.hbm.cells a (32 * wgqSlots) } }.refreshWgq
  | none => d.refreshWgq

end Sys2Proof.Machine
end

