-- ==== Sys2Proof/Machine/Commit.lean ====
section
/-!
DEFINITION. The midnight commit (spec/13_update_commit.md, R273–R282; R106, R107): messages (Table 13.6), the member
machine (Table 13.7), the coordinator (R279), bank control (R276), and what the boundary starting M does. Messages come
into `upd.box` through the mailbox (Ops.lean); a row takes the first of them when it is of the row's type.
-/

namespace Sys2Proof.Machine

/-! ### Messages -/

/-- The 64 bytes of a message (Table 13.6). -/
def commitBytes (kind flags src step beat scale : Nat) : List Byte :=
  leBytes 1 kind ++ leBytes 1 flags ++ leBytes 2 src ++ leBytes 4 0 ++ leBytes 8 (step % 2 ^ 48) ++ leBytes 8 (beat % 2 ^ 48) ++
    leBytes 1 scale ++ leBytes 39 0

/-- The commit set in force, ascending (R277). -/
def Dev.commitSet (d : Dev) : List Nat :=
  (List.range 64).flatMap fun n => (setBits 64 (d.force (R.UPD_SET_BITS n))).map fun i => 64 * n + i

/-- Its members that are not fenced. -/
def Dev.commitLive (d : Dev) : List Nat := d.commitSet.filter fun x => !d.fencedOut x

/-- The coordinator in force. -/
def Dev.coord (d : Dev) : Nat := d.force R.UPD_COMMIT_CFG_COORD

/-- R277: a message is sent to the mailbox of `dest`, at the sender's own UPD_MBOX.BASE. -/
def Dev.sendCommit (d : Dev) (dest kind flags step beat scale : Nat) : Dev :=
  let bs := commitBytes kind flags d.id step beat scale
  (d.request (d.newReq dest 3 3 (d.get R.UPD_MBOX_BASE + 64 * d.id) bs []) .mgr 0 none).count R.UPD_MSGS_SENT 1

/-- The same message to every device of a list, in order, with the beat of sending. -/
def Dev.sendAll (d : Dev) (dests : List Nat) (kind flags step beat : Nat) : Dev :=
  dests.foldl (fun (d : Dev) x => d.sendCommit x kind flags step beat (d.get R.UPD_SCALE_S)) d

/-! ### The member (Table 13.7) -/

/-- Commit states and coordinator states. -/
def Dev.commitState (d : Dev) : Nat := d.get R.UPD_COMMIT_STATUS_STATE
def Dev.coordState (d : Dev) : Nat := d.get R.UPD_COORD_STATUS_STATE

/-- The step being made: LIVE_STEP + 1. -/
def Dev.nextStep (d : Dev) : Nat := (d.get R.UPD_BANK_LIVE_STEP + 1) % 2 ^ 48

/-- The done token (R278). -/
def Dev.doneToken (d : Dev) : Dev := (d.chanFrom 5).elim d fun c => d.post c 1

/-- The vote of this step goes to the coordinator, with the flags of R106. -/
def Dev.sendVote (d : Dev) : Dev :=
  let d := d.sendCommit d.coord 1 (d.get R.UPD_COMMIT_STATUS_OVERFLOW + 2 * d.get R.UPD_COMMIT_STATUS_POISON) d.nextStep d.beatNow
    (d.get R.UPD_SCALE_S)
  { d with upd := { d.upd with since := d.beatNow } }

/-- R278, R256: a waiting vote makes every queued product urgent; with the queue empty the member votes. -/
def Dev.tryVote (d : Dev) : Dev :=
  if !d.voteWaiting then d
  else if !d.wgqUsed.isEmpty then d.urgentAll
  else
    let d : Dev := if d.upd.voteReq then { d with upd := { d.upd with voteReq := false } }
      else (d.chanTo 5).elim d fun c => d.takeTokens c 1
    let d := { d.set R.UPD_COMMIT_STATUS_STATE 1 with upd := { d.upd with midStep := none, abortStep := none } }
    d.sendVote

/-- R274: in the cycle of a flip, live buckets with a source in either window are marked stale, and near-cache lines
filled from either window are dropped. -/
def Dev.windowsStale (d : Dev) : Dev :=
  [1, 2].foldl (fun (d : Dev) tag =>
    match d.tagged tag with
    | none => d
    | some r =>
      let d := d.markStale r.base r.size
      { d with tiles := d.tiles.map fun (t, u) =>
          (t, { u with nc := u.nc.filter fun l => !overlap (128 * l.line) 128 (d.id * 2 ^ 45 + r.base) r.size }) }) d

/-- The single write of UPD_BANK.LIVE_BANK (R273, R274). -/
def Dev.flip (d : Dev) : Dev := (d.set R.UPD_BANK_LIVE_BANK (1 - d.get R.UPD_BANK_LIVE_BANK)).windowsStale

/-- R107: the loss scale at a MIDNIGHT beat. -/
def Dev.scaleMidnight (d : Dev) (skip : Bool) : Dev :=
  let s := d.get R.UPD_SCALE_S
  if skip then
    let d := d.set R.UPD_SCALE_CLEAN 0
    if s = 0 then d.raise1 R.UPD_ERR_SCALE_FLOOR 0 else d.set R.UPD_SCALE_S (s - 1)
  else
    let c := d.get R.UPD_SCALE_CLEAN + 1
    if d.get R.UPDATE_CFG_RAISE_AFTER ≤ c then (d.set R.UPD_SCALE_CLEAN 0).set R.UPD_SCALE_S (min 32 (s + 1))
    else d.set R.UPD_SCALE_CLEAN c

/-- R364: a training step has ended; its STEP record is due. -/
def Dev.stepEnded (d : Dev) (step outcome : Nat) : Dev := { d with tel := { d.tel with ended := some (step, outcome, d.get R.UPD_SCALE_S) } }

/-- Table 13.7, SCHEDULED at the boundary starting M: COMMIT flips, SKIP_OVERFLOW does not. -/
def Dev.midnightApply (d : Dev) : Dev :=
  let skip := d.upd.skip
  let step := d.nextStep
  let d := if skip then d else
    let old := d.get R.UPD_BANK_LIVE_STEP
    ((d.flip.set R.UPD_RET_RET_VALID 1).set R.UPD_RET_RET_STEP old).set R.UPD_BANK_LIVE_STEP ((old + 1) % 2 ^ 48)
  let d := ((d.scaleMidnight skip).clearWatch).stepEnded step (if skip then 2 else 1)
  let d := (d.set R.UPD_COMMIT_STATUS_OUTCOME (if skip then 2 else 1)).set R.UPD_COMMIT_STATUS_STATE 0
  let d := d.set R.AGX_VER_5_LAST_MIDNIGHT d.beatNow
  let d := if skip then d.count R.UPD_OUTCOMES_SKIPS 1
    else (d.count R.UPD_OUTCOMES_COMMITS 1).sendCommit d.coord 4 0 (d.get R.UPD_BANK_LIVE_STEP) d.beatNow (d.get R.UPD_SCALE_S)
  d.doneToken

/-- Messages of a decision already taken for the same step (R282). -/
def Dev.decided (d : Dev) (step : Nat) : Bool := d.upd.midStep = some step || d.upd.abortStep = some step

/-- A duplicate is discarded and counted (Table 13.7). -/
def Dev.discardMsg (d : Dev) : Dev := d.count R.UPD_ABORTS_DISCARDED 1

/-- MIDNIGHT at a member: M is recorded and the message relayed to every other member of the set. -/
def Dev.onMidnight (d : Dev) (m : CommitMsg) : Dev :=
  if d.decided m.step then d.discardMsg
  else if d.commitState ≠ 1 ∨ m.step ≠ d.nextStep then d.msgBad
  else
    let late := beatGe d.beatNow m.beat
    let d := (d.set R.UPD_COMMIT_STATUS_STATE 2).set R.UPD_COMMIT_STATUS_M_BEAT m.beat
    let d : Dev := { d with upd := { d.upd with skip := m.flags.testBit 0, late := late, midStep := some m.step } }
    let d := if late then d.raise1 R.UPD_ERR_MIDNIGHT_LATE m.beat else d
    (d.commitSet.filter fun x => x ≠ d.id).foldl (fun (d : Dev) x => d.sendCommit x 2 m.flags m.step m.beat m.scale) d

/-- ABORT at a member: from STAGED, or from IDLE when the coordinator sends it before this member has voted. -/
def Dev.onAbort (d : Dev) (m : CommitMsg) : Dev :=
  if d.decided m.step then d.discardMsg
  else if (d.commitState = 1 ∨ (d.commitState = 0 ∧ m.src = d.coord)) ∧ m.step = d.nextStep then
    let d := (d.clearWatch.set R.UPD_COMMIT_STATUS_STATE 0).set R.UPD_COMMIT_STATUS_OUTCOME 3
    let d : Dev := { d with upd := { d.upd with abortStep := some m.step } }
    ((d.stepEnded m.step 3).count R.UPD_ABORTS_ABORTS 1).doneToken
  else d.msgBad

/-- RELEASE for LIVE_STEP frees the retained bank (R275). -/
def Dev.onRelease (d : Dev) (m : CommitMsg) : Dev :=
  if m.step = d.get R.UPD_BANK_LIVE_STEP then d.set R.UPD_RET_RET_VALID 0 else d.msgBad

/-! ### The coordinator (R279) -/

/-- A device has voted, or acknowledged, in this round. -/
def Dev.voted (d : Dev) (x : Nat) : Bool := (d.get (R.UPD_VOTED_BITS (x / 64))).testBit (x % 64)

/-- A vote or acknowledgement is noted. -/
def Dev.noteVote (d : Dev) (x : Nat) : Dev :=
  if d.voted x then d
  else (d.set (R.UPD_VOTED_BITS (x / 64)) (d.get (R.UPD_VOTED_BITS (x / 64)) + 2 ^ (x % 64))).set R.UPD_COORD_STATUS_COUNT
    (d.get R.UPD_COORD_STATUS_COUNT + 1)

/-- UPD_VOTED_n and COUNT cleared. -/
def Dev.clearVotes (d : Dev) : Dev :=
  (List.range 64).foldl (fun (d : Dev) n => d.set (R.UPD_VOTED_BITS n) 0) (d.set R.UPD_COORD_STATUS_COUNT 0)

/-- The round's step. -/
def Dev.roundStep (d : Dev) : Nat := d.get R.UPD_COORD_STATUS_STEP

/-- In the cycle the last vote arrives the coordinator decides. -/
def Dev.decide1 (d : Dev) : Dev :=
  let set := d.commitSet
  if d.coordState ≠ 1 || set.isEmpty || set.any (fun x => !d.voted x) then d
  else if d.upd.poison then (d.sendAll d.commitLive 3 0 d.roundStep d.beatNow).set R.UPD_COORD_STATUS_STATE 0
  else
    let m := beatAdd d.beatNow (max 1 (d.force R.UPD_COMMIT_CFG_LEAD_BEATS))
    let d := d.sendAll d.commitLive 2 (b2n d.upd.ovf) d.roundStep m
    if d.upd.ovf then d.set R.UPD_COORD_STATUS_STATE 0
    else { (d.set R.UPD_COORD_STATUS_STATE 2).clearVotes with upd := { d.upd with members := set } }

/-- A valid STAGED: it opens a round, or is one of its votes, or waits for RELEASE (R279). -/
def Dev.onStaged (d : Dev) (m : CommitMsg) : Dev :=
  if d.id ≠ d.coord then d.msgBad
  else
    let d : Dev := if d.coordState ≠ 0 then d else
      let d := (((d.clearVotes.set R.UPD_COORD_STATUS_STATE 1).set R.UPD_COORD_STATUS_STEP m.step).set R.UPD_DEADLINE_BEAT
        (beatAdd d.beatNow (d.force R.UPD_COMMIT_CFG_VOTE_WINDOW_BEATS)))
      { d with upd := { d.upd with ovf := false, poison := false } }
    if m.step = d.roundStep ∧ d.coordState = 1 then
      let d : Dev := { d with upd := { d.upd with ovf := d.upd.ovf || m.flags.testBit 0, poison := d.upd.poison || m.flags.testBit 1 } }
      (d.noteVote m.src).decide1
    else if m.step = (d.roundStep + 1) % 2 ^ 48 then { d with upd := { d.upd with held := d.upd.held ++ [m] } }
    else d.msgBad

/-- A round that has ended: the votes held for the next step are taken up. -/
def Dev.takeHeld (d : Dev) : Dev :=
  if d.coordState ≠ 0 then d
  else d.upd.held.foldl Dev.onStaged { d with upd := { d.upd with held := [] } }

/-- R279: ABORT to every unfenced member, and the round ends. -/
def Dev.abortRound (d : Dev) : Dev :=
  if d.coordState ≠ 1 then d
  else ((d.sendAll d.commitLive 3 0 d.roundStep d.beatNow).set R.UPD_COORD_STATUS_STATE 0).takeHeld

/-- R279: when every member of the set at the decision that is still in the set has sent FLIPPED, RELEASE is sent. -/
def Dev.tryRelease (d : Dev) : Dev :=
  let set := d.commitSet
  if d.coordState ≠ 2 || (d.upd.members.any fun x => set.contains x && !d.voted x) then d
  else ((d.sendAll d.commitLive 5 0 d.roundStep d.beatNow).set R.UPD_COORD_STATUS_STATE 0).takeHeld

/-- FLIPPED at the coordinator. -/
def Dev.onFlipped (d : Dev) (m : CommitMsg) : Dev :=
  if d.coordState = 2 ∧ m.step = d.roundStep ∧ d.upd.members.contains m.src then (d.noteVote m.src).tryRelease else d.msgBad

/-- The first message of the mailbox, when it is of type `kind`: the sender must be in the set (R277), and SCALE is
compared (R280). -/
def Dev.takeMsg (d : Dev) (kind : Nat) (f : Dev → CommitMsg → Dev) : Dev :=
  match d.upd.box with
  | m :: rest =>
    if m.kind ≠ kind then d else
    let d : Dev := { d with upd := { d.upd with box := rest } }
    if !d.commitSet.contains m.sender then d.msgBad
    else
      let d := if m.scale = d.get R.UPD_SCALE_S then d else d.raise1 R.UPD_ERR_SCALE_MISMATCH m.sender
      f d m
  | [] => d

/-! ### Registers -/

/-- A store to UPD_COMMIT_CTL (R278, Table 13.7). -/
def Dev.commitCtlWrite (d : Dev) (v : Nat) : Dev :=
  let d : Dev := if v.testBit 63 then { d with upd := { d.upd with voteReq := true } } else d
  let d := if v.testBit 63 ∧ d.voteWaiting ∧ !d.wgqUsed.isEmpty then d.urgentAll else d
  if v.testBit 62 ∧ d.commitState = 1 then d.sendVote else d

/-- A store to UPD_COORD_CTL: ABORT_NOW acts while the round collects votes. -/
def Dev.coordCtlWrite (d : Dev) (v : Nat) : Dev := if v.testBit 63 then d.abortRound else d

/-- A store to UPD_BANK_CTL waits for the boundary; one that sets both bits is rejected (R276). -/
def Dev.bankCtlWrite (d : Dev) (v : Nat) : Dev :=
  if v.testBit 63 ∧ v.testBit 62 then d.raise1 R.UPD_ERR_BANK_REJECT 0
  else if v.testBit 63 ∨ v.testBit 62 then { d with upd := { d.upd with bankCtl := some v } }
  else d

/-- R276: UPD_BANK_CTL takes effect at the boundary, only while the commit state is IDLE. -/
def Dev.bankCtlApply (d : Dev) : Dev :=
  match d.upd.bankCtl with
  | none => d
  | some v =>
    let d : Dev := { d with upd := { d.upd with bankCtl := none } }
    if d.commitState ≠ 0 then d.raise1 R.UPD_ERR_BANK_REJECT 0
    else if v.testBit 62 then
      ((d.set R.UPD_BANK_LIVE_BANK (bits v 61 61)).set R.UPD_BANK_LIVE_STEP (bits v 47 0)).set R.UPD_RET_RET_VALID 0
    else if d.flag R.UPD_RET_RET_VALID then
      ((d.flip.set R.UPD_BANK_LIVE_STEP (d.get R.UPD_RET_RET_STEP)).set R.UPD_RET_RET_VALID 0)
    else d.raise1 R.UPD_ERR_BANK_REJECT 0

/-! ### The boundary -/

/-- What the commit unit does at a boundary, after the staged registers and the fence have taken effect; `fenced` are
the devices that this boundary fences. -/
def Dev.commitBoundary (d : Dev) (fenced : List Nat) : Dev :=
  let d := d.bankCtlApply
  let d := if d.commitState = 2 ∧ beatGe d.beatNow (d.get R.UPD_COMMIT_STATUS_M_BEAT) then d.midnightApply else d
  let d := if d.coordState = 1 ∧ fenced.any (fun x => d.commitSet.contains x && !d.voted x) then d.abortRound else d
  (d.decide1.tryRelease).takeHeld

/-- R276: warm reset and activation return the commit state to IDLE and end any round without a message. -/
def Dev.commitIdle (d : Dev) : Dev :=
  let d := ((d.set R.UPD_COMMIT_STATUS_STATE 0).set R.UPD_COORD_STATUS_STATE 0).clearVotes
  { d with upd := { d.upd with voteReq := false, held := [], members := [], midStep := none, abortStep := none, skip := false, late := false } }

/-! ### Rows -/

/-- VOTE_SEND (R278, R256). -/
def execVoteSend (s : State) : Host.Outcome State Fault Refusal := run s Dev.tryVote

/-- STAGED at the coordinator (R279). -/
def execStaged (s : State) : Host.Outcome State Fault Refusal := run s fun d => d.takeMsg 1 Dev.onStaged

/-- MIDNIGHT (Table 13.7). -/
def execMidnight (s : State) : Host.Outcome State Fault Refusal := run s fun d => d.takeMsg 2 Dev.onMidnight

/-- ABORT (Table 13.7). -/
def execAbortMsg (s : State) : Host.Outcome State Fault Refusal := run s fun d => d.takeMsg 3 Dev.onAbort

/-- FLIPPED at the coordinator (R279). -/
def execFlipped (s : State) : Host.Outcome State Fault Refusal := run s fun d => d.takeMsg 4 Dev.onFlipped

/-- RELEASE (R275, Table 13.7). -/
def execRelease (s : State) : Host.Outcome State Fault Refusal := run s fun d => d.takeMsg 5 Dev.onRelease

/-- DECIDE_TIMEOUT (Table 13.7): the beats have passed in STAGED without a decision; the count starts again. -/
def execDecideTimeout (s : State) : Host.Outcome State Fault Refusal :=
  run s fun d =>
    if d.commitState = 1 ∧ d.force R.UPD_COMMIT_CFG_DECIDE_TIMEOUT ≤ beatSub d.beatNow d.upd.since then
      let d := d.raise1 R.UPD_ERR_DECIDE_TIMEOUT d.upd.since
      { d with upd := { d.upd with since := d.beatNow } }
    else d

/-- VOTE_DEADLINE (R279): the deadline beat has ended with votes missing. -/
def execVoteDeadline (s : State) : Host.Outcome State Fault Refusal :=
  run s fun d =>
    if d.coordState = 1 ∧ beatGt d.beatNow (d.get R.UPD_DEADLINE_BEAT) ∧ d.commitSet.any (fun x => !d.voted x) then d.abortRound
    else d

end Sys2Proof.Machine
end

