-- ==== Sys2Proof/Machine/Image.lean ====
section
/-!
DEFINITION. Image slots, activation and swaps (R59–R66, Table 3.10), library-page copies (R55). What a boundary does with
a swap, an activation or a retile is in Activate.lean.
-/

namespace Sys2Proof.Machine

/-- Image slot n as the loader sees it. -/
def Dev.img? (d : Dev) (n : Nat) : Img := ⟨d, d.slotBase n⟩

/-- The STAGED slot; slot A where both are. -/
def Dev.stagedSlot (d : Dev) : Option Nat := [0, 1].find? fun n => decide (d.slotState n = 2)

/-- The load result is written (Table 3.9). -/
def Dev.loadResult (d : Dev) (code detail : Nat) : Dev :=
  ((d.set R.IMG_LOAD_STATUS_CODE code).set R.IMG_LOAD_STATUS_DETAIL detail).event R.IMG_LOAD_STATUS_CODE detail noArg noArg

/-- R59, R61: GO for a slot. -/
def Dev.loadGo (d : Dev) (slot : Nat) (restage : Bool) : Dev :=
  let st := d.slotState slot
  if d.flag R.IMG_STATUS_LOAD_BUSY || decide (d.get R.IMG_STATUS_SWAP_PHASE ≠ 0) || [1, 2, 3].contains st then
    d.loadResult 1 0
  else
    let d := { d with img := { d.img with loading := some (slot, restage && decide (st = 4)) } }
    (((d.set (slotField slot) 1).set R.IMG_STATUS_LOAD_BUSY 1).set R.IMG_LOAD_STATUS_CODE 0xFF).set R.IMG_LOAD_STATUS_DETAIL 0

/-- A store to IMG_LOAD. -/
def Dev.imgLoadWrite (d : Dev) (v : Nat) : Dev := if v.testBit 63 then d.loadGo (v % 2) (v.testBit 62) else d

/-- R59, Table 3.10: the loader ends. -/
def Dev.loadDone (d : Dev) : Dev :=
  match d.img.loading with
  | none => d
  | some (slot, restage) =>
    let r := (d.img? slot).check restage
    let d := { d with img := { d.img with loading := none } }
    let d := d.set R.IMG_STATUS_LOAD_BUSY 0
    match r with
    | .inl f => (d.set (slotField slot) 0).loadResult f.code f.detail
    | .inr p =>
      let d := d.set (slotField slot) 2
      let d := { d with img := { d.img with stagedPlaces := (slot, p) :: d.img.stagedPlaces.filter fun x => x.1 ≠ slot } }
      d.loadResult 0 0

/-- IMG_LOAD_DONE. -/
def execImgLoadDone (s : State) : Host.Outcome State Fault Refusal := run s Dev.loadDone

/-- The placement of a STAGED slot. -/
def Dev.placesOf (d : Dev) (slot : Nat) : List Place := (d.img.stagedPlaces.find? fun x => x.1 = slot).elim [] (·.2)

/-- The sites that a placement powers: those of tiles that are not SPARE. -/
def poweredSites (ps : List Place) : List Nat := (List.range 384).filter fun s => ps.any fun p => p.phys = s ∧ p.role ≠ 0

/-- R62: sites whose cisterns take the image while HBM is formatted again: the powered sites, and further good sites,
ascending, until they hold the image. -/
def Dev.formatSites (d : Dev) (slot : Nat) (powered : List Nat) : List Nat :=
  powered ++ ((d.goodSites.filter fun s => !powered.contains s).take (ceilDiv (d.img? slot).size 0x800000 - powered.length))

/-- R62: the first activation starts: its sites are powered in waves. -/
def Dev.activationStart (d : Dev) : Dev :=
  match d.stagedSlot with
  | some slot =>
    if d.img.actDue && !d.imageActive && d.img.activating.isNone && d.beating then
      let ps := d.placesOf slot
      let reformat := decide ((d.img? slot).strength ≠ d.strength)
      let sites := poweredSites ps
      let all := if reformat then d.formatSites slot sites else sites
      ({ d with img := { d.img with activating := some slot, regionsDone := false, reformat := reformat, actDue := false
                                    keep := [], windowsWait := true }
                pwr := { d.pwr with wave := all } }).nextWave
    else d
  | none => d

/-- ACTIVATION_START. -/
def execActivationStart (s : State) : Host.Outcome State Fault Refusal := run s Dev.activationStart

/-- The strength in force, and what follows from it (R20, R45, Table 1.8). -/
def Dev.setStrength (d : Dev) (k : Nat) : Dev :=
  let top := d.usable k
  (((d.set R.ECC_CFG_STRENGTH k).set R.ECC_TOP_TOP top).set R.IMG_SLOT_BASE_SLOT_A (top - 0x40000000)).set
    R.GLB_OFFER_1_HBM_USABLE (top / 0x20000000)

/-- R62: HBM is formatted again at the image's strength; the image goes to slot A at the new top. -/
def Dev.strengthReformat (d : Dev) : Dev :=
  match d.img.activating with
  | some slot =>
    if d.img.reformat && d.powerSettled then
      let m := d.img? slot
      let bytes := d.peek m.b m.size
      let ps := d.placesOf slot
      let extra := (d.formatSites slot (poweredSites ps)).drop (poweredSites ps).length
      let d := { d with hbm := { d.hbm with cells := [], poison := [], bad := [] } }
      let d := d.setStrength m.strength
      let d := { d with hbm := { d.hbm with cells := stPut (fun _ => 0) d.hbm.cells (d.slotBase 0) bytes } }
      let d := (d.set (slotField 0) 2).set (slotField 1) 0
      let d := { d with img := { d.img with reformat := false, activating := some 0, stagedPlaces := [(0, ps)], lastActive := none } }
      extra.foldl Dev.disableUnit d
    else d
  | none => d

/-- STRENGTH_REFORMAT. -/
def execStrengthReformat (s : State) : Host.Outcome State Fault Refusal := run s Dev.strengthReformat

/-! ### Swaps (R63) -/

/-- A store to IMG_SWAP. -/
def Dev.imgSwapWrite (d : Dev) (v : Nat) : Dev :=
  let phase := d.get R.IMG_STATUS_SWAP_PHASE
  let arm := v.testBit 63
  let unload := v.testBit 62
  let beat := v % 2 ^ 48
  if 2 ≤ phase ∨ (arm ∧ ¬ unload ∧ d.stagedSlot = none) then d.raise1 R.IMG_ERR_SWAP_REJECT 0
  else
    let d := ((d.set R.IMG_SWAP_ARM (b2n arm)).set R.IMG_SWAP_UNLOAD (b2n unload)).set R.IMG_SWAP_AT_BEAT beat
    let d := d.set R.IMG_STATUS_SWAP_PHASE (b2n arm)
    let d := if arm ∨ phase = 1 then d.event R.IMG_STATUS_SWAP_PHASE 0 noArg noArg else d
    if arm && d.beating && beatGe d.beatNow beat then d.raise1 R.IMG_ERR_SWAP_LATE 0 else d

/-- The phase of a swap. -/
def Dev.setPhase (d : Dev) (p : Nat) : Dev := (d.set R.IMG_STATUS_SWAP_PHASE p).event R.IMG_STATUS_SWAP_PHASE 0 noArg noArg

/-- Reconfiguration is complete: the swap waits for its boundary. -/
def Dev.reconfigDone (d : Dev) : Dev :=
  if d.get R.IMG_STATUS_SWAP_PHASE = 3 ∧ d.img.regionsDone ∧ d.powerSettled then d.setPhase 4 else d

/-- R63: reconfiguration begins once the last running operation of the old image has completed. DESIGN CHOICE: a STAGED slot freed
during the drain makes the swap end as an unload (log entry 55). -/
def Dev.swapReconfig (d : Dev) : Dev :=
  if d.get R.IMG_STATUS_SWAP_PHASE = 2 ∧ d.ops.isEmpty then
    let unload := d.flag R.IMG_SWAP_UNLOAD
    let slot := if unload then none else d.stagedSlot
    let new := slot.elim [] fun n => d.placesOf n
    let old := poweredSites d.img.places
    let sites := poweredSites new
    let kept := slot.elim false fun n => bitAt ((d.img? n).u 0xC 4) 0
    let keep := if kept then (new.filter fun p => d.img.places.any fun q => q.tile = p.tile ∧ q.phys = p.phys).map (·.phys) else []
    let d := (old.filter fun s => !sites.contains s).foldl Dev.disableUnit (d.set R.IMG_SWAP_ARM 0)
    let d := { d with img := { d.img with activating := slot, unload := unload, keep := keep, windowsWait := true
                                          regionsDone := slot.isNone, reformat := false }
                      pwr := { d.pwr with wave := sites.filter fun s => !old.contains s } }
    ((d.setPhase 3).nextWave).reconfigDone
  else d

/-- SWAP_RECONFIG. -/
def execSwapReconfig (s : State) : Host.Outcome State Fault Refusal := run s Dev.swapReconfig

/-- R276: the new image keeps the bank state: both parameter regions, where the image last active had them. -/
def Dev.keepsBanks (d : Dev) (plan : List Region) : Bool :=
  match plan.find? (fun r => r.tag = 1), plan.find? (fun r => r.tag = 2), d.img.lastParams with
  | some e, some o, some (a, b, c, f) => decide (e.base = a ∧ e.size = b ∧ o.base = c ∧ o.size = f)
  | _, _, _ => false

/-- R57: a region's initial contents, where the new image will read them. -/
def Dev.initRegion (d : Dev) (m : Img) (plan : List Region) (r : Region) : Dev :=
  if r.init = 0 then d else
  let flip := d.keepsBanks plan && d.flag R.UPD_BANK_LIVE_BANK
  let at_ := if flip ∧ (r.tag = 1 ∨ r.tag = 2) then ((plan.find? fun q => q.tag = 3 - r.tag).map (·.base)).getD r.base else r.base
  let bytes := if r.init = 2 then d.peek (m.b + r.initOff) r.initLen else []
  let h := d.hbm
  { d with hbm := { h with cells := stPut (fun _ => 0) (stClear h.cells at_ r.size) at_ bytes
                           poison := stClear h.poison (at_ / 128) (r.size / 128), bad := stClear h.bad (at_ / 128) (r.size / 128) } }

/-- The regions of the image that is to be active are initialised (R57, R62, R63). -/
def Dev.regionInit (d : Dev) : Dev :=
  match d.img.activating with
  | some slot =>
    if d.img.regionsDone || d.img.reformat || (!d.imageActive && !d.powerSettled) then d else
    let m := d.img? slot
    let plan := m.regions
    let d := plan.foldl (fun (x : Dev) r => x.initRegion m plan r) d
    ({ d with img := { d.img with regionsDone := true } }).reconfigDone
  | none => d

/-- REGION_INIT_DONE. -/
def execRegionInitDone (s : State) : Host.Outcome State Fault Refusal := run s Dev.regionInit

/-- R61: a store to IMG_SLOT_FREE. A slot whose activation or swap is in reconfiguration is refused as an ACTIVE one is. -/
def Dev.imgSlotFreeWrite (d : Dev) (v : Nat) : Dev :=
  if !v.testBit 63 then d else
  let slot := v % 2
  let st := d.slotState slot
  if st = 1 ∨ st = 3 ∨ d.img.activating = some slot then d.raise1 R.IMG_ERR_SLOT_FREE_REJECT slot
  else { (d.set (slotField slot) 0) with
    img := { d.img with stagedPlaces := d.img.stagedPlaces.filter fun x => x.1 ≠ slot } }

/-! ### Library pages (R55) -/

/-- A hardware page loaded from 32,768 bytes in a slot: every entry as it stands there. -/
def Dev.loadPage (d : Dev) (page at_ : Nat) : Dev :=
  let b := R.BEAT_ENTRY (page * 1024) 0
  let d := { d with regs := stClear d.regs b 0x8000
                    beat := { d.beat with started := d.beat.started.filter fun e => decide (e / 1024 ≠ page)
                                          dropped := d.beat.dropped.filter fun e => decide (e / 1024 ≠ page) } }
  (List.range 4096).foldl (fun (d : Dev) i =>
    let v := d.peekNat (at_ + 8 * i) 8
    if v = 0 then d else d.setWord (b + 8 * i) (BitVec.ofNat 64 v)) d

/-- A store to IMG_PAGE_COPY. -/
def Dev.imgPageCopyWrite (d : Dev) (v : Nat) : Dev :=
  let page := bits v 18 16
  let lib := bits v 9 0
  let busy := d.flag R.IMG_PAGE_COPY_BUSY
  let d := (d.set R.IMG_PAGE_COPY_HW_PAGE page).set R.IMG_PAGE_COPY_LIB_PAGE lib
  if !v.testBit 63 then d else
  let (mn, fl) := if d.imageActive then d.libCounts d.activeBase else (0, 0)
  if busy || decide (d.pageState page ≠ 0) || decide (mn + fl ≤ lib) then d.raise1 R.IMG_ERR_PAGE_COPY_REJECT page
  else { (d.set R.IMG_PAGE_COPY_BUSY 1) with img := { d.img with copying := some (lib, page) } }

/-- R55: the copy ends. -/
def Dev.pageCopyDone (d : Dev) : Dev :=
  match d.img.copying with
  | none => d
  | some (lib, page) =>
    let d := if d.imageActive then d.loadPage page (d.libPageAt d.activeBase lib) else d
    { (d.set R.IMG_PAGE_COPY_BUSY 0) with img := { d.img with copying := none } }

/-- PAGE_COPY_DONE. -/
def execPageCopyDone (s : State) : Host.Outcome State Fault Refusal := run s Dev.pageCopyDone

/-! ### The placement as registers show it (R60, Tables 3.16 and 4.9) -/

/-- IMG_PLACE, IMG_SITE and TILE_ID of every site and logical tile. -/
def Dev.showPlaces (d : Dev) : Dev :=
  let d := (List.range 320).foldl (fun (d : Dev) n => d.setWord (R.IMG_PLACE n) (resetWord (R.IMG_PLACE n))) d
  let d := (List.range 384).foldl (fun (d : Dev) t =>
    let d := ((d.setWord (R.TILE_ID t) (resetWord (R.TILE_ID t))).set (R.TILE_ID_PHYS t) t).set (R.TILE_ID_DIE t) (t / 48)
    (((d.set (R.TILE_ID_SITE t) (t % 48))).set (R.IMG_SITE_STATE t) (b2n (d.goodSite t))).set (R.IMG_SITE_LOGICAL t) 0x1FF) d
  d.img.places.foldl (fun (d : Dev) p =>
    let d := (((d.set (R.IMG_PLACE_PHYS p.tile) p.phys).set (R.IMG_PLACE_ROLE p.tile) p.role).set (R.IMG_PLACE_GANG p.tile) p.gang).set
      (R.IMG_PLACE_POWERED p.tile) (b2n (d.get (R.TILE_STATUS_PWR p.phys) ≠ 0))
    let d := (d.set (R.IMG_SITE_STATE p.phys) (if p.role = 0 then 3 else 2)).set (R.IMG_SITE_LOGICAL p.phys) p.tile
    (((d.set (R.TILE_ID_LOGICAL p.phys) p.tile).set (R.TILE_ID_ROLE p.phys) p.role).set (R.TILE_ID_GANG p.phys) p.gang).set
      (R.TILE_ID_GANG_POS p.phys) p.pos) d

/-! ### Retile (R66) -/

/-- R66: the request is one the device can make. -/
def Dev.retileAllowed (d : Dev) (target spare : Nat) : Bool :=
  match d.place target, d.place spare with
  | some t, some s => d.imageActive && s.role = 0 && t.role ≠ 0 && t.gang = 0xFF && s.gang = 0xFF && t.phys / 48 = s.phys / 48
  | _, _ => false

/-- A store to IMG_RETILE. -/
def Dev.imgRetileWrite (d : Dev) (v : Nat) : Dev :=
  let spare := bits v 24 16
  let target := bits v 8 0
  let d := (d.set R.IMG_RETILE_SPARE spare).set R.IMG_RETILE_TARGET target
  if !v.testBit 63 then d.set R.IMG_RETILE_ARM 0
  else if d.retileAllowed target spare then d.set R.IMG_RETILE_ARM 1
  else (d.set R.IMG_RETILE_ARM 0).raise1 R.IMG_ERR_RETILE_REJECT target

end Sys2Proof.Machine
end

