-- ==== Sys2Proof/Machine/Attention.lean ====
section
/-!
DEFINITION. The attention engine (spec/09_attention.md): the classes ATTN_FWD, ATTN_DECODE, ATTN_BWD and ATTN_MERGE.
A step is one key block of one query block, or the end of a query block that has none (log entry 20). STEP_ISSUE issues a
step; the class's row computes it.
-/

namespace Sys2Proof.Machine

/-! ### The class part (Table 9.4) -/

def adLen (w : Nat) : Nat := bits w 147 128
def adState (w : Nat) : Nat := bits w 167 148
def adSum (w : Nat) : Nat := bits w 187 168
def adSkipStr (w : Nat) : Nat := bits w 207 188
def adLenV (w : Nat) : Bool := bitAt w 208
def adStateV (w : Nat) : Bool := bitAt w 209
def adSumV (w : Nat) : Bool := bitAt w 210
def adSkipV (w : Nat) : Bool := bitAt w 211
def adTable (w : Nat) : Bool := bitAt w 212
def adMask (w : Nat) : Nat := bits w 214 213
def adSkip (w : Nat) : Nat := bits w 216 215
def adMin (w : Nat) : Bool := bitAt w 217
def adPartial (w : Nat) : Bool := bitAt w 218
def adResume (w : Nat) : Bool := bitAt w 219
def adDim (w : Nat) : Nat := if bitAt w 220 then 64 else 128
def adG (w : Nat) : Nat := 2 ^ bits w 223 221
def adScale (w : Nat) : Nat := bits w 255 224
def adTau (w : Nat) : Nat := if bits w 287 256 = 0 then 0x41800000 else bits w 287 256
def adSeqs (w : Nat) : Nat := bits w 303 288
def adQLen (w : Nat) : Nat := bits w 327 304
def adKvLen (w : Nat) : Nat := bits w 351 328
def adWindow (w : Nat) : Nat := bits w 375 352
def adSink (w : Nat) : Nat := bits w 383 376
def adSplit (w : Nat) : Nat := bits w 391 384
def adDkv (w : Nat) : Nat := bits w 483 464
def adDkvV (w : Nat) : Bool := bitAt w 484

def isAttn (c : Nat) : Bool := c = 0x10 || c = 0x11 || c = 0x12

/-- Skipping is on for the operation (Table 9.4). -/
def adSkipOn (w : Nat) : Bool := adSkip w = 2 || (adSkip w = 0 && adTable w)

/-- An FP32 code is positive and finite. -/
def f32Pos (c : Nat) : Bool := decide (0 < c) && decide (c < 0x7F800000)

/-- R174, R182, R184, R185: what is wrong with a descriptor of the three classes. -/
def Dev.attnFault (d : Dev) (w : Nat) : Option Nat :=
  let c := odClass w
  let sta := d.streamDesc (odSta w)
  let walk := odStaV w && decide (sdKind sta = 3)
  let plain (i : Nat) : Bool := decide (sdKind (d.streamDesc i) ≤ 1)
  let others := [(odMovV w, odMov w), (odOutV w, odOut w), (odAuxV w, odAux w), (adLenV w, adLen w), (adStateV w, adState w),
    (adSumV w, adSum w), (adSkipV w, adSkipStr w), (c = 0x11 && adDkvV w, adDkv w)]
  let fmts := [1, 2, 3].contains (odFmtMov w) && [1, 2, 3].contains (odFmtSta w) && (matPair (odFmtMov w) (odFmtSta w)).isSome
  if !fmts then some 0
  else if bits w 511 485 ≠ 0 ∨ odFmtBad w ∨ odAccIn w ∨ adSkip w = 3 ∨ adMask w = 3 ∨ adSeqs w = 0 ∨
      adSplit w = 0 ∨ !f32Pos (adScale w) ∨ adTau w = 0 ∨ f32PosInf < adTau w ∨ (odAuxV w ∧ odFmtAux w ≠ 0) ∨
      (c = 0x11 ∧ (adPartial w ∨ adResume w)) ∨ (adPartial w ∧ odFmtOut w ≠ 0) ∨ (adResume w ∧ !adStateV w) ∨
      (adTable w ∧ !adLenV w) ∨ (c = 0x12 ∧ (!adTable w ∨ !walk)) ∨ (c ≠ 0x12 ∧ 1 < adSplit w) ∨
      (c = 0x11 ∧ (!adStateV w ∨ !adSumV w ∨ !odOutV w ∨ sdOutOp (d.streamDesc (odOut w)) ≠ 2 ∨ odFmtOut w ≠ 0)) ∨
      (others.any fun x => x.1 && !plain x.2) ∨ (odStaV w ∧ !walk ∧ !plain (odSta w)) ∨ (walk ∧ bits sta 216 215 ≠ 0) ∨
      (walk ∧ bits w 451 440 ≠ 0) ∨ (walk ∧ adSkipOn w ∧ !bitAt sta 217) ∨ (adMask w = 2 ∧ adWindow w = 0) then some 1
  else none

/-- R184, R186: the streams of an attention operation, each advanced by its stride. -/
def attnStreams (w rank : Nat) (walk : Bool) : List Opening :=
  let h := rank / max 1 (adSplit w)
  let back := odClass w = 0x11
  let k64 (hi lo : Nat) : Nat := bits w hi lo * 65536
  let one (v : Bool) (r : Role) (i adv : Nat) (ord : Bool) : List Opening := if v then [⟨r, i, adv, ord⟩] else []
  one (odMovV w) .mov (odMov w) (k64 403 392 * h) true ++
  one (odStaV w) .sta (odSta w) (if walk then 0 else k64 451 440 * h) true ++
  one (odOutV w) .out (odOut w) (k64 415 404 * rank) false ++
  one (odAuxV w) .aux (odAux w) (k64 427 416 * rank) back ++
  one (adLenV w) (.part 0) (adLen w) 0 false ++
  one (adStateV w) (.part 1) (adState w) (if back then k64 403 392 * h else k64 415 404 * rank) true ++
  one (adSumV w) (.part 2) (adSum w) (if back then k64 403 392 * h else k64 463 452 * h) true ++
  one (adSkipV w) (.part 3) (adSkipStr w) (k64 439 428 * rank) false ++
  one (back && adDkvV w) (.part 4) (adDkv w) (k64 463 452 * h) false

/-! ### Constants (R179, R190) -/

/-- ⌊log2 e × 2^200⌋. -/
def log2e : Nat := 2318321547468254865173387471183990171487108758923299108729110

/-- A value rounded towards +∞ to FP32. -/
def f32Up (x : Fp) : Nat :=
  match x with
  | .fin true _ _ => (fpEnc fmtFp32 .down false x).code
  | _ => (fpEnc fmtFp32 .up false x).code

/-- scale2, formed once per operation. -/
def adScale2 (w : Nat) : Nat := f32Enc (fpMul (f32Dec (adScale w)) (.fin false log2e (-200)))

/-- τ × log2 e, towards +∞. -/
def adTau2 (w : Nat) : Nat := f32Up (fpMul (f32Dec (adTau w)) (.fin false log2e (-200)))

/-! ### Sequences and blocks (R175–R178) -/

/-- A length-table row; without a length stream, that of the fixed shape. -/
structure LenRow where
  qc : Nat
  qp : Int
  kb : Nat
  kc : Nat
  ctx : Nat
  flags : Nat
  /-- Reserved bytes are zero. -/
  clean : Bool
  /-- The row was poisoned: so is all that follows from it (R104). -/
  p : Bool
deriving DecidableEq, Repr

/-- The row of a sequence; none while it has not come. -/
def Dev.lenRow (d : Dev) (t : Nat) (w seq : Nat) : Option LenRow :=
  if !adLenV w then some ⟨adQLen w, (adKvLen w : Int) - adQLen w, 0, adKvLen w, 0xFF, 0, true, false⟩ else
  match (d.tile t).roleStream (.part 0) with
  | none => none
  | some s =>
    if !d.prefixReady t s (32 * seq / 2048 + 1) then none else
    let g := (d.tile t).streamBytes s (32 * seq) 32
    let b := g.bytes
    some ⟨recNat b 0 4, recNat b 4 4, recNat b 8 4, recNat b 12 4, recNat b 16 1, recNat b 17 1, decide (leNat (b.drop 18) = 0), g.anyPoison⟩

/-- The rows before the one of a sequence have been read for the last time. -/
def Dev.lenFree (d : Dev) (t w seq : Nat) : Dev :=
  match (d.tile t).roleStream (.part 0) with
  | none => d
  | some s =>
    let u := d.tile t
    let all := d.bucketCount u s
    d.setTile t (u.freePrefix s.ctx (if adSeqs w ≤ seq then all else 32 * seq / 2048) all)

/-- The STA stream is a PAGE_WALK stream. -/
def Dev.attnWalk (d : Dev) (t : Nat) : Bool := ((d.tile t).roleStream .sta).elim false fun s => decide (sdKind s.desc = 3)

/-- R175: the row is out of range. -/
def Dev.lenBad (d : Dev) (t w : Nat) (r : LenRow) : Bool :=
  adLenV w && (decide (r.kb % 64 ≠ 0) || (d.attnWalk t && decide (127 < r.ctx)) || (!d.attnWalk t && decide (r.ctx ≠ 0xFF)) ||
    decide (1 < r.flags) || !r.clean || (odClass w = 0x12 && decide (128 < r.qc * adG w)) ||
    (!adTable w && (decide (adQLen w < r.qc) || decide (adKvLen w < r.kc))))

/-- Rows of a sequence in its streams; query blocks; source pages. -/
def LenRow.rows (r : LenRow) (w : Nat) : Nat := (if adTable w then r.qc else adQLen w) * adG w
def LenRow.blocks (r : LenRow) (w : Nat) : Nat := if odClass w = 0x12 then 1 else ceilDiv (r.rows w) 128
def LenRow.keys (r : LenRow) (w : Nat) : Nat := if adTable w then r.kc else adKvLen w
def LenRow.pages (r : LenRow) (w : Nat) : Nat := ceilDiv (r.keys w) 64

/-- Rows of query block b in the streams, and the query position of its row i. -/
def LenRow.live (r : LenRow) (w b : Nat) : Nat := min 128 (r.rows w - 128 * b)
def LenRow.pos (r : LenRow) (w b i : Nat) : Int := r.qp + (128 * b + i) / adG w

/-- R178: key position k is visible to row i of block b. -/
def LenRow.sees (r : LenRow) (w b i k : Nat) : Bool :=
  let p := r.pos w b i
  decide (i < r.live w b) && decide ((128 * b + i) / adG w < r.qc) && decide (r.kb ≤ k) && decide (k < r.kb + r.kc) &&
    (match adMask w with
     | 0 => true
     | 1 => decide (k ≤ p)
     | _ => decide (k ≤ p) && (decide (p < (k : Int) + adWindow w) || decide (k < r.kb + 64 * adSink w)))

/-- R177: the row whose exact skips are taken: in FIXED_SHAPE that of the shape alone. -/
def LenRow.shape (r : LenRow) (w : Nat) : LenRow :=
  if adTable w then r else { r with qc := adQLen w, qp := (adKvLen w : Int) - adQLen w, kb := 0, kc := adKvLen w }

/-- R177, R178: source page j has a position visible to a row of block b. -/
def LenRow.seesPage (r : LenRow) (w b j : Nat) : Bool :=
  let q := r.shape w
  let n := r.live w b
  let p0 := q.pos w b 0
  let p1 := q.pos w b (n - 1)
  let k0 : Int := (q.kb + 64 * j : Nat)
  let k1 : Int := (min (q.kb + 64 * j + 63) (q.kb + q.kc - 1) : Nat)
  decide (0 < n) && decide (64 * j < q.kc) &&
    (match adMask w with
     | 0 => true
     | 1 => decide (k0 ≤ p1)
     | _ => decide (k0 ≤ p1) && (decide (j < adSink w) || decide (p0 < k1 + adWindow w)))

def LenRow.visible (r : LenRow) (w b : Nat) : List Nat := (List.range (r.pages w)).filter (r.seesPage w b)

/-- R188: page j is visible to every live row of block b in every position. -/
def LenRow.fullPage (r : LenRow) (w b j : Nat) : Bool :=
  (List.range (r.live w b)).all fun i => !decide ((128 * b + i) / adG w < r.qc) || (List.range 64).all fun q => r.sees w b i (r.kb + 64 * j + q)

/-- R195: share `j` of a list of pages cut into n. -/
def shareOf (l : List Nat) (n j : Nat) : List Nat :=
  let q := l.length / n
  let m := l.length % n
  (l.drop (j * q + min j m)).take (q + b2n (decide (j < m)))

def pairs : List Nat → List (List Nat)
  | a :: b :: l => [a, b] :: pairs l
  | [a] => [[a]]
  | [] => []

/-- R190: the preview pages of a block. -/
def previewPages (vis : List Nat) : List Nat := (vis.filter fun j => j = 0 || decide (some j = vis.getLast?))

/-! ### Ordered streams -/

/-- Where part k of an ordered stream begins. -/
def Stream.partAt (s : Stream) (k : Nat) : Nat := ((s.plan.getD []).take k).foldl (fun n p => n + p.room) 0

/-- Parts ordered of a role's stream. -/
def TileUnit.order_ (u : TileUnit) (r : Role) (ps : List PlanPart) : TileUnit :=
  { u with streams := u.streams.map fun (s : Stream) => if !s.primed && decide (s.role = r) then { s with plan := s.plan.map (· ++ ps) } else s }

/-- Buckets of a stream that have been read for the last time. -/
def Stream.gone (s : Stream) : Nat := (s.buckets.filter fun b => !b.live).length

/-- Parts 0 to k − 1 of a role's stream have been read: their buckets are free, with those of a DATA channel (R52, R118). -/
def Dev.partsDone (d : Dev) (t : Nat) (r : Role) (k : Nat) : Dev :=
  match (d.tile t).roleStream r with
  | none => d
  | some s =>
    let n := s.partAt k / 2048
    if n ≤ s.gone then d else
    let d := match d.streamChan t s with | some c => d.takeTokens c (n - s.gone) | none => d
    d.setTile t ((d.tile t).freePrefix s.ctx n (2 ^ 40))

/-- Elements of part k of a role's stream. -/
def TileUnit.partVals (u : TileUnit) (r : Role) (k o n : Nat) : List Val :=
  match u.roleStream r with
  | some s => u.vals s (s.partAt k * 8 / codeWidth (sdFmt s.desc) + o) n
  | none => List.replicate n Val.zero

/-- Bytes of part k of a role's stream. -/
def TileUnit.partBytes (u : TileUnit) (r : Role) (k n : Nat) : Got :=
  match u.roleStream r with
  | some s => u.streamBytes s (s.partAt k) n
  | none => ⟨List.replicate n 0, List.replicate n false⟩

/-- Bytes of a page's K and V parts. -/
def adPageBytes (w : Nat) : Nat := elemBytes (odFmtSta w) (128 * adDim w)

/-- The part of STA that page j of the sequence in work is. -/
def Dev.pagePart (d : Dev) (t w : Nat) (c : AttnCtx) (r : LenRow) (j : Nat) : PlanPart :=
  if d.attnWalk t then
    match ((d.tile t).roleStream .sta).bind fun s => s.trans.find? fun x => x.1 = r.kb / 64 + j with
    | some (_, f, _) => .mem (d.frameAddr f) (adPageBytes w)
    | none => .null (adPageBytes w)
  else .src ((c.pageBase + j) * adPageBytes w) (adPageBytes w)

/-- The pins of pages are released (R192). -/
def Dev.unpinPages (d : Dev) (t : Nat) (ps : List Nat) : Dev :=
  match (d.tile t).roleStream .sta with
  | none => d
  | some s =>
    let (gone, keep) := s.trans.partition fun x => ps.contains x.1
    let d := d.setTile t { d.tile t with streams := (d.tile t).streams.map fun (x : Stream) => if x.ctx = s.ctx then { x with trans := keep } else x }
    d.releasePages { s with trans := gone }

/-! ### Arithmetic (R179, R180, R183, R189) -/

/-- R180: a probability in the key/value format, as its exact value with the factor removed. -/
def probConv (fmt : Nat) (sat : Bool) (p : Nat) : Fp :=
  let k : Int := if fmt = 2 then 8 else if fmt = 3 then 15 else 0
  match codeFmt fmt with
  | some f => fpScale (-k) (fpDec f (fpEnc f .rne sat (fpScale k (f32Dec p))).code)
  | none => f32Dec p

/-- exp2(m − m′) as a factor (R101). -/
def rescale (m m' : Nat) : Nat :=
  if m = f32NegInf then (if m' = f32NegInf then f32One else 0) else exp2Diff m m'

/-- A product of two vectors in the array (R93). -/
def dotOf (a b : List Val) : Nat := accRow 0 a b

/-- A score in base-2 units. -/
def scoreOf (scale2 : Nat) (q k : List Val) : Nat := f32Mul scale2 (dotOf q k)

/-- A key of a block: its position, its key and value, and which of them are poisoned. -/
structure KeyVec where
  pos : Nat
  k : List Val
  v : List Val
deriving DecidableEq, Repr

/-- One row's step of R179: m, ℓ and a after a key block with scores `s`. -/
def softRow (fmt : Nat) (m l : Nat) (a : List Nat) (s : List Nat) (keys : List KeyVec) : Nat × Nat × List Nat :=
  let mb := s.foldl f32Max f32NegInf
  let m' := f32Max m mb
  let f := rescale m m'
  let ps := s.map fun x => if x = f32NegInf then Val.zero else ⟨probConv fmt false (exp2Diff x m'), false⟩
  let sum := ps.foldl (fun n p => f32Add n (f32Enc p.x)) 0
  (m', f32Add (f32Mul l f) sum, (List.range a.length).map fun e => f32Add (f32Mul (a.getD e 0) f) (accRow 0 ps (keys.map fun k => k.v.getD e Val.zero)))

/-- The least FP32 value at or above the square root. -/
def f32SqrtUp (x : Fp) : Nat :=
  match x with
  | .fin false m e =>
    let (m, e) := if e % 2 = 0 then (m, e) else (2 * m, e - 1)
    let r := Nat.sqrt (m * 2 ^ 128)
    f32Up (.fin false (if r * r = m * 2 ^ 128 then r else r + 1) (e / 2 - 64))
  | .fin true 0 _ => 0
  | .inf false => f32PosInf
  | _ => f32NaN

def sumSquares (l : List Fp) : Fp := l.foldl (fun s x => fpAdd s (fpMul x x)) (.fin false 0 0)

/-- R189: the bound of a page with centroid `cen` and radius `r` for a row. -/
def boundOf (scale2 : Nat) (q : List Fp) (cen : List Fp) (r : Nat) : Nat :=
  let nq := f32Dec (f32SqrtUp (sumSquares q))
  let nc := f32Dec (f32SqrtUp (sumSquares cen))
  let dot := (q.zip cen).foldl (fun s x => fpAdd s (fpMul x.1 x.2)) (.fin false 0 0)
  let rr := f32Dec r
  let slack := fpScale (-20) (fpMul nq (fpAdd nc rr))
  f32Up (fpMul (f32Dec scale2) (fpAdd (fpAdd dot (fpMul nq rr)) slack))

/-! ### Planning (R186, R190, R195) -/

/-- The engine's context of a tile. -/
def Dev.setAttn (d : Dev) (t : Nat) (c : AttnCtx) : Dev :=
  let d := d.setTile t { d.tile t with attn := c }
  (d.set (R.ATTN_STATUS_PHASE t) c.phase).set (R.ATTN_STATUS_QBLOCK t) c.index

/-- Bytes of a state block (Table 9.3): whole buckets. -/
def stateSize (dm : Nat) : Nat := if dm = 128 then 67584 else 34816

/-- The pages that this rank adds, and its preview pages. -/
def attnShare (w rank : Nat) (vis : List Nat) : List Nat := shareOf vis (max 1 (adSplit w)) (rank % max 1 (adSplit w))

/-- Fields of the PAGE_WALK descriptor that a sequence and rank give (R186). -/
def walkDesc (w rank : Nat) (r : LenRow) (desc : Nat) : Nat :=
  let put (v hi lo x : Nat) : Nat := v - bits v hi lo * 2 ^ lo + x % 2 ^ (hi + 1 - lo) * 2 ^ lo
  let v := if adLenV w then put desc 134 128 r.ctx else desc
  put (put (put v 150 143 (bits desc 150 143 + rank / max 1 (adSplit w))) 182 151 r.kb) 214 183 (64 * r.pages w)

/-- The descriptor of the STA stream as the image has it. -/
def Dev.staBase (d : Dev) (x : Exec) : Nat := d.streamDesc (odSta x.desc)

/-- The pages of the walk that are wanted are named, the others withdrawn (R111, R186). -/
def Dev.walkWant (d : Dev) (t : Nat) (x : Exec) (r : LenRow) (need : List Nat) : Dev :=
  let base := d.staBase x
  let gone := ((List.range (r.pages x.desc)).filter fun j => !need.contains j).map (· + r.kb / 64)
  let want (s : Stream) : Stream :=
    if !s.primed && decide (s.role = .sta) && decide (sdKind s.desc = 3) then { s with desc := walkDesc x.desc x.rank r base, withdrawn := gone } else s
  let u := d.tile t
  d.setTile t { u with streams := u.streams.map want }

/-- A query block begins: streams ordered, pages of the walk named, its running state empty. -/
def Dev.attnBegin (d : Dev) (t : Nat) (x : Exec) (c : AttnCtx) (r : LenRow) : Dev :=
  let w := x.desc
  let vis := r.visible w c.qb
  let d := d.walkWant t x r (previewPages vis ++ attnShare w x.rank vis).eraseDups
  let live := r.live w c.qb
  let u := (d.tile t).order_ .mov [.src (elemBytes (odFmtMov w) ((c.rowBase + 128 * c.qb) * adDim w)) (elemBytes (odFmtMov w) (live * adDim w))]
  let u := if adResume w then u.order_ (.part 1) [.src (c.index * stateSize (adDim w)) (1024 + 512 * adDim w)] else u
  let d := (d.setTile t u).count (R.ATTN_PAGES_MASK_SKIPPED t) (r.pages w - vis.length)
  let zero := List.replicate 128 0
  d.setAttn t { c with phase := 1, todo := [], cands := [], skipped := []
                       m := List.replicate 128 f32NegInf, l := zero, a := List.replicate 128 (List.replicate (adDim w) 0)
                       rowP := if r.p then 2 ^ 128 - 1 else 0, dimP := 0, prev := List.replicate 128 f32NegInf, pred := 0 }

/-- Every page of the walk that is needed has been translated. -/
def Dev.walked (d : Dev) (t : Nat) : Bool :=
  match (d.tile t).roleStream .sta with
  | some s => sdKind s.desc ≠ 3 || (walkPages s).all fun p => s.trans.any fun x => x.1 = p
  | none => true

/-- The key of a page of a sequence among those translated; what the first translation of each page said is kept (R192). -/
def pageKey (r : LenRow) (j : Nat) : Nat := r.ctx * 2 ^ 32 + r.kb / 64 + j
def Dev.markPages (d : Dev) (t : Nat) (c : AttnCtx) (r : LenRow) : AttnCtx :=
  let tr := ((d.tile t).roleStream .sta).elim [] (·.trans)
  { c with marks := c.marks ++ (tr.filterMap fun x =>
      let k := r.ctx * 2 ^ 32 + x.1
      if c.marks.any fun m => m.1 = k then none else some (k, x.2.2)) }

/-- R188: whether skipping is on for the block; a page has a summary, in all translations of the operation. -/
def Dev.skipOn (d : Dev) (t w : Nat) (r : LenRow) : Bool :=
  adSkipOn w && odClass w ≠ 0x11 && !d.flag (R.ATTN_CTL_SKIP_OFF t) && !(r.flags % 2 = 1)
def Dev.hasSummary (d : Dev) (t w : Nat) (c : AttnCtx) (r : LenRow) (j : Nat) : Bool :=
  if d.attnWalk t then ((d.tile t).roleStream .sta).elim false fun s =>
    (s.trans.any fun x => decide (x.1 = r.kb / 64 + j) && x.2.2) && c.marks.any fun m => decide (m.1 = pageKey r j) && m.2
  else adSumV w

/-- The preview block of the block in work is ordered, with the summaries from the first candidate's to the last one's, in
source order (R187). -/
def Dev.attnPreview (d : Dev) (t : Nat) (x : Exec) (c : AttnCtx) (r : LenRow) : Dev :=
  let w := x.desc
  let c := d.markPages t c r
  let vis := r.visible w c.qb
  let pre := previewPages vis
  let cand := if d.skipOn t w r then
      (attnShare w x.rank vis).filter fun j => !pre.contains j && j ≠ 0 && r.fullPage w c.qb j && d.hasSummary t w c r j else []
  let u := (d.tile t).order_ .sta (pre.map fun j => d.pagePart t w c r j)
  let at_ := ((u.roleStream (.part 2)).elim 0 fun s => s.partAt c.sumAt)
  let (u, n) := match cand.head?, cand.getLast? with
    | some a, some b => if d.attnWalk t then (u, 0) else (u.order_ (.part 2) [.src ((c.pageBase + a) * 256) ((b + 1 - a) * 256)], 1)
    | _, _ => (u, 0)
  (d.setTile t u).setAttn t
    { c with todo := [⟨c.qb, pre, pre, true, true⟩]
             cands := cand.map fun j => (j, at_ + (j - cand.headD 0) * 256)
             sumAt := c.sumAt + n }

/-- R197: the pairs of a sequence, by key block; the pages that the skip record of a query block leaves. A key block all of
whose pairs are skipped has one step, which reads nothing and writes zero gradients. -/
def bwdPairs (w : Nat) (r : LenRow) (skip : Nat → Nat → Bool) : List AttnStep :=
  let seen := (List.range (r.pages w)).filter fun j => (List.range (r.blocks w)).any fun b => r.seesPage w b j
  (pairs seen).flatMap fun kb =>
    let qs := (List.range (r.blocks w)).filterMap fun b =>
      let ps := kb.filter fun j => r.seesPage w b j && !skip b j
      if ps.isEmpty then none else some (b, ps)
    if qs.isEmpty then [(⟨0, [], kb, true, true⟩ : AttnStep)]
    else (List.range qs.length).zip qs |>.map fun (i, b, ps) => (⟨b, ps, kb, decide (i = 0), decide (i + 1 = qs.length)⟩ : AttnStep)

/-! ### Skip records (R194, R198) -/

/-- Bytes of the record of a block with `n` pages in its bitmap. -/
def recSize (n : Nat) : Nat := 16 + 16 * ceilDiv n 128
/-- Bits of the bitmap of a block: its highest visible page and those below. -/
def recPages (vis : List Nat) : Nat := vis.getLast?.elim 0 (· + 1)

/-- Where the record of block b of a sequence lies in STR_SKIP, from the byte where the sequence's first one lies. -/
def recPlace (w : Nat) (r : LenRow) (base b : Nat) : Nat :=
  (List.range b).foldl (fun n i => n + recSize (recPages (r.visible w i))) base

/-- The record of block b as ATTN_BWD reads it: its pages' bits, and its poison; none where it disagrees. -/
def Dev.skipRecord (d : Dev) (t w : Nat) (r : LenRow) (base index b : Nat) : Option (Nat × Bool) :=
  match (d.tile t).roleStream (.part 3) with
  | none => some (0, false)
  | some s =>
    let n := recPages (r.visible w b)
    let g := (d.tile t).streamBytes s (recPlace w r base b) (recSize n)
    if recNat g.bytes 0 4 = index + b ∧ recNat g.bytes 4 4 = r.kb / 64 ∧ recNat g.bytes 8 4 = n then some (leNat (g.bytes.drop 16), g.anyPoison)
    else none

/-- First record byte and first block of a sequence. -/
def Dev.recStart (d : Dev) (t w seq : Nat) : Nat × Nat :=
  (List.range seq).foldl (fun (x : Nat × Nat) i => (d.lenRow t w i).elim x fun r => (recPlace w r x.1 (r.blocks w), x.2 + r.blocks w)) (0, 0)

/-- The pages of a sequence that ATTN_BWD reads: those of some pair that no record marks skipped. -/
def bwdPages (w : Nat) (r : LenRow) (recs : List (Nat × Bool)) : List Nat :=
  (List.range (r.pages w)).filter fun j => (List.range (r.blocks w)).any fun b => r.seesPage w b j && !(recs.getD b (0, false)).1.testBit j

/-- The records of a sequence. -/
def Dev.seqRecords (d : Dev) (t w : Nat) (c : AttnCtx) (r : LenRow) : List (Option (Nat × Bool)) :=
  (List.range (r.blocks w)).map fun b => if adSkipV w then d.skipRecord t w r c.recAt c.index b else some (0, false)

/-- What the next transition of planning is. -/
inductive AttnNext where
  | wait
  | go (d : Dev)
  /-- The tile halts, with a bit of ATTN_ERR (R175, R198). -/
  | bad (f : Fld)
  /-- A ring cannot hold what must be resident at once (R113). -/
  | ring

/-- The parts of the query-side streams of ATTN_BWD for a pair. -/
def bwdOrder (w : Nat) (u : TileUnit) (c : AttnCtx) (r : LenRow) (p : AttnStep) : TileUnit :=
  let row := c.rowBase + 128 * p.qb
  let n := r.live w p.qb
  let dm := adDim w
  let part (u : TileUnit) (role : Role) : TileUnit :=
    let f := (u.roleStream role).elim 0 fun s => sdFmt s.desc
    u.order_ role [if p.pages.isEmpty then .null 0 else .src (elemBytes f (row * dm)) (elemBytes f (n * dm))]
  (part (part (part u .mov) (.part 1)) (.part 2)).order_ .aux [if p.pages.isEmpty then .null 0 else .src (512 * (c.index + p.qb)) 512]

/-! ### Computing a key block (R179) -/

/-- Rows of values: live rows from a part, the others without elements. -/
def queryRows (l : List Val) (live dm : Nat) : List (List Val) :=
  (List.range 128).map fun i => if i < live then (l.drop (i * dm)).take dm else []

/-- The keys of the pages of a step: V is dimension-major (R184). -/
def keysOf (u : TileUnit) (w staAt : Nat) (r : LenRow) (pages : List Nat) : List KeyVec :=
  let dm := adDim w
  (List.range pages.length).zip pages |>.flatMap fun (n, j) =>
    let l := u.partVals .sta (staAt + n) 0 (128 * dm)
    (List.range 64).map fun q => ⟨r.kb + 64 * j + q, (l.drop (q * dm)).take dm, (List.range dm).map fun e => l.getD (64 * dm + e * 64 + q) Val.zero⟩

/-- Poison of a block's inputs (R86, R104): rows of poisoned queries, whether a key is poisoned, poisoned value elements. -/
def rowPoison (rows : List (List Val)) : Nat :=
  (List.range 128).foldl (fun m i => if (rows.getD i []).any (·.p) then m ||| 2 ^ i else m) 0
def dimPoison (dm : Nat) (keys : List KeyVec) : Nat :=
  (List.range dm).foldl (fun m e => if keys.any fun k => (k.v.getD e Val.zero).p then m ||| 2 ^ e else m) 0

/-- All 128 rows. -/
def allRows : Nat := 2 ^ 128 - 1

/-- Scores of row i: −∞ where invisible. -/
def rowScores (w scale2 b i : Nat) (r : LenRow) (q : List Val) (keys : List KeyVec) : List Nat :=
  keys.map fun k => if r.sees w b i k.pos then scoreOf scale2 q k.k else f32NegInf

/-- Live rows of a block that carry a query. -/
def liveRows (w : Nat) (r : LenRow) (b : Nat) : List Nat :=
  (List.range (r.live w b)).filter fun i => decide ((128 * b + i) / adG w < r.qc)

/-- A key block enters the running state. -/
def Dev.attnBlock (d : Dev) (t : Nat) (x : Exec) (c : AttnCtx) (r : LenRow) (rows : List (List Val)) (keys : List KeyVec) : Dev × AttnCtx :=
  if keys.isEmpty then (d, c) else
  let w := x.desc
  let s2 := adScale2 w
  let upd := (List.range 128).map fun i =>
    softRow (odFmtSta w) (c.m.getD i 0) (c.l.getD i 0) (c.a.getD i []) (rowScores w s2 c.qb i r (rows.getD i []) keys) keys
  let rises := ((List.range 128).filter fun i =>
    let m := c.m.getD i 0
    let m' := (upd.getD i (0, 0, [])).1
    !f32IsInf m && f32Lt m m').length
  let nan := (List.range 128).any fun i => f32IsNaN (upd.getD i (0, 0, [])).1 && !f32IsNaN (c.m.getD i 0)
  let kp := keys.any fun k => k.k.any (·.p)
  let rp := c.rowP ||| rowPoison rows ||| (if kp || x.bad (c.ran - 1) then allRows else 0)
  let dp := c.dimP ||| dimPoison (adDim w) keys
  let (e, o) := d.opArgs x.op
  let d := d.count (R.ATTN_STAT_RESCALES t) rises
  let d := if nan then d.raise (R.ATTN_ERR_STAT_NAN t) 0 e o else d
  let d := if kp ∨ rowPoison rows ≠ 0 ∨ dimPoison (adDim w) keys ≠ 0 then
      ((d.raise (R.ATTN_ERR_POISON_IN t) 0 e o).raise (R.TILE_ERR_POISON_IN t) 0 e o).logError 1 4 t 0 (tileIngress t) o else d
  let live := (liveRows w r c.qb).length
  let real := (keys.filter fun k => decide (k.pos < r.kb + r.kc)).length
  let d := (d.count (R.TILE_MAC_MAC t) (2 * live * real * adDim w)).count (R.TILE_VEC_SFU_RESULTS t) (live * keys.length + rises)
  (((d.count (R.ATTN_BLOCKS_KBLOCKS t) 1).count (R.ATTN_PAGES_COMPUTED t) (keys.length / 64)),
    { c with m := upd.map (·.1), l := upd.map (·.2.1), a := upd.map (·.2.2), rowP := rp, dimP := dp })

/-- The running state that STR_STATE_IN gives a query block (R182). -/
def AttnCtx.resume (c : AttnCtx) (dm : Nat) (g : Got) : AttnCtx :=
  let at_ (o : Nat) : Nat := recNat g.bytes o 4
  let pz (o n : Nat) : Bool := ((g.poison.drop o).take n).any fun b => b
  { c with m := (List.range 128).map fun i => at_ (4 * i)
           l := (List.range 128).map fun i => at_ (512 + 4 * i)
           a := (List.range 128).map fun i => (List.range dm).map fun e => at_ (1024 + 4 * (dm * i + e))
           rowP := (List.range 128).foldl (fun m i =>
             if pz (4 * i) 4 || pz (512 + 4 * i) 4 || pz (1024 + 4 * dm * i) (4 * dm) then m ||| 2 ^ i else m) 0 }

/-! ### The end of a query block (R179, R181, R182, R194) -/

/-- o = a ÷ ℓ; zeros where nothing was visible (R181). -/
def normalise (l : Nat) (a : List Nat) : List Nat :=
  if l = 0 then a.map fun _ => 0 else let q := sfuRcp l; a.map fun v => f32Mul v q

/-- lse = m + log2 ℓ. -/
def lseOf (m l : Nat) : Nat := if l = 0 then f32NegInf else f32Add m (sfuLog2 l)

/-- A state block as bytes (Table 9.3), and its poison. -/
def stateBytes (dm : Nat) (c : AttnCtx) : List Byte × List Bool :=
  let n := stateSize dm
  (padTo n (c.m.flatMap (leBytes 4) ++ c.l.flatMap (leBytes 4) ++ c.a.flatMap fun l => l.flatMap (leBytes 4)),
   (List.range n).map fun b =>
    (if b < 1024 then c.rowP.testBit (b / 4 % 128) else c.rowP.testBit ((b - 1024) / (4 * dm)) || (decide (b < 1024 + 512 * dm) && c.dimP.testBit ((b - 1024) / 4 % dm))))

/-- Outputs of a query block whose live rows are `live`, packed from row `row0` on; block number `index`. They leave at the
end of step `step` (R97). An output without a stream is not written (R80). -/
def Dev.blockOut (d : Dev) (t : Nat) (x : Exec) (c : AttnCtx) (dm row0 live index step : Nat) (isPartial : Bool) : Dev :=
  if isPartial then ((d.tile t).roleStream .out).elim d fun o => d.putRaw t o (index * stateSize dm) (stateBytes dm c).1 (stateBytes dm c).2
  else
    let live_ := (List.range live).filter fun i => decide (c.l.getD i 0 ≠ 0)
    let d := d.count (R.TILE_VEC_SFU_RESULTS t) (live_.length * (if odAuxV x.desc then 2 else 1))
    let d := match (d.tile t).roleStream .out with
      | some o =>
        let vs := (List.range live).flatMap fun i =>
          (normalise (c.l.getD i 0) (c.a.getD i [])).zip (List.range dm) |>.map fun (v, e) => (PV.val ⟨v, c.rowP.testBit i || c.dimP.testBit e⟩)
        d.putOut t o (row0 * dm) (encode (odFmtOut x.desc) (fun i => odRound x.desc x.rank step (odFmtOut x.desc) i) (odSat x.desc) vs) false
      | none => d
    match (d.tile t).roleStream .aux with
    | some a =>
      let st := (List.range 128).map fun i => (PV.val ⟨lseOf (c.m.getD i 0) (c.l.getD i 0), c.rowP.testBit i⟩)
      d.putOut t a (128 * index) (encode 0 (fun _ => .rne) (odSat x.desc) st) false
    | none => d

/-- Bytes of an OUT stream that block `index` writes: from, to. -/
def attnOut (w : Nat) (c : AttnCtx) (r : LenRow) (role : Role) : Nat × Nat :=
  let row := c.rowBase + 128 * c.qb
  match role with
  | .out =>
    if adPartial w then (c.index * stateSize (adDim w), (c.index + 1) * stateSize (adDim w))
    else (elemBytes (odFmtOut w) (row * adDim w), elemBytes (odFmtOut w) ((row + r.live w c.qb) * adDim w))
  | .aux => if adPartial w then (0, 0) else (512 * c.index, 512 * (c.index + 1))
  | .part 3 => (c.recAt, c.recAt + recSize (recPages (r.visible w c.qb)))
  | _ => (0, 0)

/-- The buckets of an OUT stream that bytes [lo, hi) complete have left: those of a DATA channel are posted (R52); at the end of
the operation the one begun as well. -/
def Dev.outLeft (d : Dev) (t : Nat) (role : Role) (lo hi : Nat) (fin : Bool) : Dev :=
  match (d.tile t).roleStream role with
  | none => d
  | some s =>
    let bb := max 1 ((d.tile t).bucketOf s)
    let n := (if fin then ceilDiv hi bb else hi / bb) - lo / bb
    if !sdOut s.desc || n = 0 then d else match d.streamChan t s with | some c => d.post c n | none => d

/-- The query block ends: its outputs, its skip record, its streams' parts; the next one comes. -/
def Dev.attnFinish (d : Dev) (t : Nat) (x : Exec) (c : AttnCtx) (r : LenRow) : Dev :=
  let w := x.desc
  let live := r.live w c.qb
  let d := d.blockOut t x c (adDim w) (c.rowBase + 128 * c.qb) live c.index (c.ran - 1) (adPartial w)
  let n := recPages (r.visible w c.qb)
  let d := match (if adSkipV w then (d.tile t).roleStream (.part 3) else none) with
    | some s =>
      let map := c.skipped.foldl (fun m j => m ||| 2 ^ j) 0
      let bs := leBytes 4 c.index ++ leBytes 4 (r.kb / 64) ++ leBytes 4 n ++ leBytes 4 c.skipped.length ++ leBytes (16 * ceilDiv n 128) map
      d.putRaw t s c.recAt bs (bs.map fun _ => r.p)
    | none => d
  let d := (d.count (R.ATTN_BLOCKS_QBLOCKS t) 1).count (R.ATTN_SKIP_SKIPPED t) c.skipped.length
  let d := d.unpinPages t ((List.range (r.pages w)).map (· + r.kb / 64))
  let d := (d.partsDone t .mov (c.index + 1)).partsDone t (.part 2) c.sumAt
  let d := if adResume w then d.partsDone t (.part 1) (c.index + 1) else d
  let d := [Role.out, Role.aux, Role.part 3].foldl (fun (d : Dev) q => let b := attnOut w c r q; d.outLeft t q b.1 b.2 false) d
  let open_ (s : Stream) : Stream := if !s.primed && decide (s.role = .sta) then { s with withdrawn := [] } else s
  let u := d.tile t
  (d.setTile t { u with streams := u.streams.map open_ }).setAttn t
    { c with qb := c.qb + 1, index := c.index + 1, phase := 0, todo := [], recAt := c.recAt + recSize n }

/-! ### Decisions (R188–R191) -/

/-- The summary of a candidate: centroid, radius, poison. -/
def Dev.summaryOf (d : Dev) (t w : Nat) (r : LenRow) (j place : Nat) : List Fp × Nat × Bool :=
  let g : Got := if d.attnWalk t then
      match ((d.tile t).roleStream .sta).bind fun s => s.trans.find? fun z => z.1 = r.kb / 64 + j with
      | some (_, f, _) => ⟨d.peek (d.summaryAt f) 256, [d.poisonedAt (d.summaryAt f) 256]⟩
      | none => ⟨[], [true]⟩
    else ((d.tile t).roleStream (.part 2)).elim ⟨[], [true]⟩ fun s => (d.tile t).streamBytes s place 256
  ((List.range (adDim w)).map fun i => fpDec fmtE4m3 (recNat g.bytes i 1), recNat g.bytes 252 4, g.anyPoison)

/-- The bounds of a page for the rows asked. -/
def Dev.pageBounds (d : Dev) (t : Nat) (x : Exec) (r : LenRow) (rows : List (List Val)) (live : List Nat) (j place : Nat) : List (Nat × Nat) :=
  let (cen, rad, _) := d.summaryOf t x.desc r j place
  live.map fun i => (i, boundOf (adScale2 x.desc) ((rows.getD i []).map (·.x)) cen rad)

/-- m − τ2 as an exact value. -/
def lessTau (m tau2 : Nat) : Fp := fpAdd (f32Dec m) (fpNeg (f32Dec tau2))

/-- Steps for pages, in ascending order, paired. -/
def stepsFor (qb : Nat) (ps : List Nat) : List AttnStep := (pairs ps).map fun l => ⟨qb, l, l, true, true⟩

/-- The query rows of the block in work. -/
def Dev.queryBlock (d : Dev) (t w : Nat) (c : AttnCtx) (r : LenRow) : List (List Val) :=
  let live := r.live w c.qb
  queryRows ((d.tile t).partVals .mov c.index 0 (live * adDim w)) live (adDim w)

/-- BOUND: P, and which candidates are skipped (R190); the main pass is ordered. A poisoned summary makes no candidate (R188). -/
def Dev.attnDecide (d : Dev) (t : Nat) (x : Exec) (c : AttnCtx) (r : LenRow) : Dev :=
  let w := x.desc
  let rows := d.queryBlock t w c r
  let vis := r.visible w c.qb
  let live := liveRows w r c.qb
  let on := d.skipOn t w r
  let inj := on && d.flag (R.ATTN_INJECT_MISPREDICT t) && d.testEnable
  let pis := live.map fun i => c.prev.getD i f32NegInf
  let p := if inj then f32PosInf
    else if adMin w then pis.drop 1 |>.foldl f32Min (pis.headD f32NegInf) else pis.foldl f32Max f32NegInf
  let d := if inj then d.set (R.ATTN_INJECT_MISPREDICT t) 0 else d
  let (bad, good) := c.cands.partition fun z => (d.summaryOf t w r z.1 z.2).2.2
  let (e, o) := d.opArgs x.op
  let d := if bad.isEmpty then d else d.raise (R.ATTN_ERR_SUMMARY_POISON t) 0 e o
  let d := d.count (R.ATTN_SKIP_CANDIDATES t) good.length
  let lim := lessTau p (adTau2 w)
  let skip := (good.filter fun z =>
    let b := (d.pageBounds t x r rows live z.1 z.2).map (·.2)
    !b.any f32IsNaN && fpLt (f32Dec (b.foldl f32Max f32NegInf)) lim).map (·.1)
  let main := (attnShare w x.rank vis).filter fun j => !(previewPages vis).contains j && !skip.contains j
  let u := (d.tile t).order_ .sta (main.map fun j => d.pagePart t w c r j)
  (d.setTile t u).setAttn t { c with pred := p, cands := good, skipped := skip, todo := stepsFor c.qb main, phase := if main.isEmpty then 4 else 3 }

/-- CHECK: the unconfirmed rows, and the skipped pages that fail (R191), which are ordered for the recovery pass. -/
def Dev.attnCheck (d : Dev) (t : Nat) (x : Exec) (c : AttnCtx) (r : LenRow) : Dev :=
  let w := x.desc
  let rows := d.queryBlock t w c r
  let live := liveRows w r c.qb
  let final (i : Nat) : Nat := f32Max (c.m.getD i f32NegInf) (c.prev.getD i f32NegInf)
  let unconf := if d.flag (R.ATTN_CTL_CHECK_ALL t) then live
    else if adMin w then [] else live.filter fun i => f32Lt (final i) c.pred
  if unconf.isEmpty then d.setAttn t { c with phase := 6 }
  else
    let mins := live.map final
    let d := ((d.count (R.ATTN_RECOVER_CHECKED t) 1).set (R.ATTN_LAST_PRED t) c.pred).set (R.ATTN_LAST_MIN_FINAL t)
      (mins.drop 1 |>.foldl f32Min (mins.headD 0))
    let inj := d.flag (R.ATTN_INJECT_FORCE_RECOVER t) && d.testEnable
    let d := if inj then d.set (R.ATTN_INJECT_FORCE_RECOVER t) 0 else d
    let fails := c.skipped.filter fun j =>
      inj || (d.pageBounds t x r rows unconf j (((c.cands.find? fun z => z.1 = j).map (·.2)).getD 0)).any fun b =>
        !f32IsNaN b.2 && !f32IsNaN (final b.1) && !fpLt (f32Dec b.2) (lessTau (final b.1) (adTau2 w))
    let u := (d.tile t).order_ .sta (fails.map fun j => d.pagePart t w c r j)
    let d := d.setTile t u
    -- a confirmed skip is unpinned when the check ends (R192)
    let kept := c.skipped.filter fun j => !fails.contains j
    let d := d.unpinPages t (kept.map (· + r.kb / 64))
    (d.count (R.ATTN_RECOVER_RECOVERED t) fails.length).setAttn t
      { c with skipped := kept, todo := stepsFor c.qb fails, phase := if fails.isEmpty then 6 else 5 }

/-! ### Phases (R175, R190, R197, R198) -/

/-- The sequence after the one in work. -/
def AttnCtx.next (c : AttnCtx) (w : Nat) (r : LenRow) : AttnCtx :=
  { c with seq := c.seq + 1, qb := 0, rowBase := c.rowBase + r.rows w, pageBase := c.pageBase + r.pages w, phase := 0 }

/-- R198: the skip records of the next sequence are checked; its part of STR_LEN has then been read. -/
def Dev.attnRecords (d : Dev) (t w : Nat) (c : AttnCtx) : AttnNext :=
  match d.lenRow t w c.checked with
  | none => .wait
  | some r =>
    if d.lenBad t w r then .bad (R.ATTN_ERR_LEN_RANGE t) else
    let (a, i) := d.recStart t w c.checked
    let n := ceilDiv (recPlace w r a (r.blocks w)) 2048
    match (d.tile t).roleStream (.part 3) with
    | none => .go (d.setAttn t { c with checked := c.checked + 1 })
    | some s =>
      if s.ringCap (sdFmt s.desc) (sdRingLen s.desc) < min n (d.bucketCount (d.tile t) s) then .ring
      else if !d.prefixReady t s n then .wait
      else if (List.range (r.blocks w)).any fun b => (d.skipRecord t w r a i b).isNone then .bad (R.ATTN_ERR_SKIPREC t)
      else .go ((d.lenFree t w (c.checked + 1)).setAttn t { c with checked := c.checked + 1 })

/-- ATTN_BWD: a sequence begins, its pairs are ordered, it ends. -/
def Dev.bwdNext (d : Dev) (t : Nat) (x : Exec) (c : AttnCtx) (r : LenRow) : AttnNext :=
  let w := x.desc
  let recs := (d.seqRecords t w c r).map fun z => z.getD (0, false)
  if c.qb ≠ 0 then
    let d := d.unpinPages t ((List.range (r.pages w)).map (· + r.kb / 64))
    .go (((d.lenFree t w (c.seq + 1)).count (R.ATTN_BLOCKS_QBLOCKS t) (r.blocks w)).setAttn t
      { c.next w r with index := c.index + r.blocks w, recAt := recPlace w r c.recAt (r.blocks w) })
  else if c.phase = 0 then
    let hidden := (List.range (r.blocks w)).foldl (fun n b => n + (r.pages w - (r.visible w b).length)) 0
    .go (((d.walkWant t x r (bwdPages w r recs)).count (R.ATTN_PAGES_MASK_SKIPPED t) hidden).setAttn t { c with phase := 7 })
  else if !d.walked t then .wait
  else
    let ps := bwdPairs w r fun b j => (recs.getD b (0, false)).1.testBit j
    let u := ps.foldl (fun u p => (bwdOrder w u c r p).order_ .sta (p.pages.map fun j => d.pagePart t w c r j)) (d.tile t)
    .go ((d.setTile t u).setAttn t { c with todo := ps, qb := 1 })

/-- ATTN_FWD and ATTN_DECODE: the next phase of the query block in work. -/
def Dev.fwdNext (d : Dev) (t : Nat) (x : Exec) (c : AttnCtx) (r : LenRow) : AttnNext :=
  let w := x.desc
  if r.blocks w ≤ c.qb then .go ((d.lenFree t w (c.seq + 1)).setAttn t (c.next w r))
  else match c.phase with
    | 0 => .go (d.attnBegin t x c r)
    | 1 => if d.walked t then .go (d.attnPreview t x c r) else .wait
    | 2 => .go (d.attnDecide t x c r)
    | 4 => .go (d.attnCheck t x c r)
    | _ => .go (d.attnFinish t x c r)

/-- The operation's last block has ended: what its streams have begun leaves. -/
def Dev.attnEnd (d : Dev) (t w : Nat) (c : AttnCtx) : Dev :=
  let d := if odClass w = 0x11 then d else
    ([(Role.out, if adPartial w then c.index * stateSize (adDim w) else elemBytes (odFmtOut w) (c.rowBase * adDim w)),
      (Role.aux, if adPartial w then 0 else 512 * c.index), (Role.part 3, c.recAt)]).foldl
      (fun (d : Dev) z => d.outLeft t z.1 (z.2 / 2048 * 2048) z.2 true) d
  d.setAttn t { c with fin := true, phase := 0 }

/-- Planning moves on by one transition, where its inputs allow. -/
def Dev.attnNext (d : Dev) (t : Nat) (x : Exec) : AttnNext :=
  let w := x.desc
  let c := (d.tile t).attn
  if c.fin ∨ !c.todo.isEmpty then .wait
  else if odClass w = 0x11 ∧ adSkipV w ∧ c.checked < adSeqs w then d.attnRecords t w c
  else if adSeqs w ≤ c.seq then .go (d.attnEnd t w c)
  else match d.lenRow t w c.seq with
    | none => .wait
    | some r =>
      if d.lenBad t w r then .bad (R.ATTN_ERR_LEN_RANGE t)
      else if odClass w = 0x11 then d.bwdNext t x c r
      else d.fwdNext t x c r

/-- Planning as far as it may go; the answer says that the tile halts: with a bit of ATTN_ERR, or a ring too small. -/
def Dev.attnPlan (d : Dev) (t : Nat) (x : Exec) : Nat → Dev × Option (Option Fld)
  | 0 => (d, none)
  | n + 1 =>
    match d.attnNext t x with
    | .wait => (d, none)
    | .bad f => (d, some (some f))
    | .ring => (d, some none)
    | .go d => d.attnPlan t x n

/-! ### What a step needs (R72, R73, R118) -/

/-- The IN streams that the next step reads, in the order of R73, with how many parts of each; a list that has no order is looked
at for PRIME only. -/
def attnNeeds (w : Nat) (c : AttnCtx) (p : AttnStep) : List (Role × Nat) :=
  if odClass w = 0x11 then
    [(.mov, c.ran + 1), (.sta, c.staAt + p.pages.length), (.aux, c.ran + 1), (.part 1, c.ran + 1), (.part 2, c.ran + 1), (.part 3, 0), (.part 0, 0)]
  else [(.mov, c.index + 1), (.sta, c.staAt + p.pages.length), (.part 1, if adResume w then c.index + 1 else 0), (.part 2, c.sumAt), (.part 0, 0)]

/-- The OUT streams that the next step may write, with the bytes. A step that may be the last of its query block reserves the
block's output. -/
def attnWrites (w : Nat) (c : AttnCtx) (r : LenRow) (p : AttnStep) : List (Role × Nat × Nat) :=
  let dm := adDim w
  if odClass w = 0x11 then
    let row := c.rowBase + 128 * p.qb
    (if p.pages.isEmpty then [] else [(Role.out, 4 * row * dm, 4 * (row + r.live w p.qb) * dm)]) ++
      (if p.last then [(Role.part 4, 0, p.block.length * 128 * dm)] else [])
  else if c.todo.length ≤ 1 then [Role.out, .aux, .part 3].map fun q => (q, attnOut w c r q)
  else []

/-- Buckets of an IN stream that must be resident for k parts of it. -/
def Dev.attnNeed (d : Dev) (t : Nat) (s : Stream) (first : Bool) (k : Nat) : Nat :=
  let u := d.tile t
  let n := s.partAt k / 2048
  if first then max n (min (s.primeCap (u.dataFmt s) (sdPrime s.desc)) (d.bucketCount u s)) else n

/-- The step in front, with its sequence's row. -/
def Dev.attnFront (d : Dev) (t w : Nat) : Option (AttnCtx × AttnStep × LenRow) :=
  let c := (d.tile t).attn
  match c.todo, d.lenRow t w c.seq with
  | p :: _, some r => some (c, p, r)
  | _, _ => none

/-- The first stream that keeps the step in front from issuing, with the cause (R73); none where it may issue. -/
def Dev.attnWaits (d : Dev) (t : Nat) (x : Exec) : Option (Option Stream × Nat) :=
  match d.attnFront t x.desc with
  | none =>
    let s := (d.tile t).roleStream (if (d.lenRow t x.desc (d.tile t).attn.seq).isNone then .part 0 else .sta)
    some (s, s.elim 0 fun s => d.stallCause t s 1)
  | some (c, p, r) =>
    let ins := (attnNeeds x.desc c p).findSome? fun z =>
      match (d.tile t).roleStream z.1 with
      | none => none
      | some s =>
        if sdOut s.desc then none else
        let n := d.attnNeed t s (decide (x.step = 0)) z.2
        let full := (d.streamChan t s).elim true fun ch => decide (s.partAt z.2 / 2048 ≤ d.tokens ch + s.gone)
        if d.prefixReady t s n && full then none else some (some s, d.stallCause t s n)
    ins.orElse fun _ => (attnWrites x.desc c r p).findSome? fun z =>
      match (d.tile t).roleStream z.1 with
      | none => none
      | some s =>
        let bb := max 1 ((d.tile t).bucketOf s)
        if d.outFits t s (ceilDiv z.2.2 bb) (z.2.1 / bb) && !d.mcHeld t s then none else some (some s, 1)

/-- R113, last case: the step in front needs more buckets of a stream than its ring holds. -/
def Dev.attnShort (d : Dev) (t : Nat) (x : Exec) : Bool :=
  (d.attnFront t x.desc).elim false fun z =>
    let u := d.tile t
    let cap (s : Stream) : Nat := s.ringCap (u.dataFmt s) (sdRingLen s.desc)
    ((attnNeeds x.desc z.1 z.2.1).any fun q => (u.roleStream q.1).elim false fun s => decide (s.gone + cap s < s.partAt q.2 / 2048)) ||
    (attnWrites x.desc z.1 z.2.2 z.2.1).any fun q => (u.roleStream q.1).elim false fun s =>
      let bb := max 1 (u.bucketOf s)
      decide (q.2.1 / bb + cap s < ceilDiv q.2.2 bb)

/-- R87: the cistern bytes that the step in front reads or has reserved. -/
def Dev.attnHolds (d : Dev) (t : Nat) (x : Exec) : List (Nat × Nat × Nat) :=
  (d.attnFront t x.desc).elim [] fun z =>
    let u := d.tile t
    let frames (s : Stream) (lo hi : Nat) : List (Nat × Nat × Nat) :=
      (List.range (hi - lo)).map fun i => let f := ringFrame s (u.ringOf s) (u.dataFmt s) (lo + i) * 2048; (x.step, f, f + 2048)
    ((attnNeeds x.desc z.1 z.2.1).flatMap fun q => (u.roleStream q.1).elim [] fun s => if sdOut s.desc then [] else frames s s.gone (s.partAt q.2 / 2048)) ++
    (attnWrites x.desc z.1 z.2.2 z.2.1).flatMap fun q => (u.roleStream q.1).elim [] fun s =>
      let bb := max 1 (u.bucketOf s)
      frames s (q.2.1 / bb) (ceilDiv q.2.2 bb)

/-! ### A step of ATTN_FWD or ATTN_DECODE -/

def Dev.fwdStep (d : Dev) (t : Nat) (x : Exec) (c : AttnCtx) (p : AttnStep) (r : LenRow) : Dev :=
  let w := x.desc
  let u := d.tile t
  let rows := d.queryBlock t w c r
  let keys := keysOf u w c.staAt r p.pages
  let todo := c.todo.tail
  let phase := if c.phase = 1 then 2 else if !todo.isEmpty then c.phase else if c.phase = 3 then 4 else 6
  let first := decide (c.phase = 1)
  let c := { c with todo := todo, staAt := c.staAt + p.pages.length, ran := c.ran + 1, phase := phase }
  let c := if first && adResume w then
      let z := c.resume (adDim w) (u.partBytes (.part 1) c.index (1024 + 512 * adDim w))
      { z with rowP := z.rowP ||| c.rowP }
    else c
  let mine := attnShare w x.rank (r.visible w c.qb)
  let c := if first then
      { c with prev := (List.range 128).map fun i => (rowScores w (adScale2 w) c.qb i r (rows.getD i []) keys).foldl f32Max f32NegInf }
    else c
  let own := keys.filter fun k => mine.contains ((k.pos - r.kb) / 64)
  let (d, c) := d.attnBlock t x c r rows own
  let d := d.partsDone t .sta c.staAt
  let d := d.unpinPages t (p.pages.map (· + r.kb / 64))
  ((d.setAttn t c).stepEnd t c.ran).refreshPump t

/-! ### Backward (R197) -/

/-- A step of ATTN_BWD: one pair. -/
def Dev.bwdStep (d : Dev) (t : Nat) (x : Exec) (c : AttnCtx) (p : AttnStep) (r : LenRow) : Dev :=
  let w := x.desc
  let u := d.tile t
  let dm := adDim w
  let live := r.live w p.qb
  let k := c.ran
  let q := queryRows (u.partVals .mov k 0 (live * dm)) live dm
  let dO := queryRows (u.partVals (.part 1) k 0 (live * dm)) live dm
  let oo := queryRows (u.partVals (.part 2) k 0 (live * dm)) live dm
  let lse := (u.partVals .aux k 0 128).map Val.f32
  let keys := keysOf u w c.staAt r p.pages
  let z : PV := ⟨0, false⟩
  -- Δ of each row
  let delta := (List.range 128).map fun i => dotOf (dO.getD i []) (oo.getD i [])
  let s2 := adScale2 w
  let cell (i : Nat) (kv : KeyVec) : Nat × Nat :=
    if !r.sees w p.qb i kv.pos || (lse.getD i z).v = f32NegInf then (0, 0) else
    let s := scoreOf s2 (q.getD i []) kv.k
    if s = f32NegInf then (0, 0) else
    let pr := exp2Diff s (lse.getD i z).v
    let dp := dotOf (dO.getD i []) kv.v
    (pr, f32Mul (f32Mul pr (f32Sub dp (delta.getD i 0))) (adScale w))
  let tab := (List.range 128).map fun i => keys.map (cell i)
  let conv (v : Nat) : Val := ⟨probConv (odFmtSta w) (odSat w) v, false⟩
  let pc (i n : Nat) : Val := conv ((tab.getD i []).getD n (0, 0)).1
  let dc (i n : Nat) : Val := conv ((tab.getD i []).getD n (0, 0)).2
  -- a poisoned length row, or a poisoned record of the block, poisons all its rows
  let lost := r.p || (adSkipV w && (d.skipRecord t w r c.recAt c.index p.qb).elim false (·.2))
  let rp := (if lost then 2 ^ 128 - 1 else 0) ||| rowPoison q ||| rowPoison dO ||| rowPoison oo ||| ((List.range 128).foldl (fun m i => if (lse.getD i z).p && decide (i < live) then m ||| 2 ^ i else m) 0)
  let kpz := keys.map fun kv => kv.k.any (·.p) || kv.v.any (·.p) || x.bad k
  -- the gradients of the key block's keys accumulate in FP32, by the key's place in the block
  let nk := keys.length
  let at_ (n : Nat) : Option Nat := (List.range nk).find? fun m => decide ((p.pages.getD (m / 64) 0) = p.block.getD (n / 64) 0) && decide (m % 64 = n % 64)
  let col (m : Nat → Nat → Val) (n : Nat) (rows : List (List Val)) (base : List Nat) : List Nat :=
    (List.range dm).map fun e => accRow (base.getD e 0) ((List.range live).map fun i => m i n) ((List.range live).map fun i => (rows.getD i []).getD e Val.zero)
  let grow (l : List (List Nat)) (m : Nat → Nat → Val) (rows : List (List Val)) : List (List Nat) :=
    (List.range (64 * p.block.length)).map fun n =>
      let base := if p.first then List.replicate dm 0 else l.getD n (List.replicate dm 0)
      match at_ n with | some k => col m k rows base | none => base
  let dv := grow c.dv pc dO
  let dk := grow c.dk dc q
  let keyP := (List.range (64 * p.block.length)).foldl (fun m n =>
    if (at_ n).any fun k => kpz.getD k false || rp ≠ 0 then m ||| 2 ^ n else m)
    (if !p.first then c.keyP else if r.p || (d.seqRecords t w c r).any fun z => z.elim false (·.2) then 2 ^ 128 - 1 else 0)
  -- dQ contributions leave through OUT
  let anyK := kpz.any fun b => b
  let dq := (List.range live).flatMap fun i => (List.range dm).map fun e =>
    (PV.val ⟨accRow 0 ((List.range nk).map fun n => dc i n) (keys.map fun kv => kv.k.getD e Val.zero), rp.testBit i || anyK⟩)
  let (e, o) := d.opArgs x.op
  let d := if rp ≠ 0 ∨ anyK then
      ((d.raise (R.ATTN_ERR_POISON_IN t) 0 e o).raise (R.TILE_ERR_POISON_IN t) 0 e o).logError 1 4 t 0 (tileIngress t) o else d
  let d := match (if p.pages.isEmpty then none else (d.tile t).roleStream .out) with
    | some os => d.putOut t os ((c.rowBase + 128 * p.qb) * dm) (encode 0 (fun _ => .rne) (odSat w) dq) false
    | none => d
  let d := match (if p.last then (d.tile t).roleStream (.part 4) else none) with
    | some ks =>
      let f := sdFmt ks.desc
      (List.range p.block.length).zip p.block |>.foldl (fun (d : Dev) z =>
        let (n, j) := z
        let el (l : List (List Nat)) (q e : Nat) : Val := (PV.val ⟨(l.getD (64 * n + q) []).getD e 0, keyP.testBit (64 * n + q)⟩)
        let vs := (List.range 64).flatMap (fun q => (List.range dm).map fun e => el dk q e) ++
          (List.range dm).flatMap fun e => (List.range 64).map fun q => el dv q e
        let e := (c.pageBase + j) * 128 * dm
        (d.putOut t ks e (encode f (fun i => odRound w x.rank k f i) (odSat w) vs) false).outLeft t (.part 4) (elemBytes f e) (elemBytes f (e + 128 * dm)) false) d
    | none => d
  let c := { c with todo := c.todo.tail, staAt := c.staAt + p.pages.length, ran := c.ran + 1, dk := dk, dv := dv, keyP := keyP }
  let d := [Role.mov, .part 1, .part 2, .aux].foldl (fun (d : Dev) q => d.partsDone t q c.ran) (d.partsDone t .sta c.staAt)
  let real := (keys.filter fun kv => decide (kv.pos < r.kb + r.kc)).length
  let rows := (liveRows w r p.qb).length
  let d := if p.pages.isEmpty then d else
    ((((d.count (R.ATTN_BLOCKS_KBLOCKS t) 1).count (R.ATTN_PAGES_COMPUTED t) p.pages.length).count (R.TILE_MAC_MAC t) (5 * rows * real * dm)).count
      (R.TILE_VEC_SFU_RESULTS t) (rows * keys.length))
  let d := if p.last then d.unpinPages t (p.block.map (· + r.kb / 64)) else d
  ((d.setAttn t c).stepEnd t c.ran).refreshPump t

/-! ### The rows of the classes -/

/-- The step that was issued is computed; where none is, the engine goes on with its next phase. After the operation's last step
its results are complete. -/
def Dev.attnRun (d : Dev) (t cls : Nat) : Dev :=
  match (d.tile t).exec with
  | none => d
  | some x =>
    if odClass x.desc ≠ cls ∨ x.done then d else
    let d := if (d.tile t).attn.ran < x.step then
        match d.attnFront t x.desc with
        | none => d
        | some (c, p, r) => if cls = 0x11 then d.bwdStep t x c p r else d.fwdStep t x c p r
      else if x.halted then d
      else (match d.attnNext t x with | .go d => d | _ => d)
    let u := d.tile t
    if u.attn.fin ∧ u.attn.ran = x.step ∧ !x.halted then
      ((d.setTile t { u with exec := u.exec.map fun (y : Exec) => { y with done := true, planned := true, steps := y.step } }).set
        (R.TILE_STATUS_EXEC_STATE t) 3).refreshPump t
    else d

def execAttnFwd (t : Nat) (s : State) : Host.Outcome State Fault Refusal := run s fun d => d.attnRun t 0x10
def execAttnBwd (t : Nat) (s : State) : Host.Outcome State Fault Refusal := run s fun d => d.attnRun t 0x11
def execAttnDecode (t : Nat) (s : State) : Host.Outcome State Fault Refusal := run s fun d => d.attnRun t 0x12

/-! ### ATTN_MERGE (R183, R199) -/

def amParts (w : Nat) : Nat := bits w 135 128
def amRows (w : Nat) : Nat := bits w 167 136
def amPartial (w : Nat) : Bool := bitAt w 168
def amDim (w : Nat) : Nat := if bitAt w 169 then 64 else 128
def amBlock (w : Nat) : Nat := if amDim w = 128 then 67584 else 34816

def mergeFault (w : Nat) : Option Nat :=
  if odFmtBad w ∨ bits w 511 170 ≠ 0 ∨ amParts w = 0 ∨ amRows w = 0 ∨ odFmtMov w ≠ 0 ∨ (odAuxV w ∧ odFmtAux w ≠ 0) ∨
      (amPartial w ∧ odFmtOut w ≠ 0) then some 1 else none

/-- One query block a step: state blocks or rows to OUT, statistics to AUX. -/
def mergeSteps (w : Nat) : Steps :=
  let upTo (r : Role) (s : Nat) : Nat := match r with
    | .mov => (s + 1) * amParts w * amBlock w
    | _ => 0
  ⟨ceilDiv (amRows w) 128, true, upTo, upTo, fun r s => match r with
    | .out => if amPartial w then (s + 1) * amBlock w else elemBytes (odFmtOut w) (min (amRows w) (128 * (s + 1)) * amDim w)
    | .aux => if amPartial w then 0 else 512 * (s + 1)
    | _ => 0⟩

/-- R183: partials of one row, with their poison. -/
def mergeRow (dm : Nat) (ps : List (Nat × Nat × List Nat × Bool)) : Nat × Nat × List Nat × Bool :=
  let live := ps.filter fun x => x.2.1 % 2 ^ 31 ≠ 0
  let pz := ps.any (·.2.2.2)
  if live.isEmpty then (f32NegInf, 0, List.replicate dm 0, pz)
  else
    let m := live.foldl (fun a x => f32Max a x.1) f32NegInf
    let f (x : Nat × Nat × List Nat × Bool) : Nat := rescale x.1 m
    let l := live.foldl (fun a x => f32Add a (f32Mul x.2.1 (f x))) 0
    (m, l, (List.range dm).map fun e => live.foldl (fun a x => f32Add a (f32Mul (x.2.2.1.getD e 0) (f x))) 0, pz)

/-- One query block. -/
def Dev.mergeBlock (d : Dev) (t : Nat) (x : Exec) (b : Nat) : Dev :=
  let w := x.desc
  let u := d.tile t
  let dm := amDim w
  let get (o n : Nat) : Got := (u.roleStream .mov).elim ⟨List.replicate n 0, List.replicate n false⟩ fun s => u.streamBytes s o n
  let parts := (List.range (amParts w)).map fun k => AttnCtx.idle.resume dm (get ((b * amParts w + k) * amBlock w) (1024 + 512 * dm))
  let rows := (List.range 128).map fun i =>
    mergeRow dm (parts.map fun c => (c.m.getD i 0, c.l.getD i 0, c.a.getD i [], c.rowP.testBit i))
  let empty := (List.range 128).foldl (fun n i => n + (parts.filter fun c => c.l.getD i 0 % 2 ^ 31 = 0).length) 0
  let c := { AttnCtx.idle with
    m := rows.map (·.1), l := rows.map (·.2.1), a := rows.map (·.2.2.1)
    rowP := (List.range 128).foldl (fun m i => if (rows.getD i (0, 0, [], false)).2.2.2 || x.bad b then m ||| 2 ^ i else m) 0 }
  let d := if rows.any (·.2.2.2) then
      let (e, o) := d.opArgs x.op
      (d.raise (R.TILE_ERR_POISON_IN t) 0 e o).logError 1 4 t 0 (tileIngress t) o
    else d
  let d := ((d.count (R.ATTN_MERGE_PARTIALS t) (amParts w)).count (R.ATTN_STAT_EMPTY_PARTIALS t) empty).count (R.TILE_VEC_SFU_RESULTS t)
    (128 * amParts w - empty)
  let d := (d.set (R.ATTN_STATUS_PHASE t) 8).set (R.ATTN_STATUS_QBLOCK t) b
  (d.blockOut t x c dm (128 * b) (min 128 (amRows w - 128 * b)) b b (amPartial w)).count (R.ATTN_BLOCKS_QBLOCKS t) 1

/-- ATTN_MERGE: the steps issued end. -/
def Dev.mergeRun (d : Dev) (t : Nat) : Dev :=
  let d := d.classRun t 0x13 (fun _ x => mergeSteps x.desc) fun d x s => d.mergeBlock t x s
  if (d.tile t).exec.elim false fun x => odClass x.desc = 0x13 && x.done then d.set (R.ATTN_STATUS_PHASE t) 0 else d

def execAttnMerge (t : Nat) (s : State) : Host.Outcome State Fault Refusal := run s fun d => d.mergeRun t

/-! ### Injection (R201) -/

/-- A store to ATTN_INJECT. -/
def Dev.attnInjectWrite (d : Dev) (t v : Nat) : Dev :=
  if d.testEnable then (d.set (R.ATTN_INJECT_MISPREDICT t) (v / 2 % 2)).set (R.ATTN_INJECT_FORCE_RECOVER t) (v % 2) else d

end Sys2Proof.Machine
end

