-- ==== Sys2Proof/Machine/Telemetry.lean ====
section
/-!
DEFINITION. The telemetry ring (R360). The records of a boundary (R361–R365) are in Boundary.lean.
-/

namespace Sys2Proof.Machine

/-- A record's fields as little-endian bytes: size and value. -/
def fields (l : List (Nat × Nat)) : List Byte := l.flatMap fun x => leBytes x.1 x.2

/-- R360, R362: a record goes to the telemetry ring. `beat` is the beat it describes. -/
def Dev.telPut (d : Dev) (type unit beat : Nat) (body : List Byte) : Dev :=
  let lose (d : Dev) (f : Fld) : Dev := { d.bump f 1 with tel := { d.tel with lost := d.tel.lost + 1 } }
  if d.force R.TEL_CTL_ENABLE = 0 ∨ d.get R.PWR_STATE_DEV_STATE = 5 then d
  else if d.flag R.TEL_STATUS_NO_RING then (if type = 8 then lose d R.TEL_LOST_DISCARDED else d)
  else
    let size := d.get R.TEL_RING_SIZE_RECORDS
    let prod := d.get R.TEL_RING_PTR_PROD
    let full := decide (sub32 prod (d.get R.TEL_RING_PTR_CONS) = size)
    if size = 0 then d
    else if full && decide (d.force R.TEL_CTL_FULL_POLICY = 0) then lose d R.TEL_LOST_DISCARDED
    else
      let d := (d.memWrite 63 (d.get R.TEL_RING_BASE + 64 * (prod % size)) (padTo 64 (d.recHeader type unit prod beat ++ body)) fun _ => false).1
      let d := if full then lose (d.set R.TEL_RING_PTR_CONS (sub32 (prod + 1) size)) R.TEL_LOST_OVERWRITTEN else d
      d.set R.TEL_RING_PTR_PROD ((prod + 1) % 2 ^ 32)

end Sys2Proof.Machine
end

