-- ==== Sys2Proof/Machine/Vector.lean ====
section
/-!
DEFINITION. The vector classes REDUCE_LOCAL, CONVERT and COPY_GATHER (R83), and programs of update instructions: their
checks (R264, R269), loads and stores, and what each instruction does (R265–R268, R270). What starts a program and what
ends a tensor is in Program.lean.
-/

namespace Sys2Proof.Machine

/-! ### Local vector and pump classes (Table 4.6) -/

/-- Elements of an output bucket. -/
def perBucket (fmt : Nat) : Nat := mxE fmt * 8 / codeWidth fmt

def vdCount (w : Nat) : Nat := bits w 175 144
def vdSources (w : Nat) : Nat := bits w 131 128
def vdBuckets (w : Nat) : Nat := bits w 159 128
def vdProg (w : Nat) : Nat := bits w 135 128
def vdStepVec (w : Nat) : Nat := bits w 191 176

/-- R83: what is wrong with a REDUCE_LOCAL, CONVERT or COPY_GATHER descriptor. SOURCES 0 names 16 vectors in 4 bits. -/
def localFault (w : Nat) : Option Nat :=
  let c := odClass w
  let badReserved : Bool := match c with
    | 0x31 => bits w 511 176 ≠ 0 || bits w 143 132 ≠ 0
    | 0x40 => bits w 511 176 ≠ 0 || bits w 143 128 ≠ 0
    | _ => bits w 511 160 ≠ 0
  let empty : Bool := if c = 0x41 then vdBuckets w = 0 else vdCount w = 0
  if badReserved ∨ empty ∨ !odMovV w ∨ !odOutV w ∨ odFmtBad w ∨ (c = 0x41 ∧ odFmtMov w ≠ odFmtOut w) ∨
      (c = 0x31 ∧ odAccIn w ∧ !odAuxV w) then some 1 else none

def vdSourceCount (w : Nat) : Nat := if vdSources w = 0 then 16 else vdSources w

/-- Their steps: one output bucket each, or one bucket copied; the sources of REDUCE_LOCAL follow one another on MOV. -/
def localSteps (w : Nat) : Steps :=
  let c := odClass w
  let per := perBucket (odFmtOut w)
  let n := vdCount w
  let upTo (s : Nat) : Nat := min n (per * (s + 1))
  let srcs := if c = 0x31 then vdSourceCount w else 1
  { count := if c = 0x41 then vdBuckets w else ceilDiv n per, final := true
    need := fun r s => match r with
      | .mov => if c = 0x41 then mxE (odFmtMov w) * (s + 1) else elemBytes (odFmtMov w) ((srcs - 1) * n + upTo s)
      | .aux => if c = 0x31 ∧ odAccIn w then elemBytes (odFmtAux w) (upTo s) else 0
      | _ => 0
    done := fun r s => match r with
      | .mov => if c = 0x41 then mxE (odFmtMov w) * (s + 1) else if srcs = 1 then elemBytes (odFmtMov w) (upTo s)
          else elemBytes (odFmtMov w) (if upTo s = n then srcs * n else upTo s)
      | .aux => elemBytes (odFmtAux w) (upTo s)
      | _ => 0
    outs := fun r s => match r with
      | .out => if c = 0x41 then mxE (odFmtOut w) * (s + 1) else elemBytes (odFmtOut w) (upTo s)
      | _ => 0 }

/-- The elements of the bucket that step b writes: the first, and how many. -/
def bucketRange (w b : Nat) : Nat × Nat := (b * perBucket (odFmtOut w), min (perBucket (odFmtOut w)) (vdCount w - b * perBucket (odFmtOut w)))

/-- Step b of a class with one result for each element: the results leave. -/
def Dev.bucketOut (d : Dev) (t : Nat) (x : Exec) (b : Nat) (vs : List Val) : Dev :=
  let w := x.desc
  match (d.tile t).roleStream .out with
  | some o => d.putOut t o (bucketRange w b).1
      (encode (odFmtOut w) (fun i => odRound w x.rank b (odFmtOut w) i) (odSat w) (vs.map (x.taint b))) false
  | none => d

/-- REDUCE_LOCAL: the sources are added in FP32 in source order, one rounding per addition; AUX is one more addend. -/
def Dev.reduceStep (d : Dev) (t : Nat) (x : Exec) (b : Nat) : Dev :=
  let w := x.desc
  let (e, k) := bucketRange w b
  let srcs := (List.range (vdSourceCount w)).map fun s => (d.roleVals t .mov (s * vdCount w + e) k).map Val.f32
  let srcs := if odAccIn w then srcs ++ [(d.roleVals t .aux e k).map Val.f32] else srcs
  let sum := srcs.drop 1 |>.foldl (fun (acc : List PV) l => (acc.zip l).map fun (a, b) => ⟨f32Add a.v b.v, a.p || b.p⟩) (srcs.headD [])
  d.bucketOut t x b (sum.map PV.val)

/-- CONVERT: each element rounded once from its exact value. -/
def Dev.convertStep (d : Dev) (t : Nat) (x : Exec) (b : Nat) : Dev :=
  let (e, k) := bucketRange x.desc b
  d.bucketOut t x b ((d.roleVals t .mov e k).map fun v => v.f32.val)

/-- COPY_GATHER: a bucket goes from MOV to OUT without conversion, an MX bucket with its scales. -/
def Dev.copyStep (d : Dev) (t : Nat) (x : Exec) (b : Nat) : Dev :=
  let u := d.tile t
  match u.roleStream .mov, u.roleStream .out with
  | some mv, some o =>
    let f := odFmtMov x.desc
    let n := min (mxE f) (d.streamLen mv - b * mxE f)
    let g := u.streamBytes mv (b * mxE f) n
    let s : Got := if codeMx f then (match u.scaleOf mv with
      | some q => u.streamBytes q (b * mxS f) (ceilDiv (n * 8 / codeWidth f) 32)
      | none => ⟨[], []⟩) else ⟨[], []⟩
    d.putOut t o (b * perBucket f) (rawEnc f g.bytes (g.poison.map fun p => p || x.bad b) s.bytes s.poison) false
  | _, _ => d

/-- The three classes: the steps issued end. -/
def Dev.localRun (d : Dev) (t cls : Nat) (f : Dev → Nat → Exec → Nat → Dev) : Dev :=
  d.classRun t cls (fun _ x => localSteps x.desc) fun d x s => f d t x s

def execReduceLocal (t : Nat) (s : State) : Host.Outcome State Fault Refusal := run s fun d => d.localRun t 0x31 Dev.reduceStep
def execConvertOp (t : Nat) (s : State) : Host.Outcome State Fault Refusal := run s fun d => d.localRun t 0x40 Dev.convertStep
def execCopyGather (t : Nat) (s : State) : Host.Outcome State Fault Refusal := run s fun d => d.localRun t 0x41 Dev.copyStep

/-! ### Instruction words (Tables 13.3 and 13.4) -/

def iwOpc (w : Nat) : Nat := bits w 63 56
def iwD (w : Nat) : Nat := bits w 55 52
def iwA (w : Nat) : Nat := bits w 51 48
def iwB (w : Nat) : Nat := bits w 47 44
def iwC (w : Nat) : Nat := bits w 43 40
def iwN (w : Nat) : Nat := bits w 39 32
def iwImm (w : Nat) : Nat := bits w 31 0

/-- The opcodes of Table 13.4. -/
def opcKnown (o : Nat) : Bool :=
  decide (o ≤ 5) || [8, 9, 0xA, 0x40, 0x41, 0x42, 0x48].contains o || (decide (0x10 ≤ o) && decide (o ≤ 0x16)) ||
    (decide (0x18 ≤ o) && decide (o ≤ 0x1B)) || (decide (0x20 ≤ o) && decide (o ≤ 0x23)) ||
    (decide (0x28 ≤ o) && decide (o ≤ 0x2A)) || (decide (0x30 ≤ o) && decide (o ≤ 0x3A))
def opcScalar (o : Nat) : Bool := decide (0x30 ≤ o) && decide (o ≤ 0x3A)
def opcVector (o : Nat) : Bool := decide (1 ≤ o) && decide (o ≤ 0x2A)
def opcReduce (o : Nat) : Bool := decide (0x28 ≤ o) && decide (o ≤ 0x2A)
def opcMatrix (o : Nat) : Bool := o = 0x41 || o = 0x42
/-- A word that ends a phase. -/
def opcPhaseEnd (o : Nat) : Bool := o = 0 || o = 0x40 || opcMatrix o

/-- The words of a program up to and with its first END. -/
def Dev.program (d : Dev) (p : Nat) : List Nat :=
  let l := (List.range 64).map fun i => d.progWord p i
  l.takeWhile (fun w => iwOpc w ≠ 0) ++ [0]

/-- Words of the phase that begins at word p: to the word that ends it. -/
def phaseEnd (prog : List Nat) (p : Nat) : Nat := p + ((prog.drop p).takeWhile fun w => !opcPhaseEnd (iwOpc w)).length

/-- The first word of a phase's body: the first that is not scalar. -/
def bodyStart (prog : List Nat) (p : Nat) : Nat := p + ((prog.drop p).takeWhile fun w => opcScalar (iwOpc w)).length

/-- Where phases begin. -/
def phaseStarts (prog : List Nat) : List Nat :=
  (List.range prog.length).filter fun i => i = 0 || (let o := iwOpc (prog.getD (i - 1) 0); o = 0x40 || o = 0x48 || opcMatrix o)

/-- The scalar registers that a body word reads. -/
def iwReadsS (w : Nat) : List Nat :=
  let o := iwOpc w
  if 0x18 ≤ o ∧ o ≤ 0x1A then [iwB w] else if o = 0x1B then [iwA w] else []

/-- R269: the program is invalid. `states` says which states exist; `embed` allows RSTEP; `vec` is the VEC_PROGRAM form. -/
def progBad (l : List Nat) (states : Nat → Bool) (embed vec : Bool) : Bool :=
  let noEnd := !(l.take 64).any fun w => iwOpc w = 0
  let prog := l.takeWhile (fun w => iwOpc w ≠ 0) ++ [0]
  let idx := List.range prog.length
  let opc (i : Nat) : Nat := iwOpc (prog.getD i 0)
  let loops := idx.filter fun i => opc i = 0x48
  noEnd || prog.any (fun w => !opcKnown (iwOpc w)) ||
  prog.any (fun w =>
    let o := iwOpc w
    ([4, 0xA].contains o && decide (3 < iwN w)) || ([3, 9].contains o && (decide (1 < iwN w) || !states (iwN w))) ||
    (o = 0x3A && decide (7 < iwN w)) || (opcMatrix o && (decide (3 < iwD w) || decide (3 < iwA w) || (o = 0x42 && decide (3 < iwB w)))) ||
    (opcMatrix o && (iwD w = iwA w || (o = 0x42 && iwD w = iwB w))) || (o = 5 && !embed)) ||
  (phaseStarts prog).any (fun p =>
    let e := phaseEnd prog p
    let b := bodyStart prog p
    let body := (prog.drop b).take (e - b)
    let dests := (body.filter fun w => opcReduce (iwOpc w)).map iwD
    body.any (fun w => opcScalar (iwOpc w)) || body.any (fun w => (iwReadsS w).any dests.contains) ||
      (opcMatrix (opc e) && decide (e ≠ p))) ||
  loops.any (fun i => i = 0 || !(opc (i - 1) = 0x40 || opcMatrix (opc (i - 1))) || !((phaseStarts prog).contains (iwN (prog.getD i 0))) ||
    decide (i ≤ iwN (prog.getD i 0)) || decide (iwImm (prog.getD i 0) < 2) || decide (255 < iwImm (prog.getD i 0))) ||
  decide (1 < loops.length) ||
  (vec && prog.any fun w =>
    let o := iwOpc w
    opcReduce o || opcMatrix o || [3, 4, 5, 0xA, 0x3A, 0x40, 0x48].contains o || (o = 9 && decide (iwN w ≠ 0)))

/-! ### The UPDATE operation (Tables 13.1 and 13.2) -/

def udTensors (w : Nat) : Nat := bits w 223 192
def udWorkStride (w : Nat) : Nat := bits w 191 168
def udWork (w : Nat) : Nat := bits w 167 139

def trP (r : Nat) : Nat := bits r 63 0
def trS (r k : Nat) : Nat := if k = 0 then bits r 127 64 else bits r 191 128
def trC (r : Nat) : Nat := bits r 255 192
def trG (r : Nat) : Nat := bits r 312 256
def trRows (r : Nat) : Nat := bits r 351 320
def trCols (r : Nat) : Nat := bits r 383 352
def trPgroup (r : Nat) : Nat := bits r 399 384
def trProg (r : Nat) : Nat := bits r 407 400
def trEmbed (r : Nat) : Bool := bitAt r 408
def trMasked (r : Nat) : Bool := bitAt r 409
def trList (r : Nat) : Nat := bits r 447 416
def trAux (r : Nat) : Nat := bits r 511 448
/-- An offset that is all ones: none. -/
def trNone : Nat := 2 ^ 64 - 1
def trElems (r : Nat) : Nat := trRows r * trCols r

/-- The live window and the alternate window of the active image: base and size (R273). -/
def Dev.liveWindow (d : Dev) : Option (Nat × Nat) := (d.tagged 1).map fun r => (r.base, r.size)
def Dev.altWindow (d : Dev) : Option (Nat × Nat) := (d.tagged 2).map fun r => (r.base, r.size)

/-- R263: what is wrong with an UPDATE descriptor. -/
def Dev.updateFault (d : Dev) (w : Nat) : Option Nat :=
  if bits w 511 224 ≠ 0 ∨ bits w 138 128 ≠ 0 ∨ udTensors w = 0 ∨ !odMovV w ∨ odStaV w ∨ odOutV w ∨ odAuxV w ∨ odFmtMov w ≠ 0 ∨
      1 < odFmtOut w ∨ 1 < odFmtAux w ∨ odFmtBad w ∨ d.liveWindow.isNone ∨ d.altWindow.isNone then some 1 else none

/-- Tensor record k of a rank, where its bucket holds it. -/
def Dev.tensorAt (d : Dev) (t : Nat) (x : Exec) (k : Nat) : Option Nat :=
  let u := d.tile t
  let n := ((d.opOf x.op).elim 1 fun o => o.tiles.length)
  let i := x.rank + k * n
  if udTensors x.desc ≤ i then none else
  match u.roleStream .mov with
  | none => none
  | some s =>
    if s.buckets.any fun b => b.idx = i / 32 ∧ b.ready.isEmpty ∧ b.sent = 0 then some (leNat (u.streamBytes s (64 * i) 64).bytes) else none

/-- Records that a rank takes. -/
def Dev.tensorCount (d : Dev) (x : Exec) : Nat :=
  let n := (d.opOf x.op).elim 1 fun o => o.tiles.length
  ceilDiv (udTensors x.desc - x.rank) n

/-- A curve breaks the rules of R270. -/
def Dev.curveBad (d : Dev) (c : Nat) : Bool :=
  let step (i : Nat) : Nat := d.peekNat (d.curveAt c + 8 * i) 4
  decide (d.curveCount ≤ c) || decide (step 0 = 2 ^ 32 - 1) ||
    (List.range 255).any fun i => decide (step (i + 1) ≠ 2 ^ 32 - 1) && decide (step (i + 1) ≤ step i)

/-- Bytes of a compute copy's elements; its scales follow them (R263). -/
def copyLen (fmt n : Nat) : Nat := elemBytes fmt n + (if codeMx fmt then ceilDiv n 32 else 0)

/-- R264, R270: the record halts the tile. -/
def Dev.tensorBad (d : Dev) (w r : Nat) : Bool :=
  let size := (d.liveWindow.elim 0 (·.2))
  let out (o n : Nat) : Bool := o ≠ trNone && decide (size < o + n)
  let n := trElems r
  let words := (List.range 64).map fun i => d.progWord (trProg r) i
  let prog := d.program (trProg r)
  decide (trRows r = 0) || decide (2 ^ 24 < trRows r) || decide (trCols r = 0) || decide (2 ^ 24 < trCols r) ||
    decide (size < trP r + elemBytes (odFmtOut w) n) || out (trS r 0) (elemBytes (odFmtAux w) n) || out (trS r 1) (elemBytes (odFmtAux w) n) ||
    out (trC r) (copyLen (odFmtSta w) n) || (trC r ≠ trNone && odFmtSta w = 0) ||
    decide (d.pgroupCount ≤ trPgroup r) || decide (d.progCount ≤ trProg r) || decide (bits r 415 410 ≠ 0) ||
    (trEmbed r && decide (size < trAux r + 8 * trRows r)) || (!trEmbed r && decide (trList r ≠ 0)) ||
    progBad words (fun k => trS r k ≠ trNone) (trEmbed r) false ||
    (prog.any (fun i => opcMatrix (iwOpc i) || [4, 0xA].contains (iwOpc i)) && decide (udWork w = 0)) ||
    prog.any fun i => iwOpc i = 0x3A &&
      (let c := d.peekNat (d.pgroupAt (trPgroup r) + 2 * iwN i) 2
       decide (c ≠ 0xFFFF) && d.curveBad c)

/-! ### The gradient and the positions of a body (R267, R271, R272) -/

/-- The gradient lies on this device. -/
def Dev.gradLocal (d : Dev) (r : Nat) : Bool := decide (trG r / 2 ^ 45 = d.id)

/-- Bytes of the gradient, with the touched list under EMBED. -/
def trGradLen (r : Nat) : Nat := if trEmbed r then ceilDiv (4 * trList r) 2048 * 2048 + trList r * trCols r * 4 else 4 * trElems r

/-- Gradient bytes [o, o + n) of record k: read in place, or from the requests that the operation made of its own. -/
def Dev.gradBytes (d : Dev) (t k r o n : Nat) : Dev × Got :=
  if d.gradLocal r then
    match d.memRead (tileIngress t) (trG r % 2 ^ 45 + o) n with
    | (d, some g) => (d, g)
    | (d, none) => (d, ⟨List.replicate n 0, List.replicate n false⟩)
  else match (d.tile t).roleStream (.extra k) with
    | some s => (d, (d.tile t).streamBytes s o n)
    | none => (d, ⟨List.replicate n 0, List.replicate n false⟩)

/-- An entry of the row table of an EMBED tensor, in the live window (R271). -/
def Dev.rowEntry (d : Dev) (r i : Nat) : Nat := d.peekNat ((d.liveWindow.elim 0 (·.1)) + trAux r + 8 * i) 8

/-- Listed rows of an EMBED tensor that run: place in the list, and row; and how many list entries are skipped. -/
def Dev.embedRows (d : Dev) (t k r : Nat) : List (Nat × Nat) × Nat :=
  let l := (d.gradBytes t k r 0 (4 * trList r)).2.bytes
  let rows := (List.range (trList r)).map fun i => recNat l (4 * i) 4
  let good (i : Nat) : Bool := decide (rows.getD i 0 < trRows r) && (i = 0 || decide (rows.getD (i - 1) 0 < rows.getD i 0))
  let valid := (List.range (trList r)).filter good
  ((valid.filter fun i => !bitAt (d.rowEntry r (rows.getD i 0)) 32).map fun i => (i, rows.getD i 0), trList r - valid.length)

/-- A position of a body: first element, lanes that lie in the tensor (or the row), place of the row in the list, and the
byte of the gradient that its first element has. -/
structure VecPos where
  e : Nat
  n : Nat
  row : Nat
  g : Nat
  /-- The list entry that names the row is poisoned (R104). -/
  p : Bool
deriving DecidableEq, Repr

/-- The positions of record k's bodies. -/
def Dev.positions (d : Dev) (t k r : Nat) : List VecPos :=
  if trEmbed r then
    let g0 := ceilDiv (4 * trList r) 2048 * 2048
    let pz := (d.gradBytes t k r 0 (4 * trList r)).2.poison
    let bad (i : Nat) : Bool := ((pz.drop (4 * (i - 1))).take (if i = 0 then 4 else 8)).any fun b => b
    (d.embedRows t k r).1.flatMap fun x => (List.range (ceilDiv (trCols r) 512)).map fun j =>
      ⟨x.2 * trCols r + 512 * j, min 512 (trCols r - 512 * j), x.2, g0 + 4 * (x.1 * trCols r + 512 * j), bad x.1⟩
  else (List.range (ceilDiv (trElems r) 512)).map fun j => ⟨512 * j, min 512 (trElems r - 512 * j), 0, 4 * (512 * j), false⟩

/-- R272: row i of a MASKED tensor is frozen. -/
def Dev.frozen (d : Dev) (r i : Nat) : Bool := trMasked r && !trEmbed r && !((d.peekNat (trAux r + i / 1024) 1).testBit (i / 128 % 8))

/-- The lanes of a position that are active, as bits. -/
def Dev.activeLanes (d : Dev) (r : Nat) (p : VecPos) : Nat :=
  (List.range p.n).foldl (fun m l => if d.frozen r ((p.e + l) / trCols r) then m else m ||| 2 ^ l) 0

/-! ### Steps of a tensor (R264) -/

/-- Passes of a matrix phase on the short side (R268). -/
def trPasses (r : Nat) : Nat :=
  let m := min (trRows r) (trCols r)
  let n := max (trRows r) (trCols r)
  ceilDiv m 128 * ceilDiv n 128

/-- Steps of one run through the phases from word p on, following LOOP; `fuel` bounds the words. -/
def phaseSteps (prog : List Nat) (npos passes : Nat) : Nat → Nat → Nat → Nat
  | 0, _, _ => 0
  | f + 1, p, loops =>
    let o := iwOpc (prog.getD p 0)
    if o = 0x48 then
      let left := if loops = 0 then iwImm (prog.getD p 0) - 1 else loops - 1
      if left = 0 then phaseSteps prog npos passes f (p + 1) 0 else phaseSteps prog npos passes f (iwN (prog.getD p 0)) left
    else if opcMatrix o then passes + phaseSteps prog npos passes f (p + 1) loops
    else
      let e := phaseEnd prog p
      let own := if bodyStart prog p < e then npos else 0
      if iwOpc (prog.getD e 0) = 0 then own else own + phaseSteps prog npos passes f (e + 1) loops

/-- Steps of a tensor. -/
def Dev.tensorSteps (d : Dev) (t k r : Nat) : Nat := phaseSteps (d.program (trProg r)) (d.positions t k r).length (trPasses r) 32768 0 0

/-! ### Registers and lanes -/

def VecCtx.vr (c : VecCtx) (i : Nat) : List Nat := c.v.getD i (List.replicate 512 0)
def VecCtx.vpz (c : VecCtx) (i : Nat) : Nat := c.vp.getD i 0
def VecCtx.sr (c : VecCtx) (i : Nat) : Nat := c.s.getD i 0
def VecCtx.spz (c : VecCtx) (i : Nat) : Bool := c.sp.getD i false
def VecCtx.setV (c : VecCtx) (i : Nat) (l : List Nat) (p : Nat) : VecCtx := { c with v := c.v.set i l, vp := c.vp.set i p }
def VecCtx.setS (c : VecCtx) (i v : Nat) (p : Bool) : VecCtx := { c with s := c.s.set i v, sp := c.sp.set i p }

/-- 512 lanes from loaded elements, the others 0; their poison as bits. -/
def laneVals (l : List PV) : List Nat × Nat :=
  ((List.range 512).map fun i => (l.getD i ⟨0, false⟩).v, (List.range 512).foldl (fun m i => if (l.getD i ⟨0, false⟩).p then m ||| 2 ^ i else m) 0)

/-- R78: the pairwise tree over lanes. DESIGN CHOICE: neighbours pair at each level (log entry 59). -/
def treeOf (f : Nat → Nat → Nat) : Nat → List Nat → Nat
  | 0, l => l.headD 0
  | n + 1, l => treeOf f n ((List.range (l.length / 2)).map fun i => f (l.getD (2 * i) 0) (l.getD (2 * i + 1) 0))
def laneSum (l : List Nat) : Nat := treeOf f32Add 9 l
def laneMax (l : List Nat) : Nat := treeOf f32Max 9 l

/-- A vector operation of two or three sources, lane by lane. -/
def vecOp (o : Nat) (a b c : Nat) : Nat :=
  match o with
  | 0x10 => f32Add a b
  | 0x11 => f32Sub a b
  | 0x12 => f32Mul a b
  | 0x13 => f32Fma a b c
  | 0x14 => f32Max a b
  | 0x15 => f32Min a b
  | 0x16 => f32Abs a
  | 0x18 => f32Add a b
  | 0x19 => f32Mul a b
  | 0x1A => f32Fma a b c
  | 0x20 => sfuExp2 a
  | 0x21 => sfuLog2 a
  | 0x22 => sfuRsqrt a
  | _ => sfuRcp a

/-- A scalar operation. -/
def scalOp (o : Nat) (a b imm : Nat) : Nat :=
  match o with
  | 0x30 => f32Add a b
  | 0x31 => f32Sub a b
  | 0x32 => f32Mul a b
  | 0x33 => f32Max a b
  | 0x34 => f32Min a b
  | 0x35 => sfuRsqrt a
  | 0x36 => sfuRcp a
  | 0x37 => sfuExp2 a
  | 0x38 => sfuLog2 a
  | _ => imm

/-- A vector word that loads and stores nothing. -/
def VecCtx.vecWord (c : VecCtx) (w : Nat) : VecCtx :=
  let o := iwOpc w
  let a := c.vr (iwA w)
  let pa := c.vpz (iwA w)
  let full (p : Bool) : Nat := if p then 2 ^ 512 - 1 else 0
  if o = 0x1B then c.setV (iwD w) (List.replicate 512 (c.sr (iwA w))) (full (c.spz (iwA w)))
  else
    let scal := decide (0x18 ≤ o) && decide (o ≤ 0x1A)
    let b := if scal then List.replicate 512 (c.sr (iwB w)) else c.vr (iwB w)
    let pb := if scal then full (c.spz (iwB w)) else c.vpz (iwB w)
    let two := decide (o ≤ 0x15) || scal
    let three := o = 0x13 || o = 0x1A
    let x := c.vr (iwC w)
    c.setV (iwD w) ((List.range 512).map fun i => vecOp o (a.getD i 0) (b.getD i 0) (x.getD i 0))
      (pa ||| (if two then pb else 0) ||| (if three then c.vpz (iwC w) else 0))

/-- A lane reduction takes the active lanes of a vector (R267); `word` names it. -/
def VecCtx.reduce (c : VecCtx) (word : Nat) (big : Bool) (lanes : List Nat) (pz act : Nat) : VecCtx :=
  let acc := (c.red.find? fun r => r.word = word).getD ⟨word, List.replicate 512 0, false⟩
  let f := if big then f32Max else f32Add
  let acc := { acc with lanes := (List.range 512).map fun i =>
                          if act.testBit i then f (acc.lanes.getD i 0) (lanes.getD i 0) else acc.lanes.getD i 0
                        p := acc.p || decide (pz ≠ 0) }
  { c with red := acc :: c.red.filter fun r => r.word ≠ word }

/-! ### Schedule curves (R270) -/

/-- The value of slot k of a parameter group at the step being made. -/
def Dev.schedVal (d : Dev) (pg k : Nat) : Nat :=
  let g := d.pgroupAt pg
  let c := d.peekNat (g + 2 * k) 2
  if c = 0xFFFF then d.peekNat (g + 16 + 4 * k) 4
  else
    let knot (i : Nat) : Nat × Nat := (d.peekNat (d.curveAt c + 8 * i) 4, d.peekNat (d.curveAt c + 8 * i + 4) 4)
    let t := min (d.get R.UPD_BANK_LIVE_STEP + 1 - d.peekNat (g + 48) 8) 0xFFFFFFFE
    let n := ((List.range 256).filter fun i => (knot i).1 ≠ 2 ^ 32 - 1).length
    if t ≤ (knot 0).1 then (knot 0).2
    else if (knot (n - 1)).1 ≤ t then (knot (n - 1)).2
    else
      let i := ((List.range (n - 1)).find? fun i => t < (knot (i + 1)).1).getD 0
      let (t0, v0) := knot i
      let (t1, v1) := knot (i + 1)
      -- four roundings: v1 − v0, the quotient, the product, the sum
      let s := (t - t0) * 2 ^ 64
      let q := f32Quot .rne false (s / (t1 - t0)) (-64) (decide (s % (t1 - t0) ≠ 0))
      f32Add v0 (f32Mul (f32Sub v1 v0) q)

end Sys2Proof.Machine
end

