-- ==== Sys2Proof/Machine/Experts.lean ====
section
/-!
DEFINITION. Experts (spec/11_experts.md): ROUTE_TOPK (R226–R229), directory updates (R231), DISPATCH (R233–R239), widened
copies (R240–R243), COMBINE (R244).
-/

namespace Sys2Proof.Machine

/-! ### ROUTE_TOPK (Table 11.2) -/

def rtE (w : Nat) : Nat := bits w 143 128
def rtK (w : Nat) : Nat := bits w 147 144
def rtAlts (w : Nat) : Nat := bits w 151 148
def rtScore (w : Nat) : Nat := bits w 153 152
def rtRenorm (w : Nat) : Bool := bitAt w 154
def rtBias (w : Nat) : Bool := bitAt w 155
def rtPredict (w : Nat) : Bool := bitAt w 156
def rtLayer (w : Nat) : Nat := bits w 167 160
def rtTokens (w : Nat) : Nat := bits w 199 168
def rtScale (w : Nat) : Nat := bits w 231 200
def rtBase (w : Nat) : Nat := bits w 263 232

/-- R226, R229: what is wrong with a ROUTE_TOPK descriptor. -/
def routeFault (w : Nat) : Option Nat :=
  if odFmtBad w ∨ bits w 511 288 ≠ 0 ∨ bits w 159 157 ≠ 0 ∨ rtScore w = 3 ∨ rtK w = 0 ∨ 8 < rtK w + rtAlts w ∨ 7 < rtAlts w ∨ rtE w = 0 ∨
      4096 < rtE w ∨ rtTokens w = 0 ∨ !odMovV w ∨ 1 < odFmtMov w ∨ (rtBias w ∧ (!odStaV w ∨ odFmtSta w ≠ 0)) ∨
      (rtPredict w ∧ (odOutV w ∨ !odAuxV w)) ∨ (!rtPredict w ∧ !odOutV w) then some 1 else none

/-- R226: streams advanced by rank. -/
def routeStreams (w rank : Nat) : List Opening :=
  let one (v : Bool) (r : Role) (i adv : Nat) : List Opening := if v then [⟨r, i, adv, false⟩] else []
  one true .mov (odMov w) (rank * bits w 275 264 * 65536) ++ one (rtBias w) .sta (odSta w) 0 ++
  one (odOutV w) .out (odOut w) (rank * bits w 287 276 * 65536) ++ one (rtPredict w) .aux (odAux w) (rank * bits w 287 276 * 65536)

/-- One row a step (log entry 21). -/
def routeSteps (w : Nat) : Steps :=
  let part (r : Role) (s : Nat) : Nat := match r with
    | .mov => elemBytes (odFmtMov w) (rtE w * (s + 1))
    | _ => 0
  ⟨rtTokens w, true, fun r s => if r = .sta then (if rtBias w then 4 * rtE w else 0) else part r s,
    fun r s => if r = .sta then (if s + 1 = rtTokens w then 4 * rtE w else 0) else part r s,
    fun r s => match r with
      | .out => 64 * (s + 1)
      | .aux => if s + 1 = rtTokens w then 4 * rtE w else 0
      | _ => 0⟩

/-- R227: score a ranks above score b; a NaN ranks below every number. -/
def scoreAbove (a b : Nat) : Bool := if f32IsNaN a then false else if f32IsNaN b then true else f32Gt a b

/-- The first `n` experts by descending score, the lower index first on ties. -/
def topOf (scores : List Nat) : Nat → List Nat → List Nat
  | 0, _ => []
  | n + 1, left =>
    match left with
    | [] => []
    | x :: rest =>
      let best := rest.foldl (fun b i => if scoreAbove (scores.getD i 0) (scores.getD b 0) then i else b) x
      best :: topOf scores n (left.filter (· ≠ best))

/-- exp(x) through exp2 (log entry 22). -/
def expOf (x : Nat) : Nat := sfuExp2 (f32Mul x 0x3FB8AA3B)

/-- A sum over a row, in vectors of 512 lanes and then across the lanes (Table 5.3). -/
def rowTotal (l : List Nat) : Nat :=
  let n := ceilDiv l.length 512
  laneSum ((List.range 512).map fun i => (List.range n).foldl (fun a v => if 512 * v + i < l.length then f32Add a (l.getD (512 * v + i) 0) else a) 0)

/-- R227: the weights of the chosen experts, and the NAN flag. -/
def routeWeights (w : Nat) (s : List Nat) (chosen : List Nat) : List Nat × Bool :=
  let pick := chosen.map fun e => s.getD e 0
  let over_ := if rtScore w = 0 then s else pick
  let mx := over_.foldl f32Max f32NegInf
  let norm1 := if rtScore w = 2 then f32One else rowTotal (over_.map fun x => expOf (f32Sub x mx))
  let raw := pick.map fun x =>
    if rtScore w = 2 then sfuRcp (f32Add f32One (expOf (f32Neg x))) else f32Mul (expOf (f32Sub x mx)) (sfuRcp norm1)
  let norm2 := if rtRenorm w then raw.foldl f32Add 0 else f32One
  let ws := (if rtRenorm w then raw.map fun v => f32Mul v (sfuRcp norm2) else raw).map fun v => f32Mul v (rtScale w)
  let badNorm (n : Nat) : Bool := f32IsNaN n || decide (n % 2 ^ 31 = 0) || decide (n = f32PosInf)
  if s.any f32IsNaN || badNorm norm1 || badNorm norm2 then (ws.map fun _ => f32NaN, true) else (ws, false)

/-- A routing record (Table 11.3). -/
def routeRecord (w token : Nat) (ws chosen alts : List Nat) (nan : Bool) : List Byte :=
  padTo 32 (ws.flatMap (leBytes 4)) ++ ((chosen ++ alts ++ List.replicate 8 0xFFFF).take 8).flatMap (leBytes 2) ++
    leBytes 4 token ++ leBytes 1 (rtK w) ++ leBytes 1 (b2n nan) ++ leBytes 2 (rtLayer w) ++ leBytes 8 0

/-- What a row comes to: chosen, alternates, weights, NAN, poison. -/
structure Routed where
  chosen : List Nat
  alts : List Nat
  ws : List Nat
  nan : Bool
  p : Bool
deriving DecidableEq, Repr

def TileUnit.routeRow (u : TileUnit) (w : Nat) (mv : Stream) (bias : Option Stream) (j : Nat) : Routed :=
  let s := (u.vals mv (j * rtE w) (rtE w)).map Val.f32
  let b := match bias with
    | some q => (u.vals q 0 (rtE w)).map Val.f32
    | none => List.replicate (rtE w) ⟨0, false⟩
  let sel := if bias.isSome then (s.zip b).map fun x => f32Add x.1.v x.2.v else s.map (·.v)
  let top := topOf sel (rtK w + rtAlts w) (List.range (rtE w))
  let chosen := top.take (rtK w)
  let (ws, nan) := routeWeights w (s.map (·.v)) chosen
  ⟨chosen, top.drop (rtK w), ws, nan, s.any (·.p) || b.any (·.p)⟩

/-- PREDICT: the counts of the whole operation leave with its last row. -/
def Dev.routeCounts (d : Dev) (t : Nat) (u : TileUnit) (x : Exec) (mv : Stream) (bias : Option Stream) : Dev :=
  let w := x.desc
  let (counts, p) := (List.range (rtTokens w)).foldl (fun (a : List Nat × Bool) j =>
    let r := u.routeRow w mv bias j
    (r.chosen.foldl (fun l e => l.set e (l.getD e 0 + 1)) a.1, a.2 || r.p)) (List.replicate (rtE w) 0, false)
  match u.roleStream .aux with
  | some a =>
    let bs := counts.flatMap (leBytes 4)
    d.putRaw t a 0 bs (bs.map fun _ => p || !x.poisoned.isEmpty)
  | none => d

/-- ROUTE_TOPK: row j. -/
def Dev.routeStep (d : Dev) (t : Nat) (x : Exec) (j : Nat) : Dev :=
  let w := x.desc
  let u := d.tile t
  match u.roleStream .mov with
  | none => d
  | some mv =>
    let bias := if rtBias w then u.roleStream .sta else none
    if rtPredict w then (if j + 1 = rtTokens w then d.routeCounts t u x mv bias else d)
    else match u.roleStream .out with
      | none => d
      | some o =>
        let r := u.routeRow w mv bias j
        let bs := routeRecord w ((rtBase w + x.rank * rtTokens w + j) % 2 ^ 32) r.ws r.chosen r.alts r.nan
        let d := d.putRaw t o (64 * j) bs (bs.map fun _ => r.p || x.bad j)
        (d.count R.EXP_ROUTE_ROWS 1).count R.EXP_ROUTE_NAN_ROWS (b2n r.nan)

def execRouteTopk (t : Nat) (s : State) : Host.Outcome State Fault Refusal :=
  run s fun d => d.classRun t 0x21 (fun _ x => routeSteps x.desc) fun d x j => d.routeStep t x j

/-! ### The weight buffer (R240) -/

/-- Counts of EXP_STATUS brought up to date. -/
def Dev.frameUsed (d : Dev) (f : Nat) : Bool :=
  (List.range 256).any fun r => decide (d.get (R.EXP_RES_W0_STATE r) ≠ 0) && decide (d.get (R.EXP_RES_W0_FRAME r) ≤ f) &&
    decide (f < d.get (R.EXP_RES_W0_FRAME r) + d.get (R.EXP_RES_W0_FRAMES r))

/-- The buffer's frames, and which are free. -/
def Dev.wbuf (d : Dev) : List (Nat × Bool) :=
  (List.range (d.force R.EXP_TRAVEL_WBUF_FRAMES)).map fun i => (d.force R.EXP_TRAVEL_WBUF_BASE + i, !d.frameUsed (d.force R.EXP_TRAVEL_WBUF_BASE + i))

def Dev.refreshExp (d : Dev) : Dev :=
  let n (p : Nat → Bool) : Nat := ((List.range 256).filter p).length
  let run_ := d.wbuf.foldl (fun (a : Nat × Nat) f => if f.2 then (a.1 + 1, max a.2 (a.1 + 1)) else (0, a.2)) (0, 0)
  (((d.set R.EXP_STATUS_WBUF_FREE run_.2).set R.EXP_STATUS_READY (n fun r => d.get (R.EXP_RES_W0_STATE r) = 2)).set
    R.EXP_STATUS_FETCHING (n fun r => d.get (R.EXP_RES_W0_STATE r) = 1)).set
    R.EXP_STATUS_IN_USE (n fun r => decide (d.get (R.EXP_RES_W0_STATE r) ≠ 0) && decide (0 < d.get (R.EXP_RES_W0_USES r)))

/-- The lowest run of n free frames. -/
def Dev.freeRun (d : Dev) (n : Nat) : Option Nat :=
  let l := d.wbuf
  ((List.range (l.length + 1 - n)).find? fun i => ((l.drop i).take n).all (·.2)).bind fun i => (l.getD i (0, false)).1 |> some

/-- R243: an entry becomes FREE. -/
def Dev.freeEntry (d : Dev) (r : Nat) : Dev :=
  let wasted := d.flag (R.EXP_RES_W0_PREDICTED r) && !d.flag (R.EXP_RES_W0_USED r)
  let d := if wasted then d.count R.EXP_PRED_WASTED 1 else d
  let d := (d.setWord (R.EXP_RES_W0 r) 0).setWord (R.EXP_RES_W1 r) 0
  ({ d with exp := { d.exp with lru := d.exp.lru.erase r, retired := d.exp.retired.erase r, fetch := d.exp.fetch.filter fun f => f.res ≠ r } }).refreshExp

/-- An entry becomes the most recently used. -/
def Dev.touchEntry (d : Dev) (r : Nat) : Dev := { d with exp := { d.exp with lru := r :: d.exp.lru.erase r } }

/-- READY entries of other layers with no use are evicted, least recently used first, until n frames are free. -/
def Dev.makeRoom (d : Dev) (l n : Nat) : Nat → Dev
  | 0 => d
  | k + 1 =>
    if (d.freeRun n).isSome then d else
    match d.exp.lru.reverse.find? fun r => d.get (R.EXP_RES_W0_STATE r) = 2 ∧ d.get (R.EXP_RES_W0_USES r) = 0 ∧ d.get (R.EXP_RES_W0_LAYER r) ≠ l with
    | some r => (d.freeEntry r).makeRoom l n k
    | none => d

/-! ### Fetching and widening (R241, Table 11.7) -/

/-- A stored format can travel and be widened to another: only MXFP8 and MXFP6 weights travel (R92 and Table 11.7; log entry 73). -/
def canWiden (f wide : Nat) : Bool := decide (4 ≤ f) && decide (f ≤ 7) && (f = wide || (f = 6 && wide = 4) || (f = 7 && wide = 5) || wide = 1)

/-- Elements of a stored copy. -/
def storedElems (e : Nat) : Nat := deBytes e * 8 / codeWidth (deFmt e)

/-- The byte ranges at HOME that a copy is read from. -/
def fetchRanges (e : Nat) : List (Nat × Nat) :=
  (deAddr e, deBytes e) :: (if codeMx (deFmt e) then [(deAddr e + deScaleOff e, ceilDiv (storedElems e) 32)] else [])

/-- An entry fails (R241). -/
def Dev.failEntry (d : Dev) (r : Nat) (f : Fld) : Dev :=
  let d := (d.set (R.EXP_RES_W0_STATE r) 3).raise1 f r
  ({ d with exp := { d.exp with fetch := d.exp.fetch.filter fun x => x.res ≠ r } }).refreshExp

/-- The READs of a copy leave, one for each 8 KiB window that it touches. -/
def Dev.fetchCopy (d : Dev) (r e : Nat) : Dev :=
  let wins := (fetchRanges e).flatMap fun z =>
    if z.2 = 0 then [] else (List.range ((z.1 + z.2 - 1) / 8192 - z.1 / 8192 + 1)).map fun i =>
      let w := z.1 / 8192 + i
      let lo := max z.1 (w * 8192)
      let hi := min (z.1 + z.2) ((w + 1) * 8192)
      (w, (List.range 128).foldl (fun m b => if lo < w * 8192 + 64 * b + 64 ∧ w * 8192 + 64 * b < hi then m ||| 2 ^ b else m) 0)
  let d := { d with exp := { d.exp with fetch := d.exp.fetch ++ [⟨r, e, [], [], wins.length, false⟩] } }
  wins.foldl (fun (d : Dev) z =>
    d.request (d.newReq (deHome e) 1 1 (z.1 * 8192) (sectorMask z.2) []) (.fetch r) (setBits 128 z.2).length none) d

/-- R240: a claim of an entry for an expert; none where it fails. -/
def Dev.claimCopy (d : Dev) (l e en : Nat) (demand : Bool) : Option Nat × Dev :=
  let sites := d.travelSites
  let wide := d.force (R.EXP_LAYER_WIDE_FMT l)
  let n := ceilDiv (copyGroups wide (deFmt en) (deBytes en)) sites.length * groupFrames wide
  if sites.isEmpty ∨ n = 0 then (none, d.count R.EXP_PRED_MISS_FALLBACKS 1) else
  let d := d.makeRoom l n 256
  match (List.range 256).find? fun r => d.get (R.EXP_RES_W0_STATE r) = 0, d.freeRun n with
  | some r, some f0 =>
    let d := ((((((d.setWord (R.EXP_RES_W0 r) 0).set (R.EXP_RES_W0_STATE r) 1).set (if demand then R.EXP_RES_W0_DEMAND r else R.EXP_RES_W0_PREDICTED r) 1).set
      (R.EXP_RES_W0_LAYER r) l).set (R.EXP_RES_W0_EXPERT r) e).set (R.EXP_RES_W0_FRAMES r) n).set (R.EXP_RES_W0_FRAME r) f0
    let d := (d.set (R.EXP_RES_W1_VERSION r) (deVersion en)).touchEntry r
    let d := if canWiden (deFmt en) wide then d.fetchCopy r en else d.failEntry r R.EXP_ERR_DIR_INVALID
    (some r, d.refreshExp)
  | _, _ => (none, d.count R.EXP_PRED_MISS_FALLBACKS 1)

/-- READ_DATA for a fetch: bytes of the home's local offset a on. -/
def Dev.fetchData (d : Dev) (r a : Nat) (g : Got) : Dev :=
  let d := { d with exp := { d.exp with fetch := d.exp.fetch.map fun (x : FetchBuf) => if x.res ≠ r then x else
    { x with cells := stPut (fun _ => 0) x.cells a g.bytes
             poison := (List.range g.bytes.length).foldl (fun p i => if g.poison.getD i false then stSet (fun _ => false) p ((a + i) / 64) true else p) x.poison } } }
  d.count R.EXP_FETCH_BYTES g.bytes.length

/-- The last response of one of its READs has come. -/
def Dev.fetchEnd (d : Dev) (r status : Nat) : Dev :=
  { d with exp := { d.exp with fetch := d.exp.fetch.map fun (x : FetchBuf) => if x.res ≠ r then x else { x with left := x.left - 1, bad := x.bad || decide (status ≠ 0) } } }

/-- An element of the fetched copy: its code, its block's scale, and poison. -/
def FetchBuf.elem (b : FetchBuf) (i : Nat) : Nat × Nat × Bool :=
  let e := b.entry
  let w := codeWidth (deFmt e)
  let at_ := deAddr e + i * w / 8
  let byte (a : Nat) : Nat := (stGet (fun _ => (0 : Byte)) b.cells a).toNat
  let pz (a : Nat) : Bool := stGet (fun _ => false) b.poison (a / 64)
  let last := deAddr e + (i * w + w - 1) / 8
  let code := ((List.range (last + 1 - at_)).foldl (fun n k => n + byte (at_ + k) * 256 ^ k) 0 >>> (i * w % 8)) % 2 ^ w
  let sa := deAddr e + deScaleOff e + i / 32
  (code, if codeMx (deFmt e) then byte sa else 127, pz at_ || pz last || (codeMx (deFmt e) && pz sa))

/-- Its code in the wide format. -/
def widenCode (f wide code scale : Nat) : Nat :=
  if f = wide then code
  else match codeFmt f, codeFmt wide with
    | some a, some b =>
      if wide = 1 then (fpEnc b .rne false (mxVal scale (fpDec a code))).code else (fpEnc b .rne false (fpDec a code)).code
    | _, _ => code

/-- The slice of a copy that the travel tile of rank `rank` holds goes to its frames (Table 6.3). -/
def Dev.widenTile (d : Dev) (b : FetchBuf) (wide n rank t : Nat) : Dev :=
  let e := b.entry
  let ng := copyGroups wide (deFmt e) (deBytes e)
  let g0 := rank * ng / n
  let f0 := d.get (R.EXP_RES_W0_FRAME b.res)
  let per := groupBytes wide * 8 / codeWidth wide
  let total := storedElems e
  (List.range ((rank + 1) * ng / n - g0)).foldl (fun (d : Dev) k =>
    let i0 := (g0 + k) * per
    let els := (List.range (min per (total - i0))).map fun i => b.elem (i0 + i)
    let fr := (f0 + k * groupFrames wide) * 2048
    let codes := packBits (codeWidth wide) (els.map fun x => widenCode (deFmt e) wide x.1 x.2.1)
    let pz := packPoison (codeWidth wide) (els.map (·.2.2))
    let d := if codeMx wide then
        let blocks := ceilDiv els.length 32
        let sc := (List.range blocks).map fun q => BitVec.ofNat 8 (els.getD (32 * q) (0, 0, false)).2.1
        d.cistStore t fr (padTo 2048 sc) fun i => (List.range 32).any fun j => (els.getD (32 * i + j) (0, 0, false)).2.2
      else d
    (List.range (mxG wide)).foldl (fun (d : Dev) f =>
      let o := f * mxE wide
      d.cistStore t (fr + (if codeMx wide then 2048 * (1 + f) else 2048 * f)) (padTo (mxE wide) ((codes.drop o).take (mxE wide))) fun i => pz.getD (o + i) false) d) d

/-- R241: every tile has finished widening the copy of entry r. -/
def Dev.widenDone (d : Dev) (r : Nat) : Dev :=
  match d.exp.fetch.find? fun b => b.res = r with
  | none => d
  | some b =>
    if b.left ≠ 0 then d
    else if b.bad then d.failEntry r R.EXP_ERR_FETCH_FAIL
    else
      let wide := d.force (R.EXP_LAYER_WIDE_FMT (d.get (R.EXP_RES_W0_LAYER r)))
      let sites := d.travelSites
      let d := (List.range sites.length).zip sites |>.foldl (fun (d : Dev) x => d.widenTile b wide sites.length x.1 x.2) d
      ({ d.set (R.EXP_RES_W0_STATE r) 2 with exp := { d.exp with fetch := d.exp.fetch.filter fun x => x.res ≠ r } }).refreshExp

def execWidenFetchDone (r : Nat) (s : State) : Host.Outcome State Fault Refusal := run s fun d => d.widenDone r

/-- R242: an operation that read entries has ended on every travel tile: use counts fall. -/
def Dev.copiesRead (d : Dev) (op : Nat) : Dev :=
  let rs := (d.exp.reads.filter fun x => x.1 = op).map (·.2)
  let d := rs.foldl (fun (d : Dev) r =>
    let d := (d.set (R.EXP_RES_W0_USED r) 1).set (R.EXP_RES_W0_USES r) (d.get (R.EXP_RES_W0_USES r) - 1)
    if d.get (R.EXP_RES_W0_USES r) = 0 ∧ (d.flag (R.EXP_RES_W0_DEMAND r) ∨ d.exp.retired.contains r) then d.freeEntry r else d.touchEntry r) d
  ({ d with exp := { d.exp with reads := d.exp.reads.filter (fun x => x.1 ≠ op), seen := d.exp.seen.filter (fun x => x.op ≠ op)
                                sends := d.exp.sends.filter fun x => x.op ≠ op } }).refreshExp

/-! ### Directory updates (R231, R242) -/

/-- A new entry comes into force at index i. -/
def Dev.setDir (d : Dev) (i e : Nat) : Dev :=
  let old := d.dirWord i
  let d := (List.range 4).foldl (fun (d : Dev) k => d.setWord (R.EXP_DIR i k) (BitVec.ofNat 64 (e >>> (64 * k)))) d
  if deVersion old = deVersion e then d else
  let hit := (List.range 256).filter fun r => decide (d.get (R.EXP_RES_W0_STATE r) ≠ 0) && !d.exp.retired.contains r &&
    decide (d.dirIndex (d.get (R.EXP_RES_W0_LAYER r)) (d.get (R.EXP_RES_W0_EXPERT r)) = some i)
  hit.foldl (fun (d : Dev) r =>
    let d := d.raise1 R.EXP_ERR_VERSION_STALE r
    if d.get (R.EXP_RES_W0_USES r) = 0 then d.freeEntry r else { d with exp := { d.exp with retired := d.exp.retired ++ [r] } }) d

/-- EXP_DIR_UPD_ARM.ARM at a boundary. -/
def Dev.applyDir (d : Dev) : Dev :=
  if !d.flag R.EXP_DIR_UPD_ARM_ARM then d else
  let d := (List.range 64).foldl (fun (d : Dev) k =>
    if d.flag (R.EXP_DIR_UPD_W0_VALID k) then
      let e := (List.range 4).foldl (fun n j => n + (d.reg (R.EXP_DIR_UPD_ENTRY k j)).toNat * 2 ^ (64 * j)) 0
      (d.setDir (d.get (R.EXP_DIR_UPD_W0_INDEX k)) (e % 2 ^ 128 + (e / 2 ^ 160) * 2 ^ 160 - bits e 90 45 * 2 ^ 45)).set (R.EXP_DIR_UPD_W0_VALID k) 0
    else d) d
  d.set R.EXP_DIR_UPD_ARM_ARM 0

/-! ### DISPATCH (Table 11.6) -/

def dpLayer (w : Nat) : Nat := bits w 135 128
def dpMode (w : Nat) : Nat := bits w 137 136
def dpDeferIn (w : Nat) : Bool := bitAt w 139
def dpNvec (w : Nat) : Nat := bits w 143 140
def dpTokens (w : Nat) : Nat := bits w 175 144
def dpRow (w : Nat) : Nat := bits w 195 176
def dpSrow (w : Nat) : Nat := bits w 207 196
def dpRx (w : Nat) : Nat := bits w 236 208 * 65536
def dpRxs (w : Nat) : Nat := bits w 265 237 * 65536
def dpCnt (w : Nat) : Nat := bits w 294 266 * 65536
def dpTrv (w : Nat) : Nat := bits w 323 295 * 65536
def dpTrvs (w : Nat) : Nat := bits w 352 324 * 65536
def dpDef (w : Nat) : Nat := bits w 381 353 * 65536
def dpTrvRows (w : Nat) : Nat := bits w 397 382
def dpDefMax (w : Nat) : Nat := bits w 413 398
def dpTravelMax (w : Nat) : Nat := bits w 421 414

def Dev.epP (d : Dev) : Nat := d.force R.EXP_EP_CFG_P
def Dev.epSelf (d : Dev) : Nat := d.force R.EXP_EP_CFG_SELF_RANK
def Dev.epLocal (d : Dev) : Nat := d.force R.EXP_EP_CFG_E_LOCAL
def Dev.epDevice (d : Dev) (r : Nat) : Nat := d.force (R.EXP_EP_DEVICE r)
def Dev.layCap (d : Dev) (l : Nat) : Nat := d.force (R.EXP_LAYER_CAP l)

/-- EXP_ERR.CFG: the expert-parallel configuration is invalid for a class that uses it. -/
def Dev.epBad (d : Dev) (l : Nat) : Bool :=
  decide (d.epP = 0) || decide (256 < d.epP) || decide (d.epLocal = 0) || decide (4096 < d.epLocal) || decide (d.epP ≤ d.epSelf) || decide (d.layCap l = 0) ||
    (List.range d.epP).any fun r => d.force (R.EXP_EP_VALID r) = 0

/-- R239: what is wrong with a DISPATCH descriptor. -/
def Dev.dispatchFault (d : Dev) (w : Nat) : Option Nat :=
  let top := d.get R.ECC_TOP_TOP
  let p := d.epP
  let el := d.epLocal
  let rows := p * el * d.layCap (dpLayer w)
  let far (a n : Nat) : Bool := decide (top < a + n)
  if odFmtBad w ∨ bits w 511 422 ≠ 0 ∨ bitAt w 138 ∨ dpMode w = 3 ∨
      (dpMode w = 0 ∧ (!odMovV w ∨ !odStaV w ∨ !odOutV w ∨ dpRow w = 0 ∨ 32 < dpTravelMax w ∨ (0 < dpTravelMax w ∧ d.force R.EXP_TRAVEL_WBUF_FRAMES = 0) ∨
        2 ^ 32 - 1 < rows + dpTrvRows w ∨ far (dpRx w) (rows * dpRow w) ∨ far (dpRxs w) (rows * dpSrow w) ∨ far (dpCnt w) (4 * p * el + 8 * dpTravelMax w) ∨
        far (dpTrv w) (dpTrvRows w * dpRow w) ∨ far (dpTrvs w) (dpTrvRows w * dpSrow w) ∨ far (dpDef w) (dpDefMax w * (64 + dpRow w + dpSrow w)))) ∨
      (dpMode w = 1 ∧ (!odOutV w ∨ !odAuxV w ∨ far (dpCnt w) (4 * p * el))) ∨
      (dpMode w = 2 ∧ (!odMovV w ∨ dpNvec w = 0 ∨ dpTokens w = 0)) ∨ (dpMode w ≠ 2 ∧ d.epBad (dpLayer w)) then some 1 else none

/-- R245: the expert-parallel configuration is at fault. -/
def Dev.dispatchCfg (d : Dev) (w : Nat) : Bool := dpMode w ≠ 2 && d.epBad (dpLayer w)

def dispatchSteps (w : Nat) : Steps :=
  match dpMode w with
  | 0 =>
    let part (r : Role) (s : Nat) : Nat := match r with
      | .mov => 64 * (s + 1)
      | .sta => dpRow w * (s + 1)
      | _ => 0
    ⟨dpTokens w, true, part, part, fun _ _ => 0⟩
  | 1 => ⟨1, true, fun _ _ => 0, fun _ _ => 0, fun _ _ => 0⟩
  | _ => ⟨1, true, fun r _ => if r = .mov then 4 * dpTokens w else 0, fun r _ => if r = .mov then 4 * dpTokens w else 0, fun _ _ => 0⟩

/-- Where a pair goes (R234). -/
inductive Dest where
  | home (h x i : Nat)
  | trav (e : Nat)
deriving DecidableEq, Repr

/-- A pair: (token, k, expert, weight). -/
structure DPair where
  defer : Bool
  src : Nat
  token : Nat
  k : Nat
  e : Nat
  w : Nat
  dest : Option Dest
  fault : Bool
deriving DecidableEq, Repr

/-- Rows counted while pairs are placed. -/
structure Placer where
  cnt : List (Nat × Nat)
  trv : Nat
deriving DecidableEq, Repr

/-- place(p, e). -/
def Dev.placeRow (d : Dev) (op w : Nat) (travel : List Nat) (p : Placer) (e : Nat) : Option (Placer × Dest) :=
  match d.dirEntry op (dpLayer w) e with
  | none => none
  | some en =>
    if travel.contains e then (if p.trv < dpTrvRows w then some ({ p with trv := p.trv + 1 }, .trav e) else none)
    else
      let key := deRank en * d.epLocal + deSlot en
      let i := stGet (fun _ => 0) p.cnt key
      if i < d.layCap (dpLayer w) then some ({ p with cnt := stSet (fun _ => 0) p.cnt key (i + 1) }, .home (deRank en) (deSlot en) i) else none

/-- R235: which experts travel. -/
def Dev.chooseTravel (d : Dev) (op w : Nat) (n : List (Nat × Nat)) : Dev × List Nat :=
  let l := dpLayer w
  let cands := n.filter fun x => (d.dirEntry op l x.1).elim false fun en => deHome en ≠ d.id &&
    decide (d.force (R.EXP_LAYER_TRAVEL_EN l) = 1) && decide (d.force R.EXP_CTL_WEIGHT_TRAVEL_MIN ≤ x.2)
  let cands := (sortBy (fun (a b : Nat × Nat) => decide (b.2 < a.2) || (a.2 = b.2 && decide (a.1 ≤ b.1))) cands).take (dpTravelMax w)
  cands.foldl (fun (a : Dev × List Nat) x =>
    let (d, ts) := a
    match d.dirEntry op l x.1 with
    | none => a
    | some en =>
      match (d.residency l x.1 (deVersion en)).filter fun r => d.get (R.EXP_RES_W0_STATE r) ≠ 3 with
      | some r =>
        let d := if d.flag (R.EXP_RES_W0_PREDICTED r) && !d.flag (R.EXP_RES_W0_USED r) then d.count R.EXP_PRED_HITS 1 else d
        (((d.set (R.EXP_RES_W0_USES r) (d.get (R.EXP_RES_W0_USES r) + 1)).touchEntry r).refreshExp, ts ++ [x.1])
      | none =>
        let d := d.count R.EXP_PRED_MISS_MISSES 1
        if d.force R.EXP_CTL_MISS_FETCH = 0 then (d, ts) else
        match d.claimCopy l x.1 en true with
        | (some r, d) => ((d.set (R.EXP_RES_W0_USES r) 1).refreshExp, ts ++ [x.1])
        | (none, d) => (d, ts)) (d, [])

/-- Byte size of a DEF entry (R237). -/
def dpDefEntry (w : Nat) : Nat := 64 + dpRow w + dpSrow w

/-- A routing record of MOV: weights, experts, token, K; and whether it is poisoned. -/
def TileUnit.routing (u : TileUnit) (j : Nat) : List Byte × Bool :=
  match u.roleStream .mov with
  | some s => let g := u.streamBytes s (64 * j) 64; (g.bytes, g.anyPoison)
  | none => (List.replicate 64 0, false)

/-- Data whose place was formed from poisoned values is poisoned (R104). -/
def Got.mark (g : Got) (bad : Bool) : Got := ⟨g.bytes, g.poison.map (· || bad)⟩

/-- A routing record of the operation is poisoned, and with it every count. -/
def TileUnit.routingBad (u : TileUnit) (w : Nat) : Bool := (List.range (dpTokens w)).any fun j => (u.routing j).2

/-- Row bytes and scale bytes of a row to be sent. -/
def Dev.rowBytes (d : Dev) (t w : Nat) (defer : Bool) (src : Nat) : Got × Got :=
  let u := d.tile t
  if defer then
    let named := d.poisonedAt (dpDef w + src * dpDefEntry w) 16
    let get (o n : Nat) : Got := ((d.memRead (tileIngress t) (dpDef w + src * dpDefEntry w + o) n).2.getD ⟨List.replicate n 0, List.replicate n false⟩).mark named
    (get 64 (dpRow w), get (64 + dpRow w) (dpSrow w))
  else
    match u.roleStream .sta with
    | none => (⟨[], []⟩, ⟨[], []⟩)
    | some s =>
      ((u.streamBytes s (src * dpRow w) (dpRow w)).mark (u.routing src).2,
       match u.scaleOf s with
       | some q => (u.streamBytes q (src * dpSrow w) (dpSrow w)).mark (u.routing src).2
       | none => ⟨List.replicate (dpSrow w) 0, List.replicate (dpSrow w) false⟩)

/-- R236: bytes go to a device's local offset in packets of at most 2,048 bytes. -/
def Dev.sendBytes (d : Dev) (t op dev off : Nat) (g : Got) : Dev :=
  let n := g.bytes.length
  let d := d.count R.EXP_BYTES_BYTES n
  (packetParts (n / 2048 + n / 8192 + 3) off n 0).foldl (fun (d : Dev) q =>
    d.sendOut t op .out 3 dev (off + q.1) ((g.bytes.drop q.1).take q.2) ((g.poison.drop q.1).take q.2)) d

/-- Rows that follow one another at their home. -/
def rowRuns : List SendRow → List (List SendRow)
  | [] => []
  | r :: rest =>
    match rowRuns rest with
    | (q :: qs) :: more => if q.home = r.home && decide (q.row = r.row + 1) then (r :: q :: qs) :: more else [r] :: (q :: qs) :: more
    | other => [r] :: other

def catGot (l : List Got) : Got := ⟨l.flatMap (·.bytes), l.flatMap (·.poison)⟩

/-- The rows of a plan bound for homes with HRANK mod T = r, and their counts. -/
def Dev.sendMove (d : Dev) (t op w rank : Nat) (p : SendPlan) : Dev :=
  let n := (d.opOf op).elim 1 fun o => o.tiles.length
  let mine (h : Nat) : Bool := h % n = rank
  let rows := sortBy (fun (a b : SendRow) => decide (a.home < b.home) || (a.home = b.home && decide (a.row ≤ b.row)))
    (p.rows.filter fun r => !r.travel && !r.defer && mine r.home)
  let d := (rowRuns rows).foldl (fun (d : Dev) run_ =>
    match run_ with
    | [] => d
    | r :: _ =>
      let gs := run_.map fun q => d.rowBytes t w q.defer q.src
      let dev := d.epDevice r.home
      let d := d.sendBytes t op dev (dpRx w + r.row * dpRow w) (catGot (gs.map (·.1)))
      if dpSrow w = 0 then d else d.sendBytes t op dev (dpRxs w + r.row * dpSrow w) (catGot (gs.map (·.2)))) d
  (p.counts.filter fun c => mine c.1).foldl (fun (d : Dev) c =>
    let bs := c.2.flatMap (leBytes 4)
    d.sendBytes t op (d.epDevice c.1) (dpCnt w + 4 * (d.epSelf * d.epLocal)) ⟨bs, bs.map fun _ => (d.tile t).routingBad w⟩) d

/-- One row written to a place of this device or another. -/
def Dev.sendRow (d : Dev) (t op w : Nat) (r : SendRow) : Dev :=
  let (g, s) := d.rowBytes t w r.defer r.src
  let dev := if r.travel then d.id else d.epDevice r.home
  let d := d.sendBytes t op dev ((if r.travel then dpTrv w else dpRx w) + r.row * dpRow w) g
  if dpSrow w = 0 then d else d.sendBytes t op dev ((if r.travel then dpTrvs w else dpRxs w) + r.row * dpSrow w) s

/-- R234: the rank-0 tile places the pairs. -/
def Dev.sendPlace (d : Dev) (t : Nat) (x : Exec) : Dev :=
  let w := x.desc
  let l := dpLayer w
  let u := d.tile t
  let recs := (List.range (dpTokens w)).map u.routing
  let recOf (j : Nat) : List Byte := (recs.getD j ([], false)).1
  let kOf (j : Nat) : Nat := min 8 (recNat (recOf j) 0x34 1)
  let nDef := stGet (fun _ => 0) d.exp.defs (dpDef w)
  let defs : List DPair := if dpDeferIn w then (List.range nDef).map fun i =>
      let h := d.peek (dpDef w + i * dpDefEntry w) 16
      ⟨true, i, recNat h 0 4, recNat h 4 4, recNat h 8 4, recNat h 12 4, none, false⟩ else []
  let own : List DPair := (List.range (dpTokens w)).flatMap fun j => (List.range (kOf j)).map fun k =>
    ⟨false, j, recNat (recOf j) 0x30 4, k, recNat (recOf j) (0x20 + 2 * k) 2, recNat (recOf j) (4 * k) 4, none, false⟩
  -- every expert's entry is kept as first read (R231)
  let d := (defs ++ own).foldl (fun (d : Dev) p => d.dirKeep x.op l p.e) d
  let n := own.foldl (fun (m : List (Nat × Nat)) p => stSet (fun _ => 0) m p.e (stGet (fun _ => 0) m p.e + 1)) []
  let (d, travel) := d.chooseTravel x.op w n
  -- first choices
  let (pl, ps) : Placer × List DPair := (defs ++ own).foldl (fun (a : Placer × List DPair) p =>
    if (d.dirEntry x.op l p.e).isNone then (a.1, a.2 ++ [{ p with fault := true }])
    else match d.placeRow x.op w travel a.1 p.e with
      | some (pl, dst) => (pl, a.2 ++ [{ p with dest := some dst }])
      | none => (a.1, a.2 ++ [p])) (⟨[], 0⟩, [])
  let d := if ps.any (·.fault) then d.raise1 R.EXP_ERR_DIR_INVALID l else d
  let policy := d.force (R.EXP_LAYER_POLICY l)
  -- overflowed pairs
  let deferRow (d : Dev) (p : DPair) : Dev :=
    let i := stGet (fun _ => 0) d.exp.defs (dpDef w)
    let (g, s) := d.rowBytes t w p.defer p.src
    let head := leBytes 4 p.token ++ leBytes 4 p.k ++ leBytes 4 p.e ++ leBytes 4 p.w ++ leBytes 48 0
    let body : Got := ⟨head ++ g.bytes ++ s.bytes, head.map (fun _ => false) ++ g.poison ++ s.poison⟩
    let d := (d.memWrite (tileIngress t) (dpDef w + i * dpDefEntry w) body.bytes fun k => body.poison.getD k false).1
    ({ d with exp := { d.exp with defs := stSet (fun _ => 0) d.exp.defs (dpDef w) (i + 1) } }).count R.EXP_DEFER_DEFERRED 1
  -- rows from the defer list move before the area is used again
  let place (ps : List DPair) : List SendRow :=
    let base : List (Nat × Nat) := travel.foldl (fun (m : List (Nat × Nat)) e =>
      m ++ [(e, m.foldl (fun s z => s + (ps.filter fun p => p.dest = some (.trav z.1)).length) 0)]) []
    ((List.range ps.length).zip ps).filterMap fun (i, p) =>
      match p.dest with
      | none => none
      | some (.home h s r) => some ⟨p.defer, p.src, false, h, (s * d.epP + d.epSelf) * d.layCap l + r⟩
      | some (.trav e) =>
        let before := ((ps.take i).filter fun q => q.dest = some (.trav e)).length
        some ⟨p.defer, p.src, true, 0, ((base.find? fun z => z.1 = e).elim 0 (·.2)) + before⟩
  let (pl, ps) : Placer × List DPair := if policy = 1 then
      ((List.range ps.length).foldl (fun (a : Placer × List DPair) i =>
        let p := a.2.getD i ⟨false, 0, 0, 0, 0, 0, none, true⟩
        if p.dest.isSome ∨ p.fault ∨ p.defer then a else
        let alts := (List.range (8 - kOf p.src)).map fun q => recNat (recOf p.src) (0x20 + 2 * (kOf p.src + q)) 2
        let used := (a.2.filter fun q => !q.defer && q.src = p.src).map (·.e)
        match (alts.filter fun e => e ≠ 0xFFFF && !used.contains e).findSome? fun e => (d.placeRow x.op w travel a.1 e).map fun r => (e, r) with
        | some (e, pl, dst) => (pl, a.2.set i { p with e := e, dest := some dst })
        | none => a) (pl, ps))
    else (pl, ps)
  let second := (ps.filter fun p => p.dest.isSome && !p.defer && p.e ≠ recNat (recOf p.src) (0x20 + 2 * p.k) 2).length
  let d := d.count R.EXP_CAP_SECOND second
  let rows := place ps
  let d := (rows.filter (·.defer)).foldl (fun (d : Dev) r => d.sendRow t x.op w r) d
  let d := if dpDeferIn w then { d with exp := { d.exp with defs := stSet (fun _ => 0) d.exp.defs (dpDef w) 0 } } else d
  let lost := ps.filter fun p => p.dest.isNone && !p.fault
  let d := if policy = 2 then
      lost.foldl (fun (d : Dev) p =>
        if p.defer ∨ dpDefMax w ≤ stGet (fun _ => 0) d.exp.defs (dpDef w) then d.count R.EXP_DEFER_DEFER_DROPPED 1 else deferRow d p) d
    else d.count R.EXP_CAP_DROPPED lost.length
  let ntrav := (rows.filter (·.travel)).length
  let d := (d.count R.EXP_TRAVEL_CNT_EXPERTS travel.length).count R.EXP_TRAVEL_CNT_PAIRS ntrav
  let d := (rows.filter fun r => r.travel && !r.defer).foldl (fun (d : Dev) r => d.sendRow t x.op w r) d
  -- RET rows of placed pairs, and combine records (R234)
  let ret (p : DPair) : Option Nat :=
    match p.dest with
    | none => none
    | some (.home h s r) => some ((h * d.epLocal + s) * d.layCap l + r)
    | some (.trav e) =>
      let i := (ps.findIdx? fun q => q = p).getD 0
      let before := (travel.takeWhile fun f => f ≠ e).foldl (fun s f => s + (ps.filter fun q => q.dest = some (.trav f)).length) 0
      some (d.epP * d.epLocal * d.layCap l + before + ((ps.take i).filter fun q => q.dest = some (.trav e)).length)
  let d := (ps.filter (·.defer)).foldl (fun (d : Dev) p => match ret p with
    | some r => { d with exp := { d.exp with placed := d.exp.placed ++ [⟨l, p.token, p.w, r⟩] } }
    | none => d) d
  let d := match u.roleStream .out with
    | none => d
    | some o => (List.range (dpTokens w)).foldl (fun (d : Dev) j =>
        let mine := ps.filter fun (p : DPair) => !p.defer && p.src = j
        let slot (k : Nat) : Option (Nat × Nat) := (mine.find? fun (p : DPair) => p.k = k).bind fun p => (ret p).map fun r => (p.w, r)
        let bs := (List.range 8).flatMap (fun k => leBytes 4 ((slot k).elim 0 (·.1))) ++
          (List.range 8).flatMap fun k => leBytes 4 ((slot k).elim 0xFFFFFFFF (·.2))
        let pz := bs.map fun _ => (recs.getD j ([], false)).2 || x.bad j
        d.putRaw t o (64 * j) bs pz) d
  -- the travel part of CNT
  let tl := (List.range (dpTravelMax w)).flatMap fun i => match travel[i]? with
    | some e => leBytes 4 e ++ leBytes 4 (ps.filter fun p => p.dest = some (.trav e)).length
    | none => leBytes 8 0
  let d := if tl.isEmpty then d else d.sendBytes t x.op d.id (dpCnt w + 4 * d.epP * d.epLocal) ⟨tl, tl.map fun _ => u.routingBad w⟩
  let counts := (List.range d.epP).map fun h => (h, (List.range d.epLocal).map fun s => stGet (fun _ => 0) pl.cnt (h * d.epLocal + s))
  { d with exp := { d.exp with sends := d.exp.sends ++ [(⟨x.op, rows, counts⟩ : SendPlan)] } }

/-- SEND on a tile: rank 0 places, and every rank moves its share once the pairs are placed. -/
def Dev.runSend (d : Dev) (t : Nat) (_ : TileUnit) (x : Exec) : Dev :=
  let d := if x.rank = 0 then d.sendPlace t x else d
  match d.exp.sends.find? fun p => p.op = x.op with
  | some p => d.sendMove t x.op x.desc x.rank p
  | none => d

/-- R238: PLAN. -/
def Dev.runPlan (d : Dev) (t : Nat) (u : TileUnit) (x : Exec) : Dev :=
  let w := x.desc
  if x.rank ≠ 0 then d else
  let p := d.epP
  let el := d.epLocal
  let cap := d.layCap (dpLayer w)
  match d.memRead (tileIngress t) (dpCnt w) (4 * p * el) with
  | (d, none) => d
  | (d, some g) =>
    let c (s y : Nat) : Nat := recNat g.bytes (4 * (s * el + y)) 4
    let sums := (List.range el).flatMap fun y => leBytes 4 ((List.range p).foldl (fun n s => n + c s y) 0)
    let idx := (List.range el).flatMap fun y => (List.range p).flatMap fun s => (List.range (c s y)).flatMap fun i => leBytes 4 ((y * p + s) * cap + i)
    let pz (l : List Byte) : List Bool := l.map fun _ => g.anyPoison || x.bad 0
    let d := match u.roleStream .aux with | some a => d.putRaw t a 0 sums (pz sums) | none => d
    match u.roleStream .out with | some o => d.putRaw t o 0 idx (pz idx) | none => d

/-- R239: PREFETCH. -/
def Dev.runPrefetch (d : Dev) (_ : Nat) (u : TileUnit) (x : Exec) : Dev :=
  let w := x.desc
  let l := dpLayer w
  if x.rank ≠ 0 ∨ d.force R.EXP_CTL_PREFETCH_EN = 0 then d else
  match u.roleStream .mov with
  | none => d
  | some s =>
    let e := dpTokens w / dpNvec w
    let b := (u.streamBytes s 0 (4 * dpTokens w)).bytes
    let pred := (List.range e).map fun i => (i, (List.range (dpNvec w)).foldl (fun n v => n + recNat b (4 * (v * e + i)) 4) 0)
    let cands := pred.filter fun z => (d.dirEntry x.op l z.1).elim false fun en => deHome en ≠ d.id &&
      decide (d.force (R.EXP_LAYER_TRAVEL_EN l) = 1) && decide (d.force R.EXP_CTL_WEIGHT_TRAVEL_MIN ≤ z.2) && (d.residency l z.1 (deVersion en)).isNone
    let cands := (sortBy (fun (a b : Nat × Nat) => decide (b.2 < a.2) || (a.2 = b.2 && decide (a.1 ≤ b.1))) cands).take (dpTravelMax w)
    (cands.foldl (fun (a : Dev × Bool) z =>
      if a.2 then a else
      let d := a.1.dirKeep x.op l z.1
      match d.dirEntry x.op l z.1 with
      | none => (d, false)
      | some en => match d.claimCopy l z.1 en false with
        | (some _, d) => (d, false)
        | (none, d) => (d, true)) (d, false)).1

/-- The work of a class on a tile in one mode of it. -/
def Dev.modeRow (d : Dev) (t cls : Nat) (ok : Nat → Bool) (plan : Nat → Steps) (f : Dev → Nat → TileUnit → Exec → Dev) : Dev :=
  if (d.tile t).exec.elim false fun x => ok x.desc then d.classRow t cls (fun _ x => plan x.desc) fun d => f d t else d

/-- SEND's rows need the placement that the rank-0 tile makes. -/
def Dev.sendReady (d : Dev) (t : Nat) : Bool :=
  (d.tile t).exec.elim false fun x => x.rank = 0 || d.exp.sends.any fun p => p.op = x.op

def execDispatchSend (t : Nat) (s : State) : Host.Outcome State Fault Refusal :=
  run s fun d => if d.sendReady t then d.modeRow t 0x22 (fun w => dpMode w = 0) dispatchSteps Dev.runSend else d
def execDispatchPlan (t : Nat) (s : State) : Host.Outcome State Fault Refusal := run s fun d => d.modeRow t 0x22 (fun w => dpMode w = 1) dispatchSteps Dev.runPlan
def execDispatchPrefetch (t : Nat) (s : State) : Host.Outcome State Fault Refusal := run s fun d => d.modeRow t 0x22 (fun w => dpMode w = 2) dispatchSteps Dev.runPrefetch

/-! ### COMBINE (Table 11.8) -/

def cbLayer (w : Nat) : Nat := bits w 135 128
def cbGather (w : Nat) : Bool := bitAt w 136
def cbDeferAdd (w : Nat) : Bool := bitAt w 137
def cbRows (w : Nat) : Nat := bits w 217 186
def cbRow (w : Nat) : Nat := bits w 237 218
def cbOutRow (w : Nat) : Nat := bits w 257 238
def cbRet (w : Nat) : Nat := bits w 286 258 * 65536
def cbPrev (w : Nat) : Nat := bits w 315 287 * 65536

def Dev.combineFault (d : Dev) (w : Nat) : Option Nat :=
  if odFmtBad w ∨ bits w 511 316 ≠ 0 ∨ bits w 185 138 ≠ 0 ∨ !odMovV w ∨ cbRow w = 0 ∨ (!cbGather w ∧ (!odStaV w ∨ d.epBad (cbLayer w))) ∨
      (cbGather w ∧ (!odOutV w ∨ codeMx (odFmtSta w))) then some 1 else none
def Dev.combineCfg (d : Dev) (w : Nat) : Bool := !cbGather w && d.epBad (cbLayer w)

/-- One row, or one token, a step. -/
def combineSteps (w : Nat) : Steps :=
  let part (r : Role) (s : Nat) : Nat := match r with
    | .mov => (if cbGather w then 64 else cbRow w) * (s + 1)
    | .sta => if cbGather w then 0 else 4 * (s + 1)
    | _ => 0
  ⟨cbRows w, true, part, part, fun r s => match r with
    | .out => if cbGather w then elemBytes (odFmtOut w) ((s + 1) * (cbRow w * 8 / codeWidth (odFmtSta w))) else 0
    | _ => 0⟩

/-- RETURN (R244). -/
def Dev.runReturn (d : Dev) (t : Nat) (u : TileUnit) (x : Exec) : Dev :=
  let w := x.desc
  let n := (d.opOf x.op).elim 1 fun o => o.tiles.length
  let cap := d.layCap (cbLayer w)
  match u.roleStream .mov, u.roleStream .sta with
  | some mv, some ix =>
    let rows := ((List.range (cbRows w)).map fun j =>
      let v := leNat (u.streamBytes ix (4 * j) 4).bytes
      (⟨false, j, false, v / cap % d.epP, (d.epSelf * d.epLocal + v / cap / d.epP) * cap + v % cap⟩ : SendRow)).filter fun r => r.home % n = x.rank
    let rows := sortBy (fun (a b : SendRow) => decide (a.home < b.home) || (a.home = b.home && decide (a.row ≤ b.row))) rows
    (rowRuns rows).foldl (fun (d : Dev) run_ =>
      match run_ with
      | [] => d
      | r :: _ =>
        let g := catGot (run_.map fun q =>
          let b := u.streamBytes mv (q.src * cbRow w) (cbRow w)
          let named := (u.streamBytes ix (4 * q.src) 4).anyPoison
          ⟨b.bytes, b.poison.map fun p => p || named || x.bad q.src⟩)
        d.sendBytes t x.op (d.epDevice r.home) (cbRet w + r.row * cbRow w) g) d
  | _, _ => d

/-- A RET row in FMT_STA. -/
def Dev.retRow (d : Dev) (t w n : Nat) : Dev × List PV :=
  let k := cbRow w * 8 / codeWidth (odFmtSta w)
  match d.memRead (tileIngress t) (cbRet w + n * cbRow w) (cbRow w) with
  | (d, some g) => (d, (List.range k).map fun i =>
      ⟨f32Enc (fpDec ((codeFmt (odFmtSta w)).getD fmtFp32) (bitField g.bytes (i * codeWidth (odFmtSta w)) (codeWidth (odFmtSta w)))),
        g.poison.getD (i * codeWidth (odFmtSta w) / 8) false⟩)
  | (d, none) => (d, List.replicate k ⟨0, false⟩)

/-- GATHER (R244): token j. -/
def Dev.gatherStep (d : Dev) (t : Nat) (x : Exec) (j : Nat) : Dev :=
  let w := x.desc
  let u := d.tile t
  if x.rank ≠ 0 ∨ !cbGather w then d else
  let n := cbRow w * 8 / codeWidth (odFmtSta w)
  match u.roleStream .mov, u.roleStream .out with
  | some mv, some o =>
    let g := u.streamBytes mv (64 * j) 64
    let (d, acc) := (List.range 8).foldl (fun (a : Dev × List PV) k =>
      let r := recNat g.bytes (0x20 + 4 * k) 4
      if r = 0xFFFFFFFF then a else
      let (d, row) := a.1.retRow t w r
      let wk := recNat g.bytes (4 * k) 4
      (d, (List.range n).map fun i =>
        let y := row.getD i ⟨0, false⟩
        let s := a.2.getD i ⟨0, false⟩
        (⟨f32Fma wk y.v s.v, s.p || y.p || g.anyPoison⟩ : PV))) (d, List.replicate n ⟨0, g.anyPoison⟩)
    d.putOut t o (j * n) (encode (odFmtOut w) (fun i => odRound w x.rank j (odFmtOut w) i) (odSat w) (acc.map fun v => x.taint j v.val)) false
  | _, _ => d

/-- DEFER_ADD (R244): the rows of deferred pairs of the layer are added into the previous output. -/
def Dev.deferAdd (d : Dev) (t : Nat) (w : Nat) : Dev :=
  let mine := d.exp.placed.filter fun p => p.layer = cbLayer w
  let d := mine.foldl (fun (d : Dev) p =>
    let (d, row) := d.retRow t w p.row
    let at_ := cbPrev w + p.token * cbOutRow w
    let f := (codeFmt (odFmtOut w)).getD fmtFp32
    match d.memRead (tileIngress t) at_ (cbOutRow w) with
    | (d, none) => d
    | (d, some g) =>
      let wd := codeWidth (odFmtOut w)
      let vs := (List.range (cbOutRow w * 8 / wd)).map fun i =>
        let y := row.getD i ⟨0, false⟩
        ⟨fpAdd (fpDec f (bitField g.bytes (i * wd) wd)) (fpMul (f32Dec p.w) (f32Dec y.v)), y.p || g.poison.getD (i * wd / 8) false⟩
      let e := encode (odFmtOut w) (fun _ => .rne) (odSat w) vs
      (d.memWrite (tileIngress t) at_ e.bytes fun i => e.pz.getD i false).1) d
  { d with exp := { d.exp with placed := d.exp.placed.filter fun p => p.layer ≠ cbLayer w } }

/-- COMBINE in GATHER mode: the tokens issued end; the deferred rows follow the last. -/
def Dev.gatherRun (d : Dev) (t : Nat) : Dev :=
  if (d.tile t).exec.elim false fun x => cbGather x.desc then
    d.classRun t 0x23 (fun _ x => combineSteps x.desc) fun d x j =>
      let d := d.gatherStep t x j
      if x.rank = 0 && cbDeferAdd x.desc && decide (j + 1 = cbRows x.desc) then d.deferAdd t x.desc else d
  else d

def execCombineReturn (t : Nat) (s : State) : Host.Outcome State Fault Refusal := run s fun d => d.modeRow t 0x23 (fun w => !cbGather w) combineSteps Dev.runReturn
def execCombineGather (t : Nat) (s : State) : Host.Outcome State Fault Refusal := run s fun d => d.gatherRun t

end Sys2Proof.Machine
end

