-- ==== Sys2Proof/Machine/Program.lean ====
section
/-!
DEFINITION. Programs in work: the VEC_PROGRAM and UPDATE classes (R83, R263–R272) and the row of each instruction of
Table 13.4. The program runs word by word as far as the steps that were issued reach.
-/

namespace Sys2Proof.Machine

/-! ### The VEC_PROGRAM class -/

/-- An operation runs a program. -/
def isProgram (w : Nat) : Bool := odClass w = 0x20 || odClass w = 0x30

/-- R83, R269: what is wrong with a VEC_PROGRAM descriptor. -/
def Dev.vecFault (d : Dev) (w : Nat) : Option Nat :=
  let words := (List.range 64).map fun i => d.progWord (vdProg w) i
  if bits w 511 256 ≠ 0 ∨ bits w 143 136 ≠ 0 ∨ vdCount w = 0 ∨ vdStepVec w = 0 ∨ odFmtBad w ∨ d.progCount ≤ vdProg w ∨
      progBad words (fun _ => true) false true then some 1 else none

/-- Positions of 512 elements. -/
def vdPositions (w : Nat) : Nat := ceilDiv (vdCount w) 512

/-- Its steps: STEP_VEC vectors each. -/
def vecSteps (w : Nat) : Steps :=
  let upTo (s : Nat) : Nat := min (vdCount w) (512 * vdStepVec w * (s + 1))
  let part (r : Role) (s : Nat) : Nat := match r with
    | .mov => elemBytes (odFmtMov w) (upTo s)
    | .sta => elemBytes (odFmtSta w) (upTo s)
    | _ => 0
  ⟨ceilDiv (vdPositions w) (vdStepVec w), true, part, part, fun r s => match r with
    | .out => elemBytes (odFmtOut w) (upTo s)
    | .aux => elemBytes (odFmtAux w) (upTo s)
    | _ => 0⟩

/-! ### The records of an UPDATE -/

/-- The list of an EMBED record has come. -/
def Dev.listReady (d : Dev) (t k r : Nat) : Bool :=
  !trEmbed r || trList r = 0 || d.gradLocal r ||
    (match (d.tile t).roleStream (.extra k) with
     | some s => d.prefixReady t s (ceilDiv (4 * trList r) 2048)
     | none => false)

/-- What is known of a rank's records, from the first: steps of each, in order; then whether the next one halts the tile. -/
def Dev.knownRecords (d : Dev) (t : Nat) (x : Exec) : Nat → Nat → List Nat × Bool
  | 0, _ => ([], false)
  | n + 1, k =>
    match d.tensorAt t x k with
    | none => ([], false)
    | some r =>
      if d.tensorBad x.desc r then ([], true)
      else if !d.listReady t k r then ([], false)
      else
        let (l, b) := d.knownRecords t x n (k + 1)
        (d.tensorSteps t k r :: l, b)

/-- Bytes of MOV up to and with record k of a rank. -/
def Dev.recordBytes (d : Dev) (x : Exec) (k : Nat) : Nat :=
  64 * (x.rank + k * ((d.opOf x.op).elim 1 fun o => o.tiles.length) + 1)

/-- The steps of an UPDATE as far as its records are known (R264), and whether the next record halts the tile. -/
def Dev.updateSteps (d : Dev) (t : Nat) (x : Exec) : Steps × Bool :=
  let total := d.tensorCount x
  let (l, bad) := d.knownRecords t x total 0
  let sums := l.foldl (fun (a : List Nat) n => a ++ [a.getLastD 0 + n]) []
  let recOf (s : Nat) : Nat := (sums.findIdx? fun n => decide (s < n)).getD l.length
  ({ count := sums.getLastD 0, final := decide (l.length = total)
     need := fun r s => match r with
       | .mov => if recOf s < total then d.recordBytes x (recOf s) else 0
       | .extra k =>
         if recOf s = k then (d.tensorAt t x k).elim 0 fun r => if k < l.length then trGradLen r else 4 * trList r else 0
       | _ => 0
     done := fun r s => match r with
       | .mov => if s + 1 = sums.getLastD 0 ∧ l.length = total then 64 * udTensors x.desc else 0
       | _ => 0
     outs := fun _ _ => 0 }, bad)

/-- The gradients of known records that lie on other devices are fetched by requests of the operation's own (R263). -/
def Dev.openGradients (d : Dev) (t : Nat) (x : Exec) : Dev :=
  (List.range (d.tensorCount x)).foldl (fun (d : Dev) k =>
    match d.tensorAt t x k with
    | some r =>
      if d.gradLocal r || ((d.tile t).roleStream (.extra k)).isSome || d.tensorBad x.desc r || decide (k < (d.tile t).vec.record) then d
      else (d.openCtx t 0xFFFFF x.op false (.extra k) (trG r + trGradLen r * 2 ^ 128) none).1
    | none => d) d

/-! ### Loads -/

/-- Poison that a program consumes (R86). -/
def Dev.poisonRead (d : Dev) (t : Nat) (x : Exec) : Dev :=
  let (e, i) := d.opArgs x.op
  (d.raise (R.TILE_ERR_POISON_IN t) 0 e i).logError 1 4 t 0 (tileIngress t) i

/-- `n` elements from element e on, at a local offset, widened to FP32. -/
def Dev.loadElems (d : Dev) (t base fmt e n : Nat) : Dev × List PV :=
  let w := codeWidth fmt / 8
  match d.memRead (tileIngress t) (base + e * w) (n * w) with
  | (d, some g) => (d, (List.range n).map fun i =>
      ⟨f32Enc (fpDec ((codeFmt fmt).getD fmtFp32) (recNat g.bytes (i * w) w)), g.poison.getD (i * w) false⟩)
  | (d, none) => (d, List.replicate n ⟨0, false⟩)

/-- The tensor that a program works on: its record, number, and position. -/
structure Work where
  r : Nat
  k : Nat
  pos : VecPos
  act : Nat
deriving DecidableEq, Repr

/-- Where the rank's workspace slot w lies (R265). -/
def slotBytes (r : Nat) : Nat := ceilDiv (trElems r * 2) 65536 * 65536
def Exec.slotAt (x : Exec) (r w : Nat) : Nat := (udWork x.desc + x.rank * udWorkStride x.desc) * 65536 + w * slotBytes r

/-- Lanes of a load that did not happen: an input whose stream is not valid (R80). -/
def Dev.unread (d : Dev) : Dev × List PV :=
  let (k, d) := d.draw
  (d, (List.range 512).map fun i => ⟨Config.freeWord k i % 2 ^ 32, false⟩)

/-- A load word of a program on tile t: the elements that it reads. -/
def Dev.progRead (d : Dev) (t : Nat) (x : Exec) (y : Work) (w : Nat) : Dev × List PV :=
  let p := y.pos
  let o := iwOpc w
  if odClass x.desc = 0x20 then
    match (if o = 1 then (d.tile t).roleStream .mov else (d.tile t).roleStream .sta) with
    | some s => (d, ((d.tile t).vals s p.e p.n).map Val.f32)
    | none => d.unread
  else
    let live := d.liveWindow.elim 0 (·.1)
    match o with
    | 1 => d.loadElems t (live + trP y.r) (odFmtOut x.desc) p.e p.n
    | 2 =>
      let (d, g) := d.gradBytes t y.k y.r p.g (4 * p.n)
      let vs : List PV := (List.range p.n).map fun i => ⟨recNat g.bytes (4 * i) 4, g.poison.getD (4 * i) false⟩
      let hot := (List.range p.n).map fun i => (y.act.testBit i, vs.getD i ⟨0, false⟩)
      ((d.watchEvents (hot.filter fun z => z.1 && !z.2.p && (f32IsNaN z.2.v || f32IsInf z.2.v)).length).watchPoison
        (hot.filter fun z => z.1 && z.2.p).length, vs)
    | 3 => d.loadElems t (live + trS y.r (iwN w)) (odFmtAux x.desc) p.e p.n
    | 4 => d.loadElems t (x.slotAt y.r (iwN w)) 1 p.e p.n
    | _ => (d, List.replicate 512 ⟨f32OfInt ((d.rowEntry y.r p.row) % 2 ^ 32 + 1 : Nat), false⟩)

/-- The lanes that it gives, poisoned where what names their row is (R104). -/
def Dev.progLoad (d : Dev) (t : Nat) (x : Exec) (y : Work) (w : Nat) : Dev × List PV :=
  let (d, l) := d.progRead t x y w
  (d, l.map fun v => { v with p := v.p || y.pos.p })

/-! ### Stores -/

/-- The runs of active lanes: first lane, and length. -/
def laneRuns (act n : Nat) : List (Nat × Nat) :=
  (List.range n).foldl (fun (l : List (Nat × Nat)) i =>
    if !act.testBit i then l else
    match l.getLast? with
    | some (a, k) => if a + k = i then l.dropLast ++ [(a, k + 1)] else l ++ [(i, 1)]
    | none => [(i, 1)]) []

/-- Encoded results go to a local offset; the scales of MX elements to another. -/
def Dev.storeEnc (d : Dev) (t base scales e fmt : Nat) (x : Enc) : Dev :=
  let d := (d.memWrite (tileIngress t) (base + e * codeWidth fmt / 8) x.bytes fun i => x.pz.getD i false).1
  if x.scales.isEmpty then d else (d.memWrite (tileIngress t) (scales + e / 32) x.scales fun i => x.spz.getD i false).1

/-- The active lanes of a vector register stored at element offsets of a place (R96, R97). -/
def Dev.storeLanes (d : Dev) (t : Nat) (x : Exec) (y : Work) (base scales fmt step word : Nat) (l : List Nat) (pz : Nat) : Dev :=
  (laneRuns y.act y.pos.n).foldl (fun (d : Dev) run =>
    let vs := (List.range run.2).map fun i => x.taint step (PV.val ⟨l.getD (run.1 + i) 0, pz.testBit (run.1 + i)⟩)
    let rd (i : Nat) : Rnd := odRound x.desc x.rank step fmt (512 * word + run.1 + i)
    d.storeEnc t base scales (y.pos.e + run.1) fmt (encode fmt rd (odSat x.desc) vs)) d

/-- Where the scales of a compute copy lie, from the alternate window (R263). -/
def copyScales (fmt r : Nat) : Nat := elemBytes fmt (trElems r)

/-- A store word of a program on tile t. -/
def Dev.progStore (d : Dev) (t : Nat) (x : Exec) (y : Work) (c : VecCtx) (w : Nat) : Dev :=
  let o := iwOpc w
  let l := c.vr (iwA w)
  let pz := c.vpz (iwA w)
  if odClass x.desc = 0x20 then
    let fmt := if o = 8 then odFmtOut x.desc else odFmtAux x.desc
    match (d.tile t).roleStream (if o = 8 then .out else .aux) with
    | some s =>
      let step := c.pos / vdStepVec x.desc
      let vs := (List.range y.pos.n).map fun i => x.taint step (PV.val ⟨l.getD i 0, pz.testBit i⟩)
      let rd (i : Nat) : Rnd := odRound x.desc x.rank step fmt (512 * (c.pos % vdStepVec x.desc) + i)
      d.putOut t s y.pos.e (encode fmt rd (odSat x.desc) vs) false
    | none => d
  else
    let alt := d.altWindow.elim 0 (·.1)
    match o with
    | 8 =>
      let d := d.storeLanes t x y (alt + trP y.r) 0 (odFmtOut x.desc) c.used c.pc l pz
      if trC y.r = trNone then d
      else d.storeLanes t x y (alt + trC y.r) (alt + trC y.r + copyScales (odFmtSta x.desc) y.r) (odFmtSta x.desc) c.used c.pc l pz
    | 9 => d.storeLanes t x y (alt + trS y.r (iwN w)) 0 (odFmtAux x.desc) c.used c.pc l pz
    | _ => d.storeLanes t x y (x.slotAt y.r (iwN w)) 0 1 c.used c.pc l pz

/-! ### Matrix phases (R268) -/

/-- A slot's BF16 matrix of `n` elements. -/
def Dev.slotMatrix (d : Dev) (t at_ n : Nat) : Dev × List PV := d.loadElems t at_ 1 0 n

/-- A product of two FP32-widened operand functions with a BF16 result: groups of 32 in K order (R93), one rounding. -/
def matProduct (m n k : Nat) (a b : Nat → Nat → PV) : List PV :=
  (List.range (m * n)).map fun i =>
    let as := (List.range k).map fun q => a (i / n) q
    let bs := (List.range k).map fun q => b q (i % n)
    ⟨accRow 0 (as.map PV.val) (bs.map PV.val), as.any (·.p) || bs.any (·.p)⟩

/-- MGRAM and MMUL: slot D receives the product on the short side. Its columns are those of the long side where one is long. -/
def Dev.progMatrix (d : Dev) (t : Nat) (x : Exec) (y : Work) (w : Nat) : Dev :=
  let r := y.r
  let rows := trRows r
  let cols := trCols r
  let m := min rows cols
  let z : PV := ⟨0, false⟩
  let (d, res) := if iwOpc w = 0x41 then
      let (d, a) := d.slotMatrix t (x.slotAt r (iwA w)) (rows * cols)
      let at_ (i j : Nat) : PV := a.getD (i * cols + j) z
      (d, if rows ≤ cols then matProduct m m cols at_ fun i j => at_ j i else matProduct m m rows (fun i j => at_ j i) at_)
    else
      let (d, a) := d.slotMatrix t (x.slotAt r (iwA w)) (m * m)
      let (d, b) := d.slotMatrix t (x.slotAt r (iwB w)) (rows * cols)
      let sq (i j : Nat) : PV := a.getD (i * m + j) z
      let at_ (i j : Nat) : PV := b.getD (i * cols + j) z
      (d, if rows ≤ cols then matProduct rows cols m sq at_ else matProduct rows cols m at_ sq)
  -- the pass that completes an element, and its place in that pass's output (R75, R97)
  let gram := decide (iwOpc w = 0x41)
  let long := !gram && decide (cols < rows)
  let n := if gram ∨ long then m else cols
  let kbs := ceilDiv (if gram then max rows cols else m) 128
  let place (i : Nat) : Nat × Nat :=
    let (a, b, wide) := if long then (i % n, i / n, rows) else (i / n, i % n, n)
    (b / 128 * kbs + (kbs - 1), a * min 128 (wide - b / 128 * 128) + b % 128)
  let used := (d.tile t).vec.used
  let vs := (List.range res.length).zip res |>.map fun (i, v) => x.taint (used + (place i).1) v.val
  d.storeEnc t (x.slotAt r (iwD w)) 0 0 1
    (encode 1 (fun i => odRound x.desc x.rank (used + (place i).1) 1 (place i).2) (odSat x.desc) vs)

/-! ### The end of a tensor (R271, R272, R366) -/

/-- Bytes copied by the pump from one local offset to another. -/
def Dev.copyRange (d : Dev) (t src dst n : Nat) : Dev :=
  if n = 0 then d else
  match d.memRead (tileIngress t) src n with
  | (d, some g) => (d.memWrite (tileIngress t) dst g.bytes fun i => g.poison.getD i false).1
  | (d, none) => d

/-- One row's parameter, states and copy, unchanged, to the alternate window. -/
def Dev.copyRow (d : Dev) (t : Nat) (x : Exec) (r i : Nat) : Dev :=
  let live := d.liveWindow.elim 0 (·.1)
  let alt := d.altWindow.elim 0 (·.1)
  let cols := trCols r
  let part (d : Dev) (off fmt : Nat) : Dev :=
    if off = trNone then d
    else
      let w := codeWidth fmt
      d.copyRange t (live + off + i * cols * w / 8) (alt + off + i * cols * w / 8) (ceilDiv (cols * w) 8)
  let d := part (part (part d (trP r) (odFmtOut x.desc)) (trS r 0) (odFmtAux x.desc)) (trS r 1) (odFmtAux x.desc)
  let d := part d (trC r) (odFmtSta x.desc)
  if trC r ≠ trNone ∧ codeMx (odFmtSta x.desc) then
    let o := trC r + copyScales (odFmtSta x.desc) r + i * cols / 32
    d.copyRange t (live + o) (alt + o) (ceilDiv ((i + 1) * cols) 32 - i * cols / 32)
  else d

/-- Rows that did not run are copied, and row-table entries written. -/
def Dev.otherRows (d : Dev) (t : Nat) (x : Exec) (k r : Nat) : Dev :=
  if trEmbed r then
    let live := d.liveWindow.elim 0 (·.1)
    let alt := d.altWindow.elim 0 (·.1)
    let (ran, skips) := d.embedRows t k r
    let d := (List.range (trRows r)).foldl (fun (d : Dev) i =>
      if ran.any fun z => z.2 = i then
        let e := d.rowEntry r i
        (d.memWrite (tileIngress t) (alt + trAux r + 8 * i) (leBytes 8 (e / 2 ^ 32 * 2 ^ 32 + (e + 1) % 2 ^ 32)) fun _ => false).1
      else (d.copyRow t x r i).copyRange t (live + trAux r + 8 * i) (alt + trAux r + 8 * i) 8) d
    (d.count R.UPD_EMBED_ROWS ran.length).count R.UPD_EMBED_LIST_SKIPS skips
  else (List.range (trRows r)).foldl (fun (d : Dev) i => if d.frozen r i then d.copyRow t x r i else d) d

/-- Active elements of a tensor. -/
def Dev.activeElems (d : Dev) (t k r : Nat) : Nat :=
  if trEmbed r then (d.embedRows t k r).1.length * trCols r
  else ((List.range (trRows r)).filter fun i => !d.frozen r i).length * trCols r

/-- The last element-wise phase of a program: where it begins. -/
def lastPhase (prog : List Nat) : Nat := ((phaseStarts prog).filter fun p => !opcMatrix (iwOpc (prog.getD (phaseEnd prog p) 0))).getLastD 0

/-- R366: the NORM record of a tensor. -/
def Dev.normRecord (d : Dev) (t : Nat) (x : Exec) (k r : Nat) (c : VecCtx) : Dev :=
  match d.opOf x.op with
  | none => d
  | some o =>
    if !o.obs then d else
    let prog := d.program (trProg r)
    let p := lastPhase prog
    let body := (prog.drop p).take (phaseEnd prog p - p)
    let noP := !(body.any fun w => iwOpc w = 1)
    let noG := !(body.any fun w => iwOpc w = 2)
    let red (n : Nat) : List Nat := ((c.red.find? fun q => q.word = n).map (·.lanes)).getD (List.replicate 512 0)
    let unscale (v : Nat) (e : Int) : Nat := f32Enc (fpScale e (f32Dec v))
    let s : Int := o.scale
    let i := x.rank + k * o.tiles.length
    let logical := (d.placeAt t).elim 0xFFFF (·.tile)
    d.telPut 8 logical d.beatNow (fields [(8, trP r), (4, i), (2, trPgroup r), (1, trProg r), (1, b2n noP + 2 * b2n noG),
      (6, (d.get R.UPD_BANK_LIVE_STEP + 1) % 2 ^ 48), (2, 0), (4, if noP then 0 else laneSum (red 64)),
      (4, unscale (laneSum (red 65)) (-2 * s)), (4, if noP then 0 else laneSum (red 66)), (4, unscale (laneMax (red 67)) (-s)),
      (8, d.activeElems t k r)])

/-- A tensor is complete. -/
def Dev.tensorEnd (d : Dev) (t : Nat) (x : Exec) (y : Work) (c : VecCtx) : Dev :=
  let d := if odClass x.desc = 0x20 then d
    else ((d.otherRows t x y.k y.r).count R.UPD_ELEMENTS_ELEMENTS (d.activeElems t y.k y.r)).normRecord t x y.k y.r c
  let d := d.closeStreams t fun s => s.role = .extra y.k && !s.primed
  let u := d.tile t
  d.setTile t { u with vec := { VecCtx.idle with record := c.record + 1, used := c.used } }

/-! ### One word -/

/-- The tensor in work and its positions; VEC_PROGRAM is one tensor of COUNT elements. -/
def Dev.workOf (d : Dev) (t : Nat) (x : Exec) (k : Nat) : Option (Nat × List VecPos) :=
  if odClass x.desc = 0x20 then
    if k = 0 then some (0, (List.range (vdPositions x.desc)).map fun j => ⟨512 * j, min 512 (vdCount x.desc - 512 * j), 0, 0, false⟩) else none
  else if d.tensorCount x ≤ k then none
  else match d.tensorAt t x k with
    | some r => if d.tensorBad x.desc r || !d.listReady t k r then none else some (r, d.positions t k r)
    | none => none

/-- The program of the tensor. -/
def Dev.progOf (d : Dev) (x : Exec) (r : Nat) : List Nat := d.program (if odClass x.desc = 0x20 then vdProg x.desc else trProg r)

/-- R265: registers at the start of a tensor. -/
def Dev.vecBegin (d : Dev) (x : Exec) (c : VecCtx) : VecCtx :=
  let z := List.replicate 16 0
  let s := if odClass x.desc = 0x20 then (z.set 0 (bits x.desc 223 192)).set 1 (bits x.desc 255 224)
    else (z.set 14 (f32OfInt ((d.get R.UPD_BANK_LIVE_STEP + 1 : Nat) : Int))).set 15
      (f32Enc (.fin false 1 (-(((d.opOf x.op).elim 0 (·.scale) : Nat) : Int))))
  { running := true, v := List.replicate 16 (List.replicate 512 0), vp := z, s := s, sp := List.replicate 16 false
    pc := 0, phase := 0, pos := 0, loops := 0, record := c.record, used := c.used, red := [], firstP := none, firstG := none }

/-- The positions that have been issued. -/
def Dev.posReady (x : Exec) (c : VecCtx) : Bool :=
  if odClass x.desc = 0x20 then decide (c.pos / vdStepVec x.desc < x.step) else decide (c.used < x.step)

/-- R267: the reductions of a phase's body take their final values: across lanes by the pairwise tree. -/
def VecCtx.finish (c : VecCtx) (prog : List Nat) : VecCtx :=
  let b := bodyStart prog c.phase
  let e := phaseEnd prog c.phase
  let c := (List.range (e - b)).foldl (fun (c : VecCtx) i =>
    let w := prog.getD (b + i) 0
    if opcReduce (iwOpc w) then
      match c.red.find? fun r => r.word = iwD w with
      | some r => c.setS (iwD w) (if iwOpc w = 0x2A then laneMax r.lanes else laneSum r.lanes) r.p
      | none => c.setS (iwD w) 0 false
    else c) c
  { c with red := c.red.filter fun r => decide (64 ≤ r.word) }

/-- The sums of a NORM record over one store of the last phase's position (R366). -/
def VecCtx.norm (c : VecCtx) (act : Nat) (stored : Option (List Nat)) (load : Option (Bool × List Nat)) : VecCtx :=
  match load, stored with
  | some (true, l), _ =>
    if c.firstP.isSome then c else { (c.reduce 64 false (l.map fun v => f32Mul v v) 0 act) with firstP := some l }
  | some (false, l), _ =>
    if c.firstG.isSome then c
    else { (c.reduce 65 false (l.map fun v => f32Mul v v) 0 act).reduce 67 true (l.map f32Abs) 0 act with firstG := some l }
  | none, some v =>
    match c.firstP with
    | some p => c.reduce 66 false ((v.zip p).map fun z => let q := f32Sub z.1 z.2; f32Mul q q) 0 act
    | none => c
  | none, none => c

/-- The next position of a body, the next phase, or the end of the tensor, after the word that ends the phase. -/
def Dev.phaseStep (d : Dev) (t : Nat) (x : Exec) (y : Work) (npos : Nat) (prog : List Nat) (c : VecCtx) : Dev :=
  let u := d.tile t
  let b := bodyStart prog c.phase
  let own := decide (b < c.pc) && decide (0 < npos)
  let c := if own then { c with used := c.used + 1, firstP := none, firstG := none } else c
  if own ∧ c.pos + 1 < npos then d.setTile t { u with vec := { c with pc := b, pos := c.pos + 1 } }
  else
    let c := c.finish prog
    if iwOpc (prog.getD c.pc 0) = 0 then d.tensorEnd t x y c
    else d.setTile t { u with vec := { c with pc := c.pc + 1, phase := c.pc + 1, pos := 0 } }

/-- One word runs. `c` is the vector unit, running, and its word may run now. -/
def Dev.runWord (d : Dev) (t : Nat) (x : Exec) (y : Work) (npos : Nat) (prog : List Nat) (c : VecCtx) : Dev :=
  let w := prog.getD c.pc 0
  let o := iwOpc w
  let put (d : Dev) (c : VecCtx) : Dev := d.setTile t { d.tile t with vec := c }
  let next (c : VecCtx) : VecCtx := { c with pc := c.pc + 1 }
  -- a phase without positions has no body
  if c.pc = bodyStart prog c.phase ∧ npos = 0 ∧ !opcPhaseEnd o ∧ o ≠ 0x48 then put d { c with pc := phaseEnd prog c.phase }
  else
    let d := if opcVector o then d.count (R.TILE_VEC_VEC_INSTR t) 1 else d
    let d := if 0x20 ≤ o ∧ o ≤ 0x23 then d.count (R.TILE_VEC_SFU_RESULTS t) 512
      else if 0x35 ≤ o ∧ o ≤ 0x38 then d.count (R.TILE_VEC_SFU_RESULTS t) 1 else d
    let obs := ((d.opOf x.op).elim false (·.obs)) && odClass x.desc = 0x30 && c.phase = lastPhase prog
    if o = 0x48 then
      let left := if c.loops = 0 then iwImm w - 1 else c.loops - 1
      if left = 0 then put d { c with pc := c.pc + 1, phase := c.pc + 1, loops := 0, pos := 0 }
      else put d { c with pc := iwN w, phase := iwN w, loops := left, pos := 0 }
    else if opcMatrix o then
      let d := d.progMatrix t x y w
      put d { c with pc := c.pc + 1, phase := c.pc + 1, pos := 0, used := c.used + trPasses y.r }
    else if opcPhaseEnd o then d.phaseStep t x y npos prog c
    else if o = 0x39 then put d (next (c.setS (iwD w) (iwImm w) false))
    else if o = 0x3A then put d (next (c.setS (iwD w) (d.schedVal (trPgroup y.r) (iwN w)) false))
    else if opcScalar o then
      put d (next (c.setS (iwD w) (scalOp o (c.sr (iwA w)) (c.sr (iwB w)) (iwImm w)) (c.spz (iwA w) || (decide (o ≤ 0x34) && c.spz (iwB w)))))
    else if o ≤ 5 then
      let (d, vs) := d.progLoad t x y w
      let (l, pz) := laneVals vs
      let d := if pz ≠ 0 then d.poisonRead t x else d
      let c := if obs && o ≤ 2 then c.norm y.act none (some (decide (o = 1), l)) else c
      put d (next (c.setV (iwD w) l pz))
    else if o ≤ 0xA then
      let d := d.progStore t x y c w
      put d (next (if obs && o = 8 then c.norm y.act (some (c.vr (iwA w))) none else c))
    else if opcReduce o then
      let a := c.vr (iwA w)
      let lanes := if o = 0x28 then a.map fun v => f32Mul v v else if o = 0x29 then a else a.map f32Abs
      put d (next (c.reduce (iwD w) (decide (o = 0x2A)) lanes (c.vpz (iwA w)) y.act))
    else put d (next (c.vecWord w))

/-- The vector unit takes up the next tensor, if it is known; none where there is nothing to run. -/
def Dev.vecReady (d : Dev) (t : Nat) : Option (Exec × Work × Nat × List Nat × VecCtx) :=
  let u := d.tile t
  match u.exec with
  | none => none
  | some x =>
    if !isProgram x.desc ∨ x.done ∨ (x.halted ∧ x.step = 0) then none else
    match d.workOf t x u.vec.record with
    | none => none
    | some (r, ps) =>
      let prog := d.progOf x r
      let c := if u.vec.running then u.vec else d.vecBegin x u.vec
      let w := prog.getD c.pc 0
      let o := iwOpc w
      let body := decide (bodyStart prog c.phase ≤ c.pc) && !ps.isEmpty && o ≠ 0x48 && !opcMatrix o &&
        decide (bodyStart prog c.phase < phaseEnd prog c.phase)
      if body && !Dev.posReady x c then none
      else if opcMatrix o && decide (x.step < c.used + trPasses r) then none
      else
        let pos := ps.getD c.pos ⟨0, 0, 0, 0, false⟩
        let act := if odClass x.desc = 0x20 then 2 ^ pos.n - 1 else d.activeLanes r pos
        some (x, ⟨r, u.vec.record, pos, act⟩, ps.length, prog, c)

/-- R126: the tile fetches an update program. -/
def Dev.fetchProgram (d : Dev) (t p : Nat) : Dev := (d.sec 11).elim d fun o => d.ncFetch t (o + 12 + 512 * p) 512

/-- One word, if one may run; `op` restricts it to an opcode. -/
def Dev.wordStep (d : Dev) (t : Nat) (op : Option Nat) : Option Dev :=
  match d.vecReady t with
  | none => none
  | some (x, y, npos, prog, c) =>
    let d := if (d.tile t).vec.running then d else d.fetchProgram t (if odClass x.desc = 0x20 then vdProg x.desc else trProg y.r)
    if op.elim true fun o => iwOpc (prog.getD c.pc 0) = o then some (d.runWord t x y npos prog c) else none

/-- The program runs as far as it may. -/
def Dev.runProgram (d : Dev) (t : Nat) : Nat → Dev
  | 0 => d
  | n + 1 => match d.wordStep t none with
    | some d => d.runProgram t n
    | none => d

/-- More words than an operation of `s` steps and `k` tensors runs. -/
def progFuel (s k : Nat) : Nat := 128 * (s + 1) + 32768 * (k + 1)

def Dev.runAll (d : Dev) (t : Nat) (x : Exec) : Dev := d.runProgram t (progFuel x.step (if odClass x.desc = 0x20 then 1 else d.tensorCount x))

/-- The two classes: the program runs as far as the steps issued reach, and they end. -/
def Dev.progRun (d : Dev) (t cls : Nat) : Dev :=
  match (d.tile t).exec with
  | none => d
  | some x =>
    if odClass x.desc ≠ cls ∨ x.done then d else
    (d.runAll t x).classRun t cls (fun d x => if cls = 0x20 then vecSteps x.desc else (d.updateSteps t x).1) fun d _ _ => d

def execVecProgram (t : Nat) (s : State) : Host.Outcome State Fault Refusal := run s fun d => d.progRun t 0x20
def execUpdateOp (t : Nat) (s : State) : Host.Outcome State Fault Refusal := run s fun d => d.progRun t 0x30

/-- The row of an instruction: the next word of the program on tile t runs, if it is that instruction. -/
def Dev.instr (d : Dev) (t op : Nat) : Dev := (d.wordStep t (some op)).getD d

def execEndProg (t : Nat) (s : State) : Host.Outcome State Fault Refusal := run s fun d => d.instr t 0x00
def execLdp (t : Nat) (s : State) : Host.Outcome State Fault Refusal := run s fun d => d.instr t 0x01
def execLdg (t : Nat) (s : State) : Host.Outcome State Fault Refusal := run s fun d => d.instr t 0x02
def execLds (t : Nat) (s : State) : Host.Outcome State Fault Refusal := run s fun d => d.instr t 0x03
def execLdw (t : Nat) (s : State) : Host.Outcome State Fault Refusal := run s fun d => d.instr t 0x04
def execRstep (t : Nat) (s : State) : Host.Outcome State Fault Refusal := run s fun d => d.instr t 0x05
def execStp (t : Nat) (s : State) : Host.Outcome State Fault Refusal := run s fun d => d.instr t 0x08
def execSts (t : Nat) (s : State) : Host.Outcome State Fault Refusal := run s fun d => d.instr t 0x09
def execStw (t : Nat) (s : State) : Host.Outcome State Fault Refusal := run s fun d => d.instr t 0x0A
def execAddV (t : Nat) (s : State) : Host.Outcome State Fault Refusal := run s fun d => d.instr t 0x10
def execSubV (t : Nat) (s : State) : Host.Outcome State Fault Refusal := run s fun d => d.instr t 0x11
def execMulV (t : Nat) (s : State) : Host.Outcome State Fault Refusal := run s fun d => d.instr t 0x12
def execFma (t : Nat) (s : State) : Host.Outcome State Fault Refusal := run s fun d => d.instr t 0x13
def execMaxV (t : Nat) (s : State) : Host.Outcome State Fault Refusal := run s fun d => d.instr t 0x14
def execMinV (t : Nat) (s : State) : Host.Outcome State Fault Refusal := run s fun d => d.instr t 0x15
def execAbsV (t : Nat) (s : State) : Host.Outcome State Fault Refusal := run s fun d => d.instr t 0x16
def execAdds (t : Nat) (s : State) : Host.Outcome State Fault Refusal := run s fun d => d.instr t 0x18
def execMuls (t : Nat) (s : State) : Host.Outcome State Fault Refusal := run s fun d => d.instr t 0x19
def execFmas (t : Nat) (s : State) : Host.Outcome State Fault Refusal := run s fun d => d.instr t 0x1A
def execBcast (t : Nat) (s : State) : Host.Outcome State Fault Refusal := run s fun d => d.instr t 0x1B
def execExp2 (t : Nat) (s : State) : Host.Outcome State Fault Refusal := run s fun d => d.instr t 0x20
def execLog2 (t : Nat) (s : State) : Host.Outcome State Fault Refusal := run s fun d => d.instr t 0x21
def execRsqrt (t : Nat) (s : State) : Host.Outcome State Fault Refusal := run s fun d => d.instr t 0x22
def execRcp (t : Nat) (s : State) : Host.Outcome State Fault Refusal := run s fun d => d.instr t 0x23
def execRsumsq (t : Nat) (s : State) : Host.Outcome State Fault Refusal := run s fun d => d.instr t 0x28
def execRsum (t : Nat) (s : State) : Host.Outcome State Fault Refusal := run s fun d => d.instr t 0x29
def execRmaxabs (t : Nat) (s : State) : Host.Outcome State Fault Refusal := run s fun d => d.instr t 0x2A
def execSadd (t : Nat) (s : State) : Host.Outcome State Fault Refusal := run s fun d => d.instr t 0x30
def execSsub (t : Nat) (s : State) : Host.Outcome State Fault Refusal := run s fun d => d.instr t 0x31
def execSmul (t : Nat) (s : State) : Host.Outcome State Fault Refusal := run s fun d => d.instr t 0x32
def execSmax (t : Nat) (s : State) : Host.Outcome State Fault Refusal := run s fun d => d.instr t 0x33
def execSmin (t : Nat) (s : State) : Host.Outcome State Fault Refusal := run s fun d => d.instr t 0x34
def execSrsqrt (t : Nat) (s : State) : Host.Outcome State Fault Refusal := run s fun d => d.instr t 0x35
def execSrcp (t : Nat) (s : State) : Host.Outcome State Fault Refusal := run s fun d => d.instr t 0x36
def execSexp2 (t : Nat) (s : State) : Host.Outcome State Fault Refusal := run s fun d => d.instr t 0x37
def execSlog2 (t : Nat) (s : State) : Host.Outcome State Fault Refusal := run s fun d => d.instr t 0x38
def execSimm (t : Nat) (s : State) : Host.Outcome State Fault Refusal := run s fun d => d.instr t 0x39
def execSched (t : Nat) (s : State) : Host.Outcome State Fault Refusal := run s fun d => d.instr t 0x3A
def execPassPhase (t : Nat) (s : State) : Host.Outcome State Fault Refusal := run s fun d => d.instr t 0x40
def execMgram (t : Nat) (s : State) : Host.Outcome State Fault Refusal := run s fun d => d.instr t 0x41
def execMmul (t : Nat) (s : State) : Host.Outcome State Fault Refusal := run s fun d => d.instr t 0x42
def execLoopProg (t : Nat) (s : State) : Host.Outcome State Fault Refusal := run s fun d => d.instr t 0x48

end Sys2Proof.Machine
end

