-- ==== Sys2Proof/Machine/Schedule.lean ====
section
/-!
DEFINITION. The sequencer and the execute engine: starting operations (R33, R36, R85, R117), deferred slices (R252, R253),
steps (R72, R73, R86), completion (R74, R34, R255).
-/

namespace Sys2Proof.Machine

/-! ### KAT descriptors (R312, Table 15.4) -/

def ktRepeat (w : Nat) : Nat := bits w 159 144
def ktSet (w : Nat) : Nat := bits w 143 136
def ktEngine (w : Nat) : Nat := bits w 135 128
def ktStop (w : Nat) : Bool := bitAt w 160

def katFault (w : Nat) : Option Nat :=
  if bits w 511 161 ≠ 0 ∨ odFmtBad w ∨ odMovV w ∨ odStaV w ∨ odAuxV w ∨ !odOutV w ∨ odFmtOut w ≠ 0 ∨ ktRepeat w = 0 ∨ 15 < ktSet w ∨ 4 < ktEngine w then some 1
  else none

/-- One run a step. -/
def katSteps (w : Nat) : Steps := ⟨ktRepeat w, true, fun _ _ => 0, fun _ _ => 0, fun _ _ => 0⟩

/-! ### Streams and faults of an operation -/

/-- The streams that an operation of rank `rank` opens on tile t. DESIGN CHOICE: in a gang the anchor opens MOV, STA, OUT and AUX,
the south tile MOV and STA, the other two STA; each the counts of its groups (log entry 69). -/
def Dev.openings (d : Dev) (t w rank : Nat) : List Opening :=
  let c := odClass w
  let pos := if odGang w then (d.placeAt t).elim 0 (·.pos) else 0
  let one (v : Bool) (r : Role) (i : Nat) : List Opening := if v then [⟨r, i, 0, false⟩] else []
  if isAttn c then attnStreams w rank (odStaV w && decide (sdKind (d.streamDesc (odSta w)) = 3))
  else if c = 0x21 then routeStreams w rank
  else one (odMovV w && decide (pos % 4 = 0 ∨ pos = 2)) .mov (odMov w) ++ one (odStaV w) .sta (odSta w) ++
    one (odOutV w && decide (pos = 0)) .out (odOut w) ++ one (odAuxV w && decide (pos = 0)) .aux (odAux w) ++ one (c = 2) .groups (mdStrGroups w)

/-- The operation's format field for a stream; a stream without one has its own format. -/
def Dev.openFmt (d : Dev) (w : Nat) (o : Opening) : Nat :=
  match o.role with
  | .mov => odFmtMov w
  | .sta => odFmtSta w
  | .out => odFmtOut w
  | .aux => odFmtAux w
  | _ => sdFmt (d.streamDesc o.strm)

/-- R49, R76, R84: the class is one that the tile's role permits, and a gang operation's gang is in the group. -/
def Dev.roleAllows (d : Dev) (t w : Nat) (tiles : List Nat) : Bool :=
  match d.placeAt t with
  | none => false
  | some p => (roleClasses p.role).contains (odClass w) &&
    (!odGang w || (d.img.places.filter fun q => q.gang = p.gang && p.gang ≠ 0xFF).length = 4 &&
      (d.img.places.filter fun q => q.gang = p.gang).all fun q => tiles.contains q.phys)

/-- The class's own rules. -/
def Dev.classFault (d : Dev) (w : Nat) : Option Nat :=
  let c := odClass w
  if isMatrix c then matFault w
  else if isAttn c then d.attnFault w
  else match c with
    | 0x13 => mergeFault w
    | 0x20 => d.vecFault w
    | 0x21 => routeFault w
    | 0x22 => d.dispatchFault w
    | 0x23 => d.combineFault w
    | 0x30 => d.updateFault w
    | 0x50 => katFault w
    | _ => localFault w

/-- R84, R85, R113: the bit of TILE_ERR that a descriptor sets on a tile, and whether a stream is invalid. -/
def Dev.descFault (d : Dev) (t w rank : Nat) (tiles : List Nat) : Option (Nat × Bool) :=
  if !d.roleAllows t w tiles then some (2, false)
  else match d.classFault w with
    | some b => some (b, false)
    | none => if (d.openings t w rank).any fun o => d.streamBad o.strm (d.openFmt w o) then some (1, true) else none

/-- The bits of Table 4.10. -/
def tileErr (t b : Nat) : Fld :=
  match b with | 0 => R.TILE_ERR_FMT_PAIR t | 1 => R.TILE_ERR_DESC_FIELD t | 2 => R.TILE_ERR_CLASS_ROLE t | _ => R.TILE_ERR_ACC_RANGE t

/-- R85: a descriptor fault: recorded, logged CONTAINED at the descriptor, the tile halted. -/
def Dev.descHalt (d : Dev) (t b : Nat) : Dev :=
  match (d.tile t).exec with
  | none => d
  | some x =>
    let (e, i) := d.opArgs x.op
    ((d.raise (tileErr t b) 0 e i).logError 2 4 t (d.opDescAt i) (tileIngress t) i).haltTile t

/-! ### Steps of the running operation (R72, R118) -/

/-- What the steps of the operation on a tile need; attention plans its own (R186). -/
def Dev.stepsOf (d : Dev) (t : Nat) (x : Exec) : Steps :=
  let w := x.desc
  let c := odClass w
  if isMatrix c then d.matSteps t x
  else match c with
    | 0x13 => mergeSteps w
    | 0x20 => vecSteps w
    | 0x21 => routeSteps w
    | 0x22 => dispatchSteps w
    | 0x23 => combineSteps w
    | 0x30 => (d.updateSteps t x).1
    | 0x50 => katSteps w
    | _ => localSteps w

/-- R52: the consumer's step waits for full buckets of a DATA channel; `worked` steps have given theirs back. -/
def Dev.chanReady (d : Dev) (t : Nat) (u : TileUnit) (p : Steps) (s : Stream) (step worked : Nat) : Bool :=
  match d.streamChan t s with
  | some c => decide (ceilDiv (p.need s.role step) (u.bucketOf s) ≤ d.tokens c + d.freedBuckets u p s worked)
  | none => true

/-- The order in which R73 looks at streams. -/
def roleOrder : Role → Nat
  | .mov => 0 | .sta => 1 | .aux => 2 | .out => 4 | _ => 3

/-- The first stream of a tile that keeps a step from issuing, and the cause under which the wait is counted (R73): what its pump
reports, else OUTPUT_WAIT for an output. -/
def Dev.waitsFor (d : Dev) (t : Nat) (x : Exec) (p : Steps) (step : Nat) : Option (Stream × Nat) :=
  let u := d.tile t
  let mine := sortBy (fun (a b : Stream) => decide (roleOrder a.role ≤ roleOrder b.role))
    (u.streams.filter fun s => !s.primed && match s.role with | .index _ | .scale _ | .experts _ => false | _ => true)
  mine.findSome? fun s =>
    let lists := step ≠ 0 || d.listsPrimed t s
    if sdOut s.desc then
      if lists && d.outReady t x p s then none else some (s, if d.stallCause t s 0 = 0 then 1 else d.stallCause t s 0)
    else
      let n := d.needBuckets u p s step
      if lists && d.prefixReady t s n && d.chanReady t u p s step x.worked then none else some (s, d.stallCause t s n)

/-! ### Stall and busy cycles -/

/-- Stall cycles under a cause (R73, R359), with the sample of R127. -/
def Dev.stallCycles (d : Dev) (t cause n : Nat) : Dev := if n = 0 then d else d.count (R.TILE_STALL_CYCLES t cause) n

/-- PUMP_STALL_SAMPLE: the first wait that is reported in a window of 4,096 cycles (R127; log entry 30). -/
def Dev.stallSample (d : Dev) (t cause : Nat) (s : Stream) : Dev :=
  let u := d.tile t
  let piece := (s.buckets.find? fun b => b.live && !b.resident).bind fun b => b.all.find? fun p => p.addr.isSome
  let pc := piece.bind d.piecePc
  let (cyc, d) := d.stamp
  let win := (d.beatNow, cyc / 4096)
  if u.sampled = some win then d else
  let d := d.setTile t { u with sampled := some win }
  (((((d.set (R.PUMP_STALL_SAMPLE_CAUSE t) cause).set (R.PUMP_STALL_SAMPLE_PC t) (pc.getD 0)).set (R.PUMP_STALL_SAMPLE_PC_VALID t)
    (b2n pc.isSome)).set (R.PUMP_STALL_SAMPLE_STREAM t) s.strm).set (R.PUMP_STALL_SAMPLE_SLOTS t) u.slots).set (R.PUMP_STALL_SAMPLE_CYCLE t) cyc

/-- Row of a class in Table 4.7. -/
def classIndex (c : Nat) : Option Nat :=
  [0x01, 0x02, 0x03, 0x10, 0x11, 0x12, 0x13, 0x20, 0x21, 0x22, 0x23, 0x30, 0x31, 0x40, 0x41, 0x50].idxOf? c

/-- Cycles that have passed, as a pump counts them (Table 6.9). -/
def Dev.pumpCycles (d : Dev) (t n : Nat) : Dev :=
  if n = 0 then d else
  let u := d.tile t
  let d := (d.count (R.PUMP_OCC_SLOT_CYCLES t) (u.slots * n)).count (R.PUMP_OCC_FULL_CYCLES t) (if u.slots = 48 then n else 0)
  let d := d.count (R.PUMP_CAP_WATCH_FULL_CYCLES t) (if u.streams.any (·.waitWatch) then n else 0)
  d.count (R.PUMP_CAP_PC_CAP_CYCLES t) (if d.get (R.PUMP_STATUS_PC_AT_CAP t) ≠ 0 ∧ d.get (R.PUMP_STATUS_ISSUE_WAIT t) ≠ 0 then n else 0)

/-- Cycles for which a port waited at a bank, and for which accesses that wait for a step of the tile waited (R87, R124). -/
def Dev.cistCycles (d : Dev) (t bank window : Nat) : Dev :=
  let waits := d.img.waiting.any fun i => match i with
    | .cisternWindowAccess _ l _ _ _ _ => (d.place (l % 320)).elim false fun p => p.phys = t
    | _ => false
  (d.count (R.CIST_PORT_BANK_WAIT t) bank).count (R.CIST_WINDOW_WAIT_CYCLES t) (if waits then window else 0)

/-- Cycles with an operation started and not completed (R363, Tables 2.14, 4.10, 12.6). -/
def Dev.busyCycles (d : Dev) (t : Nat) (x : Exec) (n : Nat) : Dev :=
  if n = 0 then d else
  let d := d.count (R.TILE_BUSY_EXEC_CYCLES t) n
  match d.opOf x.op with
  | none => d
  | some o =>
    let d := if o.filler && o.wgq.isNone then d.count R.BEAT_FILL_FILL_TILE_CYCLES n else d
    let d := if o.wgq.isSome then d.count R.WGQ_TILE_CYCLES_CYCLES n else d
    match classIndex (odClass x.desc) with
    | some i =>
      let ph := bits o.phaseMap (4 * i + 3) (4 * i)
      if ph < 12 then d.count (R.TEL_PHASE_TILE_CYCLES ph) n else d
    | none => d

/-! ### Starting an operation on its tiles -/

/-- TILE_STEP shows the operation's steps. -/
def Dev.showSteps (d : Dev) (t : Nat) : Dev :=
  match (d.tile t).exec with
  | some x => (d.set (R.TILE_STEP_STEPS t) x.steps).set (R.TILE_STEP_STEP t) (x.step - 1)
  | none => d

/-- A bucket that is never requested: what a step finds in one that a slice does not fetch is open (R253, log entry 31). -/
def Dev.skipBuckets (d : Dev) (t c n : Nat) : Dev :=
  (List.range n).foldl (fun (d : Dev) i =>
    let (k, d) := d.draw
    let b : Bucket := ⟨i, [], [], 0, false, false, false, [], (List.range 2048).map fun j => BitVec.ofNat 8 (Config.freeWord k j), 0, [], false⟩
    let u := d.tile t
    d.setTile t { u with streams := u.streams.map fun (s : Stream) => if s.ctx = c then { s with buckets := s.buckets ++ [b] } else s }) d

/-- R117: an operation's streams start; those that are primed for its entry become its own. -/
def Dev.startStreams (d : Dev) (t : Nat) (x : Exec) (entry : Option Nat) : Dev :=
  (d.openings t x.desc x.rank).foldl (fun (d : Dev) o =>
    let u := d.tile t
    match u.streams.find? fun s => s.primed && decide (some s.op = entry) && decide (s.role = o.role) with
    | some p =>
      d.setTile t { u with streams := u.streams.map fun (s : Stream) =>
        if s.primed && decide (some s.op = entry) && (decide (s.ctx = p.ctx) || decide (s.role = .index p.ctx) || decide (s.role = .scale p.ctx) ||
            decide (s.role = .experts p.ctx)) then { s with primed := false, op := x.op } else s }
    | none => d.openStream t x.op false o) d

/-- R75: the weights of a grouped product wait for the counts of its groups. -/
def Dev.holdGroups (d : Dev) (t w : Nat) : Dev :=
  if odClass w ≠ 2 then d else
  let u := d.tile t
  match u.roleStream .sta with
  | none => d
  | some st =>
    let n := mdGroups w
    d.setTile t { u with streams := u.streams.map fun (s : Stream) =>
      if s.ctx = st.ctx then { s with hold := some (n, elemBytes (odFmtSta w) (mdK w * mdN w)) }
      else if s.role = .scale st.ctx then { s with hold := some (n, ceilDiv (mdK w * mdN w) 32) } else s }

/-- The rank of a tile of a group; a gang operation counts anchors (R51, R76). -/
def Dev.rankOf (d : Dev) (tiles : List Nat) (w t : Nat) : Nat :=
  let pos (s : Nat) : Option Place := d.placeAt s
  if odGang w then
    let anchors := tiles.filter fun s => (pos s).elim false fun p => p.pos = 0
    let gang := (pos t).elim 0xFF (·.gang)
    (anchors.findIdx? fun s => (pos s).elim false fun p => p.gang = gang).getD 0
  else tiles.idxOf t

/-- R322: a gated tile's clock starts, and its first step issues no earlier than 8 cycles later; the device is ACTIVE. -/
def Dev.ungate (d : Dev) (t : Nat) : Dev :=
  let d := d.set R.PWR_STATE_PSTATE 0
  if d.pwr.gated.contains t then
    let u := d.tile t
    { d.setTile t { u with hold := u.hold + 8 } with pwr := { d.pwr with gated := d.pwr.gated.erase t } }
  else d

/-- The tiles that run a step together: the members of a gang (R76), or the tile alone. -/
def Dev.stepTiles (d : Dev) (t desc : Nat) : List Nat :=
  if odGang desc then match d.placeAt t with
    | some p => (d.img.places.filter fun q => q.gang = p.gang).map (·.phys)
    | none => [t]
  else [t]

/-- The steps of the operation on a tile, and on its gang, are known. -/
def Dev.planned (d : Dev) (t desc : Nat) (p : Steps) : Dev :=
  (d.stepTiles t desc).foldl (fun (d : Dev) s =>
    let u := d.tile s
    (d.setTile s { u with exec := u.exec.map fun (y : Exec) => { y with steps := p.count, planned := true } }).showSteps s) d

/-- R113, last case, found on a tile or a member of its gang: STREAM_FIELD, and all of them halt. -/
def Dev.ringHalt (d : Dev) (t desc : Nat) : Dev :=
  (d.stepTiles t desc).foldl (fun (d : Dev) s =>
    let (e, i) := (d.tile s).exec.elim (noArg, noArg) fun x => d.opArgs x.op
    (d.raise (R.PUMP_ERR_STREAM_FIELD s) 0 e i).descHalt s 1) d

/-- A stream of a tile or of a member of its gang is too short of ring for a step. -/
def Dev.stepShort (d : Dev) (t desc : Nat) (p : Steps) (step : Nat) : Bool :=
  (d.stepTiles t desc).any fun s => (d.tile s).streams.any fun q => !q.primed && d.ringShort (d.tile s) p q step

/-- R126: a tile fetches the descriptor of an operation, with the extended dependency list of its entry. -/
def Dev.fetchOp (d : Dev) (t : Nat) (o : Op) : Dev :=
  let d := d.ncFetch t (d.opDescAt o.opIndex) 64
  let l := o.entry.elim 0 fun e => entXlist (d.entry e)
  if l = 0 then d else (d.sec 8).elim d fun a => d.ncFetch t (a + 4 + 64 * (l - 1)) 64

/-- A tile begins an operation: descriptor fetched and checked (R72, R85, R295), streams started. `step` is where a slice
goes on, and `mask` what an earlier slice read. A gang's steps are planned when one is due, its members' streams then being
open. -/
def Dev.startTile (d : Dev) (t : Nat) (o : Op) (step : Nat) (mask : Option Nat) : Dev :=
  let d := d.ungate t
  let rank := d.rankOf o.tiles o.desc t
  let x : Exec := { op := o.id, desc := o.desc, rank := rank, steps := 0, planned := false, step := step, worked := step, done := false, acks := 0
                    poisoned := [], halted := false, mask := mask }
  let d := d.fetchOp t o
  let u := d.tile t
  let d := d.setTile t { u with exec := some x, vec := VecCtx.idle, attn := AttnCtx.idle }
  let d := (((d.set (R.TILE_STATUS_OP_INDEX t) o.opIndex).set (R.TILE_STATUS_LANE t) (b2n o.filler)).set (R.TILE_STATUS_EXEC_STATE t) 1).set
    (R.TILE_STATUS_STALL_CAUSE t) 0xFF
  let d := (d.set (R.TILE_STEP_STEPS t) 0).set (R.TILE_STEP_STEP t) step
  let poisoned := d.poisonedAt (d.opDescAt o.opIndex) 64 || (d.openings t o.desc rank).any fun q => d.poisonedAt (d.streamDescAt q.strm) 32
  if poisoned then d.descHalt t 1
  else match d.descFault t o.desc rank o.tiles with
    | some (b, strm) =>
      let d := if (odClass o.desc = 0x22 && d.dispatchCfg o.desc) || (odClass o.desc = 0x23 && d.combineCfg o.desc) then
          d.raise R.EXP_ERR_CFG 0 (o.entry.getD noArg) o.opIndex else d
      let d := if strm then d.raise (R.PUMP_ERR_STREAM_FIELD t) 0 (o.entry.getD noArg) o.opIndex else d
      d.descHalt t b
    | none =>
      let d := (d.startStreams t x o.entry).holdGroups t o.desc
      let d := if (d.tile t).streams.any fun s => !s.primed && s.op = o.id && s.fault then d.haltTile t else d
      if isAttn x.desc || odGang x.desc then d.refreshPump t
      else
        let p := d.stepsOf t x
        if !p.final then d.refreshPump t
        else if (List.range (min p.count 4096)).any fun i => d.stepShort t x.desc p i then (d.planned t x.desc p).ringHalt t x.desc
        else (d.planned t x.desc p).refreshPump t

/-- The operation that a beat-table entry starts. -/
def Dev.opOfEntry (d : Dev) (e : Nat) (filler : Bool) : Op :=
  let w := d.entry e
  let tiles := d.groupSites (entGroup w)
  { id := d.nextOp, entry := some e, opIndex := entOp w, desc := d.opDesc (entOp w), tiles := tiles, filler := filler
    due := d.startBeat e, started := d.beatNow
    deadline := if entDeadline w = 0 then none else some (beatAdd (d.startBeat e) (entDeadline w))
    sig0 := entSig0 w, sig1 := entSig1 w, report := entReport w, dlEvent := entDlEvent w
    slotPlan := if filler then 0 else entSlotPlan w, phaseMap := d.force R.TEL_PHASE_MAP_MAP, scale := d.get R.UPD_SCALE_S
    obs := decide (d.force R.TEL_OBS_CTL_ENABLE = 1), wgq := none, urgent := false, gate := 0, binds := d.bindings }

/-- An operation starts on its tiles. -/
def Dev.startOp (d : Dev) (o : Op) : Dev :=
  let d := { d with nextOp := d.nextOp + 1, ops := d.ops ++ [o] }
  o.tiles.foldl (fun (d : Dev) t => d.startTile t o 0 (d.readMask t o.desc)) d

/-! ### What may start (R33, R36, R250, R252, R254) -/

/-- A tile runs an operation, halted ones too. -/
def Dev.occupied (d : Dev) (t : Nat) : Bool := (d.tile t).exec.isSome

/-- A due entry lacks what keeps it from starting: a dependency, its seal condition, or a slot of the deferred queue. -/
def Dev.lacking (d : Dev) (e : Nat) : Bool :=
  let w := d.entry e
  !d.entryReady e || (deferring w (d.opDesc (entOp w)) && d.wgqFull)

/-- R36: filler-open. -/
def Dev.fillerOpen (d : Dev) (t : Nat) : Bool :=
  (match (d.tile t).exec with | none => true | some x => (d.opOf x.op).elim false (·.filler)) &&
  d.dueEntries.all fun e => entLane (d.entry e) = 1 || d.lacking e || !(d.groupSites (entGroup (d.entry e))).contains t

/-- An URGENT entry of the queue goes before what has not started on its tiles. -/
def Dev.urgentWaits (d : Dev) (g : Nat) : Bool :=
  d.wgqUsed.any fun n => let q := d.wgqEntry n; wqUrgent q && decide (wqState q ≠ 2) && d.shareTile (wqGroup q) g

/-- R33 for one lane, what concerns tiles and order left out. -/
def Dev.laneReady (d : Dev) (e lane : Nat) : Bool :=
  entLane (d.entry e) = lane && d.isDue e && d.entryInRange (d.entry e) && !d.lacking e && d.alive

/-- No earlier due entry of the lane waits for a tile of the entry's group. -/
def Dev.firstDue (d : Dev) (e lane : Nat) : Bool :=
  d.dueEntries.all fun f => f = e || entLane (d.entry f) ≠ lane || !d.shareTile (entGroup (d.entry f)) (entGroup (d.entry e)) || !d.before f e

/-- Every tile of a group is powered and free. -/
def Dev.groupFree (d : Dev) (g : Nat) : Bool :=
  let ts := d.groupSites g
  !ts.isEmpty && decide (ts.length = (d.groupTiles g).length) && ts.all fun t => d.tileReady t && !d.occupied t

/-- A main-lane entry may start. -/
def Dev.mainStartable (d : Dev) (e : Nat) : Bool :=
  let g := entGroup (d.entry e)
  d.laneReady e 0 && d.firstDue e 0 && d.groupFree g && !d.urgentWaits g

/-- A filler-lane entry may start with `left` cycles left in the beat, the queue apart. -/
def Dev.fillerStartable (d : Dev) (e left : Nat) : Bool :=
  let g := entGroup (d.entry e)
  d.laneReady e 1 && d.firstDue e 1 && d.groupFree g && !d.urgentWaits g && (d.groupSites g).all d.fillerOpen && decide (entEst (d.entry e) ≤ left)

/-- The product in a slot as a tile of a rank sees it, with the mask that its first slice read. -/
def Dev.wgqMat (d : Dev) (n t rank : Nat) : Mat :=
  let w := d.opDesc (wqOp (d.wgqEntry n))
  let held := d.wgq.masks.find? fun m => m.slot = n && m.rank = rank
  let cols := ceilDiv (mdN w) (mdNBlk w)
  let len (i f : Nat) : Nat := sdPlainLen (d.streamDesc i) * 8 / codeWidth f
  { w := w, groups := [mdM w], mask := held.elim (d.readMask t w) (·.mask)
    redoA := decide (1 < cols) && decide (mdM w * mdK w * cols ≤ len (odMov w) (odFmtMov w))
    redoB := decide (1 < ceilDiv (mdM w) (mdMTile w)) && decide (ceilDiv (mdM w) (mdMTile w) * mdK w * mdN w ≤ len (odSta w) (odFmtSta w))
    bad := none }

/-- Where a tile of the product goes on. -/
def Dev.wgqStep (d : Dev) (n rank : Nat) : Nat :=
  (d.wgq.masks.find? fun m => m.slot = n && m.rank = rank).elim 0 (·.next)

/-- E_blk of the next output block: the longest among the group's tiles (R252). -/
def Dev.wgqBlockCycles (d : Dev) (n : Nat) : Nat :=
  let g := d.groupSites (wqGroup (d.wgqEntry n))
  let w := d.opDesc (wqOp (d.wgqEntry n))
  g.foldl (fun x t =>
    let r := d.rankOf g w t
    let m := d.wgqMat n t r
    max x (m.cycles (m.blockFrom (d.wgqStep n r)))) 0

/-- R252: a non-urgent entry may start a slice, filler-lane entries apart. -/
def Dev.sliceOpen (d : Dev) (n left : Nat) : Bool :=
  let q := d.wgqEntry n
  let g := wqGroup q
  (wqState q = 1 || wqState q = 3) && d.wgqFirst n && d.groupFree g && (d.groupSites g).all d.fillerOpen && decide (d.wgqBlockCycles n ≤ left) &&
    !d.urgentWaits g && d.alive

/-- A startable filler-lane entry shares a tile with a group. -/
def Dev.fillerWants (d : Dev) (g left : Nat) : Bool :=
  d.dueEntries.any fun e => d.shareTile (entGroup (d.entry e)) g && d.fillerStartable e left

/-- A queue entry that may start a slice shares a tile with a group. -/
def Dev.sliceWants (d : Dev) (g left : Nat) : Bool :=
  d.wgqUsed.any fun n => d.shareTile (wqGroup (d.wgqEntry n)) g && d.sliceOpen n left

/-! ### Starting entries -/

/-- The slip of an entry that starts (R34). -/
def Dev.countSlip (d : Dev) (e : Nat) : Dev :=
  let late := beatSub d.beatNow (d.startBeat e)
  if late = 0 then d else (d.count R.BEAT_SLIP_SLIP_BEATS late).count R.BEAT_SLIP_SLIPPED_ENTRIES 1

/-- Tokens are consumed, and the entry counts as started. -/
def Dev.takeEntry (d : Dev) (e : Nat) : Dev :=
  let d := (d.entryDeps (d.entry e)).foldl (fun (d : Dev) (p : Nat × Nat) => d.takeTokens p.1 p.2) d
  { d with beat := { d.beat with started := d.beat.started ++ [e] } }

/-- Cycles that an entry's tiles waited before it started, under a cause (R36, R39, R73). -/
def Dev.entryWait (d : Dev) (e cause n : Nat) : Dev :=
  if n = 0 then d else (d.groupSites (entGroup (d.entry e))).foldl (fun (d : Dev) t => d.stallCycles t cause n) d

/-- ENTRY_START: `fill` cycles were spent waiting behind a filler operation or slice, `urg` behind an URGENT slice, `full` for
a slot of the deferred queue, `sealw` for seals. -/
def Dev.entryStart (d : Dev) (e fill urg full sealw : Nat) : Dev :=
  let d := d.checkDue
  let w := d.entry e
  let desc := d.opDesc (entOp w)
  let posts := deferring w desc
  if posts && d.wgqFull && decide (entLane w = 0) && d.isDue e && d.entryInRange w && d.entryReady e then
    (if d.flag R.WGQ_ERR_FULL then d else d.raise R.WGQ_ERR_FULL 0 e (entOp w)).count R.WGQ_WAIT_FULL_CYCLES full
  else if !d.mainStartable e then d
  else
    let d := (((d.entryWait e 2 (fill + urg)).entryWait e 3 sealw).count R.BEAT_FILL_FILL_DELAY_CYCLES fill).count R.WGQ_WAIT_URGENT_WAIT_CYCLES urg
    let d := d.count R.WGQ_WAIT_FULL_CYCLES (if posts then full else 0)
    let o := d.opOfEntry e false
    let d := (d.countSlip e).takeEntry e
    let faulty := o.tiles.any fun t => (d.descFault t desc (d.rankOf o.tiles desc t) o.tiles).isSome || d.poisonedAt (d.opDescAt o.opIndex) 64
    let d := if !posts then d.startOp o
      else if (d.tagged 9).isNone then
        let d := { d with nextOp := d.nextOp + 1, ops := d.ops ++ [o] }
        let d := d.raise R.WGQ_ERR_NO_REGION 0 e (entOp w)
        o.tiles.foldl (fun (d : Dev) t => if d.occupied t then d else (d.startTile t o 0 none).descHalt t 1) d
      else if faulty then d.startOp o
      else (d.abandon fun n => decide (n = e)).wgqPost e
    d.refreshWaiting

/-- ENTRY_START. -/
def execEntryStart (e fill urg full sealw : Nat) (s : State) : Host.Outcome State Fault Refusal :=
  run s fun d => d.entryStart e fill urg full sealw

/-- FILLER_START, with `left` cycles left in the beat. -/
def Dev.fillerStart (d : Dev) (e left sealw : Nat) : Dev :=
  let d := d.checkDue
  if !d.fillerStartable e left then d
  else if d.get R.WGQ_CTL_PRIORITY = 0 ∧ d.sliceWants (entGroup (d.entry e)) left then d
  else
    let o := d.opOfEntry e true
    ((((d.entryWait e 3 sealw).countSlip e).takeEntry e).startOp o).refreshWaiting

def execFillerStart (e left sealw : Nat) (s : State) : Host.Outcome State Fault Refusal := run s fun d => d.fillerStart e left sealw

/-- R117: EARLY streams of the entry that is next due for tile t, at or after its start beat, start before it. -/
def Dev.streamPrime (d : Dev) (t e : Nat) : Dev :=
  let w := d.entry e
  let tiles := d.groupSites (entGroup w)
  let desc := d.opDesc (entOp w)
  let rank := d.rankOf tiles desc t
  let lane := entLane w
  let first := d.dueEntries.all fun f => f = e || entLane (d.entry f) ≠ lane || !(d.groupSites (entGroup (d.entry f))).contains t || !d.before f e
  if !(d.isDue e && d.entryInRange w && tiles.contains t && first && d.alive && d.tileReady t) || deferring w desc ||
     (d.descFault t desc rank tiles).isSome || (d.tile t).streams.any (fun s => s.primed && s.op ≠ e) then d
  else
    let d := (d.openings t desc rank).foldl (fun (d : Dev) o =>
      if o.ordered || !sdEarly (d.streamDesc o.strm) || sdOut (d.streamDesc o.strm) ||
         (d.tile t).streams.any (fun s => s.primed && s.op = e && decide (s.role = o.role)) then d
      else d.openStream t e true o) d
    (d.prepare t).refreshPump t

/-- STREAM_PRIME. -/
def execStreamPrime (t e : Nat) (s : State) : Host.Outcome State Fault Refusal := run s fun d => d.streamPrime t e

/-! ### Slices (R252–R254) -/

/-- What is kept of a product between slices, by rank. -/
def Dev.keepRank (d : Dev) (n rank next : Nat) (mask : Option Nat) : Dev :=
  { d with wgq := { d.wgq with masks := (d.wgq.masks.filter fun m => !(m.slot = n && m.rank = rank)) ++ [⟨n, rank, mask, next⟩] } }

/-- The first output block not yet issued, among the tiles of a slice; the number of blocks where all are issued. -/
def Dev.nextBlock (d : Dev) (o : Op) : Nat :=
  o.tiles.foldl (fun b t =>
    match (d.tile t).exec with
    | none => b
    | some x => match d.matOf t x.desc with
      | none => b
      | some m => (m.passes[x.step]?).elim b fun p => min b (m.ord p)) (2 ^ 48)

/-- A slice starts: its tiles' streams are positioned at the first bucket that the next step reads. -/
def Dev.sliceRun (d : Dev) (n : Nat) : Dev :=
  let q := d.wgqEntry n
  let desc := d.opDesc (wqOp q)
  let tiles := d.groupSites (wqGroup q)
  let o : Op := { id := d.nextOp, entry := none, opIndex := wqOp q, desc := desc, tiles := tiles, filler := true, due := wqPost q, started := d.beatNow
                  deadline := none, sig0 := wqSig0 q, sig1 := wqSig1 q, report := wqReport q, dlEvent := wqDlEvent q, slotPlan := 0
                  phaseMap := d.force R.TEL_PHASE_MAP_MAP, scale := d.get R.UPD_SCALE_S, obs := false, wgq := some n, urgent := wqUrgent q, gate := 0
                  binds := [] }
  let d := { d with nextOp := d.nextOp + 1, ops := d.ops ++ [o] }
  let d := (d.count R.WGQ_SLICE_SLICES 1).count R.WGQ_SLICE_URGENT_SLICES (b2n (wqUrgent q))
  let d := tiles.foldl (fun (d : Dev) t =>
    let rank := d.rankOf tiles desc t
    let m := d.wgqMat n t rank
    let step := d.wgqStep n rank
    let d := (d.keepRank n rank step m.mask).startTile t o step m.mask
    match m.passes[step]? with
    | none => d
    | some p => [(Role.mov, m.aAt p, odFmtMov desc), (Role.sta, m.bAt p, odFmtSta desc), (Role.aux, m.cAt p.g p.c p.nb, odFmtAux desc)].foldl
        (fun (d : Dev) (z : Role × Nat × Nat) =>
          let u := d.tile t
          match u.roleStream z.1 with
          | none => d
          | some s =>
            let k := elemBytes z.2.2 z.2.1 / max 1 (u.bucketOf s)
            let d := d.skipBuckets t s.ctx k
            match u.scaleOf s with
            | some c => d.skipBuckets t c.ctx (z.2.1 / 32 / 2048)
            | none => d) d) d
  let d := d.setWgq n (wqWith q 2 (wqUrgent q) (wqNext q))
  { d with ops := d.ops.map fun y => if y.id = o.id then { y with gate := d.nextBlock o + 1 } else y }

/-- WGQ_SLICE_START: the entry in slot n, with `left` cycles left in the beat. -/
def Dev.sliceStart (d : Dev) (n left : Nat) : Dev :=
  let q := d.wgqEntry n
  if wqUrgent q then
    if (wqState q = 1 || wqState q = 3) && d.wgqFirst n && d.groupFree (wqGroup q) && d.alive then d.sliceRun n else d
  else if d.sliceOpen n left && (d.get R.WGQ_CTL_PRIORITY = 0 || !d.fillerWants (wqGroup q) left) then d.sliceRun n
  else d

def execWgqSliceStart (n left : Nat) (s : State) : Host.Outcome State Fault Refusal := run s fun d => d.sliceStart n left

/-- A slice ends at an output block: the entry is PARKED, its tiles free. -/
def Dev.slicePark (d : Dev) (o : Op) (n : Nat) : Dev :=
  let q := d.wgqEntry n
  let d := o.tiles.foldl (fun (d : Dev) t =>
    match (d.tile t).exec with
    | none => d
    | some x =>
      let d := d.keepRank n x.rank x.step x.mask
      let d := d.closeStreams t fun s => !s.primed && s.op = o.id
      let u := d.tile t
      (((d.setTile t { u with exec := none }).set (R.TILE_STATUS_EXEC_STATE t) 0).set (R.TILE_STATUS_STALL_CAUSE t) 0xFF).holdsNone t) d
  let d := { d with ops := d.ops.filter fun y => y.id ≠ o.id }
  d.setWgq n (wqWith q 3 (wqUrgent q) (d.wgqStep n 0))

/-- The conditions of R252 before a further output block, while the slice holds its tiles. -/
def Dev.sliceGoes (d : Dev) (o : Op) (n left : Nat) : Bool :=
  if o.urgent then true else
  let q := d.wgqEntry n
  let free := o.tiles.foldl (fun (d : Dev) t =>
    match (d.tile t).exec with
    | some x => (d.keepRank n x.rank x.step x.mask).setTile t { d.tile t with exec := none }
    | none => d) (d.setWgq n (wqWith q 3 false (wqNext q)))
  free.sliceOpen n left && (d.get R.WGQ_CTL_PRIORITY = 0 || !free.fillerWants (wqGroup q) left)

/-- A slice at the edge of an output block: goes on, waits for its other tiles, or is PARKED. `true` where tile t may issue. -/
def Dev.sliceGate (d : Dev) (t left : Nat) (x : Exec) : Dev × Bool :=
  match d.opOf x.op with
  | none => (d, true)
  | some o => match o.wgq, d.matOf t x.desc with
    | some n, some m =>
      match m.passes[x.step]? with
      | none => (d, true)
      | some p =>
        if m.ord p < o.gate then (d, true)
        else
          let next := d.nextBlock o
          let quiet := o.tiles.all fun s => (d.tile s).exec.elim true fun y => y.worked = y.step && y.acks = 0 && !y.halted
          if next < o.gate ∨ !quiet then (d, false)
          else if d.sliceGoes o n left then
            ({ d with ops := d.ops.map fun y => if y.id = o.id then { y with gate := next + 1 } else y }, decide (m.ord p = next))
          else (d.slicePark o n, false)
    | _, _ => (d, true)

/-! ### STEP_ISSUE (R72, R73, R86, R88) -/

/-- Bytes [lo, hi) of a stream hold poison. -/
def Stream.poisonIn (s : Stream) (bb lo hi : Nat) : Bool :=
  s.buckets.any fun k => decide (lo / max 1 bb ≤ k.idx) && decide (k.idx * bb < hi) &&
    (List.range 16).any fun j => k.poison.testBit j && decide (k.idx * bb + 128 * j < hi) && decide (lo < k.idx * bb + 128 * j + 128)

/-- A step that consumes poisoned data, scales among it, for the first time sets POISON_IN (R86). -/
def Dev.stepPoison (d : Dev) (t : Nat) (x : Exec) (p : Steps) : Dev :=
  let u := d.tile t
  let hit := u.streams.any fun s => !s.primed && !sdOut s.desc && (match s.role with
    | .mov | .sta | .aux =>
      let lo := if x.step = 0 then 0 else p.need s.role (x.step - 1)
      let hi := p.need s.role x.step
      let b := mxBlock (sdFmt s.desc)
      s.poisonIn (u.bucketOf s) lo hi || (u.scaleOf s).elim false fun q => q.poisonIn (u.bucketOf q) (lo / b) (ceilDiv hi b)
    | .groups => decide (x.step = 0) && s.poisonIn 2048 0 (d.streamLen s)
    | _ => false)
  if hit then d.poisonRead t x else d

/-- R87: the cistern bytes that a step reads or has reserved on a tile: the buckets of its streams, whole, and the accumulator
rows of a matrix step. -/
def Dev.stepHolds (d : Dev) (t : Nat) (x : Exec) (p : Steps) : List (Nat × Nat × Nat) :=
  let u := d.tile t
  let frames (s : Stream) (lo hi : Nat) : List (Nat × Nat × Nat) :=
    (List.range (hi - lo)).map fun i => let f := ringFrame s (u.ringOf s) (u.dataFmt s) (lo + i) * 2048; (x.step, f, f + 2048)
  let streams := (u.streams.filter fun s => !s.primed).flatMap fun s => match s.role with
    | .index _ | .experts _ | .scale _ | .extra _ => []
    | _ =>
      if sdOut s.desc then frames s (d.outFull u p s x.step) (d.outBegun u p s (x.step + 1))
      else
        let lo := d.freedBuckets u p s x.step
        let hi := min (ceilDiv (p.need s.role x.step) (u.bucketOf s)) (d.bucketCount u s)
        let g := mxG (sdFmt s.desc)
        frames s lo hi ++ (u.scaleOf s).elim [] fun q => frames q (lo / g) (ceilDiv hi g)
  let acc := (d.matOf t x.desc).bind fun m => if !isMatrix (odClass x.desc) then none else m.passes[x.step]?.map fun q => (m, q)
  streams ++ acc.elim [] fun z =>
    if (d.accSites (d.site t x.desc 0) x.desc).contains t then [(x.step, z.1.accAt z.2, z.1.accAt z.2 + 512 * z.1.rows z.2.g z.2.c)] else []

/-- TILE_INJECT at a step: its outputs poisoned, or a parity error in its shadow fill (R86, R88). -/
def Dev.stepInject (d : Dev) (t : Nat) (x : Exec) : Dev × Bool :=
  if !d.testEnable then (d, false) else
  let (d, a) := if d.flag (R.TILE_INJECT_POISON_OUT t) then (d.set (R.TILE_INJECT_POISON_OUT t) 0, true) else (d, false)
  if d.flag (R.TILE_INJECT_SHADOW_PARITY t) && (isMatrix (odClass x.desc) || isAttn (odClass x.desc)) then
    let (e, i) := d.opArgs x.op
    (((d.set (R.TILE_INJECT_SHADOW_PARITY t) 0).raise (R.TILE_ERR_SHADOW_PARITY t) 0 e i).logError 1 4 t 0 (tileIngress t) i, true)
  else (d, a)

/-- A step is issued on a tile, and on the other members of its gang: counters, and what it holds of the cisterns. -/
def Dev.stepGo (d : Dev) (t : Nat) (x : Exec) (p : Steps) (array exposed : Nat) : Dev :=
  let (d, bad) := d.stepInject t x
  let d := (d.stepTiles t x.desc).foldl (fun (d : Dev) s =>
    let d := (d.tile s).exec.elim d fun y => d.stepPoison s y p
    let u := d.tile s
    let held := u.exec.elim [] fun y => d.stepHolds s y p
    let d := d.setTile s { u with
      busy := u.busy ++ held
      exec := u.exec.map fun (y : Exec) =>
        { y with step := x.step + 1, steps := p.count, planned := p.final, poisoned := if bad && s = t then y.poisoned ++ [x.step] else y.poisoned } }
    let d := ((d.count (R.TILE_FILL_STEPS s) 1).count (R.TILE_BUSY_ARRAY_CYCLES s) array).count (R.TILE_FILL_EXPOSED_CYCLES s) exposed
    (((d.set (R.TILE_STATUS_EXEC_STATE s) 2).set (R.TILE_STATUS_STALL_CAUSE s) 0xFF).set (R.TILE_STEP_STEPS s) p.count).set (R.TILE_STEP_STEP s) x.step) d
  (d.prepare t).refreshPump t

/-- A tile's step waits: its cycles under the cause of R73. -/
def Dev.stepWait (d : Dev) (t : Nat) (w : Option (Option Stream × Nat)) (other stall : Nat) : Dev :=
  let cause := w.elim other (·.2)
  let d := (d.stallCycles t cause stall).set (R.TILE_STATUS_STALL_CAUSE t) cause
  match w.bind (·.1) with | some s => if stall = 0 then d else d.stallSample t cause s | none => d

/-- A step waits: each member of a gang counts under its own cause, one that has none under OPERAND_WAIT (R76, log entry 69). -/
def Dev.stepWaits (d : Dev) (t : Nat) (x : Exec) (p : Steps) (stall : Nat) : Dev :=
  (d.stepTiles t x.desc).foldl (fun (d : Dev) s =>
    let w := (d.tile s).exec.bind fun y => d.waitsFor s y p x.step
    d.stepWait s (w.map fun z => (some z.1, z.2)) 0 stall) d

/-- R275: an UPDATE writes the alternate bank only once the retained bank has been released. -/
def Dev.updateHeld (d : Dev) (x : Exec) : Bool := odClass x.desc = 0x30 && d.flag R.UPD_RET_RET_VALID

/-- THROTTLE: `stall` cycles of waiting count first against what the power controller still holds issue on the tiles (R73, R324).
`true` where issue is still held; with the cycles that are left. -/
def Dev.throttle (d : Dev) (ts : List Nat) (stall : Nat) : Dev × Nat × Bool :=
  let n := ts.foldl (fun m s => max m (min (d.tile s).hold stall)) 0
  let d := ts.foldl (fun (d : Dev) s =>
    let u := d.tile s
    let h := min u.hold stall
    let d := if h = 0 then d else (d.setTile s { u with hold := u.hold - h }).stallCycles s 8 h
    if n = h then d else d.stallCycles s 0 (n - h)) d
  let held := ts.any fun s => (d.tile s).hold ≠ 0
  (if held then ts.foldl (fun (d : Dev) s => d.set (R.TILE_STATUS_STALL_CAUSE s) 8) d else d, stall - n, held)

/-- A step of the attention engine is issued: counters, and what it holds of the cistern. -/
def Dev.attnGo (d : Dev) (t : Nat) (x : Exec) (array exposed : Nat) : Dev :=
  let (d, bad) := d.stepInject t x
  let u := d.tile t
  let d := d.setTile t { u with
    busy := u.busy ++ d.attnHolds t x
    exec := u.exec.map fun (y : Exec) => { y with step := x.step + 1, poisoned := if bad then y.poisoned ++ [x.step] else y.poisoned } }
  let d := ((d.count (R.TILE_FILL_STEPS t) 1).count (R.TILE_BUSY_ARRAY_CYCLES t) array).count (R.TILE_FILL_EXPOSED_CYCLES t) exposed
  ((d.set (R.TILE_STATUS_EXEC_STATE t) 2).set (R.TILE_STATUS_STALL_CAUSE t) 0xFF).set (R.TILE_STEP_STEP t) x.step

/-- A step of the attention engine. -/
def Dev.attnIssue (d : Dev) (t : Nat) (x : Exec) (stall array exposed : Nat) : Dev :=
  if (d.tile t).attn.ran < x.step then d else
  match d.attnPlan t x 70000 with
  | (d, some (some f)) =>
    let (e, i) := d.opArgs x.op
    (d.raise f 0 e i).descHalt t 1
  | (d, some none) => d.ringHalt t x.desc
  | (d, none) =>
    let d := (d.prepare t).refreshPump t
    if (d.tile t).attn.fin then d
    else if d.attnShort t x then d.ringHalt t x.desc
    else match d.attnWaits t x with
      | some w => d.stepWait t (some w) 0 stall
      | none => d.attnGo t x array exposed

/-- A step of another class, with `left` cycles left in the beat. -/
def Dev.classIssue (d : Dev) (t : Nat) (x : Exec) (stall array exposed left : Nat) : Dev :=
  let p := d.stepsOf t x
  if odClass x.desc = 0x30 ∧ (d.updateSteps t x).2 ∧ x.step = p.count then
    -- the next tensor record is invalid: what precedes it completes first
    (d.runAll t x).descHalt t 1
  else if p.count ≤ x.step then
    if p.final then d.planned t x.desc p
    else d.stepWait t (some ((d.tile t).roleStream (if odClass x.desc = 2 then .groups else .mov),
      ((d.tile t).roleStream (if odClass x.desc = 2 then .groups else .mov)).elim 0 fun s => d.stallCause t s (d.bucketCount (d.tile t) s))) 0 stall
  else if d.updateHeld x then (d.stepWait t none 1 stall).count R.UPD_WAIT_RET_WAIT_CYCLES stall
  else if d.stepShort t x.desc p x.step then d.ringHalt t x.desc
  else if (d.stepTiles t x.desc).any fun s => (d.tile s).exec.elim true fun y => (d.waitsFor s y p x.step).isSome then d.stepWaits t x p stall
  else
    let (d, go) := d.sliceGate t left x
    if go then d.stepGo t x p array exposed else d

/-- STEP_ISSUE on tile t: `stall` cycles for which the step, if it does not issue, is due and waits; `exec` cycles that have
passed; `array` and `exposed` the step's cycles in the array and in an exposed fill. A gang's steps are its anchor's. -/
def Dev.stepIssue (d : Dev) (t stall exec array exposed : Nat) (span : StepSpan) : Dev :=
  let d := (d.pumpCycles t exec).cistCycles t span.bank span.window
  match (d.tile t).exec with
  | none => d
  | some x =>
    let d := d.busyCycles t x exec
    let ts := d.stepTiles t x.desc
    if x.done ∨ !d.alive ∨ d.gangMember t x.desc ∨ ts.any fun s => (d.tile s).exec.elim true (·.halted) then d else
    let (d, stall, held) := d.throttle ts stall
    if held then d else
    let d := if odClass x.desc = 0x30 then d.openGradients t x else d
    let d := ts.foldl (fun (d : Dev) s => (d.prepare s).refreshPump s) d
    if isAttn (odClass x.desc) then d.attnIssue t x stall array exposed
    else d.classIssue t x stall array exposed span.left

def execStepIssue (t stall exec array exposed : Nat) (left : StepSpan) (s : State) : Host.Outcome State Fault Refusal :=
  run s fun d => d.stepIssue t stall exec array exposed left

/-! ### Completion (R74, R34, R35, R255) -/

/-- A DRAINING page whose last started entry has completed is IDLE. -/
def Dev.pageDrained (d : Dev) (p : Nat) : Dev :=
  if d.pageState p = 3 ∧ !(d.ops.any fun o => o.entry.elim false fun e => e / 1024 = p) then
    { d.set (R.BEAT_PAGE_STATE p) 0 with beat := { d.beat with started := d.beat.started.filter fun e => e / 1024 ≠ p } }
  else d

/-- The tiles of an operation are free, and its streams end. -/
def Dev.freeTiles (d : Dev) (o : Op) : Dev :=
  o.tiles.foldl (fun (d : Dev) t =>
    if (d.tile t).exec.elim false fun x => x.op = o.id then
      let d := d.closeStreams t fun s => !s.primed && s.op = o.id
      let u := d.tile t
      (((d.setTile t { u with exec := none }).set (R.TILE_STATUS_EXEC_STATE t) 0).set (R.TILE_STATUS_STALL_CAUSE t) 0xFF).holdsNone t
    else d) d

/-- Every tile of an operation has formed its results, and every acknowledgement has come. -/
def Dev.opDone (d : Dev) (o : Op) : Bool :=
  o.tiles.all fun t => (d.tile t).exec.elim true fun x => x.op ≠ o.id || (x.done && x.acks = 0)

/-- What follows once an operation is complete. -/
def Dev.finishOp (d : Dev) (o : Op) : Dev :=
  let d := d.freeTiles o
  let d := { d with ops := d.ops.filter fun y => y.id ≠ o.id }
  let d := d.copiesRead o.id
  let d := (d.postSig o.sig0).postSig o.sig1
  match o.wgq with
  | some n =>
    let q := d.wgqEntry n
    let d := if o.report then d.report (d.ringOf 0xC) 1 (wqSeq q) o.opIndex (wqPost q) 0 else d
    let d := { d with wgq := { d.wgq with masks := d.wgq.masks.filter fun m => m.slot ≠ n } }
    (d.setWgq n 0).count R.WGQ_POST_COMPLETED 1
  | none =>
    let d := if o.report then d.report (d.ringOf 0xC) 0 (o.entry.getD 0) o.opIndex o.due 0 else d
    let d := match o.deadline with
      | some b =>
        if beatGt d.beatNow b then
          let d := (d.count R.BEAT_DL_MISS_COUNT 1)
          if o.dlEvent then d.event R.BEAT_DL_MISS_COUNT (o.entry.getD 0) (o.entry.getD noArg) o.opIndex else d
        else d
      | none => d
    (match o.entry with | some e => d.pageDrained (e / 1024) | none => d).refreshWaiting

/-- OP_COMPLETE. -/
def Dev.opComplete (d : Dev) (i : Nat) : Dev :=
  match d.opOf i with
  | some o => if o.wgq.isNone && d.opDone o then d.finishOp o else d
  | none => d

def execOpComplete (id : Nat) (s : State) : Host.Outcome State Fault Refusal := run s fun d => d.opComplete id

/-- WGQ_COMPLETE: the product in slot n. -/
def Dev.wgqComplete (d : Dev) (n : Nat) : Dev :=
  match d.ops.find? fun o => o.wgq = some n with
  | some o => if d.opDone o then d.finishOp o else d
  | none => d

def execWgqComplete (n : Nat) (s : State) : Host.Outcome State Fault Refusal := run s fun d => d.wgqComplete n

/-- R85: the fault bit of a halted tile is cleared: the tile, and in a gang its other members, completes its part of the operation
as empty. The operation's signals are posted once every tile of it is done. -/
def Dev.clearHalt (d : Dev) (t : Nat) : Dev :=
  match (d.tile t).exec with
  | none => d
  | some x =>
    if !x.halted then d else
    match d.opOf x.op with
    | none => d
    | some o =>
      let d := (d.stepTiles t x.desc).foldl (fun (d : Dev) s =>
        if (d.tile s).exec.elim true fun y => y.op ≠ o.id then d else
        let d := d.closeStreams s fun q => !q.primed && q.op = o.id
        let u := d.tile s
        let d := d.setTile s { u with exec := u.exec.map fun (y : Exec) => { y with halted := false, done := true, acks := 0 } }
        (d.set (R.TILE_STATUS_EXEC_STATE s) 0).holdsNone s) d
      if d.opDone o then d.finishOp o else d

/-- A store to TILE_ERR or PUMP_ERR of tile t has cleared bits; those in `faults` are the ones that halt. -/
def Dev.faultCleared (d : Dev) (t : Nat) (w : Nat) (faults : Nat) : Dev := if w &&& faults ≠ 0 then d.clearHalt t else d

end Sys2Proof.Machine
end

