-- ==== Sys2Proof/Machine/Record.lean ====
section
/-!
DEFINITION. The boot flash (Table 16.2), the repair record (R315) and what adds to it in service: PWR_RPR_GO, and the
known-answer operation (R312).
-/

namespace Sys2Proof.Machine

/-! ### Flash (R333, R334) -/

/-- A byte of flash; a byte that nothing has written is erased. -/
def flashDef : Nat → Byte := fun _ => 0xFF

def Dev.flashBytes (d : Dev) (a n : Nat) : List Byte := stRange flashDef d.flash a n
def Dev.flashNat (d : Dev) (a n : Nat) : Nat := leNat (d.flashBytes a n)

/-- Bytes are programmed. -/
def Dev.flashPut (d : Dev) (a : Nat) (bs : List Byte) : Dev := { d with flash := stPut flashDef d.flash a bs }

/-- A range is erased. -/
def Dev.flashErase (d : Dev) (a n : Nat) : Dev := { d with flash := stClear d.flash a n }

/-- Every byte of a range reads 0xFF. -/
def Dev.flashErased (d : Dev) (a n : Nat) : Bool := d.flash.all fun e => decide (e.1 < a ∨ a + n ≤ e.1)

/-- One byte into the reflected CRC-32C (Castagnoli). -/
def crc32cByte (c : Nat) (b : Byte) : Nat :=
  (List.range 8).foldl (fun c _ => if c % 2 = 1 then (c >>> 1) ^^^ 0x82F63B78 else c >>> 1) (c ^^^ b.toNat)

/-- CRC-32C over bytes (R315, R334). -/
def crc32c (bs : List Byte) : Nat := (bs.foldl crc32cByte 0xFFFFFFFF) ^^^ 0xFFFFFFFF

/-! ### The repair record (R315, Tables 15.6 and 15.7) -/

/-- Where copy A (0) or B (1) lies, and its size. -/
def rprBase (c : Nat) : Nat := if c = 0 then 0x08200000 else 0x08240000
def rprSize : Nat := 0x40000
def rprMax : Nat := 16380

/-- "FDXREPR1". -/
def rprMagic : List Byte := [0x46, 0x44, 0x58, 0x52, 0x45, 0x50, 0x52, 0x31]

/-- The bytes of an entry. -/
def RprEntry.bytes (e : RprEntry) : List Byte :=
  leBytes 1 e.kind ++ leBytes 1 e.source ++ leBytes 1 e.flags ++ leBytes 1 0 ++ leBytes 4 e.unit ++ leBytes 4 e.detail ++ leBytes 4 e.beat

/-- An entry from its bytes. -/
def RprEntry.ofBytes (b : List Byte) : RprEntry := ⟨recNat b 0 1, recNat b 1 1, recNat b 2 1, recNat b 4 4, recNat b 8 4, recNat b 12 4⟩

/-- Entries that name the same thing: kind, unit and detail. -/
def RprEntry.same (a b : RprEntry) : Bool := a.kind = b.kind && a.unit = b.unit && a.detail = b.detail

/-- Entries that a copy's header counts. -/
def Dev.rprCount (d : Dev) (c : Nat) : Nat := d.flashNat (rprBase c + 0x0A) 2

/-- A copy is valid: its MAGIC matches and its CRC matches. -/
def Dev.rprValid (d : Dev) (c : Nat) : Bool :=
  let n := d.rprCount c
  decide (d.flashBytes (rprBase c) 8 = rprMagic) && decide (n ≤ rprMax) &&
    decide (d.flashNat (rprBase c + 0x3C) 4 = crc32c (d.flashBytes (rprBase c) 60 ++ d.flashBytes (rprBase c + 64) (16 * n)))

def Dev.rprSeq (d : Dev) (c : Nat) : Nat := d.flashNat (rprBase c + 0x0C) 4

/-- The copy in use: of the valid ones the one with the higher SEQ, A when they are equal. -/
def Dev.rprUse (d : Dev) : Option Nat :=
  match d.rprValid 0, d.rprValid 1 with
  | true, true => if d.rprSeq 0 < d.rprSeq 1 then some 1 else some 0
  | true, false => some 0
  | false, true => some 1
  | false, false => none

/-- Both copies are erased: the record is empty. -/
def Dev.rprBlank (d : Dev) : Bool := d.flashErased (rprBase 0) rprSize && d.flashErased (rprBase 1) rprSize

/-- The entries of the copy in use. -/
def Dev.rprEntries (d : Dev) : List RprEntry :=
  d.rprUse.elim [] fun c => (List.range (d.rprCount c)).map fun i => RprEntry.ofBytes (d.flashBytes (rprBase c + 64 + 16 * i) 16)

/-- PWR_RPR and the repair measurement brought up to date (R315, R342). -/
def Dev.refreshRpr (d : Dev) : Dev :=
  match d.rprUse with
  | none => ((d.set R.PWR_RPR_SLOT 2).set R.PWR_RPR_ENTRIES 0).set R.PWR_RPR_SEQ 0
  | some c =>
    let d := ((d.set R.PWR_RPR_SLOT c).set R.PWR_RPR_ENTRIES (d.rprCount c)).set R.PWR_RPR_SEQ (d.rprSeq c)
    let h := sha384 (d.flashBytes (rprBase c) (64 + 16 * d.rprCount c))
    (List.range 6).foldl (fun (d : Dev) n => d.set (R.SEC_REPAIR_MEAS_DIGEST n) (leNat ((h.drop (8 * n)).take 8))) d

/-- The beat of discovery: all ones before beat lock. -/
def Dev.rprBeat (d : Dev) : Nat := if d.beating then d.beatNow % 2 ^ 32 else 2 ^ 32 - 1

/-- A new entry joins the batch; one already recorded is not added again, one too many sets RECORD_FULL. -/
def Dev.rprAdd (d : Dev) (kind source unit detail : Nat) : Dev :=
  let e : RprEntry := ⟨kind, source, 0, unit, detail, d.rprBeat⟩
  let old := d.rprEntries
  if old.any e.same || d.pwr.batch.any e.same then d
  else if rprMax ≤ old.length + (d.pwr.batch.filter fun b => !old.any b.same).length then d.raise1 R.PWR_ERR_RECORD_FULL 0
  else { d with pwr := { d.pwr with batch := d.pwr.batch ++ [e] } }

/-- R307: HARD_DONE is set in a row's record entry. -/
def Dev.rprHard (d : Dev) (unit detail : Nat) : Dev :=
  let hit (e : RprEntry) : Bool := e.kind = 6 && e.unit = unit && e.detail = detail
  if d.pwr.batch.any hit then
    { d with pwr := { d.pwr with batch := d.pwr.batch.map fun e => if hit e then { e with flags := e.flags ||| 1 } else e } }
  else match d.rprEntries.find? hit with
    | some e => { d with pwr := { d.pwr with batch := d.pwr.batch ++ [{ e with flags := e.flags ||| 1 }] } }
    | none => d

/-- The bytes of a whole copy. -/
def rprImage (seq : Nat) (es : List RprEntry) : List Byte :=
  let body := es.flatMap RprEntry.bytes
  let head := rprMagic ++ leBytes 2 1 ++ leBytes 2 es.length ++ leBytes 4 seq ++ leBytes 44 0
  head ++ leBytes 4 (crc32c (head ++ body)) ++ body

/-- A record is written to the copy not in use, with SEQ one higher, or to REPAIR_A with SEQ 1 when none is in use. -/
def Dev.rprWrite (d : Dev) (es : List RprEntry) : Dev :=
  let (c, seq) : Nat × Nat := match d.rprUse with
    | some c => (1 - c, d.rprSeq c + 1)
    | none => (0, 1)
  ((d.flashErase (rprBase c) rprSize).flashPut (rprBase c) (rprImage seq es)).refreshRpr

/-- R315: the batch is written with every entry of the copy in use. -/
def Dev.rprFlush (d : Dev) : Dev :=
  if d.pwr.batch.isEmpty then d else
  let b := d.pwr.batch
  let old := d.rprEntries
  let es := (old.map fun e => (b.find? e.same).getD e) ++ b.filter fun e => !old.any e.same
  { d.rprWrite es with pwr := { d.pwr with batch := [] } }

/-- A store to PWR_RPR_GO with GO = 1 (R315). -/
def Dev.rprGoWrite (d : Dev) (v : Nat) : Dev :=
  let d := d.set R.PWR_RPR_GO_KIND (bits v 7 0)
  if v.testBit 63 then d.rprAdd (bits v 7 0) 2 (d.get R.PWR_RPR_ADD_UNIT) (d.get R.PWR_RPR_ADD_DETAIL) else d

/-- REPAIR_RECORD_WRITE (R315): the batch is written; `ok` is the read-back check, after one retry. -/
def execRepairRecordWrite (ok : Bool) (s : State) : Host.Outcome State Fault Refusal :=
  run s fun d =>
    if d.pwr.batch.isEmpty then d
    else if ok then d.rprFlush
    else d.raise1 R.PWR_ERR_RECORD_WRITE_FAIL 0

/-! ### Known-answer tests (R312) -/

/-- A result record (Table 15.5). What was expected and observed, and the cycles, are free values. -/
def katRecord (engine set runs ms first free : Nat) : List Byte :=
  leBytes 1 engine ++ leBytes 1 set ++ leBytes 1 (b2n (ms = 0)) ++ leBytes 1 0 ++ leBytes 4 runs ++ leBytes 4 ms ++
    leBytes 4 (if ms = 0 then 2 ^ 32 - 1 else first) ++ leBytes 8 (Config.freeWord free 0) ++ leBytes 8 (Config.freeWord free 1) ++
    leBytes 8 (Config.freeWord free 2) ++ leBytes 24 0

/-- The runs' results: mismatches and first index of each, up to the first failing one under STOP_ON_FAIL. -/
def katRuns (w : Nat) (res : List (Nat × Nat)) : List (Nat × Nat) :=
  let all := (List.range (ktRepeat w)).map fun r => res.getD r (0, 0)
  if ktStop w then
    match all.findIdx? fun r => r.1 ≠ 0 with
    | some i => all.take (i + 1)
    | none => all
  else all

/-- KAT: a record per run, or one for all runs that STOP_ON_FAIL stopped; a failing run is reported and recorded. -/
def Dev.runKat (d : Dev) (t : Nat) (u : TileUnit) (x : Exec) (res : List (Nat × Nat)) : Dev :=
  let w := x.desc
  let runs := katRuns w res
  let early := decide (runs.length < ktRepeat w)
  let recs : List (Nat × Nat × Nat) :=
    if early then [(runs.length, runs.getLastD (0, 0))] else (List.range runs.length).map fun r => (r + 1, runs.getD r (0, 0))
  let d := match u.roleStream .out with
    | some o => (List.range recs.length).foldl (fun (d : Dev) i =>
        let (free, d) := d.draw
        let r := recs.getD i (0, 0, 0)
        let bs := katRecord (ktEngine w) (ktSet w) r.1 r.2.1 r.2.2 free
        d.putOut t o (64 * i) ⟨bs, bs.map fun _ => x.bad 0, [], [], 0, 0⟩ false) d
    | none => d
  if runs.any fun r => r.1 ≠ 0 then
    let (e, i) := d.opArgs x.op
    (d.raise R.PWR_ERR_KAT_FAIL 0 e i).rprAdd 1 1 t 0
  else d

def execKat (t : Nat) (ms : List (Nat × Nat)) (s : State) : Host.Outcome State Fault Refusal :=
  run s fun d => d.classRow t 0x50 (fun _ x => katSteps x.desc) fun d u x => d.runKat t u x ms

end Sys2Proof.Machine
end

