-- ==== Sys2Proof/Machine/Link.lean ====
section
/-!
DEFINITION. The link machine of an Agxis port (R131–R142, R148–R155): training, identification, lanes and sparing,
replay, reception and relaying, the egress, round-trip measurement, loop-backs and planned slots (R156–R159).
-/

namespace Sys2Proof.Machine

/-! ### Lanes (R132, R138) -/

/-- R132: the lanes of a port at a width of 8, 4, 1 or 0 logical lanes. At width 8 the remaining good lane is the spare. -/
def Dev.mapLanes (d : Dev) (p width : Nat) : Dev :=
  let good := d.goodLanes p
  let act := good.take width
  let d := (List.range 9).foldl (fun (d : Dev) i =>
    let (st, lg) : Nat × Nat := match act.idxOf? i with
      | some k => (0, k)
      | none => (if !good.contains i then 2 else if width = 8 then 1 else 3, 0x3F)
    (d.set (R.AGX_PORT_LANE_STATE p i) st).set (R.AGX_PORT_LANE_LOGICAL p i) lg) d
  (d.set (R.AGX_PORT_STATUS_LANE_ACTIVE p) (act.foldl (fun m i => m + 2 ^ i) 0)).set (R.AGX_PORT_STATUS_WIDTH p)
    (if width = 8 then 3 else if width = 4 then 2 else width)

/-- A lane is marked bad. -/
def Dev.markLane (d : Dev) (p lane : Nat) : Dev :=
  ((d.set (R.AGX_PORT_STATUS_LANE_BAD p) (d.get (R.AGX_PORT_STATUS_LANE_BAD p) ||| 2 ^ lane)).set (R.AGX_PORT_LANE_STATE p lane) 2).set
    (R.AGX_PORT_LANE_LOGICAL p lane) 0x3F

/-! ### A packet through route() that does not start here (R148, R149, R394) -/

/-- A queued or relayed packet takes route() again or for the first time: to a port's queue, or discarded. -/
def Dev.forward (d : Dev) (q : QPkt) : Dev :=
  let p := q.pkt
  let drop (d : Dev) : Dev := q.relay.elim d fun r => d.giveBack r q.pools
  let own := decide (q.relay = none)
  if d.agx.fenced && p.vl ≠ 3 then drop (d.count R.AGX_COL_CNT_FENCE_DROP q.flits.length)
  else if !d.present p.dest then
    let d := (d.raise1 R.AGX_ERR_DENIED_EGRESS p.dest).count R.AGX_FLT_DENIED_EGRESS 1
    if own && p.nonPosted then d.selfComplete p 2 else drop d
  else
    let lost (d : Dev) (port : Nat) : Dev :=
      if own then d.noRouteSrc p port else drop ((d.raise1 R.AGX_ERR_NO_ROUTE p.dest).count R.AGX_NOROUTE_COUNT 1)
    match d.route p.src p.dest (own && p.ind) none with
    | .deliver => d
    | .invalid => drop (d.raise1 R.AGX_ERR_ROUTE_INVALID p.dest)
    | .port port i => d.enqueue port { q with plan := none, pkt := { p with ind := i }, flits := q.flits.map fun f => { f with ind := i } }
    | .noRoute port => if d.link port = 7 ∧ p.vl = 3 then d.enqueue port q else lost d port

/-! ### Going down (R150, Table 7.1) -/

/-- Two flits of one packet: of one source, destination, virtual lane and direction. -/
def samePacket (f g : Flit) : Bool := f.src = g.src && f.dest = g.dest && f.vl = g.vl && f.rsp = g.rsp && f.mcast = g.mcast

/-- A flit joins the unfinished packet that it continues, or begins one. -/
def joinFlit (gs : List (List Sent)) (x : Sent) : List (List Sent) :=
  let open_ (g : List Sent) : Bool := match g.getLast? with
    | some y => !y.flit.last && samePacket y.flit x.flit
    | none => false
  if !x.flit.first && gs.any open_ then gs.map fun g => if open_ g then g ++ [x] else g else gs ++ [[x]]

/-- A packet of flits that were sent and not acknowledged, and of those that follow them, ahead of new ones. It keeps the beat
in which it was queued (R37) and the port it is relayed from. A packet whose first flits the peer has keeps the rest only. -/
def resent (g : List Sent) : Option QPkt :=
  match g, Pkt.ofFlits (g.map (·.flit)) with
  | x :: _, some p =>
    let p := if x.flit.first then p else { p with opc := 0 }
    some { pkt := p, flits := g.map (·.flit), beat := x.beat, plan := none, relay := x.relay, ahead := true
           tree := if x.flit.mcast then some (x.flit.dest % 256) else none, mark := x.mark, pools := [], sent := 0 }
  | _, _ => none

/-- The packets that leave a port that goes down: what its replay buffer holds, completed by the flits of packets that had
started, then the packets that had not started, in queue order (R150). -/
def PortUnit.leaving (u : PortUnit) : List QPkt :=
  let sent := u.replay.filter fun x => x.flit.ftype = 1
  let rest := (u.txq.filter fun q => 0 < q.sent).flatMap fun q => (q.flits.drop q.sent).map fun f => (⟨f, q.beat, q.relay, q.mark⟩ : Sent)
  ((sent ++ rest).foldl joinFlit []).filterMap resent ++ u.txq.filter fun q => q.sent = 0

/-- A port goes down, into state `st`: it leaves the set of R39, its replay buffer's and its queue's packets take route()
ahead of new ones, and the destinations so affected are counted (R150). Branch copies wait for the port. -/
def Dev.goDown (d : Dev) (p st : Nat) : Dev :=
  let u := d.port p
  let (trees, gone) := u.leaving.partition fun q => q.tree.isSome
  let clear (a : Arrival) : Arrival := if a.ingress = p then { a with pools := [] } else a
  let d := d.setPort p { PortUnit.reset with txq := trees, vlOrder := u.vlOrder }
  let d := { d with agx := { d.agx with inbox := d.agx.inbox.map clear, held := d.agx.held.map clear }
                    ports := d.ports.map fun (e : Nat × PortUnit) =>
                      (e.1, { e.2 with txq := e.2.txq.map fun (q : QPkt) => if q.relay = some p then { q with pools := [] } else q }) }
  let d := (d.mapLanes p 0).setLink p st
  let moved := gone.filter fun q => q.relay.isNone && match d.route q.pkt.src q.pkt.dest q.pkt.ind none with | .port _ _ => true | _ => false
  let dests := (moved.map fun q => q.pkt.dest).eraseDups
  let d := (gone.foldl (fun (d : Dev) q => d.forward { q with ahead := true }) d).refreshSeals
  if dests.isEmpty then d else (d.count R.AGX_REORDER_DESTS dests.length).raise1 R.AGX_ERR_FORCED_REORDER p

/-! ### Replay (R137) -/

/-- The unacknowledged flits are resent in order; the ninth time the port goes DOWN instead. -/
def Dev.replayPort (d : Dev) (p : Nat) : Dev :=
  let u := d.port p
  if u.replay.isEmpty then d
  else if 8 ≤ u.replays then (d.raise1 (R.AGX_PORT_ERR_REPLAY_LIMIT p) p).goDown p 5
  else
    let d := (d.setPort p { u with replays := u.replays + 1 }).count (R.AGX_PORT_LINK_REPLAYED p) u.replay.length
    u.replay.foldl (fun (d : Dev) x => d.wire p x.flit false) d

/-- A cumulative acknowledgement. -/
def PortUnit.acked (u : PortUnit) (ack : Nat) : PortUnit :=
  match u.replay.findIdx? fun x => x.flit.seq = ack % 4096 with
  | some i => { u with replay := u.replay.drop (i + 1), replays := 0 }
  | none => u

/-- REPLAY_TIMEOUT. -/
def execReplayTimeout (p : Nat) (s : State) : Host.Outcome State Fault Refusal :=
  run s fun d => if d.link p = 3 ∨ d.link p = 7 ∨ d.link p = 8 then d.replayPort p else d

/-- ACKNOWLEDGEMENT_INTERVAL. -/
def execAcknowledgementInterval (p : Nat) (s : State) : Host.Outcome State Fault Refusal :=
  run s fun d => if 0 < (d.port p).sinceAck ∧ (d.link p = 3 ∨ d.link p = 7 ∨ d.link p = 8) then d.sendAck p false else d

/-! ### Lane failure and sparing (R138) -/

/-- An active lane has failed: the spare is switched in, or the port retrains at width 4, or it goes DOWN. -/
def Dev.spareOrRetrain (d : Dev) (p lane : Nat) : Dev :=
  let good := d.goodLanes p
  let spare := good.find? fun i => d.get (R.AGX_PORT_LANE_STATE p i) = 1
  if d.link p ≠ 3 ∧ d.link p ≠ 4 then d else
  match spare with
  | some sp =>
    if d.link p = 3 then
      let u := d.port p
      let n := (u.nextSeq + 64) % 4096
      (d.setPort p { u with sparing := some ⟨lane, sp, n, none, false, false⟩ }).sendCtl p 4 (leBytes 1 4 ++ leBytes 1 lane ++ leBytes 2 n)
    else d
  | none => if 4 ≤ good.length then (if d.link p = 3 then d.setLink p 4 else d) else d.goDown p 5

/-- A lane is failed: marked, reported, recorded; a second failure waits for a switch under way (Table 7.9). -/
def Dev.failLane (d : Dev) (p lane : Nat) : Dev :=
  if 9 ≤ lane ∨ (d.get (R.AGX_PORT_STATUS_LANE_BAD p)).testBit lane then d else
  let active := (d.get (R.AGX_PORT_STATUS_LANE_ACTIVE p)).testBit lane
  let d := ((d.markLane p lane).raise1 (R.AGX_PORT_ERR_LANE_FAIL p) lane).rprAdd 2 2 (p * 16 + lane) 0
  if !active then d
  else
    let u := d.port p
    if u.sparing.isSome then d.setPort p { u with spareNext := some lane } else d.spareOrRetrain p lane

/-- LANE_FAIL: a lane's counts of one millisecond. In TEST they count pattern errors and fail nothing (R154). -/
def execLaneFail (p lane corr unc : Nat) (s : State) : Host.Outcome State Fault Refusal :=
  run s fun d =>
    if 9 ≤ lane ∨ 36 ≤ p then d else
    let d := (d.count (R.AGX_PORT_LANE_CORR_SYM p lane) corr).count (R.AGX_PORT_LANE_UNCORR_CW p lane) unc
    if d.link p ≠ 8 ∧ (d.get (R.AGX_PORT_SPARE_TH_CORR_TH p) ≤ corr ∨ d.get (R.AGX_PORT_SPARE_TH_UNCORR_TH p) ≤ unc) then d.failLane p lane
    else d

/-- A switch has ended: the lane map of R132 over the lanes still good, then the failure that waited (R138). -/
def Dev.spareDone (d : Dev) (p : Nat) : Dev :=
  let d := d.mapLanes p 8
  let u := d.port p
  let d := d.setPort p { u with sparing := none, spareNext := none }
  u.spareNext.elim d fun l => d.spareOrRetrain p l

/-- A switch ends when both directions have passed their switch numbers. -/
def Dev.spareCheck (d : Dev) (p : Nat) : Dev := if (d.port p).sparing.any fun x => x.tx && x.rx then d.spareDone p else d

/-- The receiving direction switches with the flit that carries the peer's switch number. -/
def Dev.spareRx (d : Dev) (p seq : Nat) : Dev :=
  let u := d.port p
  (d.setPort p { u with sparing := u.sparing.map fun x => { x with rx := x.rx || x.peerSeq.any fun s => seqGe seq s } }).spareCheck p

/-- R138 ends a switch within 2 µs of SPARE_REQ: one whose numbers are known has ended by the next boundary (log entry 64). -/
def Dev.spareBoundary (d : Dev) : Dev :=
  (List.range 36).foldl (fun (d : Dev) p => if (d.port p).sparing.any fun x => x.peerSeq.isSome then d.spareDone p else d) d

/-- SPARE_REQ names the failed lane and the sender's switch number; the answer carries this end's. Of two that cross, the one
naming the lower lane is served first. -/
def execSpareReq (k : Nat) (s : State) : Host.Outcome State Fault Refusal :=
  run s fun d => match d.takeCtl k 4 with
    | none => d
    | some (p, pl, d) =>
      let lane := recNat pl 0 1
      let u := d.port p
      if 9 ≤ lane then d
      else if u.sparing.any fun x => decide (x.lane < lane) then (d.markLane p lane).setPort p { u with spareNext := some lane }
      else
        let later := u.sparing.bind fun x => if x.lane = lane then none else some x.lane
        let mine := (u.nextSeq + 64) % 4096
        let spare := ((d.goodLanes p).find? fun i => d.get (R.AGX_PORT_LANE_STATE p i) = 1).getD 8
        let d := (d.markLane p lane).sendCtl p 4 (leBytes 1 5 ++ leBytes 1 lane ++ leBytes 2 mine)
        d.setPort p { d.port p with sparing := some ⟨lane, spare, mine, some (recNat pl 1 2 % 4096), false, false⟩, spareNext := later }

/-- SPARE_ACK: the peer's switch number is known. -/
def execSpareAck (k : Nat) (s : State) : Host.Outcome State Fault Refusal :=
  run s fun d => match d.takeCtl k 5 with
    | none => d
    | some (p, pl, d) =>
      let u := d.port p
      d.setPort p { u with sparing := u.sparing.map fun x => { x with peerSeq := some (recNat pl 1 2 % 4096) } }

/-- RETRAIN_DONE: width 4, then the replay (Table 7.1), and a round trip is measured from the tick told (R152). -/
def execRetrainDone (p : Told) (s : State) : Host.Outcome State Fault Refusal :=
  run s fun d =>
    let ⟨p, t⟩ := p
    if d.link p ≠ 4 then d else
    let d := (d.mapLanes p 4).setLink p 3
    let u := d.port p
    let d := (d.setPort p { u with sparing := none, spareNext := none }).count (R.AGX_PORT_LINK_REPLAYED p) u.replay.length
    ((u.replay.foldl (fun (d : Dev) x => d.wire p x.flit false) d).flushCtl p).probe p t

/-- LOCK_LOST (Table 7.1): through DOWN to TRAIN. -/
def execLockLost (p : Nat) (s : State) : Host.Outcome State Fault Refusal :=
  run s fun d => if d.link p = 3 ∨ d.link p = 4 ∨ d.link p = 7 then d.goDown p 1 else d

/-! ### Training and identification (R135) -/

/-- Training has failed: the port is DOWN. -/
def Dev.trainFailed (d : Dev) (p : Nat) : Dev := ((d.mapLanes p 0).raise1 (R.AGX_PORT_ERR_TRAIN_FAIL p) p).setLink p 5

/-- TRAIN_DONE: the lanes that did not train are bad, and so is one too late (R134). With fewer than four good lanes the port is DOWN. -/
def execTrainDone (p : Nat) (bad : Trained) (s : State) : Host.Outcome State Fault Refusal :=
  run s fun d =>
    if d.link p ≠ 1 ∨ 36 ≤ p then d else
    let d := d.set (R.AGX_PORT_STATUS_LANE_BAD p) (d.get (R.AGX_PORT_STATUS_LANE_BAD p) ||| bad.bad % 512 ||| lateLanes bad.skew)
    let n := (d.goodLanes p).length
    if n < 4 then d.trainFailed p
    else ((d.mapLanes p (if 8 ≤ n ∧ !d.flag (R.AGX_PORT_CTL_FORCE_X4 p) then 8 else 4)).setLink p 2).sendLinkId p

/-- TRAIN_TIMEOUT. -/
def execTrainTimeout (p bad : Nat) (s : State) : Host.Outcome State Fault Refusal :=
  run s fun d =>
    if d.link p ≠ 1 then d else
    (d.set (R.AGX_PORT_STATUS_LANE_BAD p) (d.get (R.AGX_PORT_STATUS_LANE_BAD p) ||| bad % 512)).trainFailed p

/-- DOWN_RETRY. -/
def execDownRetry (p : Nat) (s : State) : Host.Outcome State Fault Refusal := run s fun d => if d.link p = 5 then d.setLink p 1 else d

/-- A check of IDENTIFY fails: HELD. -/
def Dev.holdPort (d : Dev) (p why : Nat) : Dev :=
  ((d.set (R.AGX_PORT_STATUS_HELD_WHY p) why).raise1 (R.AGX_PORT_ERR_HELD p) why).setLink p 6

/-- IDENTIFY_TIMEOUT. -/
def execIdentifyTimeout (p : Nat) (s : State) : Host.Outcome State Fault Refusal := run s fun d => if d.link p = 2 then d.holdPort p 4 else d

/-- The peer device and port that a port expects: by R131 for a group port, by GPEER for a global one; none when it leads
to no listed peer. -/
def Dev.expectedPeer (d : Dev) (p : Nat) : Option (Nat × Nat) :=
  if p ≤ 30 then
    let dev := d.get R.AGX_ID_GROUP * 32 + (d.get R.AGX_ID_MEMBER + p + 1) % 32
    if d.present dev then some (dev, 30 - p) else none
  else
    let (v, port, dev) := d.gpeer (p - 31)
    if v then some (dev, 31 + port) else none

/-- The SHA-384 of the domain table as LINK_ID carries it. -/
def Dev.domainHash (d : Dev) : List Byte := (List.range 6).flatMap fun n => leBytes 8 (d.reg (R.SEC_DOMAIN_HASH n)).toNat

/-- A port enters UP: sequence numbers 0, credits whole; its seals begin with the beat that runs (R140, Table 7.1), and its round
trip is measured from tick `t` (R152). -/
def Dev.portUp (d : Dev) (p t : Nat) : Dev :=
  let u := d.port p
  let from_ := if d.beating then some (beatSub d.beatNow 1) else none
  ((d.set (R.AGX_PORT_STATUS_HELD_WHY p) 0).setPort p
    { PortUnit.reset with txq := u.txq, vlOrder := u.vlOrder, sent := [from_, from_, from_, from_] }).setLink p 3 |>.probe p t

/-- LINK_ID, flit k.n, at tick k.count: judged in the order NOT_IN_DOMAIN, MISWIRE, HASH (R135). A port in IDENTIFY or HELD answers with its own
LINK_ID, since the one it sent on entry may have met the peer in TRAIN (log entry 41). -/
def execLinkId (k : Told) (s : State) : Host.Outcome State Fault Refusal :=
  run s fun d => match d.takeCtl k.n 1 with
    | none => d
    | some (p, pl, d) =>
      if d.link p ≠ 2 ∧ d.link p ≠ 6 then d else
      let d := d.sendLinkId p
      if d.link p = 6 then d else
      let dev := recNat pl 0 2 % 4096
      let port := recNat pl 2 1
      let d := (d.set (R.AGX_PORT_STATUS_PEER_ID p) dev).set (R.AGX_PORT_STATUS_PEER_PORT p) port
      match d.expectedPeer p with
      | none => d.holdPort p 2
      | some x =>
        if !d.present dev then d.holdPort p 2
        else if x ≠ (dev, port) then d.holdPort p 1
        else if (pl.drop 3).take 48 ≠ d.domainHash then d.holdPort p 3
        else d.portUp p k.count

/-! ### Reception (R137, R140, R142, R148, R149) -/

/-- A whole packet that arrived: put before the unit that handles it, or relayed. Reserved opcodes are discarded and
counted (Table 7.6). -/
def Dev.packetIn (d : Dev) (p : Nat) (r : RxPart) : Dev :=
  match r.flits, Pkt.ofFlits r.flits with
  | f :: _, some q =>
    let put (it : Item) : Dev := { d with agx := { d.agx with inbox := d.agx.inbox ++ [⟨p, it, r.pools, r.mark⟩] } }
    let bad (d : Dev) : Dev := (d.count (R.AGX_PORT_HELD_DISCARDED p) r.flits.length).giveBack p r.pools
    if f.mcast then (if q.opc = 6 ∧ !q.rsp then put (.mcast q) else bad d)
    else if f.dest = d.id then
      if q.rsp then (if q.opc = 0x10 ∨ q.opc = 0x11 then put (.rsp q) else bad d)
      else if 1 ≤ q.opc ∧ q.opc ≤ 5 then put (.req q) else bad d
    else
      let hopped := { q with hops := q.hops + 1, ind := false }
      let x : QPkt := { pkt := hopped, flits := r.flits.map fun g => { g with hops := f.hops + 1, ind := false }, beat := d.beatNow, plan := none
                        relay := some p, ahead := false, tree := none, mark := r.mark, pools := r.pools, sent := 0 }
      let goes : Bool := match d.route q.src q.dest false none with | .port _ _ => true | _ => false
      if f.hops = 3 ∧ d.present f.dest ∧ goes then
        (d.raise1 R.AGX_ERR_HOP_LIMIT f.dest).giveBack p r.pools
      else d.forward x
  | _, _ => d

/-- A PACKET flit in sequence: its space, the ingress checks, and its place in its packet. -/
def Dev.packetFlit (d : Dev) (p : Nat) (f : Flit) : Dev :=
  let u := d.port p
  let pool := u.rxPool f
  let d := d.setPort p { u with taken := bumpPool u.taken pool }
  if !d.present f.src then
    ((d.raise1 R.AGX_ERR_DENIED_INGRESS f.src).count R.AGX_FLT_DENIED_INGRESS 1).giveBack p [(pool, 1)]
  else if d.fencedOut f.src then (d.count R.AGX_COL_CNT_FENCE_DROP 1).giveBack p [(pool, 1)]
  else
    let u := d.port p
    let same (r : RxPart) : Bool := r.src = f.src && r.vl = f.vl && r.rsp = f.rsp
    let r0 : RxPart := if f.first then ⟨f.src, f.vl, f.rsp, [], u.sealCount, []⟩
      else (u.rx.find? same).getD ⟨f.src, f.vl, f.rsp, [], u.sealCount, []⟩
    let r := { r0 with flits := r0.flits ++ [f], pools := r0.pools ++ [(pool, 1)] }
    let rest := u.rx.filter fun x => !same x
    if f.last then (d.setPort p { u with rx := rest }).packetIn p r
    else d.setPort p { u with rx := rest ++ [r] }

/-- A SEAL flit arrives on port p. R167: with stage 3 the port is ready to join the set of R39, where all four stages have named
the beat before the one that runs. -/
def Dev.sealCame (d : Dev) (p beat stage : Nat) (holdover : Bool) : Dev :=
  let d := { d with agx := { d.agx with inbox := d.agx.inbox ++ [(⟨p, .seal beat stage holdover, [], (d.port p).sealCount⟩ : Arrival)] } }
  let u := d.port p
  let n := u.sealCount + 1
  let u := { u with came := u.came.set stage (nameBeat (u.came.getD stage []) beat), sealCount := n
                    sealAt := u.sealAt.set stage (u.sealAt.getD stage [] ++ [(beat, n)]) }
  let agrees := decide (stage = 3) && u.came.all (fun r => r.any fun x => beatGe beat x.1 && beatGe x.2 beat) &&
    d.beating && decide (beatAdd beat 1 = d.beatNow) && !d.fencedOut (d.get (R.AGX_PORT_STATUS_PEER_ID p))
  d.setPort p { u with joinReady := u.joinReady || (agrees && !u.inSet) }

/-- What an accepted flit does. A port to a fenced device takes no CONTROL flit of it but FENCE_NOTE (Table 8.4). -/
def Dev.acceptFlit (d : Dev) (p : Nat) (f : Flit) : Dev :=
  let put (it : Item) : Dev := { d with agx := { d.agx with inbox := d.agx.inbox ++ [⟨p, it, [], (d.port p).sealCount⟩] } }
  match f.ftype with
  | 1 => d.packetFlit p f
  | 2 =>
    let stage := recNat f.payload 6 1
    if 3 < stage then d.count (R.AGX_PORT_HELD_DISCARDED p) 1
    else d.sealCame p (recNat f.payload 0 6) stage (bitAt (recNat f.payload 7 1) 0)
  | 3 => put (.mark (recNat f.payload 0 6) (recNat f.payload 6 1))
  | _ =>
    let t := recNat f.payload 0 1
    if d.fencedOut f.src ∧ t ≠ 0x25 ∧ d.link p ≠ 2 ∧ d.link p ≠ 6 then d.count R.AGX_COL_CNT_FENCE_DROP 1
    else if (1 ≤ t ∧ t ≤ 7) ∨ (0x20 ≤ t ∧ t ≤ 0x25) then put (.ctl t (f.payload.drop 1)) else d.count (R.AGX_PORT_HELD_DISCARDED p) 1

/-- The receiver asks once for each gap that the peer replays. -/
def Dev.nakOnce (d : Dev) (p : Nat) : Dev :=
  let u := d.port p
  if u.nakSent then d else (d.setPort p { u with nakSent := true }).sendAck p true

/-- A flit that was accepted before: it is not asked for again, and the acknowledgement is repeated (R137). -/
def PortUnit.seen (u : PortUnit) (seq : Nat) : Bool := decide (seq % 4096 ≠ u.expSeq) && seqGe u.expSeq seq

/-- A sequenced flit that a port in TEST has brought back: its space is free again at once (R154). -/
def Dev.testFlitIn (d : Dev) (p : Nat) (f : Flit) : Dev :=
  if f.ftype ≠ 1 then d else
  let u := d.port p
  let pool := u.rxPool f
  (d.setPort p { u with taken := bumpPool u.taken pool }).giveBack p [(pool, 1)]

/-- A LOOP_EXIT flit. -/
def loopExit (f : Flit) : Bool := decide (f.ftype = 4) && decide (f.payload.headD 0 = 7)

/-- A flit with a good CRC on a link that carries traffic: acknowledgement and credits first, then the flit in its turn. -/
def Dev.goodFlit (d : Dev) (p : Nat) (f : Flit) : Dev :=
  let st := d.link p
  let u := d.port p
  let u := if f.ackV then u.acked f.ackSeq else u
  let u := if f.crCnt = 0 then u else u.credited f.crPool f.crCnt
  let d := (d.setPort p u).flushCtl p
  let d := if f.nak then d.replayPort p else d
  if 5 ≤ f.ftype then d.count (R.AGX_PORT_HELD_DISCARDED p) 1
  else if f.ftype = 0 then d
  else if !sequencedFlit f then (if st = 8 then d else d.acceptFlit p f)
  else
    let u := d.port p
    if u.seen f.seq then d.setPort p { u with sinceAck := u.sinceAck + 1 }
    else if f.seq % 4096 ≠ u.expSeq then d.nakOnce p
    else
      let u := { u with expSeq := (u.expSeq + 1) % 4096, nakSent := false, sinceAck := u.sinceAck + 1 }
      let d := (d.setPort p u).spareRx p f.seq
      let d := if 32 ≤ u.sinceAck then d.sendAck p false else d
      if st = 8 then d.testFlitIn p f else d.acceptFlit p f

/-- What a port receives: in a loop-back inside the port only its own flits, oldest first; in LINK mode as they left, below it
as the lanes bring them back (Table 7.10). -/
def Dev.looped (d : Dev) (p : Nat) (f : Flit) : Option (Flit × Dev) :=
  let l := d.get (R.AGX_PORT_CTL_LOOP p)
  if d.link p = 8 ∧ 1 ≤ l ∧ l ≤ 3 then
    match (d.port p).loop with
    | [] => none
    | g :: rest => some (if l = 3 then g else f, d.setPort p { d.port p with loop := rest })
  else some (f, d)

/-- FLIT_RECEIVE. A port in TEST takes its own flits through the link layer and delivers nothing (R154). A port that returns
what it receives looks for LOOP_EXIT only (log entry 65). -/
def Dev.flitReceive (d : Dev) (p : Nat) (f : Flit) : Dev :=
  let st := d.link p
  if 36 ≤ p ∨ st = 0 ∨ st = 1 ∨ !d.alive then d else
  match d.looped p f with
  | none => d
  | some (f, d) =>
  let d := d.count (R.AGX_PORT_FLITS_RX p) 1
  if (d.port p).farEnd then (if loopExit f && decide (f.crc = flitCrc f) then d.acceptFlit p f else d.onLanes p f)
  else if f.crc ≠ flitCrc f then
    let d := d.count (R.AGX_PORT_LINK_CRC_ERR p) 1
    if sequencedFlit f && (st = 3 || st = 4 || st = 7 || st = 8) then d.nakOnce p else d
  else if st = 2 ∨ st = 5 ∨ st = 6 then
    if f.ftype = 4 ∧ f.payload.headD 0 = 1 then d.acceptFlit p f else d.count (R.AGX_PORT_HELD_DISCARDED p) 1
  else d.goodFlit p f

/-- FLIT_RECEIVE. -/
def execFlitReceive (p : Nat) (f : Flit) (s : State) : Host.Outcome State Fault Refusal := run s fun d => d.flitReceive p f

/-! ### Planned slots (R156–R159) -/

/-- The entries of a slot-plan chain (Table 8.1). -/
def Dev.planChain (d : Dev) (plan : Nat) : Nat → List Nat
  | 0 => []
  | n + 1 => if plan = 0 then [] else
    let e := d.secEntry 13 4 16 (plan - 1)
    e :: d.planChain (bits e 127 112) n

/-- A claim's windows on a port stand open in a beat and slot, counted from the operation's planned start beat. -/
def windowOpen (e port due beat slot : Nat) : Bool :=
  let k := beatSub beat due
  bits e 111 106 = port && beatGe beat due && decide (bits e 79 72 ≤ k ∧ k < bits e 79 72 + bits e 71 64) &&
    decide (bits e 63 58 ≤ slot ∧ slot < bits e 63 58 + bits e 57 50)

/-- The last window of a claim has passed. -/
def windowPassed (e due beat slot : Nat) : Bool :=
  let last := beatAdd due (bits e 79 72 + bits e 71 64 - 1)
  beatGt beat last || (beat = last && decide (bits e 63 58 + bits e 57 50 ≤ slot))

/-- The claims of an operation whose windows stand open on a port now. -/
def Dev.openClaims (d : Dev) (port : Nat) (o : Op) : List Nat :=
  if o.filler then [] else (d.planChain o.slotPlan 37).filter fun e => windowOpen e port o.due d.beatNow d.beat.slot

/-- The running operation that holds the open slot of a port: of those that claim it, the one that started first (R58). -/
def Dev.slotOwner (d : Dev) (port : Nat) : Option Op := d.ops.find? fun o => !(d.openClaims port o).isEmpty

/-- A claim selects a queued packet: relayed VL0 flits of its ingress port, or a stream of its own operation (Table 8.1). -/
def claimTakes (e op : Nat) (q : QPkt) : Bool :=
  if bitAt e 99 then decide (q.relay = some (bits e 105 100))
  else q.relay.isNone && q.plan.any fun x => decide (x.1 = op) && bitAt (bits e 98 95) x.2

/-- A queued packet may use the window that is open on a port now (R58, R158, R159). -/
def Dev.inWindow (d : Dev) (port : Nat) (q : QPkt) : Bool :=
  q.pkt.vl = 0 && (d.slotOwner port).any fun o => (d.openClaims port o).any fun e => claimTakes e o.id q

/-- A planned packet that has not started goes to VL1 where the windows of its stream on the port have all passed (R34, R158), and where
its window is open and another operation holds the slot (R58). -/
def Dev.windowGone (d : Dev) (port : Nat) (q : QPkt) : Bool :=
  q.pkt.vl = 0 && q.sent = 0 && q.plan.any fun x => match d.ops.find? fun o => o.id = x.1 with
    | none => true
    | some o =>
      let claims := (d.planChain o.slotPlan 37).filter fun e => bits e 111 106 = port && claimTakes e o.id q
      claims.all (fun e => windowPassed e o.due d.beatNow d.beat.slot) ||
        ((d.openClaims port o).any (fun e => claimTakes e o.id q) && !d.inWindow port q)

/-- VL0_SLOT_START. -/
def execVl0SlotStart (n : Nat) (s : State) : Host.Outcome State Fault Refusal :=
  run s fun d =>
    if 64 ≤ n ∨ !d.beating then d else
    let d : Dev := { d with beat := { d.beat with slot := n } }
    (List.range 36).foldl (fun (d : Dev) p =>
      let u := d.port p
      let moved := (u.txq.filter (d.windowGone p)).foldl (fun x q => x + q.flits.length) 0
      if moved = 0 then d
      else (d.setPort p { u with txq := u.txq.map fun (q : QPkt) => if d.windowGone p q then
          { q with pkt := { q.pkt with vl := 1 }, flits := q.flits.map fun g => { g with vl := 1 }, plan := none } else q }).count
        R.BEAT_VL0_MOVED_FLITS moved) d

/-! ### The egress (R140, R141) -/

/-- The next `n` flits of a packet leave, as far as the replay buffer has room: they take sequence numbers, are counted, and
their receive credits go back. A packet that has not ended goes on with a later command (R141). -/
def Dev.sendPkt (d : Dev) (p : Nat) (u : PortUnit) (q : QPkt) (n : Nat) : Dev :=
  let k := min n (min (q.flits.length - q.sent) (512 - u.replay.length))
  let out := (q.flits.drop q.sent).take k
  let whole := decide (q.sent + k = q.flits.length)
  let d := d.setPort p { u with txq := if whole then u.txq.erase q else u.txq.set (u.txq.idxOf q) { q with sent := q.sent + k } }
  let d := out.foldl (fun (d : Dev) f => d.sendKept p ⟨f, q.beat, q.relay, q.mark⟩) d
  let cnt : Fld := match q.pkt.vl with
    | 0 => R.AGX_PORT_VL_TX_VL0 p
    | 1 => R.AGX_PORT_VL_TX_VL1 p
    | 2 => R.AGX_PORT_VL_TX2_VL2 p
    | _ => R.AGX_PORT_VL_TX2_VL3 p
  let d := d.count cnt k
  let d := q.relay.elim d fun r => d.giveBack r ((q.pools.drop q.sent).take k)
  let d := d.spareCheck p
  if whole then q.tree.elim d fun n => d.mcGo n else d

/-- PACKET flits that a port has sent in this beat. -/
def Dev.sentFlits (d : Dev) (p : Nat) : Nat :=
  d.running (R.AGX_PORT_VL_TX_VL0 p) + d.running (R.AGX_PORT_VL_TX_VL1 p) + d.running (R.AGX_PORT_VL_TX2_VL2 p) + d.running (R.AGX_PORT_VL_TX2_VL3 p)

/-- The owner's cap holds the port's packets (R141, R340): 0 holds the port down, 255 is no cap, and 1 to 200 GB/s is measured
over a beat in flits of 256 bytes (log entry 66). -/
def Dev.capped (d : Dev) (p : Nat) : Bool :=
  let c := d.get (R.SEC_AGX_CAP_CAP p)
  decide (c = 0) || (decide (c ≤ 200) && decide (c * d.get R.BEAT_PERIOD_PERIOD_TICKS * 8 / 10 ≤ 256 * d.sentFlits p))

/-- A packet may go on, or may start: it has room for a flit, its virtual lane may travel, and credits for all its flits are
there or have been taken (R137, R140, R169). A port that drains takes no packet from a branch buffer (R135). -/
def Dev.maySend (d : Dev) (p : Nat) (q : QPkt) : Option PortUnit :=
  let u := d.port p
  if 0 < q.sent then (if u.room 1 then some u else none)
  else if u.room 1 && (decide (q.pkt.vl = 3) || (decide (d.link p = 3) && !d.agx.fenced)) &&
      (q.tree.isNone || decide (d.get (R.AGX_PORT_STATUS_PWR p) = 1)) then takeCredits u q.flits
  else none

/-- The packet of a virtual lane that goes next: the one that has started, or the first that satisfies `ok` (R141). -/
def PortUnit.laneHead (u : PortUnit) (vl : Nat) (ok : QPkt → Bool) : Option QPkt :=
  match u.txq.find? fun q => q.pkt.vl = vl && decide (0 < q.sent) with
  | some q => some q
  | none => u.txq.find? fun q => q.pkt.vl = vl && ok q

/-- PACKET_SEND: up to `n` flits of one packet leave on a port: a planned one in its open window where it fits the `left` flit
times, else the arbiter's choice among the virtual lanes (R42, R140, R141, R158). -/
def Dev.packetSend (d : Dev) (p left n : Nat) : Dev :=
  let st := d.link p
  let u := d.port p
  if !d.alive ∨ (st ≠ 3 ∧ st ≠ 7) ∨ d.fencedOut (d.get (R.AGX_PORT_STATUS_PEER_ID p)) ∨ d.capped p ∨ n = 0 then d else
  match (u.laneHead 0 (d.inWindow p)).bind fun q =>
      if d.inWindow p q ∧ q.flits.length - q.sent ≤ left then (d.maySend p q).map fun u' => (q, u') else none with
  | some (q, u') => d.sendPkt p u' q n
  | none =>
    let head (vl : Nat) : Option QPkt := u.laneHead vl fun q => vl ≠ 0 || (q.plan.isNone && !d.inWindow p q)
    match u.vlOrder.findSome? fun vl => (head vl).bind fun q => (d.maySend p q).map fun u' => (vl, q, u') with
    | some (vl, q, u') => d.sendPkt p { u' with vlOrder := u.vlOrder.erase vl ++ [vl] } q n
    | none => d

/-- A flit of the test traffic of a port in TEST (R154): a packet of no data to this device. What a test sends is open
(log entry 65). -/
def Dev.testFlit (d : Dev) : Flit := { flitIdle with ftype := 1, dest := d.id, src := d.id, first := true, last := true, vl := 1 }

/-- A port in TEST sends one flit of its test traffic, under the link layer's rules. -/
def Dev.testSend (d : Dev) (p : Nat) : Dev :=
  if !d.alive ∨ !(d.port p).room 1 then d
  else (takeCredits (d.port p) [d.testFlit]).elim d fun u => (d.setPort p u).sendSeq p d.testFlit

/-- PACKET_SEND. -/
def execPacketSend (p : Nat) (left : SendSpan) (s : State) : Host.Outcome State Fault Refusal :=
  run s fun d => if d.link p = 8 then d.testSend p else d.packetSend p left.left left.flits

/-! ### Round trip and far-end loop-back (R152, R154) -/

/-- RTT_PROBE_TIMER: the probe leaves at timebase tick `t`. -/
def execRttProbeTimer (p t : Nat) (s : State) : Host.Outcome State Fault Refusal :=
  run s fun d => if d.link p = 3 ∨ d.link p = 7 then d.probe p t else d

/-- RTT_PROBE. -/
def execRttProbe (k : Nat) (s : State) : Host.Outcome State Fault Refusal :=
  run s fun d => match d.takeCtl k 2 with
    | none => d
    | some (p, _, d) => d.sendRaw p 4 (leBytes 1 3)

/-- RTT_ECHO: it arrives at timebase tick `t`. -/
def execRttEcho (k t : Nat) (s : State) : Host.Outcome State Fault Refusal :=
  run s fun d => match d.takeCtl k 3 with
    | none => d
    | some (p, _, d) => match (d.port p).probeAt with
      | none => d
      | some t0 => (d.set (R.AGX_PORT_RTT_TICKS p) (min (t - t0) (2 ^ 20 - 1))).setPort p { d.port p with probeAt := none }

/-- LOOP_REQ: accepted only while the security configuration enables test. -/
def execLoopReq (k : Nat) (s : State) : Host.Outcome State Fault Refusal :=
  run s fun d => match d.takeCtl k 6 with
    | none => d
    | some (p, _, d) => if d.testEnable then d.setPort p { d.port p with farEnd := true } else d

/-- LOOP_EXIT. -/
def execLoopExit (k : Nat) (s : State) : Host.Outcome State Fault Refusal :=
  run s fun d => match d.takeCtl k 7 with
    | none => d
    | some (p, _, d) => d.setPort p { d.port p with farEnd := false }

/-! ### Port control (R135, R154, R321) -/

/-- A DRAINING port has finished: what is left takes the DOWN path, and the port goes OFF (R135, Table 15.10). -/
def Dev.portDrained (d : Dev) (p : Nat) : Dev :=
  if d.get (R.AGX_PORT_STATUS_PWR p) = 2 ∨ d.get (R.AGX_PORT_STATUS_PWR p) = 3 then (d.goDown p 0).unitOff (agxUnit p) else d

/-- PORT_DRAIN_DONE. -/
def execPortDrainDone (p : Nat) (s : State) : Host.Outcome State Fault Refusal := run s fun d => d.portDrained p

/-- A store to AGX_PORT_CTL.LOOP (R154, Tables 7.1 and 7.10). A HELD port goes to TRAIN with any other store to AGX_PORT_CTL. -/
def Dev.loopWrite (d : Dev) (p loop : Nat) : Dev :=
  let st := d.link p
  let old := d.get (R.AGX_PORT_CTL_LOOP p)
  let idle := decide (st = 0 ∨ st = 5 ∨ st = 6)
  if loop = 0 ∧ st = 8 then
    let d := if old = 4 then d.sendSeq p (d.ctlFlit p 4 (leBytes 1 7)) else d
    ((d.setPort p { PortUnit.reset with txq := (d.port p).txq, vlOrder := (d.port p).vlOrder }).set (R.AGX_PORT_CTL_LOOP p) 0).setLink p 1
  else if loop = 0 ∧ idle then
    let d := d.set (R.AGX_PORT_CTL_LOOP p) 0
    if st = 6 then d.setLink p 1 else d
  else if 1 ≤ loop ∧ loop ≤ 4 ∧ idle then
    let d := (d.set (R.AGX_PORT_CTL_LOOP p) loop).setLink p 8
    let d := d.setPort p { PortUnit.reset with txq := (d.port p).txq, vlOrder := (d.port p).vlOrder }
    if loop = 4 then d.sendSeq p (d.ctlFlit p 4 (leBytes 1 6)) else d
  else if loop = old then d
  else d.raise1 (R.AGX_PORT_ERR_LOOP_REJECT p) loop

/-- A store to AGX_PORT_CTL: its fields, the power request, the loop-back (Table 7.10), and TRAIN for a HELD port. -/
def Dev.portCtlWrite (d : Dev) (p v : Nat) : Dev :=
  let loop := bits v 3 1
  let d := ((d.set (R.AGX_PORT_CTL_RETRY_MS p) (bits v 31 16)).set (R.AGX_PORT_CTL_FORCE_X4 p) (bits v 6 6)).set (R.AGX_PORT_CTL_PRBS p) (bits v 5 4)
  let d := d.loopWrite p loop
  if d.get (R.AGX_PORT_CTL_ENABLE p) = bits v 0 0 then d
  else
    let d := d.set (R.AGX_PORT_CTL_ENABLE p) (bits v 0 0)
    if v.testBit 0 then d.enableUnit (agxUnit p) else d.disableUnit (agxUnit p)

/-- A store to AGX_PORT_INJECT: it acts only while test injection is enabled (R155). -/
def Dev.portInjectWrite (d : Dev) (p v : Nat) : Dev :=
  (d.set (R.AGX_PORT_INJECT_LANE p) (bits v 4 1)).set (R.AGX_PORT_INJECT_CRC_NEXT p) (bits v 0 0)

/-- A store to AGX_PORT_SPARE_TH: the thresholds, and LANE_FAIL_NOW under test injection. -/
def Dev.portSpareWrite (d : Dev) (p v : Nat) : Dev :=
  let d := (d.set (R.AGX_PORT_SPARE_TH_UNCORR_TH p) (bits v 47 32)).set (R.AGX_PORT_SPARE_TH_CORR_TH p) (bits v 31 0)
  if bits v 63 48 ≠ 0 ∧ d.testEnable then d.failLane p (d.get (R.AGX_PORT_INJECT_LANE p)) else d

/-- ROUTE_FENCE_TIMEOUT (R150). -/
def execRouteFenceTimeout (dest : Nat) (s : State) : Host.Outcome State Fault Refusal :=
  run s fun d => match d.agx.fences.find? fun f => f.1 = dest with
    | none => d
    | some (_, began, held) =>
      if beatSub d.beatNow began < d.get R.AGX_CTL_FENCE_TIMEOUT_BEATS then d
      else
        let d : Dev := { d with agx := { d.agx with fences := d.agx.fences.filter fun f => f.1 ≠ dest } }
        (held.foldl (fun (d : Dev) q => d.launch q.pkt q.plan) d).raise1 R.AGX_ERR_FORCED_REORDER dest

/-- R150: the fence write of a destination completed: what was held leaves, in order. -/
def Dev.fenceDone (d : Dev) (dest : Nat) : Dev :=
  let held := (d.agx.fences.filter fun f => f.1 = dest).flatMap fun f => f.2.2
  let d : Dev := { d with agx := { d.agx with fences := d.agx.fences.filter fun f => f.1 ≠ dest } }
  held.foldl (fun (d : Dev) q => d.launch q.pkt q.plan) d

/-! ### The ends of requests (R119, R144, R145) -/

/-- An acknowledgement for a tile's output; an error halts its operation (R119, R22). -/
def Dev.outEnd (d : Dev) (t status addr : Nat) : Dev :=
  let u := d.tile t
  let d := d.setTile t { u with exec := u.exec.map fun x => { x with acks := x.acks - 1 } }
  if status = 0 then d
  else
    let f := if status = 1 then R.PUMP_ERR_ADDR t else R.PUMP_ERR_REMOTE_ERR t
    match u.streams.find? fun s => s.role = .out with
    | some s => d.streamFault t s.ctx f addr
    | none => d.raise1 f addr

/-- The requester learns that its request has ended, with a status. -/
def Dev.endFor (d : Dev) (e : TagEnt) (status : Nat) : Dev :=
  match e.waiter with
  | .pump t id => d.pumpEnd t id status
  | .outWrite t => d.outEnd t status (e.pkt.dest * 2 ^ 45 + e.pkt.addr)
  | .fence dest => d.fenceDone dest
  | .fetch r => d.fetchEnd r status
  | .pull n _ => if status = 0 then d else d.pullFailed n
  | .mgr => d

end Sys2Proof.Machine
end

