-- ==== Sys2Proof/Machine/Seals.lean ====
section
/-!
DEFINITION. Beat seals (R29, R37–R40, R151) and the lock that they may complete (R28), the set of ports whose seals are waited for
(R39, R167), silence, fences and the FENCED state (R167–R169).
-/

namespace Sys2Proof.Machine

/-- A SEAL flit's payload from byte 16 (R151). -/
def Dev.sealBytes (d : Dev) (beat stage : Nat) : List Byte :=
  leBytes 6 beat ++ leBytes 1 stage ++ leBytes 1 (b2n (d.get R.BEAT_STATUS_LOCK_STATE = 3))

/-- The stage-h seal of beat k leaves on a port. -/
def Dev.sealOut (d : Dev) (p h k : Nat) : Dev :=
  let u := d.port p
  (d.setPort p { u with sent := u.sent.set h (some k) }).sendCtl p 2 (d.sealBytes k h)

/-- Seals leave on ports that are UP or in NIGHT; those of the last boundary of HOLDOVER also after the lock is lost (Table 2.1). -/
def Dev.sealPort (d : Dev) (p : Nat) : Bool := (d.beating || d.beat.lastSeals) && d.alive && (d.link p = 3 || d.link p = 7)

/-- SEAL_SEND: stage 0 of the next beat's seal, once every flit of this device queued on the port before that beat's end has left. -/
def execSealSend (p : Nat) (s : State) : Host.Outcome State Fault Refusal :=
  run s fun d =>
    let u := d.port p
    let k := (u.sent.getD 0 none).elim (beatSub d.beatNow 1) fun b => beatAdd b 1
    let drained := u.txq.all fun q => q.relay.isSome || !beatGe k q.beat
    if d.sealPort p && beatGt d.beatNow k && drained then d.sealOut p 0 k else d

/-- Flits to a destination route to port p: those of a tree to its branches. -/
def Dev.routesTo (d : Dev) (p src dest : Nat) (mcast : Bool) : Bool :=
  if mcast then (d.mcLive (dest % 256)).contains p
  else decide (dest ≠ d.id) && match d.route src dest false none with
    | .port x _ => decide (x = p)
    | _ => false

/-- A flit that arrived on port q before its stage-h seal of beat k, and that routes to p, has not left p yet (R151). -/
def Dev.sealHeldBy (d : Dev) (p q h k : Nat) : Bool :=
  let at_ := (((d.port q).sealAt.getD h []).find? fun x => x.1 = k).elim 0 (·.2)
  ((d.port p).txq.any fun x => decide (x.relay = some q) && decide (x.mark < at_)) ||
    ((d.port q).rx.any fun r => decide (r.mark < at_) && r.flits.head?.any fun f => d.routesTo p f.src f.dest f.mcast) ||
    d.agx.inbox.any fun a => a.ingress = q && decide (a.mark < at_) && match a.item with
      | .mcast x => d.routesTo p x.src x.dest true
      | _ => false

/-- SEAL_STAGE_SEND: the lowest stage h ≥ 1 that may leave on the port. -/
def execSealStageSend (p : Nat) (s : State) : Host.Outcome State Fault Refusal :=
  run s fun d =>
    let u := d.port p
    let next (h : Nat) : Option Nat := match u.sent.getD h none, u.sent.getD (h - 1) none with
      | some b, some c => if beatGe c (beatAdd b 1) then some (beatAdd b 1) else none
      | none, some c => some c
      | _, none => none
    let ready (h k : Nat) : Bool :=
      (d.sealSet.filter fun q => decide (q ≠ p)).all fun q => d.sealCameBy q (h - 1) k && !d.sealHeldBy p q (h - 1) k
    match [1, 2, 3].findSome? fun h => (next h).bind fun k => if ready h k then some (h, k) else none with
    | some (h, k) => if d.sealPort p then d.sealOut p h k else d
    | none => d

/-- Everything that arrived on the seal's port before it has been applied: earlier writes, and REDUCE_PUTs added (R39, R160). -/
def Dev.sealMayPass (d : Dev) (k ingress : Nat) : Bool :=
  ((d.agx.inbox.take k).all fun a => a.ingress ≠ ingress || match a.item with
    | .req q => q.opc = 1
    | .mcast _ => false
    | .seal _ _ _ => false
    | _ => true) &&
  d.agx.red.all fun x => decide (x.ingress ≠ ingress)

/-! ### The lock (R28) -/

/-- The lock machine moves, with its event. -/
def Dev.lockTo (d : Dev) (st : Nat) : Dev :=
  (d.set R.BEAT_STATUS_LOCK_STATE st).event R.BEAT_STATUS_LOCK_STATE 0 noArg noArg

/-- LOCKED: BEAT_NUM is loaded; seals begin with the beat now running. -/
def Dev.lockOn (d : Dev) (n : Nat) : Dev :=
  let d := d.set R.BEAT_NUM_NUM n
  let d : Dev := { d with beat := { d.beat with missed := 0, heard := [], learned := none, slot := 0 } }
  let d := (List.range 36).foldl (fun (d : Dev) p => d.setPort p { d.port p with sent := List.replicate 4 (some (beatSub n 1)) }) d
  let d := if d.get R.PWR_STATE_BOOT_STEP = 12 then d.set R.PWR_STATE_BOOT_STEP 0 else d
  (d.lockTo 2).refreshSeals.checkDue.refreshWaiting

/-- ACQUIRE ends with eight marks in window and a known beat number, whichever comes last. -/
def Dev.lockIfReady (d : Dev) : Dev :=
  match d.beat.learned with
  | some n => if 8 ≤ d.beat.inWin then d.lockOn n else d
  | none => d

/-- A stage-3 seal of beat b in ACQUIRE: the seals of two ports that agree since the last mark teach the beat number, unless another
source has (R29). -/
def Dev.hearSeal (d : Dev) (p b : Nat) : Dev :=
  let heard := (d.beat.heard.filter fun h => h.1 ≠ p) ++ [(p, b)]
  let agree := decide ((heard.filter fun h => h.2 = b).length ≥ 2)
  let learned := if d.beat.learned.isNone && agree then some (beatAdd b 1) else d.beat.learned
  ({ d with beat := { d.beat with heard := heard, learned := learned } }).lockIfReady

/-- BEAT_SEAL: a seal is judged (R29) and counts for its port as the seal of the beat it names (R39); in ACQUIRE it may teach the
beat number. -/
def Dev.beatSeal (d : Dev) (k : Nat) : Dev :=
  match d.agx.inbox[k]?, d.takeIn k with
  | some a, some (_, d') =>
    match a.item with
    | .seal beat stage _ =>
      if !d.sealMayPass k a.ingress then d else
      let d := d'
      let p := a.ingress
      let u := d.port p
      let prev := u.seals.getD stage none
      let expected := beatGt d.beatNow beat && prev.all fun b => decide (beat = beatAdd b 1)
      let d := if d.beating && !expected then d.raise1 R.BEAT_ERR_SEAL_MISMATCH p else d
      let d := d.setPort p { d.port p with seals := u.seals.set stage (some beat)
                                           named := u.named.set stage (nameBeat (u.named.getD stage []) beat) }
      let d := if stage = 3 ∧ d.get R.BEAT_STATUS_LOCK_STATE = 1 then d.hearSeal p beat else d
      d.refreshSeals
    | _ => d
  | _, _ => d

/-- BEAT_SEAL. -/
def execBeatSeal (k : Nat) (s : State) : Host.Outcome State Fault Refusal := run s fun d => d.beatSeal k

/-- R167: at the boundary that ends beat k each port of the set is heard from or counted silent, and ports that have
received an agreeing set of stages join. -/
def Dev.silenceBoundary (d : Dev) (k : Nat) : Dev :=
  (List.range 36).foldl (fun (d : Dev) p =>
    let u := d.port p
    let d := if d.inSet p then
        d.setPort p { u with silentRun := if d.sealCameBy p 0 (beatSub k 1) then 0 else u.silentRun + 1 }
      else d
    let u := d.port p
    if u.joinReady && !u.inSet && d.mayJoin p then
      (d.setPort p { u with joinReady := false, inSet := true, silentRun := 0 }).set R.AGX_SILENT_PORTS
        (d.get R.AGX_SILENT_PORTS - b2n ((d.get R.AGX_SILENT_PORTS).testBit p) * 2 ^ p)
    else d) d

/-- PORT_SILENT: a port silent at SILENT_BEATS consecutive boundaries leaves the set; the event names the peer. -/
def execPortSilent (p : Nat) (s : State) : Host.Outcome State Fault Refusal :=
  run s fun d =>
    let u := d.port p
    let n := d.get R.AGX_HB_CTL_SILENT_BEATS
    if 36 ≤ p ∨ n = 0 ∨ u.silentRun < n ∨ !d.inSet p then d
    else
      let d := d.setPort p { u with inSet := false, joinReady := false, silentRun := 0 }
      let d := d.set R.AGX_SILENT_PORTS (d.get R.AGX_SILENT_PORTS ||| 2 ^ p)
      (d.event R.AGX_SILENT_PORTS (d.get (R.AGX_PORT_STATUS_PEER_ID p)) noArg noArg).refreshSeals

/-- R169: on entry to FENCED what is queued for Agxis and has not started is discarded, but for VL3 packets, SEAL flits and FENCE_NOTE.
A packet that has started ends (log entry 67). -/
def Dev.fencedDrop (d : Dev) : Dev :=
  (List.range 36).foldl (fun (d : Dev) p =>
    let u := d.port p
    let goes (q : QPkt) : Bool := decide (q.pkt.vl = 3 ∨ 0 < q.sent)
    let ctl (f : Flit) : Bool := decide (f.ftype = 2) || decide (f.payload.headD 0 = 0x25)
    let (keep, out) := u.txq.partition goes
    let d := (d.setPort p { u with txq := keep, ctlq := u.ctlq.filter ctl }).count R.AGX_COL_CNT_FENCE_DROP
      ((out.foldl (fun x q => x + q.flits.length) 0) + u.ctlq.countP fun f => !ctl f)
    out.foldl (fun (d : Dev) q => q.relay.elim d fun r => d.giveBack r q.pools) d) d

/-- FENCE_NOTE (R169): naming this device, it puts it in the FENCED state. -/
def execFenceNote (k : Nat) (s : State) : Host.Outcome State Fault Refusal :=
  run s fun d => match d.takeCtl k 0x25 with
    | none => d
    | some (_, pl, d) =>
      if recNat pl 0 2 = d.id ∧ !d.agx.fenced then
        ({ d with agx := { d.agx with fenced := true } }).fencedDrop.raise1 R.AGX_VER_2_FENCED_SELF (recNat pl 2 6)
      else d

/-- R150, R148: the staged route bank becomes active; each destination whose usable entry changed is held behind a
zero-length WRITE on its old route. -/
def Dev.routeSwap (d : Dev) : Dev :=
  if !d.flag R.AGX_ROUTE_SWAP_ARM then d else
  let new (dest : Nat) : Nat :=
    let w := (d.reg (R.AGX_ROUTE_STAGED_PAIR (dest / 2))).toNat
    if dest % 2 = 0 then w % 2 ^ 32 else w / 2 ^ 32
  let changed := (List.range 4096).filter fun x => decide (x ≠ d.id) && bitAt (d.routeEntry x) 31 && decide (d.routeEntry x ≠ new x)
  let d := changed.foldl (fun (d : Dev) x => d.request (d.newReq x 1 2 0 [] []) (.fence x) 1 none) d
  let d := { d with agx := { d.agx with fences := d.agx.fences ++ (changed.filter fun x => !d.fencedRoute x).map fun x => (x, d.beatNow, []) } }
  ((List.range 2048).foldl (fun (d : Dev) i => d.setWord (R.AGX_ROUTE_PAIR i) (d.reg (R.AGX_ROUTE_STAGED_PAIR i))) d).set R.AGX_ROUTE_SWAP_ARM 0

/-- R168: requests of this device to lost devices complete at once: those with a tag from inside, those that wait for one directly; what
a route-change fence holds for the lost is discarded. -/
def Dev.endLost (d : Dev) (fresh : List Nat) : Dev :=
  let lost := d.agx.tags.filter fun t => fresh.contains t.pkt.dest
  let d := lost.foldl (fun (d : Dev) t => d.selfComplete t.pkt 7) d
  let (gone, stay) := d.agx.waiters.partition fun w => fresh.contains w.pkt.dest
  let d := ({ d with agx := { d.agx with waiters := stay } }).refreshTags
  let d := gone.foldl (fun (d : Dev) w => d.endFor ⟨0, w.pkt, w.waiter, w.left⟩ 7) d
  let (out, keep) := d.agx.fences.partition fun f => fresh.contains f.1
  ({ d with agx := { d.agx with fences := keep } }).count R.AGX_COL_CNT_FENCE_DROP
    ((out.flatMap fun (f : Nat × Nat × List QPkt) => f.2.2.filter fun (q : QPkt) => !q.pkt.nonPosted).foldl (fun x (q : QPkt) => x + q.flits.length) 0)

/-- R168, Table 8.4 at one port: what is queued for the lost is discarded; a port to one of them sends FENCE_NOTE, leaves the set of R39,
gives its other packets to route(), and its branches are pruned. A packet that has started on another port ends. -/
def Dev.fencePort (d : Dev) (fresh : List Nat) (p : Nat) : Dev :=
  let u := d.port p
  let peer := d.get (R.AGX_PORT_STATUS_PEER_ID p)
  let mine := fresh.contains peer
  let out := u.txq.filter fun q => fresh.contains q.pkt.dest && q.tree.isNone && (mine || decide (q.sent = 0))
  let d := (d.setPort p { u with txq := u.txq.filter fun q => !out.contains q }).count R.AGX_COL_CNT_FENCE_DROP
    (out.foldl (fun x q => x + q.flits.length) 0)
  let d := out.foldl (fun (d : Dev) q => q.relay.elim d fun r => d.giveBack r (q.pools.drop q.sent)) d
  if mine ∧ d.link p ≠ 0 then
    let d := d.sendCtl p 4 (leBytes 1 0x25 ++ leBytes 2 peer ++ leBytes 6 d.beatNow)
    let u := d.port p
    let (trees, moved) := u.txq.partition fun q => q.tree.isSome
    let d := d.setPort p { u with inSet := false, joinReady := false, silentRun := 0, txq := trees }
    let d := moved.foldl (fun (d : Dev) q => d.forward { q with sent := 0 }) d
    (List.range 256).foldl (fun (d : Dev) n => d.prune n p) d
  else d

/-- R168, Table 8.4: the staged fence bitmap becomes active. A port whose peer is unfenced joins the set only with seals that arrive from
now on (R167). -/
def Dev.fenceBoundary (d : Dev) : Dev :=
  if !d.flag R.AGX_FENCE_ARM_ARM || !beatGe d.beatNow (d.get R.AGX_FENCE_ARM_AT_BEAT) then d else
  let old := (List.range 4096).filter d.fencedOut
  let d := (List.range 64).foldl (fun (d : Dev) n => d.set (R.AGX_FENCE_BITS n) (d.get (R.AGX_FENCE_STAGED_BITS n))) d
  let now := (List.range 4096).filter d.fencedOut
  let fresh := now.filter fun x => !old.contains x
  let d := ((d.set R.AGX_FENCE_ARM_ARM 0).set R.AGX_FENCE_STATUS_FENCE_BEAT d.beatNow).set R.AGX_FENCE_STATUS_FENCED_COUNT now.length
  let d := (List.range 36).foldl (fun (d : Dev) p =>
    let peer := d.get (R.AGX_PORT_STATUS_PEER_ID p)
    if old.contains peer ∧ !now.contains peer then d.setPort p { d.port p with came := [[], [], [], []], joinReady := false } else d) d
  (List.range 36).foldl (fun (d : Dev) p => d.fencePort fresh p) (d.endLost fresh)

end Sys2Proof.Machine
end

