-- ==== Sys2Proof/Machine/Hbm.lean ====
section
/-!
DEFINITION. HBM and cistern protection beside the accesses themselves (spec/14_hbm_protection.md): re-reads, refresh
and the age cap (R289, R290, R293), the scrubber (R302, R303), post-package repair (R304), injection (R301), the
checker self-test (R300), the column sweep, rebuilds and remaps of cisterns (R298, R299), and failing stacks (R285).
-/

namespace Sys2Proof.Machine

/-- A stack is trained and serves requests (HBM_STATUS.STATE = TRAINED). -/
def Dev.stackUp (d : Dev) (s : Nat) : Bool := s < 24 && d.get (R.HBM_STATUS_STATE s) = 2

/-! ### Controllers (R289, R290, R293) -/

/-- The pump requests that read the codeword at local offset `loc` wait for its second read (R293, Table 4.11). -/
def Dev.markRetry (d : Dev) (loc : Nat) : Dev :=
  let hit (r : PumpReq) : Bool := !r.remote && r.pieces.any fun p => p.addr.any fun g => overlap (g % 2 ^ 45) p.len loc 128
  d.tiles.foldl (fun (d : Dev) (e : Nat × TileUnit) =>
    if e.2.reqs.any hit then d.setTile e.1 { e.2 with reqs := e.2.reqs.map fun r => if hit r then { r with retry := true } else r } else d) d

/-- R293: the second read of the codeword at local offset `a`, in which the stack delivers `syms` wrong symbols; `source`
is the SOURCE of its error. -/
def Dev.reread (d : Dev) (a syms source : Nat) : Dev :=
  if d.get R.ECC_TOP_TOP ≤ a then d else
  let st := d.bankAddr a / 128
  let loc := a / 128 * 128
  let pc := d.pcOf loc
  let k := d.strength
  if stGet (fun _ => false) d.hbm.poison st then d
  else
    let d := (d.markRetry loc).count (R.HBM_PC_W1_RETRIES (pc / 64) (pc % 64)) 1
    let d : Dev := { d with hbm := { d.hbm with bad := stSet (fun _ => 0) d.hbm.bad st (max syms (stGet (fun _ => 0) d.hbm.bad st)) } }
    let n := stGet (fun _ => 0) d.hbm.bad st
    if correctable n k then
      (d.count (R.HBM_PC_W1_CORRECTED (pc / 64) (pc % 64)) 1).logError 0 source pc loc 0xFFFF (2 ^ 32 - 1)
    else ({ d with hbm := d.hbm.poisonWord k st }).logError 1 source pc loc 0xFFFF (2 ^ 32 - 1)

/-- HBM_REREAD (R293). -/
def execHbmReread (a syms : Nat) (s : State) : Host.Outcome State Fault Refusal := run s fun d => d.reread a syms 0

/-- AGE_CAP (R289): a request to pseudo-channel `pc` is issued by the age cap. -/
def execAgeCap (pc : Nat) (s : State) : Host.Outcome State Fault Refusal :=
  run s fun d => if d.stackUp (pc / 64) then d.count (R.HBM_PC_W1_AGE_CAP (pc / 64) (pc % 64)) 1 else d

/-- HBM_REFRESH (R290): a refresh of pseudo-channel `pc` is issued, per bank unless HBM_CTL.REFRESH is ALL_BANK. -/
def execHbmRefresh (pc : Nat) (s : State) : Host.Outcome State Fault Refusal :=
  run s fun d => if d.stackUp (pc / 64) then d.emit (.refresh pc (decide (d.get (R.HBM_CTL_REFRESH (pc / 64)) = 1))) else d

/-- ON_DIE_ECC_STATUS_READ (R284): corrected and uncorrected events of each stack, read into HBM_DIE_ECC. -/
def execOnDieEccStatusRead (st : List (Nat × Nat)) (s : State) : Host.Outcome State Fault Refusal :=
  run s fun d => ((List.range 24).filter d.stackUp).foldl (fun (d : Dev) n =>
    let x := st.getD n (0, 0)
    (d.bump (R.HBM_DIE_ECC_CORR n) x.1).bump (R.HBM_DIE_ECC_UNCORR n) x.2) d

/-- STACK_FAILURE (R285, Table 14.4): FATAL, and the stack is reported FAILED (R297). -/
def execStackFailure (st : Nat) (s : State) : Host.Outcome State Fault Refusal :=
  run s fun d => if d.stackUp (st % 24) then (d.fatal 0 (64 * (st % 24))).set (R.HBM_STATUS_STATE (st % 24)) 4 else d

/-! ### The scrubber (R302, R303) -/

/-- A store to ECC_SCRUB_CTL. -/
def Dev.scrubCtlWrite (d : Dev) (v : Nat) : Dev :=
  let d := ((d.set R.ECC_SCRUB_CTL_CLEAR_POISON (bits v 61 61)).set R.ECC_SCRUB_CTL_CONTINUOUS (bits v 60 60)).set
    R.ECC_SCRUB_CTL_RATE_GBS (bits v 47 32)
  if !v.testBit 63 then d
  else
    let b := d.get R.ECC_SCRUB_BASE_BASE
    let l := d.get R.ECC_SCRUB_LEN_LEN
    if b % 2048 ≠ 0 ∨ l % 2048 ≠ 0 ∨ d.get R.ECC_TOP_TOP < b + l then d.raise1 R.ECC_ERR_SCRUB_REJECT b
    else
      let d := (d.set R.ECC_SCRUB_CTL_BUSY 1).set R.ECC_SCRUB_POS_POS b
      { d with hbm := { d.hbm with scrub := ⟨b, l, d.beatNow, 0, 0, 0, 0, none, [], 0⟩ } }

/-- The scrubber runs: not in Night, not after a FATAL error. -/
def Dev.scrubbing (d : Dev) : Bool := d.flag R.ECC_SCRUB_CTL_BUSY && d.alive && d.get R.PWR_STATE_DEV_STATE ≠ 5

/-- CLEAR_POISON leaves a codeword as it is in a protected slot, an IMMUTABLE region or a held retained bank. -/
def Dev.scrubKeeps (d : Dev) (a : Nat) : Bool :=
  d.inProtectedSlot a 128 || d.img.regions.any (fun r => r.immutable && overlap a 128 r.base r.size) ||
    (d.flag R.UPD_RET_RET_VALID && d.inAlternate a 128)

/-- The pass's counts changed. -/
def Dev.scrubNote (d : Dev) (f : ScrubUnit → ScrubUnit) : Dev := { d with hbm := { d.hbm with scrub := f d.hbm.scrub } }

/-- A codeword that is not clean. -/
def Dev.scrubBad (d : Dev) (a : Nat) : Dev := d.scrubNote fun x => { x with firstBad := x.firstBad.orElse fun _ => some a }

/-- R303: one codeword. -/
def Dev.scrubWord (d : Dev) (a : Nat) : Dev :=
  let st := d.bankAddr a
  let pc := d.pcOf a
  let d := if a % 2048 = 0 then d.count (R.HBM_PC_W0_RD_GRANULES (pc / 64) (pc % 64)) 1 else d
  let n := stGet (fun _ => 0) d.hbm.bad (st / 128)
  if stGet (fun _ => false) d.hbm.poison (st / 128) then
    let d := (d.scrubBad a).scrubNote fun x => { x with oldPoison := x.oldPoison + 1 }
    if d.flag R.ECC_SCRUB_CTL_CLEAR_POISON ∧ !d.scrubKeeps a then
      (d.hbmWrite a (List.replicate 128 0) fun _ => false).scrubNote fun x => { x with cleared := x.cleared + 1 }
    else d
  else if n = 0 then d
  else if correctable n d.strength then
    let d := (d.hbmStore a (d.hbmBytes st 128) fun _ => false).1
    let d := (d.count (R.HBM_PC_W1_CORRECTED (pc / 64) (pc % 64)) 1).logError 0 3 pc a 0xFFFF (2 ^ 32 - 1)
    (d.scrubBad a).scrubNote fun x =>
      { x with corrected := x.corrected + 1, perPc := stSet (fun _ => 0) x.perPc pc (stGet (fun _ => 0) x.perPc pc + 1) }
  else ((d.reread a n 3).scrubBad a).scrubNote fun x => { x with newPoison := x.newPoison + 1 }

/-- SCRUB_CODEWORD (R303). -/
def execScrubCodeword (s : State) : Host.Outcome State Fault Refusal :=
  run s fun d =>
    let a := d.get R.ECC_SCRUB_POS_POS
    if d.scrubbing ∧ a < d.hbm.scrub.base + d.hbm.scrub.len then (d.scrubWord a).set R.ECC_SCRUB_POS_POS (a + 128) else d

/-- The summary record of a pass (Table 14.5). -/
def scrubRecord (x : ScrubUnit) (endBeat : Nat) : List Byte :=
  let worst := x.perPc.foldl (fun (w : Nat × Nat) e => if w.2 < e.2 then e else w) (0, 0)
  leBytes 8 x.base ++ leBytes 8 x.len ++ leBytes 8 x.startBeat ++ leBytes 8 endBeat ++ leBytes 4 x.corrected ++ leBytes 4 x.newPoison ++
    leBytes 4 x.oldPoison ++ leBytes 4 x.cleared ++ leBytes 8 (x.firstBad.getD (2 ^ 64 - 1)) ++ leBytes 2 worst.1 ++
    leBytes 2 (min worst.2 0xFFFF) ++ leBytes 4 (x.passes + 1)

/-- SCRUB_PASS_DONE (R302, R303). -/
def execScrubPassDone (s : State) : Host.Outcome State Fault Refusal :=
  run s fun d =>
    let x := d.hbm.scrub
    if d.scrubbing ∧ x.base + x.len ≤ d.get R.ECC_SCRUB_POS_POS then
      let (d, _) := d.memWrite 63 (d.get R.ECC_SCRUB_REC_REC / 64 * 64) (scrubRecord x d.beatNow) fun _ => false
      let d := d.scrubNote fun x => { x with passes := x.passes + 1 }
      let d := if d.flag R.ECC_SCRUB_CTL_CONTINUOUS then
          (d.set R.ECC_SCRUB_POS_POS x.base).scrubNote fun y => { y with
            startBeat := d.beatNow, corrected := 0, newPoison := 0, oldPoison := 0, cleared := 0, firstBad := none, perPc := [] }
        else d.set R.ECC_SCRUB_CTL_BUSY 0
      d.event R.ECC_SCRUB_CTL_BUSY x.base noArg noArg
    else d

/-! ### Post-package repair (R304) -/

/-- A store to HBM_PPR of stack s. -/
def Dev.pprWrite (d : Dev) (s v : Nat) : Dev :=
  let d := (((d.set (R.HBM_PPR_HARD s) (bits v 59 59)).set (R.HBM_PPR_PC s) (bits v 58 53)).set (R.HBM_PPR_BANK s) (bits v 52 47)).set
    (R.HBM_PPR_ROW s) (bits v 46 29)
  if !v.testBit 63 then d
  else if d.imageActive then d.set (R.HBM_PPR_STATUS s) 2
  else if d.flag (R.HBM_PPR_BUSY s) then d
  else d.set (R.HBM_PPR_BUSY s) 1

/-- HBM_PPR_DONE (R304, R307): the repair ends with status `st`: 0 OK, 1 NO_RESOURCE, 3 FAIL. -/
def execHbmPprDone (n st : Nat) (s : State) : Host.Outcome State Fault Refusal :=
  run s fun d =>
    let n := n % 24
    if !d.flag (R.HBM_PPR_BUSY n) then d else
    let d := (d.set (R.HBM_PPR_BUSY n) 0).set (R.HBM_PPR_STATUS n) (if st = 1 then 1 else if st = 0 then 0 else 3)
    if st ≠ 0 then d else
    let pc := 64 * n + d.get (R.HBM_PPR_PC n)
    let bank := d.get (R.HBM_PPR_BANK n)
    let row := d.get (R.HBM_PPR_ROW n)
    let hard := d.flag (R.HBM_PPR_HARD n)
    let d : Dev := { d with hbm := { d.hbm with repairs := d.hbm.repairs ++ [(pc, bank, row, hard)] } }
    if hard then d.rprHard pc (bank * 2 ^ 18 + row) else d

/-! ### Checker self-test (R300) -/

/-- A store to ECC_SELFTEST: accepted only while no image is active. -/
def Dev.selftestWrite (d : Dev) (v : Nat) : Dev := if v.testBit 63 ∧ !d.imageActive then d.set R.ECC_SELFTEST_BUSY 1 else d

/-- The failing checkers are recorded: bit s of `stks` a stack's, bit t of `tiles` a tile's. A failing stack is FAILED; a
failing site is bad. -/
def Dev.selftestResult (d : Dev) (stks tiles : Nat) : Dev :=
  let d := (d.set R.ECC_SELFTEST_BUSY 0).set R.ECC_ST_HBM_FAIL stks
  let d := (List.range 6).foldl (fun (d : Dev) n => d.set (R.ECC_ST_TILE_FAIL n) (bits tiles (64 * n + 63) (64 * n))) d
  let d := ((setBits 24 stks).filter d.stackUp).foldl (fun (d : Dev) s => d.set (R.HBM_STATUS_STATE s) 4) d
  let d := (List.range 8).foldl (fun (d : Dev) c =>
    let m := bits tiles (48 * c + 47) (48 * c)
    (d.set (R.PWR_SITES_W1_TEST_BAD c) (d.get (R.PWR_SITES_W1_TEST_BAD c) ||| m)).set (R.PWR_SITES_W3_GOOD c)
      (d.get (R.PWR_SITES_W3_GOOD c) &&& ((2 ^ 48 - 1) ^^^ m))) d
  if stks = 0 ∧ tiles = 0 then d else d.raise1 R.ECC_ERR_CHECKER_FAIL 0

/-- ECC_SELFTEST_DONE. -/
def execEccSelftestDone (hbm tiles : Nat) (s : State) : Host.Outcome State Fault Refusal :=
  run s fun d => if d.flag R.ECC_SELFTEST_BUSY then d.selftestResult (hbm % 2 ^ 24) (tiles % 2 ^ 384) else d

/-! ### Cisterns and near caches (R298, R299) -/

/-- A tile site is powered. -/
def Dev.powered (d : Dev) (t : Nat) : Bool := d.get (R.TILE_STATUS_PWR t) ≠ 0

/-- COLUMN_SWEEP (R298): group `g` of tile `t` is checked; `bad` says that its column does not match with no row-parity
error. A cistern's 64 lines (group g ÷ 32 of bank g mod 32) are poisoned; a near cache's 8 sets from 8g up are dropped. -/
def execColumnSweep (t g : Nat) (bad near : Bool) (s : State) : Host.Outcome State Fault Refusal :=
  run s fun d =>
    if t < 384 ∧ d.powered t ∧ bad then
      if near then
        let u := d.tile t
        (d.setTile t { u with nc := u.nc.filter fun l => l.line % 512 / 8 ≠ g % 64 }).logError 0 2 t 0 0xFFFF (2 ^ 32 - 1)
      else d.cistLost (t * 65536 + g / 32 % 32 * 64 * 32 + g % 32)
    else d

/-- ROW_REBUILD_DONE (R298): a line with a row-parity error has been rebuilt from the column word. -/
def execRowRebuildDone (t line : Nat) (s : State) : Host.Outcome State Fault Refusal :=
  run s fun d =>
    let l := t * 65536 + line % 65536
    if t < 384 ∧ stGet (fun _ => 0) d.cist.bad l ≠ 0 then d.cistRebuild l else d

/-- Spares that a bank has left (R299). -/
def Dev.sparesLeft (d : Dev) (t bank : Nat) : Nat := 16 - (d.cist.remap.filter fun l => l / 65536 = t ∧ l % 32 = bank).length

/-- R299: at a boundary, lines that reached 4 corrected errors since the last one move to a spare. -/
def Dev.remapLines (d : Dev) : Dev :=
  let due := d.cist.corr.filter fun e => decide (4 ≤ e.2)
  let d : Dev := { d with cist := { d.cist with corr := [] } }
  due.foldl (fun (d : Dev) e =>
    let t := e.1 / 65536
    let bank := e.1 % 32
    if d.sparesLeft t bank = 0 then d
    else
      let d : Dev := { d with cist := { d.cist with remap := d.cist.remap ++ [e.1] } }
      let d := (d.bump (R.ECC_CIST_REMAPS t) 1).set (R.ECC_CIST_SPARES_LEFT t)
        ((List.range 32).foldl (fun n b => n + d.sparesLeft t b) 0)
      d.rprAdd 5 2 (t * 65536 + bank * 2048 + e.1 % 65536 / 32) 0) d

/-! ### Injection (R301) -/

/-- A store to ECC_INJECT. -/
def Dev.injectWrite (d : Dev) (v : Nat) : Dev :=
  (((d.set R.ECC_INJECT_ARM (bits v 63 63)).set R.ECC_INJECT_KIND (bits v 62 61)).set R.ECC_INJECT_TILE (bits v 60 52)).set
    R.ECC_INJECT_OFFSET (bits v 44 0)

end Sys2Proof.Machine
end

