-- ==== Sys2Proof/Machine/Trust.lean ====
section
/-!
DEFINITION. Boot, ownership and configuration (R333–R340), attestation (R341–R343), cores and mailboxes (R328–R331),
and management over I3C (R351, R352). Message layouts of MCTP and PLDM that the spec leaves to their standards: log
entry 17.
-/

namespace Sys2Proof.Machine

/-! ### Slots of the flash (R334) -/

def fwBase (c : Nat) : Nat := if c = 0 then 0 else 0x04000000
def fwSize : Nat := 0x04000000
def cfgBase (c : Nat) : Nat := if c = 0 then 0x08000000 else 0x08100000
def cfgSize : Nat := 0x00100000

/-- "FDXFWIM1" and "FDXCFG01". -/
def fwMagic : List Byte := [0x46, 0x44, 0x58, 0x46, 0x57, 0x49, 0x4D, 0x31]
def cfgMagic : List Byte := [0x46, 0x44, 0x58, 0x43, 0x46, 0x47, 0x30, 0x31]

/-- Fields of a copy's header. -/
def Dev.hdrSeq (d : Dev) (b : Nat) : Nat := d.flashNat (b + 0x0C) 4
def Dev.hdrLen (d : Dev) (b : Nat) : Nat := d.flashNat (b + 0x10) 4
def Dev.hdrSvn (d : Dev) (b : Nat) : Nat := d.flashNat (b + 0x14) 4

/-- The body of a copy. -/
def Dev.slotBody (d : Dev) (b : Nat) : List Byte := d.flashBytes (b + 64) (d.hdrLen b)

/-- R334: a copy is valid. -/
def Dev.copyValid (d : Dev) (b size : Nat) (magic : List Byte) : Bool :=
  decide (d.flashBytes b 8 = magic) && decide (d.flashNat (b + 8) 2 = 1) && decide (d.hdrLen b + 64 ≤ size) &&
    decide (d.flashNat (b + 0x3C) 4 = crc32c (d.flashBytes b 60 ++ d.slotBody b))

/-- SEQ a is newer than b, or equal to it. -/
def seqNewer (a b : Nat) : Bool := decide (sub32 a b < 2 ^ 31)

/-- The valid copies, newer first; A first when their SEQ is equal. -/
def Dev.copies (d : Dev) (base : Nat → Nat) (size : Nat) (magic : List Byte) : List Nat :=
  let v := [0, 1].filter fun c => d.copyValid (base c) size magic
  if v = [0, 1] ∧ !seqNewer (d.hdrSeq (base 0)) (d.hdrSeq (base 1)) then [1, 0] else v

def Dev.fwCopies (d : Dev) : List Nat := d.copies fwBase fwSize fwMagic
def Dev.cfgCopies (d : Dev) : List Nat := d.copies cfgBase cfgSize cfgMagic

/-! ### Firmware (R336) -/

/-- The digest that a firmware body's signatures cover, and the firmware measurement. -/
def fwDigest (body : List Byte) : List Byte := sha384 (Config.fwPart 2 body)

/-- R336: a copy is accepted. -/
def fwAccepted (o : Otp) (d : Dev) (c : Nat) : Bool :=
  let body := d.slotBody (fwBase c)
  decide (o.svn ≤ d.hdrSvn (fwBase c)) &&
    decide ([sha384 (Config.fwPart 0 body), sha384 (Config.fwPart 1 body)] = o.keyHashes) &&
    rsaVerify (Config.fwPart 0 body) (fwDigest body) (Config.fwPart 3 body) &&
    slhVerify (Config.fwPart 1 body) (fwDigest body) (Config.fwPart 4 body)

/-- The words of a 48-byte digest. -/
def Dev.setDigest (d : Dev) (f : Nat → Fld) (h : List Byte) : Dev :=
  (List.range 6).foldl (fun (d : Dev) n => d.set (f n) (leNat ((h.drop (8 * n)).take 8))) d

/-- Step 3: the first accepted copy is used. The result says whether firmware runs. -/
def bootFirmware (o : Otp) (d : Dev) : Bool × Dev :=
  if d.pins.bootSrc = 1 then (false, d.set R.SEC_STATUS_BOOT_RESULT 4)
  else
    let v := d.fwCopies
    match v.find? (fwAccepted o d) with
    | none => (false, d.set R.SEC_STATUS_BOOT_RESULT 2)
    | some c =>
      let d := ((d.set R.SEC_STATUS_FW_SLOT c).set R.SEC_STATUS_FW_SVN (d.hdrSvn (fwBase c))).setDigest R.SEC_FW_MEAS_DIGEST
        (fwDigest (d.slotBody (fwBase c)))
      (true, (d.set R.SEC_STATUS_BOOT_RESULT (b2n (v.head? ≠ some c))))

/-! ### Owner configuration (R338, R339, Table 16.3) -/

/-- A bank of all ones: released. -/
def ownerReleased : List Byte := List.replicate 48 0xFF

/-- The owner's bank value; none on an unowned device. -/
def Otp.ownerHash (o : Otp) : Option (List Byte) :=
  match o.owner.getLast? with
  | some h => if h = ownerReleased then none else some h
  | none => none

/-- The SHA-384 of key slot 0 of a CFG body. -/
def cfgKeyHash (b : List Byte) : List Byte := sha384 ((b.drop 0x80).take 512)

/-- ENROLL_AUTH of a CFG body. -/
def enrollAuth (b : List Byte) : List Byte := (b.drop 0x10880).take 16736

/-- R339: both signatures of a CFG body verify with its key slot 0. -/
def cfgSigned (b : List Byte) : Bool :=
  let key := (b.drop 0x80).take 512
  let h := sha384 (b.take 0x149E0)
  rsaVerify key h ((b.drop 0x149E0).take 384) && slhVerify ((key.drop 388).take 48) h ((b.drop 0x14B60).take 16224)

/-- R338: ENROLL_AUTH is signed by Isamal with both firmware algorithms, and names this device, this key and the next
free bank. `fw` is the body of the running firmware, which holds Isamal's keys. -/
def enrollOk (o : Otp) (fw b : List Byte) : Bool :=
  let e := enrollAuth b
  let h := sha384 (e.take 128)
  decide (e.take 48 = o.idHash) && decide ((e.drop 48).take 48 = cfgKeyHash b) && decide (recNat e 96 1 = o.owner.length + 1) &&
    decide (o.owner.length < 8) && rsaVerify (Config.fwPart 0 fw) h ((e.drop 128).take 384) &&
    slhVerify (Config.fwPart 1 fw) h ((e.drop 512).take 16224)

/-- The owner check of R339: the owner bank, or ENROLL_AUTH on an unowned device. -/
def cfgOwner (o : Otp) (d : Dev) (b : List Byte) : Bool :=
  match o.ownerHash with
  | some h => decide (cfgKeyHash b = h)
  | none => enrollOk o (d.slotBody (fwBase (d.get R.SEC_STATUS_FW_SLOT))) b

/-- R339: a valid CFG copy is accepted. -/
def cfgAccepted (o : Otp) (d : Dev) (c : Nat) : Bool :=
  let b := d.slotBody (cfgBase c)
  decide (b.length = 0x18AC0) && cfgSigned b && cfgOwner o d b

/-- R340: what a running device takes from a newer CFG: domain table, AGX_CAP, VLANs, Ethernet caps, MIN_IMAGE_SVN. -/
def Dev.loadLimits (d : Dev) (b : List Byte) : Dev :=
  let d := (List.range 4096).foldl (fun (d : Dev) i =>
    (d.set (R.SEC_DOMAIN_ENTRY i 0) (recNat b (0x880 + 16 * i) 8)).set (R.SEC_DOMAIN_ENTRY i 1) (recNat b (0x888 + 16 * i) 8)) d
  let d := d.setDigest R.SEC_DOMAIN_HASH_DIGEST (sha384 ((b.drop 0x880).take 65536))
  let d := (List.range 36).foldl (fun (d : Dev) p => d.set (R.SEC_AGX_CAP_CAP p) (recNat b (0x50 + p) 1)) d
  let nv := min (recNat b 0x28 1) 16
  let d := (List.range 2).foldl (fun (d : Dev) p =>
    let d := d.set (R.ETH_PORT_CAP_CAP_GBPS p) (recNat b (0x24 + 2 * p) 2)
    (List.range 16).foldl (fun (d : Dev) n =>
      (d.set (R.ETH_PORT_VLAN_VALID p n) (b2n (n < nv))).set (R.ETH_PORT_VLAN_VID p n) (if n < nv then recNat b (0x30 + 2 * n) 2 else 0)) d) d
  { d with trust := { d.trust with minSvn := recNat b 8 4 } }

/-- R340: what a start takes besides. -/
def Dev.loadIdentity (d : Dev) (b : List Byte) : Dev :=
  let dev := recNat b 0 2 % 4096
  let d := (d.set R.AGX_ID_GROUP (dev / 32)).set R.AGX_ID_MEMBER (dev % 32)
  let d := (d.set R.SEC_STATUS_TEST_ENABLE (recNat b 2 2 % 2)).set R.MGMT_JOB_CORES_MASK (recNat b 4 2)
  { d with trust := { d.trust with
      keys := (List.range 4).map fun k => (b.drop (0x80 + 512 * k)).take 512
      attPort := recNat b 6 2, jobQpn := recNat b 0x0C 4, jobPeer := recNat b 0x10 16, jobVlan := recNat b 0x20 2 } }

/-- OWNER_BANK and OWNED. -/
def Dev.showOwner (d : Dev) (o : Otp) : Dev :=
  (d.set R.SEC_STATUS_OWNER_BANK o.owner.length).set R.SEC_STATUS_OWNED (b2n o.ownerHash.isSome)

/-- Step 5 (R338–R340): the configuration. An enrolment burns the next owner bank, a release burns it with ones. The
result says whether a configuration is in use. -/
def bootConfig (o : Otp) (d : Dev) : Otp × Bool × Dev :=
  match d.cfgCopies.find? (cfgAccepted o d) with
  | none => (o, false, (d.showOwner o).set R.SEC_STATUS_BOOT_RESULT (if o.ownerHash.isSome then 3 else 5))
  | some c =>
    let b := d.slotBody (cfgBase c)
    let o := if o.ownerHash.isSome then o else { o with owner := o.owner ++ [cfgKeyHash b] }
    if (recNat b 2 2).testBit 1 ∧ o.owner.length < 8 then
      let o := { o with owner := o.owner ++ [ownerReleased] }
      (o, false, (d.showOwner o).set R.SEC_STATUS_BOOT_RESULT 5)
    else (o, true, (((d.loadLimits b).loadIdentity b).set R.SEC_STATUS_CFG_SLOT c).showOwner o)

/-! ### The security engine's requests (R337, R340) -/

/-- R337. -/
def svnAdvance (o : Otp) (d : Dev) : Otp × Dev :=
  let st := d.get R.PWR_STATE_DEV_STATE
  if st = 2 ∨ st = 3 then
    let n := max o.svn (min 64 (d.get R.SEC_STATUS_FW_SVN))
    ({ o with svn := n }, (d.set R.SEC_STATUS_FUSE_SVN n).set R.SEC_RESULT_SVN_RESULT 0)
  else (o, d.set R.SEC_RESULT_SVN_RESULT 1)

/-- R340: CFG_APPLY of the copy not in use. -/
def Dev.cfgApply (d : Dev) (o : Otp) : Dev :=
  let c := 1 - d.get R.SEC_STATUS_CFG_SLOT
  let refuse (r : Nat) : Dev := (d.set R.SEC_RESULT_CFG_RESULT r).raise1 R.SEC_ERR_CFG_REJECT 0
  if d.trust.pldm.any fun x => x.comp = 2 then refuse 4
  else if !d.copyValid (cfgBase c) cfgSize cfgMagic then refuse 1
  else
  let b := d.slotBody (cfgBase c)
  if b.length ≠ 0x18AC0 then refuse 1
  else if d.copyValid (cfgBase (1 - c)) cfgSize cfgMagic ∧ (d.hdrSeq (cfgBase c) = d.hdrSeq (cfgBase (1 - c)) ∨
      !seqNewer (d.hdrSeq (cfgBase c)) (d.hdrSeq (cfgBase (1 - c)))) then refuse 3
  else if !cfgSigned b then refuse 2
  else if !cfgOwner o d b then refuse 5
  else { d.set R.SEC_RESULT_CFG_RESULT 0 with trust := { d.trust with apply := some c } }

/-- A port's link state changes, with its event. -/
def Dev.linkTo (d : Dev) (p st : Nat) : Dev :=
  if d.link p = st then d else (d.set (R.AGX_PORT_STATUS_STATE p) st).event (R.AGX_PORT_STATUS_STATE p) p noArg noArg

/-- R340: an accepted configuration takes effect at a boundary; ports in HELD return to TRAIN. -/
def Dev.cfgBoundary (d : Dev) : Dev :=
  match d.trust.apply with
  | none => d
  | some c =>
    let d := (d.loadLimits (d.slotBody (cfgBase c))).set R.SEC_STATUS_CFG_SLOT c
    let d : Dev := { d with trust := { d.trust with apply := none } }
    (List.range 36).foldl (fun (d : Dev) p => if d.link p = 6 then d.linkTo p 1 else d) d

/-- A store to SEC_CTL: the SVN request first (Table 16.10). -/
def secCtlWrite (o : Otp) (d : Dev) (v : Nat) : Otp × Dev :=
  let (o, d) := if v.testBit 63 then svnAdvance o d else (o, d)
  (o, if v.testBit 62 then d.cfgApply o else d)

/-! ### Attestation (R342, R343) -/

/-- The size of a report. -/
def reportSize : Nat := 36368

/-- The measurement registers from n up as bytes. -/
def Dev.digestBytes (d : Dev) (f : Nat → Fld) : List Byte := (List.range 6).flatMap fun n => leBytes 8 (d.get (f n))

/-- Bytes 0x000–0x13F of a report (Table 16.5). -/
def Dev.reportBody (d : Dev) (nonce : List Byte) : List Byte :=
  let flags := d.get R.SEC_STATUS_TEST_ENABLE + 2 * d.get R.PWR_STATE_DEGRADED + 4 * b2n d.imageActive + 8 * d.get R.SEC_STATUS_OWNED
  [0x46, 0x44, 0x58, 0x41, 0x54, 0x54, 0x52, 0x31] ++ leBytes 2 1 ++ leBytes 2 flags ++ leBytes 4 (d.get R.SEC_STATUS_FW_SVN) ++
    leBytes 8 (if d.beating then d.beatNow else 0) ++ leBytes 2 d.id ++ leBytes 6 0 ++ padTo 32 nonce ++
    d.digestBytes R.SEC_FW_MEAS_DIGEST ++ (if d.imageActive then d.digestBytes R.IMG_MEASURE_DIGEST else List.replicate 48 0) ++
    d.digestBytes R.SEC_FUSE_MEAS_DIGEST ++ d.digestBytes R.SEC_REPAIR_MEAS_DIGEST ++ d.digestBytes R.SEC_IDKEY_HASH_DIGEST ++ leBytes 16 0

/-- The whole report, signed with both keys. -/
def Dev.reportBytes (d : Dev) (nonce : List Byte) : List Byte :=
  let b := d.reportBody nonce
  b ++ (padTo 384 (Config.sign 0 (sha384 b))).take 384 ++ (padTo 35664 (Config.sign 1 (sha384 b))).take 35664

/-- An attestation response of a status alone, and the request counted. -/
def Dev.attRequest (d : Dev) : Dev := d.count R.SEC_ATT_CNT_REQUESTS 1
def Dev.reply (d : Dev) (bs : List Byte) : Dev := d.emit (.i3c bs)

/-- GET_CERT (Table 16.6): algorithm, offset. -/
def getCert (o : Otp) (d : Dev) (m : List Byte) : Dev :=
  let d := d.attRequest
  let c := o.certs.getD (recNat m 0 1) []
  let off := recNat m 1 4
  if m.length ≠ 5 ∨ 1 < recNat m 0 1 ∨ c.length < off then d.reply (leBytes 1 2)
  else d.reply (leBytes 1 0 ++ leBytes 4 c.length ++ (c.drop off).take 1024)

def execGetCert (m : List Byte) (s : State) : Host.Outcome State Fault Refusal :=
  .next { s with dev := getCert s.otp { s.dev with out := [] } m }

/-- GET_REPORT: a report is held under a handle that is not in use (log entry 12), or BUSY. -/
def Dev.getReport (d : Dev) (m : List Byte) : Dev :=
  let d := d.attRequest
  if m.length ≠ 32 then d.reply (leBytes 1 2)
  else if 4 ≤ d.trust.reports.length then (d.raise1 R.SEC_ERR_ATT_BUSY 0).reply (leBytes 1 1)
  else
    let (k, d) := d.draw
    let used := d.trust.reports.map (·.handle)
    let fs := (List.range 256).filter fun h => !used.contains h
    let h := fs.getD (Config.pickHandle k % fs.length) 0
    let d : Dev := { d with trust := { d.trust with reports := d.trust.reports ++ [(⟨h, m, none⟩ : Report)] } }
    d.reply (leBytes 1 0 ++ leBytes 1 h ++ leBytes 4 reportSize)

def execGetReport (m : List Byte) (s : State) : Host.Outcome State Fault Refusal := run s fun d => d.getReport m

/-- GET_CHUNK: handle, offset. -/
def Dev.getChunk (d : Dev) (m : List Byte) : Dev :=
  let d := d.attRequest
  match d.trust.reports.find? fun r => r.handle = recNat m 0 1 with
  | none => d.reply (leBytes 1 2)
  | some r =>
    match r.bytes with
    | none => d.reply (leBytes 1 3)
    | some b => if m.length ≠ 5 ∨ b.length < recNat m 1 4 then d.reply (leBytes 1 2)
      else d.reply (leBytes 1 0 ++ (b.drop (recNat m 1 4)).take 1024)

def execGetChunk (m : List Byte) (s : State) : Host.Outcome State Fault Refusal := run s fun d => d.getChunk m

/-- REPORT_SIGNED (R342). -/
def execReportSigned (h : Nat) (s : State) : Host.Outcome State Fault Refusal :=
  run s fun d =>
    if d.trust.reports.any fun r => r.handle = h ∧ r.bytes.isNone then
      let rs := d.trust.reports.map fun r => if r.handle = h then { r with bytes := some (d.reportBytes r.nonce) } else r
      ({ d with trust := { d.trust with reports := rs } }).count R.SEC_ATT_CNT_REPORTS 1
    else d

/-- REPORT_HANDLE_FREE (R343): 60 s after the report is ready. -/
def execReportHandleFree (h : Nat) (s : State) : Host.Outcome State Fault Refusal :=
  run s fun d => { d with trust := { d.trust with reports := d.trust.reports.filter fun r => r.handle ≠ h || r.bytes.isNone } }

/-! ### Cores, mailboxes and rings (R328, R330, R331) -/

/-- A store to MGMT_CORE_n by `machine` mode or another (R328): RESET restarts a core that is good. -/
def Dev.coreWrite (d : Dev) (n v : Nat) (machine : Bool) : Dev :=
  let st := d.get (R.MGMT_CORE_STATE n)
  if v.testBit 8 ∧ machine ∧ st ≠ 0 ∧ st ≠ 4 then d.set (R.MGMT_CORE_STATE n) 1 else d

/-- A store to MGMT_MBOX_CTL (R330): FULL set interrupts the receiver, set again it is an overrun; a 0 clears it. -/
def Dev.mboxWrite (d : Dev) (v : Nat) : Dev :=
  let d := d.set R.MGMT_MBOX_CTL_M2C_TARGET (bits v 3 0)
  let side (d : Dev) (bit : Nat) (f : Fld) (o : Out) : Dev :=
    if v.testBit bit then (if d.flag f then d.raise1 R.MGMT_ERR_MBOX_OVERRUN 0 else (d.set f 1).emit o) else d.set f 0
  side (side d 63 R.MGMT_MBOX_CTL_C2M_FULL .mgmtInt) 62 R.MGMT_MBOX_CTL_M2C_FULL (.mboxInt (bits v 3 0))

/-- RING_AGE_INTERRUPT (R331): the oldest unread record of ring n has waited 10 µs. -/
def execRingAgeInterrupt (n : Nat) (s : State) : Host.Outcome State Fault Refusal :=
  run s fun d =>
    if n < 16 ∧ d.flag (R.MGMT_RING_W0_INT_EN n) ∧ d.get (R.MGMT_RING_W1_PROD n) ≠ d.get (R.MGMT_RING_W1_CONS n) then
      d.emit (.coreInt (d.get (R.MGMT_RING_W0_TARGET n)) (16 + n))
    else d

/-! ### I3C, MCTP and PLDM (R351, R352) -/

/-- ENTDAA: the device sends its provisional ID and takes dynamic address `a`. -/
def execEntdaa (a : Nat) (s : State) : Host.Outcome State Fault Refusal :=
  run s fun d => (d.reply (leBytes 6 (d.get R.MGMT_I3C_PID)).reverse).set R.MGMT_I3C_DYN_ADDR a

/-- MCTP_CONTROL: Set Endpoint ID, Get Endpoint ID, Get Message Type Support; any other command is unsupported. -/
def Dev.mctpControl (d : Dev) (m : List Byte) : Dev :=
  let inst := recNat m 0 1 % 32
  let cmd := recNat m 1 1
  let head := leBytes 1 inst ++ leBytes 1 cmd
  match cmd with
  | 1 => (d.set R.MGMT_MCTP_EID (recNat m 3 1)).reply (head ++ leBytes 1 0 ++ leBytes 1 0 ++ leBytes 1 (recNat m 3 1) ++ leBytes 1 0)
  | 2 => d.reply (head ++ leBytes 1 0 ++ leBytes 1 (d.get R.MGMT_MCTP_EID) ++ leBytes 1 0 ++ leBytes 1 0)
  | 5 => d.reply (head ++ leBytes 1 0 ++ leBytes 1 3 ++ [0x00, 0x01, 0x7F])
  | _ => d.reply (head ++ leBytes 1 5)

def execMctpControl (m : List Byte) (s : State) : Host.Outcome State Fault Refusal := run s fun d => d.mctpControl m

/-- PLDM_TYPE_0: SetTID, GetTID, GetPLDMTypes (Types 0, 2 and 5); any other command is unsupported. -/
def Dev.pldmBase (d : Dev) (m : List Byte) : Dev :=
  match recNat m 2 1 with
  | 1 => ({ d with trust := { d.trust with tid := recNat m 3 1 } }).reply (m.take 3 ++ leBytes 1 0)
  | 2 => d.reply (m.take 3 ++ leBytes 1 0 ++ leBytes 1 d.trust.tid)
  | 4 => d.reply (m.take 3 ++ leBytes 1 0 ++ leBytes 8 0x25)
  | _ => d.reply (m.take 3 ++ leBytes 1 5)

def execPldmType0 (m : List Byte) (s : State) : Host.Outcome State Fault Refusal := run s fun d => d.pldmBase m

/-- The sensors of R352, in its order: 0 hottest Tj, 1–10 each die's Tj, 11–34 each stack's temperature, 35 input power
in W, 36 the arithmetic clock in MHz, 37 DEV_STATE with the reason of an OFF, 38 DEGRADED, 39 FENCED_SELF. -/
def Dev.sensor (d : Dev) (i : Nat) : Option (List Byte) :=
  if i = 0 then some (leBytes 4 (d.get R.PWR_THERM_TJ_C))
  else if i ≤ 10 then some (leBytes 4 (stGet (fun _ => 0) d.pwr.tj (i - 1)))
  else if i ≤ 34 then some (leBytes 4 (d.get (R.HBM_STATUS_TEMP (i - 11))))
  else if i = 35 then some (leBytes 4 (d.pwr.samples.headD 0 / 1000))
  else if i = 36 then some (leBytes 4 (d.get R.PWR_CLK_MHZ))
  else if i = 37 then some (if d.pins.on then leBytes 1 (d.get R.PWR_STATE_DEV_STATE) ++ leBytes 1 0
    else leBytes 1 0xF ++ leBytes 1 (b2n d.pins.undervoltage))
  else if i = 38 then some (leBytes 1 (d.get R.PWR_STATE_DEGRADED))
  else if i = 39 then some (leBytes 1 (d.get R.AGX_VER_2_FENCED_SELF))
  else none

/-- PLDM_SENSOR: header of 3 bytes, sensor number. -/
def execPldmSensor (m : List Byte) (s : State) : Host.Outcome State Fault Refusal :=
  run s fun d => match d.sensor (recNat m 3 2) with
    | some v => d.reply (m.take 3 ++ leBytes 1 0 ++ v)
    | none => d.reply (m.take 3 ++ leBytes 1 0x80)

/-- Where a firmware (1) or configuration (2) component goes: the copy not in use, A when none is (R334). -/
def Dev.pldmBase? (d : Dev) (comp : Nat) : Nat × Nat × List Byte :=
  if comp = 1 then (fwBase (if d.fwCopies.isEmpty then 0 else 1 - d.get R.SEC_STATUS_FW_SLOT), fwSize, fwMagic)
  else (cfgBase (if d.cfgCopies.isEmpty then 0 else 1 - d.get R.SEC_STATUS_CFG_SLOT), cfgSize, cfgMagic)

/-- R352: up to 1,024 bytes of a component at offset `o`. Offset 0 starts a transfer and erases the copy; the header of
a firmware or configuration is held back, and so is the whole of a repair record. -/
def Dev.pldmData (d : Dev) (comp o : Nat) (bs : List Byte) : Dev :=
  if 1024 < bs.length then d.reply (leBytes 1 0x02) else
  let (base, size, _) := d.pldmBase? comp
  let d : Dev := if o ≠ 0 then d else
    let d := if comp = 3 then d else d.flashErase base size
    { d with trust := { d.trust with pldm := some ⟨comp, 0, none, []⟩ } }
  match d.trust.pldm with
  | some x =>
    if x.comp ≠ comp ∨ x.got ≠ o ∨ (if comp = 3 then rprSize else size) < o + bs.length then d.reply (leBytes 1 0x02)
    else
      let keep := if comp = 3 then bs.length else min bs.length (64 - o)
      let d := if comp = 3 then d else d.flashPut (base + o + keep) (bs.drop keep)
      let x := { x with got := o + bs.length, held := x.held ++ bs.take keep }
      ({ d with trust := { d.trust with pldm := some x } }).reply (leBytes 1 0)
  | none => d.reply (leBytes 1 0x02)

def execFirmwareXfer (o : Nat) (bs : List Byte) (s : State) : Host.Outcome State Fault Refusal := run s fun d => d.pldmData 1 o bs
def execConfigXfer (o : Nat) (bs : List Byte) (s : State) : Host.Outcome State Fault Refusal := run s fun d => d.pldmData 2 o bs
def execRepairXfer (o : Nat) (bs : List Byte) (s : State) : Host.Outcome State Fault Refusal := run s fun d => d.pldmData 3 o bs

/-- A repair record as received is whole: its MAGIC and its CRC match. -/
def rprWhole (b : List Byte) : Bool :=
  let n := recNat b 0x0A 2
  decide (b.take 8 = rprMagic) && decide (n ≤ rprMax) && decide (64 + 16 * n ≤ b.length) &&
    decide (recNat b 0x3C 4 = crc32c (b.take 60 ++ (b.drop 64).take (16 * n)))

/-- R352: VerifyComplete checks the component: R334 and R336 for firmware, R339 for a configuration, the CRC for a
record. -/
def pldmVerify (o : Otp) (d : Dev) : Dev :=
  match d.trust.pldm with
  | none => d.reply (leBytes 1 0x80)
  | some x =>
    let (base, size, magic) := d.pldmBase? x.comp
    let ok : Bool :=
      if x.comp = 3 then rprWhole x.held
      else
        let t := d.flashPut base x.held
        let c : Nat := if base = 0 ∨ base = 0x08000000 then 0 else 1
        t.copyValid base size magic && (if x.comp = 1 then fwAccepted o t c else cfgAccepted o t c)
    ({ d with trust := { d.trust with pldm := some { x with ok := some ok } } }).reply (leBytes 1 (b2n (!ok)))

def execVerifyComplete (s : State) : Host.Outcome State Fault Refusal :=
  .next { s with dev := pldmVerify s.otp { s.dev with out := [] } }

/-- R352: ApplyComplete follows the header write, with SEQ one newer than the copy in use and the CRC recomputed. A
repair record goes in with its entries marked OPERATOR. A component that failed its check leaves its copy invalid. -/
def Dev.pldmApply (d : Dev) : Dev :=
  match d.trust.pldm with
  | some ⟨comp, _, some true, h⟩ =>
    let d : Dev := { d with trust := { d.trust with pldm := none } }
    if comp = 3 then
      let es := (List.range (recNat h 0x0A 2)).map fun i => { RprEntry.ofBytes ((h.drop (64 + 16 * i)).take 16) with source := 3 }
      (d.rprWrite es).reply (leBytes 1 0)
    else
      let (base, _, _) := d.pldmBase? comp
      let use := (if comp = 1 then d.fwCopies else d.cfgCopies).head?
      let seq := use.elim 1 fun c => (d.hdrSeq (if comp = 1 then fwBase c else cfgBase c) + 1) % 2 ^ 32
      let head := h.take 0x0C ++ leBytes 4 seq ++ (h.drop 0x10).take 44
      let body := d.flashBytes (base + 64) (recNat h 0x10 4)
      (d.flashPut base (head ++ leBytes 4 (crc32c (head ++ body)))).reply (leBytes 1 0)
  | _ => ({ d with trust := { d.trust with pldm := none } }).reply (leBytes 1 0x80)

def execApplyComplete (s : State) : Host.Outcome State Fault Refusal := run s Dev.pldmApply

end Sys2Proof.Machine
end

