-- ==== Sys2Proof/Machine/Start.lean ====
section
/-!
DEFINITION. Power-up, the resets, Dawn and Morning (R307–R318 of spec/15_dawn_power.md, R378–R382 of
spec/18_package.md), reconciliation (R313, R314) and what the device offers (R2).
-/

namespace Sys2Proof.Machine

/-- The device machine (Table 15.8) changes state, with its event (R368). -/
def Dev.devTo (d : Dev) (st : Nat) : Dev :=
  if d.get R.PWR_STATE_DEV_STATE = st then d else (d.set R.PWR_STATE_DEV_STATE st).event R.PWR_STATE_DEV_STATE 0 noArg noArg

/-! ### What a reset clears -/

/-- Registers taken over from another state of the device. -/
def Dev.keepWords (d src : Dev) (os : List Nat) : Dev := os.foldl (fun (d : Dev) o => d.setWord o (src.reg o)) d

/-- Power has gone from all but the always-on domain, or a cold reset: everything is at its reset value, HBM contents are
lost; the flash, the balls and hard repairs stay. -/
def Dev.coldClear (d : Dev) : Dev :=
  { Dev.reset with hbm := { Dev.reset.hbm with repairs := d.hbm.repairs.filter fun r => r.2.2.2 }, flash := d.flash, pins := d.pins
                   jtag := d.jtag, out := d.out, freeCtr := d.freeCtr }

/-- The regulators outside the always-on domain switch off; the pins then stand as `f` says. -/
def Dev.switchOff (d : Dev) (f : PinUnit → PinUnit) : Dev :=
  let d := d.coldClear
  { d with pins := { f d.pins with on := false } }

/-- What a warm reset leaves of a stack's state: trained stacks go into self-refresh; one that failed in service stays FAILED
(R297, R316). -/
def Dev.warmStack (src d : Dev) (n : Nat) : Dev :=
  let st := src.get (R.HBM_STATUS_STATE n)
  d.set (R.HBM_STATUS_STATE n) (if st = 2 ∨ st = 3 then 3 else if st = 4 ∧ src.pwr.trained.contains n then 4 else 0)

/-- What a warm reset leaves of a slot's state (Table 3.10). -/
def warmSlot (st : Nat) : Nat := if st = 1 then 0 else if st = 3 then 4 else st

/-- R316: everything is reset but the always-on domain, RWS fields, HBM contents, and what the rules keep by name: check
strength (R20), bank state (R276), loss scale (R107), slots (Table 3.10). -/
def Dev.warmClear (d : Dev) : Dev :=
  let n : Dev := { Dev.reset with
    hbm := { d.hbm with scrub := Dev.reset.hbm.scrub }, flash := d.flash, pins := { d.pins with warm := true, alert := false }
    jtag := d.jtag, out := d.out, freeCtr := d.freeCtr
    pwr := { PwrUnit.reset with trained := d.pwr.trained, batch := d.pwr.batch }
    img := { ImgUnit.reset with lastActive := d.img.lastActive, lastParams := d.img.lastParams, stagedPlaces := d.img.stagedPlaces } }
  let n := n.keepWords d ([R.IMG_CTL, R.PWR_NIGHT_CFG, R.PWR_PLIM, R.UPD_BANK, R.UPD_RET, R.UPD_SCALE, R.IMG_LOAD_STATUS] ++
    (List.range 24).map fun s => R.HBM_TRAIN s)
  let n := (List.range 24).foldl (fun (n : Dev) s =>
    (d.warmStack n s).set (R.HBM_STATUS_HEIGHT s) (d.get (R.HBM_STATUS_HEIGHT s)) |>.set (R.HBM_CTL_EXCLUDE s) (d.get (R.HBM_CTL_EXCLUDE s))) n
  let n := (n.set R.ECC_CFG_STRENGTH d.strength).set R.GLB_ACC_ERR_COUNT (d.get R.GLB_ACC_ERR_COUNT)
  (n.set (slotField 0) (warmSlot (d.slotState 0))).set (slotField 1) (warmSlot (d.slotState 1))

/-! ### Straps, identity and the good cores -/

/-- Table 15.11. -/
def plimWatts (v : Nat) : Nat := [2400, 2800, 3000, 3200, 3400, 3600, 3900, 4200].getD (v % 8) 2400

/-- The ceiling at its reset value, the board limit (R323). -/
def Dev.ceilReset (d : Dev) : Dev :=
  let d := d.set R.PWR_CEIL_CEIL_W (d.get R.PWR_PLIM_LIMIT_W)
  d.setForce R.PWR_CEIL (d.reg R.PWR_CEIL)

/-- Step 1: what the fuse array and the part fix (R341, R342, R344, R351, R353, Table 19.2). -/
def Dev.loadFixed (d : Dev) (o : Otp) : Dev :=
  let d := ((d.set R.GLB_ID_STEPPING Config.stepping).set R.GLB_ID_VARIANT (Config.variant % 2)).set R.SEC_JTAG_IDCODE
    (Config.idVersion % 16 * 2 ^ 28 + 0x9624 * 2 ^ 12 + Config.idMaker % 2048 * 2 + 1)
  let d := d.setDigest R.SEC_FUSE_MEAS_DIGEST (sha384 (Config.fuseArray o.svn o.owner (o.sites ++ [o.cores] ++ o.agxLanes ++ o.ethLanes)))
  let d := ((d.setDigest R.SEC_IDKEY_HASH_DIGEST o.idHash).set R.SEC_STATUS_FUSE_SVN o.svn).set R.MGMT_I3C_PID o.pid
  (List.range 2).foldl (fun (d : Dev) p => d.set (R.ETH_PORT_MAC_MAC p) (o.macs.getD p 0)) d

/-- A unit of a kind of Table 15.7 that a list names, as a mask below `n`, units counted from `base`. -/
def unitMask (l : List (Nat × Nat)) (kind base n : Nat) : Nat :=
  (List.range n).foldl (fun m i => if l.any fun e => e.1 = kind ∧ e.2 = base + i then m + 2 ^ i else m) 0

/-- The units that the repair record names, as kind and unit. -/
def Dev.recordUnits (d : Dev) : List (Nat × Nat) := d.rprEntries.map fun e => (e.kind, e.unit)

/-- Steps 2 to 5 (R308, Table 15.2): boot ROM, firmware, record, configuration. A start that is stopped shows the step. -/
def bootSteps (o : Otp) (d : Dev) (rom : Bool) : Otp × Dev :=
  let d := (d.loadFixed o).ceilReset
  let stop (d : Dev) (step : Nat) : Dev := (d.set R.PWR_STATE_BOOT_STEP step).devTo 7
  if !rom then (o, (d.set R.PWR_STATE_BOOT_STEP 2).fatal 5 63)
  else
    let (ok, d) := bootFirmware o d
    let d := d.showOwner o
    if !ok then (o, stop d 3)
    else
      let d := d.refreshRpr
      if d.rprUse.isNone ∧ !d.rprBlank then (o, stop d 5)
      else
        let (o, ok, d) := bootConfig o d
        if !ok then (o, stop d 5)
        else (o, { d.set R.PWR_STATE_BOOT_STEP 6 with trust := { d.trust with protect := true } })

/-- DAWN (R308, R378): PWR_OK with COLD_RST_N released. `plim` and `boot` are the straps; `rom` says that the boot ROM runs. -/
def execDawn (plim boot : Nat) (rom : Bool) (s : State) : Host.Outcome State Fault Refusal :=
  let d : Dev := { s.dev with out := [] }
  if d.pins.aux ∧ !d.pins.cycle ∧ !d.pins.warm ∧ d.get R.PWR_STATE_DEV_STATE = 0 ∧ d.get R.PWR_STATE_BOOT_STEP = 0 then
    let d : Dev := { d with pins := { d.pins with on := true, undervoltage := false, bootSrc := boot % 2, refLost := false } }
    let d := (d.set R.PWR_PLIM_PLIM (plim % 8)).set R.PWR_PLIM_LIMIT_W (plimWatts plim)
    let (o, d) := bootSteps s.otp d rom
    .next { s with otp := o, dev := d }
  else .next { s with dev := d }

/-- MORNING (R316, R318): WARM_RST_N is released. -/
def execMorning (rom : Bool) (s : State) : Host.Outcome State Fault Refusal :=
  let d : Dev := { s.dev with out := [] }
  if d.pins.warm ∧ d.pins.on then
    let d : Dev := { d with pins := { d.pins with warm := false, refLost := false } }
    let (o, d) := bootSteps s.otp (d.devTo 1) rom
    .next { s with otp := o, dev := d }
  else .next { s with dev := d }

/-! ### Reconciliation (R313, R314) -/

/-- Units `ms` of a kind that a test found bad and neither the fuses nor the record name join the record. -/
def Dev.recordNew (d : Dev) (kind base known : Nat) (ms : List Nat) : Dev :=
  (ms.filter fun i => !known.testBit i).foldl (fun (d : Dev) i => d.rprAdd kind 0 (base + i) 0) d

/-- Units that the fuses name and the test passed: FUSE_ONLY, at Dawn. -/
def Dev.fuseOnly (d : Dev) (dawn : Bool) (base n fuse test : Nat) : Dev :=
  if !dawn then d else
  ((setBits n fuse).filter fun i => !test.testBit i).foldl (fun (d : Dev) i => d.raise1 R.PWR_ERR_FUSE_ONLY (base + i)) d

/-- A CIST_LINE unit as a line number: bank × 2,048 + line in bank. -/
def cistUnit (u : Nat) : Nat := u / 65536 * 65536 + u % 2048 * 32 + u / 2048 % 32

/-- The lines of the record and of the self-test move to spares (R299, R307, R310). -/
def Dev.reconcileLines (d : Dev) (bad : List (Nat × Nat)) : Dev :=
  let recd := (d.recordUnits.filter (·.1 = 5)).map (·.2)
  let test := (bad.filter (·.1 = 5)).map (·.2)
  let d := (test.filter fun u => !recd.contains u).foldl (fun (d : Dev) u => d.rprAdd 5 0 u 0) d
  let lines := ((recd ++ test).eraseDups.filter fun u => decide (u < 384 * 65536)).map cistUnit
  let d : Dev := { d with cist := { d.cist with remap := lines } }
  (List.range 384).foldl (fun (d : Dev) t => d.set (R.ECC_CIST_SPARES_LEFT t)
    (512 - min 512 (lines.filter fun l => l / 65536 = t).length)) d

/-- A bank of site t has more bad lines than spares. -/
def Dev.bankLost (d : Dev) (t : Nat) : Bool :=
  (List.range 32).any fun b => decide (16 < (d.cist.remap.filter fun l => l / 65536 = t ∧ l % 32 = b).length)

/-- The sites of one die. -/
def Dev.reconcileSites (o : Otp) (d : Dev) (dawn : Bool) (bad : List (Nat × Nat)) (c : Nat) : Dev :=
  let fuse := o.sites.getD c 0 % 2 ^ 48
  let recd := unitMask d.recordUnits 1 (48 * c) 48
  let lost := (List.range 48).foldl (fun m i => if d.bankLost (48 * c + i) then m + 2 ^ i else m) 0
  let test := unitMask bad 1 (48 * c) 48 ||| lost ||| d.get (R.PWR_SITES_W1_TEST_BAD c)
  let d := ((((d.set (R.PWR_SITES_W0_FUSE_BAD c) fuse).set (R.PWR_SITES_W1_TEST_BAD c) test).set (R.PWR_SITES_W2_RECORD_BAD c) recd).set
    (R.PWR_SITES_W3_GOOD c) ((2 ^ 48 - 1) ^^^ (fuse ||| recd ||| test)))
  (d.fuseOnly dawn (48 * c) 48 fuse test).recordNew 1 (48 * c) (fuse ||| recd) (setBits 48 test)

/-- The control cores: a fuse-bad core is not started, so it has no test result. -/
def Dev.reconcileCores (o : Otp) (d : Dev) (bad : List (Nat × Nat)) : Dev :=
  let fuse := o.cores % 2 ^ 16
  let recd := unitMask d.recordUnits 4 0 16
  let test := unitMask bad 4 0 16
  let good := (2 ^ 16 - 1) ^^^ (fuse ||| recd ||| test)
  let d := (((d.set R.PWR_CORES_FUSE_BAD fuse).set R.PWR_CORES_RECORD_BAD recd).set R.PWR_CORES_TEST_BAD test).set R.PWR_CORES_GOOD good
  let d := (List.range 16).foldl (fun (d : Dev) n => d.set (R.MGMT_CORE_STATE n)
    (if !good.testBit n then 4 else if (d.get R.MGMT_JOB_CORES_MASK).testBit n then 2 else 1)) d
  d.recordNew 4 0 (fuse ||| recd) (setBits 16 test)

/-- The lanes of the Agxis and Ethernet ports (R132, R307). -/
def Dev.reconcileLanes (o : Otp) (d : Dev) (dawn : Bool) (bad : List (Nat × Nat)) : Dev :=
  let d := (List.range 36).foldl (fun (d : Dev) p =>
    let fuse := o.agxLanes.getD p 0 % 512
    let recd := unitMask d.recordUnits 2 (16 * p) 9
    let test := unitMask bad 2 (16 * p) 9
    let d := (d.set (R.AGX_PORT_STATUS_LANE_BAD p) (fuse ||| recd ||| test)).mapLanes p 0
    (d.fuseOnly dawn (16 * p) 9 fuse test).recordNew 2 (16 * p) (fuse ||| recd) (setBits 9 test)) d
  (List.range 2).foldl (fun (d : Dev) p =>
    let fuse := o.ethLanes.getD p 0 % 16
    let recd := unitMask d.recordUnits 3 (4 * p) 4
    let test := unitMask bad 3 (4 * p) 4
    let d := d.set (R.ETH_PORT_STATUS_LANES_GOOD p) (15 ^^^ (fuse ||| recd ||| test))
    (d.fuseOnly dawn (4 * p) 4 fuse test).recordNew 3 (4 * p) (fuse ||| recd) (setBits 4 test)) d

/-- The walkers (R311): a die whose walker is bad is served by that of die d xor 4. -/
def Dev.reconcileWalkers (d : Dev) (bad : List (Nat × Nat)) : Dev :=
  let recd := unitMask d.recordUnits 8 0 8
  let test := unitMask bad 8 0 8
  let d : Dev := { d with pwr := { d.pwr with walkersBad := setBits 8 (recd ||| test) } }
  d.recordNew 8 0 recd (setBits 8 test)

/-- Step 6 (R285, R307): the stacks train; rows of the record not repaired for good are repaired. -/
def Dev.trainStacks (d : Dev) (bad : List (Nat × Nat)) (trained : Nat) : Dev :=
  let recd := unitMask d.recordUnits 7 0 24
  let fail := (unitMask bad 7 0 24) ||| ((2 ^ 24 - 1) ^^^ (trained % 2 ^ 24))
  let (k, d) := d.draw
  let d := (List.range 24).foldl (fun (d : Dev) s =>
    let st := if d.flag (R.HBM_CTL_EXCLUDE s) then 5
      else if fail.testBit s ∨ recd.testBit s ∨ d.get (R.HBM_STATUS_STATE s) = 4 then 4 else 2
    (((d.set (R.HBM_STATUS_STATE s) st).set (R.HBM_STATUS_HEIGHT s) (if Config.variant % 2 = 1 then 12 else 16)).set (R.HBM_TRAIN_STAMP s)
      (Config.hbmStamp % 2 ^ 32)).set (R.HBM_TRAIN_MS s) (Config.freeWord k s)) d
  let d := d.recordNew 7 0 recd ((setBits 24 fail).filter fun s => d.get (R.HBM_STATUS_STATE s) = 4)
  let rows := d.rprEntries.filter fun e => e.kind = 6 ∧ !e.flags.testBit 0 ∧ d.stacks.contains (e.unit / 64)
  let d := d.set R.ECC_CFG_STACKS d.stacks.length
  { d with hbm := { d.hbm with repairs := (d.hbm.repairs.filter fun r => r.2.2.2) ++
                                 rows.map fun e => (e.unit, e.detail / 2 ^ 18, e.detail % 2 ^ 18, false) } }

/-- Good sites of die c. -/
def Dev.goodOn (d : Dev) (c : Nat) : Nat := (setBits 48 (d.get (R.PWR_SITES_W3_GOOD c))).length

/-- R314: PWR_GOOD_TILES, DEGRADED and why. -/
def Dev.refreshGood (d : Dev) : Dev :=
  let per := (List.range 8).map d.goodOn
  let total := per.foldl (· + ·) 0
  let cores := (setBits 16 (d.get R.PWR_CORES_GOOD)).length
  let why := b2n (per.any fun n => decide (n < 40)) + 2 * b2n (total < 320) + 4 * b2n (cores < 12) + 8 * b2n (d.stacks.length < 24)
  let word := (List.range 8).foldl (fun m c => m + d.goodOn c * 2 ^ (6 * c)) 0
  (((d.set R.PWR_GOOD_TILES_TOTAL total).set R.PWR_GOOD_TILES_PER_DIE word).set R.PWR_STATE_DEG_WHY why).set R.PWR_STATE_DEGRADED (b2n (why ≠ 0))

/-- R2: GLB_OFFER_0 and _1. A port whose lanes are too few is DOWN. -/
def Dev.refreshOffer (d : Dev) : Dev :=
  let per := (List.range 8).map d.goodOn
  let up (p : Nat) : Bool := decide (4 ≤ (d.goodLanes p).length)
  let d := d.set R.GLB_OFFER_0_TILES_TOTAL (min 320 (per.foldl (· + ·) 0))
  let d := d.set R.GLB_OFFER_0_TILES_PER_DIE (per.foldl min 48)
  let d := d.set R.GLB_OFFER_0_COMPUTE_DIES (per.filter (decide <| 0 < ·)).length
  let d := d.set R.GLB_OFFER_0_HBM_STACKS d.stacks.length
  let d := d.set R.GLB_OFFER_0_CTRL_CORES (setBits 16 (d.get R.PWR_CORES_GOOD)).length
  let d := d.set R.GLB_OFFER_1_AGX_GROUP_PORTS ((List.range 31).filter up).length
  let d := d.set R.GLB_OFFER_1_AGX_GLOBAL_PORTS (([31, 32, 33, 34, 35] : List Nat).filter up).length
  d.set R.GLB_OFFER_1_ETH_PORTS (([0, 1] : List Nat).filter fun p => d.get (R.ETH_PORT_STATUS_LANES_GOOD p) = 15).length

/-- Step 11: every Agxis port is enabled; one with too few lanes is DOWN (R132). -/
def Dev.startPorts (d : Dev) : Dev :=
  (List.range 36).foldl (fun (d : Dev) p =>
    let d := (d.set (R.AGX_PORT_CTL_ENABLE p) 1).powerUp (agxUnit p)
    if (d.goodLanes p).length < 4 then d.setLink p 5 else d) d

/-- R317: the trained set has changed, so HBM is formatted and nothing that lay in it is used. -/
def Dev.remapped (d : Dev) : Dev :=
  let d : Dev := { d with hbm := { d.hbm with cells := [], poison := [], bad := [] } }
  let d := (d.set (slotField 0) 0).set (slotField 1) 0
  let d := (d.setWord R.UPD_BANK 0).setWord R.UPD_RET 0
  let d : Dev := { d with img := { d.img with lastActive := none, stagedPlaces := [] } }
  d.pfxClearAll.raise1 R.PWR_ERR_HBM_REMAP 0

/-- The checkers that Dawn's self-test found failing (R300, R310): kind 9 of a start's list is a stack's checker, kind 10 a
tile's. -/
def Dev.showCheckers (d : Dev) (bad : List (Nat × Nat)) : Dev :=
  let d := d.set R.ECC_ST_HBM_FAIL (unitMask bad 9 0 24)
  (List.range 6).foldl (fun (d : Dev) n => d.set (R.ECC_ST_TILE_FAIL n) (unitMask bad 10 (64 * n) 64)) d

/-- A failing checker fails its stack or its site (R300). -/
def withCheckers (bad : List (Nat × Nat)) : List (Nat × Nat) :=
  bad ++ (bad.filter (·.1 = 9)).map (fun e => (7, e.2)) ++ (bad.filter (·.1 = 10)).map (fun e => (1, e.2))

/-- Steps 6 to 11 and READY_NO_IMAGE (R308–R317): `bad` are the units that self-test and known-answer tests found bad, by the
kinds of Table 15.7 and of `showCheckers`; `trained` the stacks that training passed, `ms` the duration. -/
def startDone (o : Otp) (d : Dev) (dawn : Bool) (ms : Nat) (bad : List (Nat × Nat)) (trained : Nat) : Dev :=
  let d := if dawn then d.showCheckers bad else d
  let bad := withCheckers bad
  let old := d.pwr.trained
  let d := d.trainStacks bad trained
  let d : Dev := { d with pwr := { d.pwr with trained := d.stacks } }
  let d := d.setStrength d.strength
  let d := if dawn ∨ old = [] ∨ old = d.stacks then d else d.remapped
  let d := d.reconcileLines bad
  let d := (List.range 8).foldl (fun (d : Dev) c => d.reconcileSites o dawn bad c) d
  let d := ((d.reconcileCores o bad).reconcileLanes o dawn bad).reconcileWalkers bad
  let d := d.refreshGood.sitesOff.refreshOffer.showPlaces.startPorts
  let d := (d.set R.AGX_VER_0_DEVICE_ID d.id).set R.AGX_VER_2_DEGRADED (d.get R.PWR_STATE_DEGRADED)
  let d := ((d.set R.PWR_BOOT_MS_MS ms).set R.PWR_STATE_BOOT_STEP 12).devTo 2
  match dawn, d.flag R.IMG_CTL_AUTO_RELOAD, d.img.lastActive with
  | false, true, some slot => if d.slotState slot = 4 then d.loadGo slot false else d
  | _, _, _ => d

/-- DAWN_READY: step 11 of Dawn ends. -/
def execDawnReady (ms : Nat) (bad : List (Nat × Nat)) (trained : Nat) (s : State) : Host.Outcome State Fault Refusal :=
  run s fun d => if d.pins.on ∧ d.get R.PWR_STATE_DEV_STATE = 0 ∧ 6 ≤ d.get R.PWR_STATE_BOOT_STEP then startDone s.otp d true ms bad trained else d

/-- MORNING_READY: step 11 of Morning ends. -/
def execMorningReady (ms : Nat) (bad : List (Nat × Nat)) (trained : Nat) (s : State) : Host.Outcome State Fault Refusal :=
  run s fun d => if d.pins.on ∧ d.get R.PWR_STATE_DEV_STATE = 1 ∧ 6 ≤ d.get R.PWR_STATE_BOOT_STEP then startDone s.otp d false ms bad trained else d

/-! ### Resets and supplies (R316, R378–R382) -/

/-- WARM_RESET: WARM_RST_N is asserted. COLD_RST_N asserted prevails: a device that is off stays off. -/
def execWarmReset (s : State) : Host.Outcome State Fault Refusal := run s fun d => if d.pins.on then d.warmClear else d

/-- COLD_RESET: COLD_RST_N is asserted while PWR_OK is asserted. -/
def execColdReset (s : State) : Host.Outcome State Fault Refusal := run s fun d => d.switchOff fun p => { p with warm := false, alert := false }

/-- PWR_OK_DEASSERT: releases THERMTRIP_N; a new cycle of PWR_OK may start the device. -/
def execPwrOkDeassert (s : State) : Host.Outcome State Fault Refusal :=
  run s fun d => d.switchOff fun p => { p with warm := false, alert := false, cycle := false, tripped := false }

/-- UNDERVOLTAGE (R380). -/
def execUndervoltage (s : State) : Host.Outcome State Fault Refusal :=
  run s fun d => d.switchOff fun p => { p with warm := false, alert := false, cycle := true, undervoltage := true }

/-- VIN_AUX_LOSS (R380): the always-on domain loses its state too. -/
def execVinAuxLoss (s : State) : Host.Outcome State Fault Refusal :=
  run s fun d => d.switchOff fun _ => { PinUnit.reset with aux := false }

/-- VIN_AUX_3V3_RISE (Table 18.4, step 1). -/
def execVinAux3v3Rise (s : State) : Host.Outcome State Fault Refusal :=
  run s fun d => { d with pins := { d.pins with aux := true, tripped := false, alert := false } }

/-- BEAT_REF_LOSS (R382, R386). -/
def execBeatRefLoss (s : State) : Host.Outcome State Fault Refusal :=
  run s fun d =>
    let d := if d.alive then d.fatal 5 63 else d
    { d with pins := { d.pins with refLost := true } }

end Sys2Proof.Machine
end

