-- ==== Sys2Proof/Machine/Activate.lean ====
section
/-!
DEFINITION. What a boundary does with images: the drain of a swap, the activation of a slot, the return to no image, a
retile (R55, R57, R60–R66), and leaving Night (R64). Cistern-window accesses, which wait while a placement changes.
-/

namespace Sys2Proof.Machine

/-! ### Cistern windows (R22, R23) -/

/-- CISTERN_WINDOW_ACCESS: it waits at the home while a placement changes (R62, R63), and for a step that holds the bucket
(R87). -/
def execCisternWindowAccess (w : Who) (l o n : Nat) (wr : Bool) (bs : List Byte) (s : State) : Host.Outcome State Fault Refusal :=
  run s fun d =>
    if d.windowWaits (windowOff l o) (max n bs.length) then
      { d with img := { d.img with waiting := d.img.waiting ++ [.cisternWindowAccess w l o n wr bs] } }
    else d.windowServe w l o n wr bs

/-- A placement has changed: the accesses that waited for it are served. -/
def Dev.windowsOpen (d : Dev) : Dev := ({ d with img := { d.img with windowsWait := false } } : Dev).windowsServe

/-! ### Channels, pages, cisterns -/

/-- The channels of the active image at their initial contents (R52). -/
def Dev.loadChannels (d : Dev) : Dev :=
  let d : Dev := { d with regs := stClear d.regs (R.IMG_CHAN 0) 0x8000 }
  (List.range (d.secCount 5)).foldl (fun (d : Dev) c =>
    let e := d.chan c
    (d.set (R.IMG_CHAN_DEPTH c) (bits e 79 64)).set (R.IMG_CHAN_TOKENS c) (bits e 95 80)) d

/-- The initial page table of the active image (R55). -/
def Dev.loadPages (d : Dev) : Dev :=
  let b := d.activeBase
  let at_ := (d.section? b 9).elim 0 (·.1) + 4
  (List.range 8).foldl (fun (d : Dev) p =>
    let row := d.peek (at_ + 16 * p) 16
    let lib := recNat row 0 2
    let d := d.setWord (R.BEAT_PAGE p) 0
    if lib = 0xFFFF then { d with regs := stClear d.regs (R.BEAT_ENTRY (p * 1024) 0) 0x8000 }
    else
      let d := d.loadPage p (d.libPageAt b lib)
      let base := recNat row 8 8
      (d.set (R.BEAT_PAGE_BASE_BEAT p) (if recNat row 3 1 = 1 then beatAdd d.beatNow base else base)).set (R.BEAT_PAGE_STATE p)
        (recNat row 2 1)) { d with beat := { d.beat with started := [], dropped := [] } }

/-- Cisterns read zero but on the sites of `keep`; near caches hold nothing (R126). -/
def Dev.freshTiles (d : Dev) (keep : List Nat) : Dev :=
  let d := ((List.range 384).filter fun t => !keep.contains t).foldl (fun (d : Dev) t => d.cistZero t) d
  { d with tiles := d.tiles.map fun (e : Nat × TileUnit) => (e.1, { e.2 with nc := [] }) }

/-- No page of an image holds work: every page is IDLE and empty of starts. -/
def Dev.clearPages (d : Dev) : Dev :=
  let d := (List.range 8).foldl (fun (d : Dev) p => (d.set (R.BEAT_PAGE_STATE p) 0).set (R.BEAT_PAGE_WAITING p) 0) d
  { d with beat := { d.beat with started := [], dropped := [], staged := none } }

/-! ### Drain (R35, R63, R319) -/

/-- An armed page swap ends without effect; the page that it staged is IDLE. -/
def Dev.cancelPageSwap (d : Dev) : Dev :=
  if !d.flag R.BEAT_PAGE_SWAP_ARM then d else
  let d := d.set R.BEAT_PAGE_SWAP_ARM 0
  let d := d.beat.staged.elim d fun p => if d.pageState p = 1 then d.set (R.BEAT_PAGE_STATE p) 0 else d
  ({ d with beat := { d.beat with staged := none } }).raise1 R.BEAT_ERR_SWAP_REJECT 0

/-- Every page of the active image enters DRAINING or IDLE; the deferred queue becomes urgent (R256). -/
def Dev.drainPages (d : Dev) : Dev :=
  let d := d.cancelPageSwap
  let d := (List.range 8).foldl (fun (d : Dev) p =>
    if d.pageState p = 2 then ((d.set (R.BEAT_PAGE_STATE p) 3).pageDrained p)
    else if d.pageState p = 1 then d.set (R.BEAT_PAGE_STATE p) 0 else d) d
  let d : Dev := { d with beat := { d.beat with dropped := [] } }
  (d.abandon fun _ => true).urgentAll.refreshWaiting

/-- R63: the drain of an armed swap starts at the boundary that starts AT_BEAT, or at the next one. DESIGN CHOICE: with no image
active a swap is rejected with SWAP_REJECT, and UNLOAD only clears (log entry 54). -/
def Dev.swapDrain (d : Dev) : Dev :=
  if d.get R.IMG_STATUS_SWAP_PHASE = 1 ∧ beatGe d.beatNow (d.get R.IMG_SWAP_AT_BEAT) then
    if !d.flag R.IMG_SWAP_UNLOAD ∧ (d.stagedSlot.isNone ∨ !d.imageActive) then
      ((d.set R.IMG_SWAP_ARM 0).setPhase 0).raise1 R.IMG_ERR_SWAP_REJECT 0
    else if !d.imageActive then (d.set R.IMG_SWAP_ARM 0).setPhase 0
    else d.drainPages.setPhase 2
  else d

/-! ### Activation -/

/-- R276: bank state is kept or set to 0. -/
def Dev.bankActivate (d : Dev) (plan : List Region) : Dev :=
  let d := if d.keepsBanks plan then d else (d.setWord R.UPD_BANK 0).setWord R.UPD_RET 0
  let last := match plan.find? (fun r => r.tag = 1), plan.find? (fun r => r.tag = 2) with
    | some e, some o => some (e.base, e.size, o.base, o.size)
    | _, _ => none
  { d with img := { d.img with lastParams := last } }

/-- R360: the telemetry ring of the active image. -/
def Dev.telActivate (d : Dev) : Dev :=
  let d := d.setWord R.TEL_RING_PTR 0
  match d.tagged 8 with
  | some r => ((d.set R.TEL_STATUS_NO_RING 0).set R.TEL_RING_BASE r.base).set R.TEL_RING_SIZE_RECORDS (r.size / 64)
  | none => ((d.set R.TEL_STATUS_NO_RING 1).set R.TEL_RING_BASE 0).set R.TEL_RING_SIZE_RECORDS 0

/-- The slot last ACTIVE is RETIRED. -/
def Dev.retire (d : Dev) : Dev :=
  if d.imageActive then d.set (slotField (d.get R.IMG_STATUS_ACTIVE_SLOT)) 4 else d

/-- A slot becomes ACTIVE at this boundary (R55, R61–R63, R126, R204, R256, R276, R360). -/
def Dev.activate (d : Dev) (slot : Nat) : Dev :=
  let m := d.img? slot
  let plan := m.regions
  let swap := d.imageActive
  let d := d.retire
  let d := ((d.set (slotField slot) 3).set R.IMG_STATUS_ACTIVE_SLOT slot).set R.IMG_STATUS_IMAGE_STATE 1
  let d := (d.kvLeave plan).bankActivate plan
  let d : Dev := { d with img := { d.img with
      regions := plan, places := d.placesOf slot, lastActive := some slot, activating := none, regionsDone := false, actDue := false
      stagedPlaces := d.img.stagedPlaces.filter fun x => x.1 ≠ slot } }
  let d := d.showPlaces
  let d := ((d.set R.IMG_ACTIVE_ID_ID (m.u 0x18 8)).set R.IMG_ACTIVE_VER_SVN (m.u 0x24 4)).set R.IMG_ACTIVE_VER_VERSION (m.u 0x20 4)
  let d := d.setDigest R.IMG_MEASURE_DIGEST m.digest
  let d := (d.freshTiles d.img.keep).loadChannels.clearPages.loadPages
  let d := d.commitIdle.kvActivate.wgqClear.telActivate
  let d := d.set R.IMG_SWAP_TIME_ACT_BEAT d.beatNow
  let d := if swap then (d.set R.IMG_SWAP_TIME_GAP_BEATS (beatSub d.beatNow (d.get R.IMG_SWAP_AT_BEAT))).setPhase 0 else d
  (d.devTo 3).windowsOpen

/-- UNLOAD completes: no image is active (R61, R63, R318). DESIGN CHOICE: IMG_ACTIVE_ID, IMG_ACTIVE_VER and IMG_MEASURE then read
0, and GAP_BEATS is written (log entry 56). -/
def Dev.unloaded (d : Dev) : Dev :=
  let d := d.retire.set R.IMG_STATUS_IMAGE_STATE 0
  let d : Dev := { d with img := { d.img with regions := [], places := [], activating := none, regionsDone := false, unload := false, keep := [] }
                          regs := stClear d.regs (R.IMG_CHAN 0) 0x8000 }
  let d := (d.showPlaces.clearPages.freshTiles []).telActivate
  let d := ((d.set R.IMG_ACTIVE_ID_ID 0).setWord R.IMG_ACTIVE_VER 0).setDigest R.IMG_MEASURE_DIGEST []
  let d := (d.set R.IMG_SWAP_TIME_GAP_BEATS (beatSub d.beatNow (d.get R.IMG_SWAP_AT_BEAT))).setPhase 0
  (d.devTo 2).windowsOpen

/-- What this boundary does with an activation or swap that is ready; a STAGED slot with no image active is due. -/
def Dev.imageBoundary (d : Dev) : Dev :=
  let phase := d.get R.IMG_STATUS_SWAP_PHASE
  if phase = 4 then
    match d.img.activating with
    | some slot => d.activate slot
    | none => d.unloaded
  else if !d.imageActive then
    match d.img.activating with
    | some slot => if d.img.regionsDone && d.powerSettled && !d.img.reformat then d.activate slot else d
    | none =>
      { d with img := { d.img with actDue := d.stagedSlot.isSome && decide (d.get R.PWR_STATE_DEV_STATE = 2) } }
  else d

/-! ### Retile (R66) -/

/-- A site or one of its streams still has work. -/
def Dev.siteBusy (d : Dev) (t : Nat) : Bool := d.ops.any fun o => o.tiles.contains t

/-- R66: TARGET and SPARE exchange sites, unless an operation runs on either; TARGET's cistern reads zero and its old site goes
OFF. -/
def Dev.retile (d : Dev) : Dev :=
  if !d.flag R.IMG_RETILE_ARM then d else
  let t := d.get R.IMG_RETILE_TARGET
  let s := d.get R.IMG_RETILE_SPARE
  if !d.retileAllowed t s then (d.set R.IMG_RETILE_ARM 0).raise1 R.IMG_ERR_RETILE_REJECT t
  else match d.place t, d.place s with
    | some a, some b =>
      if d.siteBusy a.phys || d.siteBusy b.phys then d
      else
        let d := (d.disableUnit a.phys).closeStreams a.phys fun _ => true
        let d : Dev := { d with img := { d.img with places := d.img.places.map fun (p : Place) =>
          if p.tile = t then { p with phys := b.phys } else if p.tile = s then { p with phys := a.phys } else p } }
        let d := (d.cistZero b.phys).cistZero a.phys
        let d := (d.setTile a.phys TileUnit.idle).setTile b.phys TileUnit.idle
        (d.enableUnit b.phys).showPlaces.set R.IMG_RETILE_ARM 0
    | _, _ => d

/-! ### Leaving Night (R64) -/

/-- R64: the active image is applied again: its channels and initial pages; cisterns read zero, near caches hold nothing. -/
def Dev.reapply (d : Dev) : Dev := (d.freshTiles []).loadChannels.clearPages.loadPages.showPlaces

end Sys2Proof.Machine
end

