-- ==== Sys2Proof/Machine/Power.lean ====
section
/-!
DEFINITION. Power ceiling, clock and temperature (R323–R325), unit power events (R321, R322), Dusk, Night and waking (R319,
R320).
-/

namespace Sys2Proof.Machine

/-! ### Registers -/

/-- R323: the value of PWR_CEIL after a store: the ceiling is clamped. -/
def Dev.ceilWrite (d : Dev) (v : Nat) : Dev :=
  let limit := d.get R.PWR_PLIM_LIMIT_W
  let c := bits v 15 0
  let c' := max (min c limit) 1800
  let d := (d.set R.PWR_CEIL_HYST_W (bits v 47 32)).set R.PWR_CEIL_CEIL_W c'
  if c' = c then d else d.raise1 R.PWR_ERR_CEIL_CLAMP 0

/-- R325: THROTTLE_C is at most 90 °C. -/
def Dev.thermWrite (d : Dev) (v : Nat) : Dev := d.set R.PWR_THERM_THROTTLE_C (min 90 (bits v 39 32))

/-- Leaving Night begins (R320): HBM leaves self-refresh, the placed sites are powered in waves (R62, R64). -/
def Dev.wakeStart (d : Dev) : Dev :=
  let d := d.devTo 6
  let d := (List.range 24).foldl (fun (d : Dev) s => if d.get (R.HBM_STATUS_STATE s) = 3 then d.set (R.HBM_STATUS_STATE s) 2 else d) d
  let d := d.set R.PWR_STATE_PSTATE 1
  if d.imageActive then ({ d with pwr := { d.pwr with wakeHeld := false, wave := poweredSites d.img.places } }).nextWave
  else { d with pwr := { d.pwr with wakeHeld := false } }

/-- A store to PWR_CTL (R319, R320). A wake during Dusk is latched. -/
def Dev.pwrCtlWrite (d : Dev) (v : Nat) : Dev :=
  let d := d.set R.PWR_CTL_DUSK_AT_BEAT (bits v 47 0)
  let st := d.get R.PWR_STATE_DEV_STATE
  let d : Dev := if v.testBit 63 ∧ (st = 2 ∨ st = 3) then { d with pwr := { d.pwr with duskArmed := true } } else d
  if v.testBit 62 then
    if st = 5 then d.wakeStart else if st = 4 then { d with pwr := { d.pwr with wakeHeld := true } } else d
  else d

/-! ### The clock (R324, R325) -/

/-- The 8-µs power, in mW: the mean of the last samples. -/
def Dev.meanPower (d : Dev) : Nat := d.pwr.samples.foldl (· + ·) 0 / max 1 d.pwr.samples.length

/-- The 8-µs power exceeds the ceiling in force. -/
def Dev.overCeiling (d : Dev) : Bool := decide (d.force R.PWR_CEIL_CEIL_W * 1000 < d.meanPower)

/-- Issue is held on every powered tile for some cycles, which count as THROTTLE. -/
def Dev.holdIssue (d : Dev) (cycles : Nat) : Dev :=
  let d := d.count R.PWR_THROTTLE_HOLD_CYCLES cycles
  ((List.range 384).filter d.tileReady).foldl (fun (d : Dev) t =>
    let u := d.tile t
    d.setTile t { u with hold := u.hold + cycles }) d

/-- The clock is `n` steps below 1.2 GHz, for a cause. -/
def Dev.clockTo (d : Dev) (n cause : Nat) : Dev :=
  let d := ((d.set R.PWR_CLK_STEPS_DOWN n).set R.PWR_CLK_MHZ (1200 - 25 * n)).set R.PWR_CLK_CAUSE cause
  if n = 0 then d else { d with beat := { d.beat with throttled := true } }

/-- The clock steps down by `n`, at most to the floor; issue is held while it settles. -/
def Dev.stepDown (d : Dev) (n cause : Nat) : Dev :=
  let s := d.get R.PWR_CLK_STEPS_DOWN
  let n := min n (24 - s)
  if n = 0 then d else ((d.clockTo (s + n) cause).count R.PWR_THROTTLE_STEPS n).holdIssue 32

/-- POWER_SAMPLE: `mw` is the input power of the last microsecond, in mW. -/
def execPowerSample (mw : Nat) (s : State) : Host.Outcome State Fault Refusal :=
  run s fun d =>
    if !d.pins.on then d else
    let d : Dev := { d with pwr := { d.pwr with samples := (mw :: d.pwr.samples).take 8 } }
    let d := (d.count R.PWR_ENERGY_UJ (mw / 1000)).countMax R.PWR_ENERGY_PEAK_W (d.meanPower / 1000)
    { d with pwr := { d.pwr with peak := max d.pwr.peak d.meanPower } }

/-- CLOCK_STEP_DOWN. -/
def execClockStepDown (s : State) : Host.Outcome State Fault Refusal := run s fun d => if d.pins.on ∧ d.overCeiling then d.stepDown 1 1 else d

/-- FLOOR_HOLD: 1 µs at 600 MHz is 600 cycles. -/
def execFloorHold (s : State) : Host.Outcome State Fault Refusal :=
  run s fun d =>
    if d.pins.on ∧ d.overCeiling ∧ d.get R.PWR_CLK_STEPS_DOWN = 24 then
      ((d.set R.PWR_CLK_CAUSE 3).raise1 R.PWR_ERR_FLOOR_HOLD 0).holdIssue 600
    else d

/-- The hottest sensor of a die has been read: PWR_THERM shows the hottest die. -/
def Dev.sensed (d : Dev) (tj die : Nat) : Dev :=
  let tjs := stSet (fun _ => 0) d.pwr.tj die tj
  let hot := tjs.foldl (fun (x : Nat × Nat) e => if x.2 < e.2 then e else x) (die, tj)
  let d : Dev := { d with pwr := { d.pwr with tj := tjs, hot := max d.pwr.hot hot.2 } }
  (d.set R.PWR_THERM_TJ_C hot.2).set R.PWR_THERM_HOT_DIE hot.1

/-- THERMAL_STEP: the hottest sensor of die `die` reads `tj` °C. -/
def execThermalStep (tj die : Nat) (s : State) : Host.Outcome State Fault Refusal :=
  run s fun d =>
    if !d.pins.on then d else
    let d := d.sensed (tj % 256) (die % 10)
    if d.get R.PWR_THERM_THROTTLE_C ≤ d.get R.PWR_THERM_TJ_C then (d.raise1 R.PWR_ERR_THERM_THROTTLE (die % 10)).stepDown 1 2 else d

/-- THERM_95: to the floor at once; ALERT_N is asserted. -/
def execTherm95 (tj die : Nat) (s : State) : Host.Outcome State Fault Refusal :=
  run s fun d =>
    if !d.pins.on then d else
    let d := d.sensed (tj % 256) (die % 10)
    if 95 ≤ tj then
      let d := (d.raise1 R.PWR_ERR_THERM_95 (die % 10)).stepDown 24 2
      { d with pins := { d.pins with alert := true } }
    else d

/-- THERMAL_TRIP: THERMTRIP_N is asserted and the device is OFF, until PWR_OK is cycled (R325). -/
def execThermalTrip (tj die : Nat) (s : State) : Host.Outcome State Fault Refusal :=
  run s fun d =>
    if !d.pins.on then d else
    let d := d.sensed (tj % 256) (die % 10)
    if 105 ≤ tj then d.switchOff fun p => { p with tripped := true, cycle := true, warm := false } else d

/-- R324: at a boundary the clock steps up if the beat's highest power and every sensor allow. The next beat's highest values start
from what stands. -/
def Dev.clockBoundary (d : Dev) : Dev :=
  let s := d.get R.PWR_CLK_STEPS_DOWN
  let cool := decide (d.pwr.peak ≤ (d.force R.PWR_CEIL_CEIL_W - d.force R.PWR_CEIL_HYST_W) * 1000) &&
    decide (d.pwr.hot + 2 ≤ d.get R.PWR_THERM_THROTTLE_C)
  let d := if 0 < s ∧ cool then (d.clockTo (s - 1) (if s = 1 then 0 else d.get R.PWR_CLK_CAUSE)).holdIssue 32 else d
  { d with pwr := { d.pwr with peak := d.meanPower, hot := d.pwr.tj.foldl (fun x e => max x e.2) 0 }
           beat := { d.beat with throttled := decide (0 < d.get R.PWR_CLK_STEPS_DOWN) } }

/-! ### Units (R309, R321, R322) -/

/-- Power is removed from a tile site; its cistern loses its contents. -/
def Dev.siteOff (d : Dev) (t : Nat) : Dev :=
  let d := d.closeStreams t fun _ => true
  let d := (d.setTile t TileUnit.idle).cistZero t
  let d : Dev := { d with pwr := { d.pwr with gated := d.pwr.gated.erase t } }
  (((d.set (R.TILE_STATUS_EXEC_STATE t) 0).set (R.TILE_STATUS_STALL_CAUSE t) 0xFF)).unitOff t

/-- DRAIN_COMPLETE: a unit that drains has nothing left to do: a tile site runs no operation; an Agxis port has sent what it
queued, or its 100 µs have passed (R135). -/
def execDrainComplete (u : Nat) (s : State) : Host.Outcome State Fault Refusal :=
  run s fun d =>
    if 422 ≤ u then d
    else
      let st := d.get (unitPwr u)
      if st ≠ 2 ∧ st ≠ 3 then d
      else if u < 384 then (if (d.tile u).exec.isSome then d else d.siteOff u)
      else if u < 420 then d.portDrained (u - 384)
      else (d.set (R.ETH_PORT_STATUS_STATE (u - 420)) 0).unitOff u

/-- OFF_TIME_MET. -/
def execOffTimeMet (u : Nat) (s : State) : Host.Outcome State Fault Refusal :=
  run s fun d =>
    if !d.pwr.offHold.contains u then d else
    let held := d.pwr.held.contains u
    let d : Dev := { d with pwr := { d.pwr with offHold := d.pwr.offHold.erase u, held := d.pwr.held.erase u } }
    if held then d.enableUnit u else d

/-- A site's supply has failed: it is switched off and counted test-bad (R309, R313). During a start, step 9 reconciles it with the
other results. -/
def Dev.siteFailed (d : Dev) (t : Nat) : Dev :=
  let c := t / 48
  let d := (d.setPwr t 0).set (R.PWR_SITES_W1_TEST_BAD c) (d.get (R.PWR_SITES_W1_TEST_BAD c) ||| 2 ^ (t % 48))
  if d.starting then d else
  let d := d.set (R.PWR_SITES_W3_GOOD c) (d.get (R.PWR_SITES_W3_GOOD c) - b2n (d.goodSite t) * 2 ^ (t % 48))
  (d.rprAdd 1 2 t 0).refreshGood

/-- Step 7 of a start ends with its last wave; Morning skips step 8 (R316). -/
def Dev.wavesDone (d : Dev) : Dev :=
  if d.get R.PWR_STATE_BOOT_STEP = 7 ∧ d.starting ∧ d.pwr.rising = [] ∧ d.pwr.wave = [] then
    d.set R.PWR_STATE_BOOT_STEP (if d.get R.PWR_STATE_DEV_STATE = 0 then 8 else 9)
  else d

/-- Site t is ready, or has failed, 200 µs after its wave; the next wave follows. -/
def Dev.siteReady (d : Dev) (t : Nat) (ok : Bool) : Dev :=
  if !d.pwr.rising.contains t then d else
  let d : Dev := { d with pwr := { d.pwr with rising := d.pwr.rising.erase t } }
  let d := if ok then d.powerEvent t true else d.siteFailed t
  d.nextWave.wavesDone.reconfigDone

/-- TILE_POWER_READY: `ok` says that the site's supply is in regulation. In step 6 of a start, training has ended and step 7
has powered the first wave. -/
def execTilePowerReady (t : Nat) (ok : Bool) (s : State) : Host.Outcome State Fault Refusal :=
  run s fun d =>
    (if d.pins.on ∧ d.get R.PWR_STATE_DEV_STATE ≤ 1 ∧ d.get R.PWR_STATE_BOOT_STEP = 6 then d.powerSites else d).siteReady t ok

/-- TILE_CLOCK_GATE: a powered tile has run no operation for 64 cycles (R322). -/
def execTileClockGate (t : Nat) (s : State) : Host.Outcome State Fault Refusal :=
  run s fun d =>
    if 384 ≤ t ∨ !d.tileReady t ∨ (d.tile t).exec.isSome ∨ d.pwr.gated.contains t then d
    else
      let d : Dev := { d with pwr := { d.pwr with gated := d.pwr.gated ++ [t] } }
      if d.ops.isEmpty ∧ (List.range 384).all fun x => !d.tileReady x || d.pwr.gated.contains x then d.set R.PWR_STATE_PSTATE 1 else d

/-! ### Dusk and Night (R319, R320) -/

/-- Dusk starts at the boundary that starts DUSK_AT_BEAT, or at the next one; a swap past its AT_BEAT completes first. -/
def Dev.duskBoundary (d : Dev) : Dev :=
  let at_ := d.get R.PWR_CTL_DUSK_AT_BEAT
  let phase := d.get R.IMG_STATUS_SWAP_PHASE
  let st := d.get R.PWR_STATE_DEV_STATE
  if d.pwr.duskArmed && (st = 2 || st = 3) && (at_ = 0 || beatGe d.beatNow at_) && phase < 2 && d.img.activating.isNone then
    let d : Dev := { d with pwr := { d.pwr with duskArmed := false, duskDone := false } }
    let d := d.devTo 4
    let d := if phase = 1 then ((d.set R.IMG_SWAP_ARM 0).setPhase 0).raise1 R.IMG_ERR_SWAP_REJECT 0 else d
    if d.imageActive then d.drainPages else d
  else d

/-- DUSK_DRAIN_DONE: no operation runs, the deferred queue is empty and the commit state is IDLE; the contexts and frame entries
are written back, tile sites and Ethernet ports go OFF. -/
def execDuskDrainDone (s : State) : Host.Outcome State Fault Refusal :=
  run s fun d =>
    if d.get R.PWR_STATE_DEV_STATE = 4 ∧ !d.pwr.duskDone ∧ d.ops.isEmpty ∧ d.wgqUsed.isEmpty ∧ d.commitState = 0 then
      let d := d.residents.foldl (fun (d : Dev) e =>
        (d.spillAt e.1).elim d fun a => d.hbmWrite a (seqBytes e.1 e.2) fun _ => false) d
      let d := d.flushFrames
      let d := ((List.range 384).filter fun t => decide (d.get (R.TILE_STATUS_PWR t) ≠ 0)).foldl (fun (d : Dev) t => (d.disableUnit t).siteOff t) d
      let d := ([0, 1] : List Nat).foldl (fun (d : Dev) p =>
        if (d.get R.PWR_NIGHT_CFG_ETH_KEEP).testBit p ∨ d.get (R.ETH_PORT_STATUS_PWR p) = 0 then d
        else ((d.disableUnit (ethUnit p)).set (R.ETH_PORT_STATUS_STATE p) 0).unitOff (ethUnit p)) d
      { d with pwr := { d.pwr with duskDone := true, wave := [], rising := [], held := d.pwr.held.filter fun u => decide (384 ≤ u) } }
    else d

/-- A port that is UP has nothing queued that may still leave: one that drains takes nothing from its branch buffer (R135). -/
def Dev.portQuiet (d : Dev) (p : Nat) : Bool :=
  decide (d.link p ≠ 3) || ((d.port p).ctlq.isEmpty && (d.port p).txq.all fun q =>
    q.tree.isSome && decide (q.sent = 0) && decide (d.get (R.AGX_PORT_STATUS_PWR p) ≠ 1))

/-- A port that is UP enters NIGHT at width 1, and its round trip is measured from tick `t` (R152, Table 7.1). -/
def Dev.portNight (d : Dev) (t p : Nat) : Dev := if d.link p = 3 then ((d.mapLanes p 1).setLink p 7).probe p t else d

/-- NIGHT_ENTER: the ports that are UP enter NIGHT, HBM enters self-refresh. FENCED ends; a latched wake follows. The tick at which the
round trips are measured from is not told: a free value (log entry 113). -/
def execNightEnter (s : State) : Host.Outcome State Fault Refusal :=
  run s fun d =>
    if d.get R.PWR_STATE_DEV_STATE = 4 ∧ d.pwr.duskDone ∧ (List.range 36).all d.portQuiet then
      let (k, d) := d.draw
      let d := (List.range 36).foldl (fun (d : Dev) p => d.portNight (Config.freeWord k 0) p) { d with agx := { d.agx with fenced := false } }
      let d := (List.range 24).foldl (fun (d : Dev) n => if d.get (R.HBM_STATUS_STATE n) = 2 then d.set (R.HBM_STATUS_STATE n) 3 else d) d
      let d := (d.set R.PWR_STATE_PSTATE 2).set R.IMG_STATUS_IMAGE_STATE (if d.imageActive then 2 else 0)
      let d : Dev := { d with pwr := { d.pwr with duskDone := false } }
      let d := d.devTo 5
      if d.pwr.wakeHeld then d.wakeStart else d
    else d

/-- WAKE_DONE: the ports return to TRAIN, Ethernet ports with an enable power up, the image is applied again (R64). -/
def execWakeDone (s : State) : Host.Outcome State Fault Refusal :=
  run s fun d =>
    if d.get R.PWR_STATE_DEV_STATE = 6 ∧ d.powerSettled then
      let d := (List.range 36).foldl (fun (d : Dev) p => if d.link p = 7 then d.goDown p 1 else d) d
      let d := ([0, 1] : List Nat).foldl (fun (d : Dev) p => if d.flag (R.ETH_PORT_CTL_ENABLE p) then d.enableUnit (ethUnit p) else d) d
      if d.imageActive then (d.set R.IMG_STATUS_IMAGE_STATE 1).reapply.devTo 3 else d.devTo 2
    else d

end Sys2Proof.Machine
end

