-- ==== Sys2Proof/Machine/Eth.lean ====
section
/-!
DEFINITION. The Ethernet ports (R344–R346), the RoCEv2 engine (R347–R350) and the test port (R353). The layouts of
frames and of RoCEv2 packets, which the spec leaves to their standards, are those of log entry 19.
-/

namespace Sys2Proof.Machine

/-! ### Ports (R345) -/

/-- An Ethernet port carries frames. -/
def Dev.ethUp (d : Dev) (p : Nat) : Bool := d.get (R.ETH_PORT_STATUS_STATE p) = 2 && d.alive

/-- A port's state changes, with its event. -/
def Dev.ethTo (d : Dev) (p st : Nat) : Dev :=
  (d.set (R.ETH_PORT_STATUS_STATE p) st).event (R.ETH_PORT_STATUS_STATE p) p noArg noArg

/-- A store to ETH_PORT_CTL (R321, R345). LOOP changes in OFF, DOWN and TEST only. -/
def Dev.ethCtlWrite (d : Dev) (p v : Nat) : Dev :=
  let d := d.set (R.ETH_PORT_CTL_PRBS p) (bits v 5 4)
  let was := d.get (R.ETH_PORT_CTL_ENABLE p)
  let d := d.set (R.ETH_PORT_CTL_ENABLE p) (bits v 0 0)
  let d := if was = bits v 0 0 then d else if v.testBit 0 then d.enableUnit (ethUnit p) else d.disableUnit (ethUnit p)
  let st := d.get (R.ETH_PORT_STATUS_STATE p)
  let l := bits v 3 1
  if l = d.get (R.ETH_PORT_CTL_LOOP p) ∨ (st ≠ 0 ∧ st ≠ 3 ∧ st ≠ 4) then d
  else
    let d := d.set (R.ETH_PORT_CTL_LOOP p) l
    if l ≠ 0 then (if st = 4 then d else d.ethTo p 4)
    else if d.get (R.ETH_PORT_STATUS_PWR p) = 1 then d.ethTo p 1 else d.ethTo p 0

/-- ETH_LINK_UP: all four lanes have trained. -/
def execEthLinkUp (p : Nat) (s : State) : Host.Outcome State Fault Refusal :=
  run s fun d =>
    let st := d.get (R.ETH_PORT_STATUS_STATE p)
    if p < 2 ∧ (st = 1 ∨ st = 3) ∧ d.get (R.ETH_PORT_STATUS_PWR p) = 1 ∧ d.get (R.ETH_PORT_STATUS_LANES_GOOD p) = 15 ∧ d.alive then
      d.ethTo p 2
    else d

/-- ETH_LINK_DOWN: from UP with LINK_DOWN; a port whose lanes do not all train goes DOWN too (R345). -/
def execEthLinkDown (p : Nat) (s : State) : Host.Outcome State Fault Refusal :=
  run s fun d =>
    match d.get (R.ETH_PORT_STATUS_STATE p) with
    | 2 => (d.set (R.ETH_PORT_STATUS_STATE p) 3).raise1 (R.ETH_PORT_ERR_LINK_DOWN p) p
    | 1 => d.ethTo p 3
    | _ => d

/-- A VLAN is listed at a port (R344). -/
def Dev.vlanListed (d : Dev) (p vid : Nat) : Bool :=
  (List.range 16).any fun n => d.flag (R.ETH_PORT_VLAN_VALID p n) && decide (d.get (R.ETH_PORT_VLAN_VID p n) = vid)

/-! ### The PTP clocks (R346) -/

/-- A store to ETH_PTP_STEP: a signed step, applied once. -/
def Dev.ptpStepWrite (d : Dev) (p v : Nat) : Dev :=
  d.set (R.ETH_PTP_TIME_NS p) ((d.get (R.ETH_PTP_TIME_NS p) + v) % 2 ^ 64)

/-! ### Queue pairs and packets (R347, log entry 19) -/

def Dev.qp (d : Dev) (q : Nat) : QpUnit := stGet (fun _ => QpUnit.reset) d.eth.qps q
def Dev.setQp (d : Dev) (q : Nat) (u : QpUnit) : Dev := { d with eth := { d.eth with qps := stSet (fun _ => QpUnit.reset) d.eth.qps q u } }

def add24 (a n : Nat) : Nat := (a + n) % 2 ^ 24
def sub24 (a b : Nat) : Nat := (a % 2 ^ 24 + 2 ^ 24 - b % 2 ^ 24) % 2 ^ 24

/-- A big-endian field of a packet. -/
def beAt (m : List Byte) (o n : Nat) : Nat := leNat ((m.drop o).take n).reverse

/-- The path MTU. -/
def mtu : Nat := 4096

/-- PSNs of a message of `n` bytes. -/
def psnsOf (n : Nat) : Nat := max 1 (ceilDiv n mtu)

/-- A base transport header. -/
def bth (op pad ack qpn psn : Nat) : List Byte :=
  beBytes 1 op ++ beBytes 1 (pad * 16) ++ [0xFF, 0xFF, 0] ++ beBytes 3 qpn ++ beBytes 1 (ack * 128) ++ beBytes 3 psn

/-- A remote address header. -/
def reth (va key len : Nat) : List Byte := beBytes 8 va ++ beBytes 4 key ++ beBytes 4 len

/-- A payload padded to a multiple of 4 bytes. -/
def padded (bs : List Byte) : List Byte := bs ++ List.replicate ((4 - bs.length % 4) % 4) 0
def padOf (bs : List Byte) : Nat := (4 - bs.length % 4) % 4

def Dev.qpPort (d : Dev) (q : Nat) : Nat := d.get (R.ETH_QP_W0_PORT q)
def Dev.qpReady (d : Dev) (q : Nat) : Bool := decide (q < 256) && decide (d.get (R.ETH_QP_W0_STATE q) = 1)

/-- A packet leaves for the peer of a queue pair. -/
def Dev.qpEmit (d : Dev) (q : Nat) (pkt : List Byte) : Dev :=
  let p := d.qpPort q
  if !d.ethUp p then d else
  (d.emit (.udp p (d.get (R.ETH_QP_W3_DEST_MAC q)) (d.get (R.ETH_QP_W3_VLAN q))
    (d.get (R.ETH_QP_IP_DEST_IP q 0) * 2 ^ 64 + d.get (R.ETH_QP_IP_DEST_IP q 1)) 4791 pkt)).count (R.ETH_PORT_FRAMES_TX p) 1

/-! ### Completions (R348) -/

/-- A completion record goes to a queue. A full or disabled queue takes none (log entry 19). -/
def Dev.cqPut (d : Dev) (p cq user q opc status len imm : Nat) : Dev :=
  let size := 2 ^ (min (max (d.get (R.ETH_CQ_W0_SIZE_LOG2 cq)) 4) 16)
  let prod := d.get (R.ETH_CQ_W1_PROD cq)
  let held := sub32 prod (d.get (R.ETH_CQ_W1_CONS cq))
  if !d.flag (R.ETH_CQ_W0_ENABLE cq) ∨ size ≤ held then d
  else
    let d := (d.memWrite (36 + p) (d.get (R.ETH_CQ_W0_BASE cq) + 32 * (prod % size))
      (fields [(8, user), (2, q), (1, opc), (1, status), (4, len), (4, imm), (12, 0)]) fun _ => false).1
    let d := d.set (R.ETH_CQ_W1_PROD cq) ((prod + 1) % 2 ^ 32)
    if held ≠ 0 then d else
      let (cyc, d) := d.stamp
      d.ringPut (d.ringOf 13) fun n => d.recHeader 0x83 cq n d.beatNow ++
        fields [(1, 13), (3, 0), (4, cyc), (8, cq), (8, prod + 1), (24, 0)]

/-- A status is given to the work requests that a test picks, where they have none. -/
def QpUnit.finish (u : QpUnit) (st : Nat) (pick : Wqe → Bool) : QpUnit :=
  { u with sq := u.sq.map fun w => if w.done.isNone && pick w then { w with done := some st } else w }

/-- R347: a queue pair enters ERROR; its oldest unfinished request completes with `st`, the rest with QP_ERROR. -/
def Dev.qpFail (d : Dev) (q st : Nat) : Dev :=
  let u := d.qp q
  let first := (u.sq.findIdx? fun w => w.done.isNone).getD u.sq.length
  let sq := u.sq.zipIdx.map fun (w, i) => if w.done.isSome then w else { w with done := some (if i = first then st else 4) }
  let d := (d.setQp q { u with sq := sq }).set (R.ETH_QP_W0_STATE q) 2
  d.raise1 (R.ETH_PORT_ERR_QP_ERROR (d.qpPort q)) q

/-- A store to word 0 or word 3 of a queue pair has changed its STATE or its VLAN: READY begins a connection at RMAX
(R350); a VLAN that is not listed, or a store of ERROR, puts it in ERROR; RESET forgets its work. -/
def Dev.qpWritten (d : Dev) (q was : Nat) : Dev :=
  match d.get (R.ETH_QP_W0_STATE q) with
  | 0 => if was = 0 then d else d.setQp q QpUnit.reset
  | 1 =>
    let d := if was = 1 then d else
      let psn := d.get (R.ETH_QP_W0_INIT_PSN q)
      let u := { d.qp q with nextPsn := psn, ackPsn := psn, expPsn := d.get (R.ETH_QP_W5_PEER_PSN q), nakSent := false, msn := 0
                             retries := 0, rxGot := none, wr := none, cnp := false, clean := 0, rttMax := 0 }
      ((d.setQp q u).set (R.ETH_QP_W4_RATE_MBPS q) (d.get (R.ETH_QP_W4_RMAX_MBPS q))).set (R.ETH_QP_W7_BASE_RTT_NS q) 0
    if d.vlanListed (d.qpPort q) (d.get (R.ETH_QP_W3_VLAN q)) then d else d.qpFail q 4
  | 2 => if was = 2 then d else d.qpFail q 4
  | _ => d

/-! ### Sending (R347, R348) -/

/-- What a queue pair sends for a work request from PSN `psn` on, from byte `skip` of its message: the packets, or the
status with which it fails (R348, Table 14.3). -/
def Dev.wqePackets (d : Dev) (q : Nat) (w : Wqe) (psn skip : Nat) : Dev × Nat × List (List Byte) :=
  let ing := 36 + d.qpPort q
  let dq := d.get (R.ETH_QP_W0_DEST_QPN q)
  if w.opc = 5 then
    let bad : Bool := match d.locate w.laddr w.len with | .hbm _ => false | .cist _ _ => false | _ => true
    if bad = true ∧ 0 < w.len then (d.contained 4 ing w.laddr, 1, [])
    else (d, 0, [bth 0x0C 0 1 dq psn ++ reth (w.raddr + skip) w.rkey (w.len - skip)])
  else
    let (d, g) := if w.len = 0 then (d, some ⟨[], []⟩) else
      match d.locate w.laddr w.len with
      | .ctl _ => (d.contained 5 ing w.laddr, none)
      | _ => d.memRead ing w.laddr w.len
    match g with
    | none => (d, 1, [])
    | some g =>
      if g.anyPoison then (d.contained 4 ing w.laddr, 6, [])
      else
        let n := psnsOf w.len
        let imm := w.opc = 2 ∨ w.opc = 4
        let base : Nat := if w.opc ≤ 2 then 0 else 6
        let pkt (i : Nat) : List Byte :=
          let part := (g.bytes.drop (mtu * i)).take mtu
          let last := decide (i + 1 = n)
          let op := base + (if n = 1 then (if imm then 5 else 4) else if i = 0 then 0 else if !last then 1 else if imm then 3 else 2)
          bth op (padOf part) (b2n last) dq (add24 psn (i - skip / mtu)) ++
            (if base = 6 ∧ i = 0 then reth w.raddr w.rkey w.len else []) ++ (if imm ∧ last then beBytes 4 w.imm else []) ++ padded part
        (d, 0, ((List.range n).drop (skip / mtu)).map pkt)

/-- The local bytes of a work request lie in a cistern window whose accesses wait now (R62, R63). -/
def Dev.wqeWaits (d : Dev) (w : Wqe) : Bool := decide (0 < w.len) && d.windowWaits w.laddr w.len

/-- The oldest work request of a queue pair that has not begun begins, where it is of an operation code, the queue pair
may send, its fence is passed, fewer than 16 READs are outstanding (R347) and its local bytes are not held back (R62, R63). -/
def Dev.wqeStart (d : Dev) (q opc : Nat) : Dev :=
  let u := d.qp q
  match u.sq.findIdx? fun w => w.psn.isNone && w.done.isNone with
  | none => d
  | some i =>
    match u.sq[i]? with
    | none => d
    | some w =>
      let reads := (u.sq.take i).countP fun (x : Wqe) => x.opc = 5 && x.done.isNone
      if w.opc ≠ opc ∨ !d.qpReady q ∨ !d.ethUp (d.qpPort q) ∨ (w.flags.testBit 1 ∧ reads ≠ 0) ∨ (opc = 5 ∧ 16 ≤ reads) ∨ d.wqeWaits w then d
      else
        let (d, st, pkts) := d.wqePackets q w u.nextPsn 0
        let n := psnsOf w.len
        if st ≠ 0 then d.setQp q { u with sq := u.sq.set i { w with done := some st } }
        else
          let d := d.setQp q { u with sq := u.sq.set i { w with psn := some (u.nextPsn, n) }, nextPsn := add24 u.nextPsn n }
          pkts.foldl (fun (d : Dev) b => d.qpEmit q b) d

def execSend (i : Nat) (s : State) : Host.Outcome State Fault Refusal := run s fun d => d.wqeStart i 1
def execSendImm (i : Nat) (s : State) : Host.Outcome State Fault Refusal := run s fun d => d.wqeStart i 2
def execRdmaWrite (i : Nat) (s : State) : Host.Outcome State Fault Refusal := run s fun d => d.wqeStart i 3
def execWriteImm (i : Nat) (s : State) : Host.Outcome State Fault Refusal := run s fun d => d.wqeStart i 4
def execRdmaRead (i : Nat) (s : State) : Host.Outcome State Fault Refusal := run s fun d => d.wqeStart i 5

/-- Go-back-N: everything from the oldest unacknowledged PSN on is sent again, but what waits for its window (R62, R63): the next
go-back sends that. -/
def Dev.goBack (d : Dev) (q : Nat) : Dev :=
  let u := d.qp q
  u.sq.foldl (fun (d : Dev) w =>
    match w.psn with
    | some (f, n) =>
      let done := sub24 u.ackPsn f
      let skip := if done < 2 ^ 23 then done else 0
      if w.done.isSome ∨ n ≤ skip ∨ d.wqeWaits w then d
      else
        let (d, st, pkts) := d.wqePackets q w (add24 f skip) (mtu * skip)
        if st ≠ 0 then d.setQp q ((d.qp q).finish st fun x => x.psn = w.psn)
        else (pkts.foldl (fun (d : Dev) b => d.qpEmit q b) d).count (R.ETH_PORT_ROCE_RETRANS (d.qpPort q)) pkts.length
    | none => d) d

/-- A retransmission is due: the next try, or the queue pair fails with `st` after RETRY_MAX of them. -/
def Dev.retry (d : Dev) (q st : Nat) : Dev :=
  let u := d.qp q
  if d.get (R.ETH_QP_W6_RETRY_MAX q) ≤ u.retries then d.qpFail q st
  else (d.setQp q { u with retries := u.retries + 1 }).goBack q

/-- ROCE_RETRANSMIT_TIMEOUT: TIMEOUT_US without an acknowledgement. -/
def execRoceRetransmitTimeout (q : Nat) (s : State) : Host.Outcome State Fault Refusal :=
  run s fun d => if d.qpReady q ∧ (d.qp q).ackPsn ≠ (d.qp q).nextPsn ∧ d.alive then d.retry q 3 else d

/-! ### Receiving (R347) -/

/-- The memory region that an RKEY names, where it allows the access within BASE and length. -/
def Dev.regionKey (d : Dev) (key va len : Nat) (write : Bool) : Bool :=
  match (List.range 1024).find? fun n => d.flag (R.ETH_MR_W0_VALID n) && decide (d.get (R.ETH_MR_W1_RKEY n) = key) with
  | none => false
  | some n =>
    let b := d.get (R.ETH_MR_W0_BASE n)
    d.flag (if write then R.ETH_MR_W0_REMOTE_WRITE n else R.ETH_MR_W0_REMOTE_READ n) && decide (b ≤ va) &&
      decide (va + len ≤ b + 4096 * d.get (R.ETH_MR_W1_LEN_4K n))

/-- An acknowledgement with a syndrome: 0x1F ACK, 0x20 RNR, 0x60 sequence, 0x61 invalid request, 0x62 remote access,
0x63 remote operation. -/
def Dev.aeth (d : Dev) (q syn psn : Nat) : Dev :=
  d.qpEmit q (bth 0x11 0 0 (d.get (R.ETH_QP_W0_DEST_QPN q)) psn ++ beBytes 1 syn ++ beBytes 3 (d.qp q).msn)

/-- A request packet has been carried out: the expected PSN moves by `n`, and the sender hears of it where it asked. -/
def Dev.rxDone (d : Dev) (q n : Nat) (last ack : Bool) : Dev :=
  let u := d.qp q
  let d := d.setQp q { u with expPsn := add24 u.expPsn n, nakSent := false, msn := add24 u.msn (b2n last) }
  if ack then d.aeth q 0x1F u.expPsn else d

/-- A receive completion: its USER value is a free value, since the spec gives it none (log entry 19). -/
def Dev.rxComplete (d : Dev) (q opc len imm : Nat) : Dev :=
  let (k, d) := d.draw
  d.cqPut (d.qpPort q) (d.get (R.ETH_QP_W0_CQ q)) (Config.freeWord k 0 % 2 ^ 64) q opc 0 len imm

/-- A SEND packet: the next 4 KiB buffer of the receive ring takes it; `free` says that one is free. -/
def Dev.rxSend (d : Dev) (q op : Nat) (m : List Byte) (pay : List Byte) (free ack : Bool) : Dev :=
  let u := d.qp q
  let begins := decide (op = 0 ∨ 4 ≤ op)
  let ends := decide (2 ≤ op)
  if begins ≠ u.rxGot.isNone ∨ u.wr.isSome then d.aeth q 0x61 u.expPsn
  else if !free ∨ d.get (R.ETH_QP_W6_RX_BUFS q) = 0 then d.aeth q 0x20 u.expPsn
  else
    let slot := u.rxNext % d.get (R.ETH_QP_W6_RX_BUFS q)
    let (d, ok) := if pay.isEmpty then (d, true)
      else d.memWrite (36 + d.qpPort q) (4096 * (d.get (R.ETH_QP_W5_RX_BASE_4K q) + slot)) pay fun _ => false
    if !ok then d.aeth q 0x63 u.expPsn
    else
      let got := u.rxGot.getD 0 + pay.length
      let d := d.setQp q { d.qp q with rxNext := u.rxNext + 1, rxGot := if ends then none else some got }
      let imm := decide (op = 3 ∨ op = 5)
      let d := d.rxDone q 1 ends ack
      if ends then d.rxComplete q (if imm then 2 else 1) got (if imm then beAt m 12 4 else 0) else d

/-- An RDMA WRITE packet. -/
def Dev.rxWrite (d : Dev) (q op : Nat) (m : List Byte) (pay : List Byte) (ack : Bool) : Dev :=
  let u := d.qp q
  let begins := decide (op = 6 ∨ 0x0A ≤ op)
  let ends := decide (8 ≤ op)
  let imm := decide (op = 9 ∨ op = 0x0B)
  let cur : Option (Nat × Nat × Nat) := if begins then some (beAt m 12 8, beAt m 24 4, beAt m 24 4) else u.wr
  match cur with
  | none => d.aeth q 0x61 u.expPsn
  | some (off, left, total) =>
    if (begins && (u.wr.isSome || u.rxGot.isSome)) ∨ left < pay.length ∨ (ends && decide (left ≠ pay.length)) then d.aeth q 0x61 u.expPsn
    else if begins && decide (0 < total) && !d.regionKey (beAt m 20 4) off total true then d.aeth q 0x62 u.expPsn
    else
      let (d, ok) := if pay.isEmpty then (d, true) else d.memWrite (36 + d.qpPort q) off pay fun _ => false
      if !ok then d.aeth q 0x62 u.expPsn
      else
        let d := d.setQp q { d.qp q with wr := if ends then none else some (off + pay.length, left - pay.length, total) }
        let d := d.rxDone q 1 ends ack
        if ends && imm then d.rxComplete q 4 total (beAt m (if begins then 28 else 12) 4) else d

/-- An RDMA READ request: its data goes back, first PSN `psn`; a repeated request moves nothing. -/
def Dev.rxRead (d : Dev) (q psn : Nat) (m : List Byte) (again : Bool) : Dev :=
  let va := beAt m 12 8
  let len := beAt m 24 4
  let ing := 36 + d.qpPort q
  if 0 < len ∧ !d.regionKey (beAt m 20 4) va len false then d.aeth q 0x62 psn
  else
    let (d, g) := if len = 0 then (d, some ⟨[], []⟩) else d.memRead ing va len
    match g with
    | none => d.aeth q 0x62 psn
    | some g =>
      if g.anyPoison then (d.contained 4 ing va).aeth q 0x63 psn
      else
        let n := psnsOf len
        let d := if again then d else d.rxDone q n true false
        (List.range n).foldl (fun (d : Dev) i =>
          let part := (g.bytes.drop (mtu * i)).take mtu
          let op := if n = 1 then 0x10 else if i = 0 then 0x0D else if i + 1 = n then 0x0F else 0x0E
          d.qpEmit q (bth op (padOf part) 0 (d.get (R.ETH_QP_W0_DEST_QPN q)) (add24 psn i) ++
            (if op = 0x0E then [] else beBytes 1 0x1F ++ beBytes 3 (d.qp q).msn) ++ padded part)) d

/-- Everything before PSN `psn` has been acknowledged. -/
def Dev.ackTo (d : Dev) (q psn : Nat) : Dev :=
  let u := d.qp q
  let step := sub24 psn u.ackPsn
  if step = 0 ∨ 2 ^ 23 ≤ step ∨ sub24 u.nextPsn u.ackPsn < step then d
  else
    let u := u.finish 0 fun w => w.opc ≠ 5 && w.psn.any fun (f, n) => decide (sub24 (add24 f n) u.ackPsn ≤ step) && decide (0 < sub24 (add24 f n) u.ackPsn)
    d.setQp q { u with ackPsn := psn, retries := 0 }

/-- An RTT sample, in ns (R350). -/
def Dev.rttSample (d : Dev) (q rtt : Nat) : Dev :=
  let base := d.get (R.ETH_QP_W7_BASE_RTT_NS q)
  let d := d.set (R.ETH_QP_W7_BASE_RTT_NS q) (if base = 0 then min rtt (2 ^ 32 - 1) else min base rtt)
  d.setQp q { d.qp q with rttMax := max (d.qp q).rttMax rtt }

/-- An acknowledgement arrives. -/
def Dev.rxAck (d : Dev) (q psn syn rtt : Nat) : Dev :=
  if syn < 0x20 then (d.ackTo q (add24 psn 1)).rttSample q rtt
  else
    let d := d.ackTo q psn
    if syn < 0x40 then d.retry q 5
    else if syn = 0x60 then d.goBack q
    else d.qpFail q (if syn = 0x62 then 2 else 4)

/-- A READ response arrives: its bytes go to memory where they are the next of the oldest READ outstanding. -/
def Dev.rxReadData (d : Dev) (q psn rtt : Nat) (pay : List Byte) : Dev :=
  let u := d.qp q
  match u.sq.findIdx? fun w => w.opc = 5 && w.psn.isSome && w.done.isNone with
  | none => d
  | some i =>
    match u.sq[i]? with
    | none => d
    | some w =>
      let (f, _) := w.psn.getD (0, 0)
      if add24 f (w.got / mtu) ≠ psn ∨ w.len < w.got + pay.length then d
      else
        let (d, ok) := if pay.isEmpty then (d, true) else d.memWrite (36 + d.qpPort q) (w.laddr + w.got) pay fun _ => false
        let got := w.got + pay.length
        let w := { w with got := got, done := if !ok then some 1 else if w.len ≤ got then some 0 else none }
        let d := d.setQp q { d.qp q with sq := (d.qp q).sq.set i w }
        (d.ackTo q (add24 psn 1)).rttSample q rtt

/-- The payload of a packet after its headers, without its padding. -/
def payload (m : List Byte) (skip : Nat) : List Byte :=
  let b := m.drop skip
  b.take (b.length - bits (beAt m 1 1) 5 4)

/-- Where the payload of a packet begins, by its operation. -/
def rocePay (op : Nat) : Nat :=
  if op ≤ 5 then (if op = 3 ∨ op = 5 then 16 else 12)
  else if op ≤ 0x0B then 12 + (if op = 6 ∨ 0x0A ≤ op then 16 else 0) + (if op = 9 ∨ op = 0x0B then 4 else 0)
  else if op = 0x0E then 12 else 16

/-- A request or response of a queue pair that is READY. -/
def Dev.roceIn (d : Dev) (q : Nat) (m : List Byte) (free : Bool) (rtt : Nat) : Dev :=
  let op := beAt m 0 1
  let psn := beAt m 9 3
  let ack := 128 ≤ beAt m 8 1
  let u := d.qp q
  let late := sub24 psn u.expPsn
  if op = 0x11 then d.rxAck q psn (beAt m 12 1) rtt
  else if 0x0D ≤ op ∧ op ≤ 0x10 then d.rxReadData q psn rtt (payload m (rocePay op))
  else if late ≠ 0 ∧ late < 2 ^ 23 then
    (if u.nakSent then d else (d.setQp q { u with nakSent := true }).aeth q 0x60 u.expPsn)
  else if late ≠ 0 then
    (if op = 0x0C then d.rxRead q psn m true else d.aeth q 0x1F (sub24 u.expPsn 1))
  else if op ≤ 5 then d.rxSend q op m (payload m (rocePay op)) free ack
  else if op ≤ 0x0B then d.rxWrite q op m (payload m (rocePay op)) ack
  else if op = 0x0C then d.rxRead q psn m false
  else d.aeth q 0x61 psn

/-- The place in memory that a packet reads or writes, with its length. -/
def Dev.rocePlace (d : Dev) (q : Nat) (m : List Byte) : Nat × Nat :=
  let op := beAt m 0 1
  let u := d.qp q
  let n := (payload m (rocePay op)).length
  if op ≤ 5 then (4096 * (d.get (R.ETH_QP_W5_RX_BASE_4K q) + u.rxNext % max 1 (d.get (R.ETH_QP_W6_RX_BUFS q))), n)
  else if op = 6 ∨ op = 0x0A ∨ op = 0x0B then (beAt m 12 8, n)
  else if op ≤ 9 then (u.wr.elim 0 (·.1), n)
  else if op = 0x0C then (beAt m 12 8, beAt m 24 4)
  else if op ≤ 0x10 then ((u.sq.find? fun w => w.opc = 5 && w.psn.isSome && w.done.isNone).elim 0 fun w => w.laddr + w.got, n)
  else (0, 0)

/-- A packet's access waits for a cistern window (R62, R63). -/
def Dev.roceWaits (d : Dev) (q : Nat) (m : List Byte) : Bool := let (a, n) := d.rocePlace q m; decide (0 < n) && d.windowWaits a n

/-- Packet k of those that have arrived is taken. -/
def Dev.ethTake (d : Dev) (k : Nat) : Dev := { d with eth := { d.eth with inbox := d.eth.inbox.eraseIdx k } }

/-- ROCE_PACKET; it waits where its access does. `free` says that a receive buffer is free, `gap` that CNP_GAP_NS has passed since the queue pair's last CNP;
`rtt` is the round trip of an acknowledgement, in ns. -/
def execRocePacket (k : Nat) (free gap : Bool) (rtt : Nat) (s : State) : Host.Outcome State Fault Refusal :=
  run s fun d =>
    match d.eth.inbox[k]? with
    | none => d
    | some (p, m, ce) =>
      let q := beAt m 5 3
      if beAt m 0 1 = 0x81 ∨ !d.alive ∨ d.roceWaits q m then d
      else
        let d := d.ethTake k
        if !d.qpReady q ∨ d.qpPort q ≠ p ∨ m.length < 12 then d
        else
          let d := if ce && gap then
              (d.qpEmit q (bth 0x81 0 0 (d.get (R.ETH_QP_W0_DEST_QPN q)) 0 ++ List.replicate 16 0)).count (R.ETH_PORT_ECN_CNP_TX p) 1
            else d
          d.roceIn q m free rtt

/-! ### Congestion (R350) -/

/-- CNP: packet k of those that have arrived is a CNP. -/
def execCnp (k : Nat) (s : State) : Host.Outcome State Fault Refusal :=
  run s fun d =>
    match d.eth.inbox[k]? with
    | none => d
    | some (p, m, _) =>
      let q := beAt m 5 3
      if beAt m 0 1 ≠ 0x81 ∨ !d.alive then d
      else
        let d := (d.ethTake k).count (R.ETH_PORT_ROCE_CNP_RX p) 1
        if d.qpReady q then d.setQp q { d.qp q with cnp := true } else d

/-- The rate and the clean count of a queue pair after an interval: r, c, base RTT, the parameters, CNP and largest RTT. -/
def ccRate (r c base rmin rmax step shift th : Nat) (cnp : Bool) (rtt : Nat) : Nat × Nat :=
  if cnp then (max rmin (r - r >>> shift), 0)
  else if base + th < rtt then (max rmin (r - r >>> (shift + 2)), 0)
  else (min rmax (r + step * min (c + 1) 8), min (c + 1) 8)

/-- CC_INTERVAL. -/
def execCcInterval (s : State) : Host.Outcome State Fault Refusal :=
  run s fun d => (List.range 256).foldl (fun (d : Dev) q =>
    if !d.qpReady q then d
    else
      let u := d.qp q
      let (r, c) := ccRate (d.get (R.ETH_QP_W4_RATE_MBPS q)) u.clean (d.get (R.ETH_QP_W7_BASE_RTT_NS q)) (d.get R.ETH_CC2_RMIN_MBPS)
        (d.get (R.ETH_QP_W4_RMAX_MBPS q)) (d.get R.ETH_CC2_STEP_MBPS) (d.get R.ETH_CC_BETA_SHIFT) (d.get R.ETH_CC_DELAY_TH_NS) u.cnp u.rttMax
      (d.set (R.ETH_QP_W4_RATE_MBPS q) r).setQp q { u with cnp := false, clean := c, rttMax := 0 }) d

/-- BASE_RTT_RESET: 0 stands for no sample yet. -/
def execBaseRttReset (s : State) : Host.Outcome State Fault Refusal :=
  run s fun d => (List.range 256).foldl (fun (d : Dev) q => d.set (R.ETH_QP_W7_BASE_RTT_NS q) 0) d

/-! ### Work requests (R348, R349) -/

/-- A work request from its 64 bytes (Table 16.8), and its queue pair. -/
def wqeOf (b : List Byte) : Nat × Wqe :=
  (recNat b 2 2, { opc := recNat b 0 1, flags := recNat b 1 1, imm := recNat b 4 4, laddr := recNat b 8 8 % 2 ^ 45, len := recNat b 0x10 4
                   rkey := recNat b 0x14 4, raddr := recNat b 0x18 8, sig := recNat b 0x20 2, cq := recNat b 0x22 1 % 16
                   user := recNat b 0x28 8, psn := none, got := 0, done := none })

/-- The request at a local offset joins its queue pair; false where it must wait because the queue pair is full. A
request of an unknown operation completes with a free status; one that names no queue pair has no effect (log entry 19). -/
def Dev.takeWork (d : Dev) (p off : Nat) : Dev × Bool :=
  match d.memRead (36 + p) off 64 with
  | (d, none) => (d, false)
  | (d, some g) =>
    let (q, w) := wqeOf g.bytes
    if 256 ≤ q then (d, true)
    else if 1024 ≤ (d.qp q).sq.length then (d, false)
    else
      let (k, d) := d.draw
      let done : Option Nat := if g.anyPoison then some 6 else if d.get (R.ETH_QP_W0_STATE q) = 2 then some 4
        else if w.opc = 0 ∨ 5 < w.opc then some (Config.freeWord k 0 % 256) else none
      let d := if g.anyPoison then d.contained 4 (36 + p) off else d
      let u := d.qp q
      (d.setQp q { u with sq := u.sq ++ [{ w with done := done }] }, true)

/-- XFER_RELEASE: a token on list n's channel releases the list's next request. -/
def execXferRelease (n : Nat) (s : State) : Host.Outcome State Fault Refusal :=
  run s fun d =>
    let p := d.get (R.ETH_XFER_W0_PORT n)
    let c := d.get (R.ETH_XFER_W1_CHANNEL n)
    let cnt := d.get (R.ETH_XFER_W1_COUNT n)
    if 32 ≤ n ∨ !d.flag (R.ETH_XFER_W0_ENABLE n) ∨ cnt = 0 ∨ d.tokens c = 0 ∨ chanKind (d.chan c) ≠ 0 ∨
      chanConsumer (d.chan c) ≠ 0x7000 + p ∨ !d.alive then d
    else
      let i := d.get (R.ETH_XFER_W2_ISSUED n)
      let (d, ok) := d.takeWork p (d.get (R.ETH_XFER_W0_BASE n) + 64 * (i % cnt))
      if ok then (d.takeTokens c 1).set (R.ETH_XFER_W2_ISSUED n) ((i + 1) % 2 ^ 32) else d

/-- Post list n issues its requests up to the producer count, as far as its queue pairs take them. -/
def Dev.postList (d : Dev) (n : Nat) : Nat → Dev
  | 0 => d
  | fuel + 1 =>
    let cons := d.get (R.ETH_POST_W2_CONS n)
    if cons = stGet (fun _ => 0) d.eth.postTo n then d
    else
      let size := 2 ^ (min (max (d.get (R.ETH_POST_W0_SIZE_LOG2 n)) 4) 16)
      let (d, ok) := d.takeWork (d.get (R.ETH_POST_W0_PORT n)) (d.get (R.ETH_POST_W0_BASE n) + 64 * (cons % size))
      if ok then (d.set (R.ETH_POST_W2_CONS n) ((cons + 1) % 2 ^ 32)).postList n fuel else d

/-- The post lists in use, in ascending index. -/
def Dev.postLists (d : Dev) : Dev :=
  (List.range 32).foldl (fun (d : Dev) n =>
    if d.flag (R.ETH_POST_W0_ENABLE n) then d.postList n (sub32 (stGet (fun _ => 0) d.eth.postTo n) (d.get (R.ETH_POST_W2_CONS n))) else d) d

/-- R349: at a boundary the engine reads each producer count and issues what it covers. -/
def Dev.ethBoundary (d : Dev) : Dev :=
  let d := (List.range 32).foldl (fun (d : Dev) n =>
    if !d.flag (R.ETH_POST_W0_ENABLE n) then d
    else match d.memRead (36 + d.get (R.ETH_POST_W0_PORT n)) (d.get (R.ETH_POST_W1_PROD_ADDR n)) 8 with
      | (d, some g) => { d with eth := { d.eth with postTo := stSet (fun _ => 0) d.eth.postTo n (leNat g.bytes % 2 ^ 32) } }
      | (d, none) => d) d
  d.postLists

/-- WR_COMPLETE: the oldest work request of queue pair i is done; its record is written and its signal posted. -/
def execWrComplete (i : Nat) (s : State) : Host.Outcome State Fault Refusal :=
  run s fun d =>
    let u := d.qp i
    match u.sq with
    | ({ done := some st, .. } : Wqe) :: _ =>
      if !d.alive then d else
      match u.sq.head? with
      | none => d
      | some w =>
        let d := d.setQp i { u with sq := u.sq.tail }
        let d := if w.flags.testBit 0 then d.cqPut (d.qpPort i) w.cq w.user i w.opc st w.len w.imm else d
        (d.postSig w.sig).postLists
    | _ => d

/-! ### Received frames (R344, R345) -/

/-- A UDP datagram of a frame: source and destination port, payload, source address and ECN, from the bytes after the
EtherType. -/
def udpOf (ety : Nat) (b : List Byte) : Option (Nat × Nat × List Byte × Nat × Nat) :=
  let parts (o src ecn : Nat) : Option (Nat × Nat × List Byte × Nat × Nat) :=
    some (beAt b o 2, beAt b (o + 2) 2, (b.drop (o + 8)).take (beAt b (o + 4) 2 - 8), src, ecn)
  if ety = 0x0800 then (if beAt b 9 1 = 17 then parts (4 * (beAt b 0 1 % 16)) (beAt b 12 4) (beAt b 1 1 % 4) else none)
  else if ety = 0x86DD then (if beAt b 6 1 = 17 then parts 40 (beAt b 8 16) (bits (beAt b 1 1) 5 4) else none)
  else none

/-- A frame goes to the next 10 KiB buffer of the port's raw receive ring (a full ring discards and counts it), and a PTP frame's timestamp, a free value, to
the buffer's last 8 bytes (log entry 19). -/
def Dev.rawRx (d : Dev) (p : Nat) (f : List Byte) (ptp full : Bool) : Dev :=
  if !d.flag (R.ETH_RAW_RX_ENABLE p) then d
  else if full then { d with eth := { d.eth with rawDrops := stSet (fun _ => 0) d.eth.rawDrops p (stGet (fun _ => 0) d.eth.rawDrops p + 1) } }
  else
    let n := stGet (fun _ => 0) d.eth.rawNext p
    let size := 2 ^ (min (max (d.get (R.ETH_RAW_RX_SIZE_LOG2 p)) 4) 12)
    let b := d.get (R.ETH_RAW_RX_BASE p) + 10240 * (n % size)
    let d := (d.memWrite (36 + p) b (f.take 10232) fun _ => false).1
    let (k, d) := d.draw
    let d := if ptp then (d.memWrite (36 + p) (b + 10232) (leBytes 8 (Config.freeWord k 0)) fun _ => false).1 else d
    { d with eth := { d.eth with rawNext := stSet (fun _ => 0) d.eth.rawNext p (n + 1) } }

/-- R343: an attestation request in UDP: its first byte is the code, and the reply goes back to its sender. -/
def attRequest (o : Otp) (d : Dev) (p mac vlan ip port : Nat) (m : List Byte) : Dev :=
  let was := d.out.length
  let d := match beAt m 0 1 with
    | 1 => getCert o d m.tail
    | 2 => d.getReport m.tail
    | 3 => d.getChunk m.tail
    | _ => d.attRequest.reply (leBytes 1 2)
  { d with out := d.out.zipIdx.map fun (x, i) => match x with
    | .i3c b => if was ≤ i then .udp p mac vlan ip port b else x
    | x => x }

/-- ETH_FRAME: a frame arrives on port p: destination MAC, source MAC, perhaps a VLAN tag, EtherType, payload; `full` says
that the raw ring is full. A frame on a VLAN that is not listed, or untagged where ID 0 is not, is discarded and counted (Table 16.3,
R344), and so is one for another MAC (R25; log entry 72). -/
def ethFrameIn (o : Otp) (d : Dev) (p : Nat) (f : List Byte) (full : Bool) : Dev :=
  let dst := beAt f 0 6
  let src := beAt f 6 6
  let tag := beAt f 12 2 = 0x8100
  let vid := if tag then beAt f 14 2 % 4096 else 0
  if 2 ≤ p ∨ !d.ethUp p ∨ f.length < 14 then d
  else
    let d := d.count (R.ETH_PORT_FRAMES_RX p) 1
    if !d.vlanListed p vid then (d.count (R.ETH_PORT_LIMIT_VLAN_DROP p) 1).raise1 (R.ETH_PORT_ERR_LIMIT_VLAN p) vid
    else if dst ≠ d.get (R.ETH_PORT_MAC_MAC p) ∧ !(dst / 2 ^ 40).testBit 0 then
      (d.count (R.ETH_PORT_LIMIT_MAC_DROP p) 1).raise1 (R.ETH_PORT_ERR_LIMIT_MAC p) p
    else
      let ety := beAt f (if tag then 16 else 12) 2
      match udpOf ety (f.drop (if tag then 18 else 14)) with
      | none => d.rawRx p f (ety = 0x88F7) full
      | some (sp, dp, m, ip, ecn) =>
        if dp = 4791 then
          let d := if ecn = 3 then d.count (R.ETH_PORT_ECN_CE_RX p) 1 else d
          { d with eth := { d.eth with inbox := d.eth.inbox ++ [(p, m.take (m.length - 4), decide (ecn = 3))] } }
        else if dp = 319 ∨ dp = 320 then d.rawRx p f true full
        else if dp = d.trust.attPort ∧ dp ≠ 0 then attRequest o d p src vid ip sp m
        else d.rawRx p f false full

def execEthFrame (p : Nat) (f : List Byte) (full : Bool) (s : State) : Host.Outcome State Fault Refusal :=
  .next { s with dev := ethFrameIn s.otp { s.dev with out := [] } p f full }

/-! ### The test port (R353) -/

/-- An instruction of the boundary-scan chain: `d` goes into the cells, what they held or sampled comes out (a free value),
and `drive` says what drives the pins. -/
def Dev.scanCells (dv : Dev) (d drive : Nat) : Dev :=
  let (k, dv) := dv.draw
  { dv with jtag := ⟨d, drive⟩, out := dv.out ++ [.tdo (Config.freeWord k 0)] }

/-- BYPASS: one register bit, which captures 0, lies between input and output. -/
def Dev.bypassScan (dv : Dev) (d : Nat) : Dev := ({ dv with jtag := { dv.jtag with drive := 0 } }).emit (.tdo (2 * d))

/-- A private instruction while TEST_ENABLE = 0 acts as BYPASS. -/
def Dev.jtagDenied (dv : Dev) (d : Nat) : Dev := (dv.bypassScan d).raise1 R.SEC_ERR_JTAG_DENIED 0

def execBypass (d : Nat) (s : State) : Host.Outcome State Fault Refusal := run s fun dv => dv.bypassScan d
def execIdcode (s : State) : Host.Outcome State Fault Refusal :=
  run s fun dv => ({ dv with jtag := { dv.jtag with drive := 0 } }).emit (.tdo (dv.get R.SEC_JTAG_IDCODE))
def execSamplePreload (d : Nat) (s : State) : Host.Outcome State Fault Refusal := run s fun dv => dv.scanCells d 0
def execExtest (d : Nat) (s : State) : Host.Outcome State Fault Refusal := run s fun dv => dv.scanCells d 1
def execExtestPulse (d : Nat) (s : State) : Host.Outcome State Fault Refusal := run s fun dv => dv.scanCells d 2
def execExtestTrain (d : Nat) (s : State) : Host.Outcome State Fault Refusal := run s fun dv => dv.scanCells d 3

def execScanDebug (d : Nat) (s : State) : Host.Outcome State Fault Refusal :=
  if s.dev.testEnable then .refused .testPort else run s fun dv => dv.jtagDenied d
def execCoreDebug (d : Nat) (s : State) : Host.Outcome State Fault Refusal :=
  if s.dev.testEnable then .refused .testPort else run s fun dv => dv.jtagDenied d
def execIeee1500Access (_n d : Nat) (s : State) : Host.Outcome State Fault Refusal :=
  if s.dev.testEnable then .refused .testPort else run s fun dv => dv.jtagDenied d

end Sys2Proof.Machine
end

