-- ==== Sys2Proof/Machine/Boundary.lean ====
section
/-!
DEFINITION. The beat boundary: the order of Table 2.3 (R41), latching (R358), staged settings (R16), page swaps (R35), the
version record (R170), the telemetry records of a beat (R361–R365).
-/

namespace Sys2Proof.Machine

/-! ### Latching and staging -/

/-- The bits of a word that a boundary latches (R358): of a lane's word its two counts only (R155). -/
def latchMask (row : RegRow) : Nat := if row.off = R.AGX_PORT_LANE 0 0 then 2 ^ 48 - 1 else 2 ^ 64 - 1

/-- The bits that a boundary latches of a register. -/
def latchOf (o : Nat) : Nat := (findRow o).elim 0 fun r => if r.1.latched then latchMask r.1 else 0

/-- R358: every latched counter shows the value of the beat that ends, and starts again at 0. -/
def Dev.latch (d : Dev) (k : Nat) : Dev :=
  let d := (d.regs.map (·.1)).foldl (fun (d : Dev) o =>
    let m := latchOf o
    if m = 0 then d else d.setWord o (BitVec.ofNat 64 ((d.reg o).toNat - ((d.reg o).toNat &&& m)))) d
  let d := d.acc.foldl (fun (d : Dev) e =>
    let m := latchOf e.1
    d.setWord e.1 (BitVec.ofNat 64 ((d.reg e.1).toNat - ((d.reg e.1).toNat &&& m) + (e.2.toNat &&& m)))) d
  ({ d with acc := [] }).set R.TEL_LATCH_BEAT k

/-- R16: what stands in the staged registers takes effect. -/
def Dev.stagedApply (d : Dev) : Dev := { d with eff := d.regs.filter fun e => (findRow e.1).any fun r => r.1.staged }

/-- The sum of a latched field over its instances, from the counter words of a beat; `p` picks instances by index. -/
def tally (acc : List (Nat × W64)) (f : Fld) (p : List Nat → Bool) : Nat :=
  match findRow f.reg with
  | none => 0
  | some (row, _) => acc.foldl (fun x e => if (rowMatch row e.1).any p then x + bits e.2.toNat f.hi f.lo else x) 0

/-! ### Telemetry records (R361–R365) -/

/-- Record fields, each held at its largest value where the number is larger (log entry 33). -/
def fieldsMax (l : List (Nat × Nat)) : List Byte := fields (l.map fun x => (x.1, min x.2 (256 ^ x.1 - 1)))

/-- The tile has power. -/
def Dev.tilePowered (d : Dev) (t : Nat) : Bool := d.get (R.TILE_STATUS_PWR t) ≠ 0

/-- The TILE_STALL_n of a beat over the tiles that `p` picks. -/
def stallSums (acc : List (Nat × W64)) (p : Nat → Bool) : List Nat :=
  (List.range 11).map fun n => tally acc (R.TILE_STALL_CYCLES 0 0) fun ix => ix.getD 1 0 = n && p (ix.headD 0)

/-- Tiles with any stall cycle in a beat. -/
def stalledTiles (acc : List (Nat × W64)) (p : Nat → Bool) : Nat :=
  match findRow (R.TILE_STALL_CYCLES 0 0).reg with
  | none => 0
  | some (row, _) => (acc.filterMap fun e => (rowMatch row e.1).bind fun ix =>
      if p (ix.headD 0) ∧ e.2 ≠ 0 then some (ix.headD 0) else none).eraseDups.length

/-- R365: the tiles sampled in this beat, and where the sampler goes on. -/
def Dev.sampled (d : Dev) : List Nat × Nat :=
  if d.force R.TEL_SAMPLE_CFG_ROTATE = 0 then
    ((((List.range 32).filter fun n => decide (d.force (R.TEL_SAMPLE_VALID n) = 1)).map fun n => d.force (R.TEL_SAMPLE_PHYS n)).filter
      d.tilePowered, d.tel.pos)
  else
    let placed := (List.range 384).filter fun t => (d.placeAt t).isSome
    let turn := (placed.filter fun t => decide (d.tel.pos ≤ t)) ++ placed.filter fun t => decide (t < d.tel.pos)
    let s := turn.take (min 32 (d.force R.TEL_SAMPLE_CFG_COUNT))
    (s, s.getLast?.elim d.tel.pos (· + 1))

/-- R364: the sums of the training step take in the beat that ends; a step that has ended writes its record. -/
def Dev.telStep (d : Dev) (k : Nat) (t : TelUnit) (stalls : Nat) : Dev :=
  let u := { d.tel with
    first := if d.tel.beats = 0 then k else d.tel.first, beats := d.tel.beats + 1
    slips := d.tel.slips + d.get R.BEAT_SLIP_SLIP_BEATS, misses := d.tel.misses + d.get R.BEAT_DL_MISS_COUNT
    energy := d.tel.energy + d.get R.PWR_ENERGY_UJ, stepOvf := d.tel.stepOvf + t.ovf, stepPois := d.tel.stepPois + t.pois
    stalls := d.tel.stalls + stalls }
  match u.ended with
  | none => { d with tel := u }
  | some (step, outcome, s) =>
    let d : Dev := { d with tel := { u with first := 0, beats := 0, slips := 0, misses := 0, energy := 0, stepOvf := 0, stepPois := 0,
                                            stalls := 0, ended := none } }
    let d := (d.set R.TEL_STEP_LATCH_STEP step).set R.TEL_STEP_BEATS_BEATS u.beats
    d.telPut 7 0xFFFF k (fieldsMax [(6, step), (1, outcome), (1, s), (6, u.first), (2, 0), (4, u.beats), (4, u.slips), (4, u.misses),
      (4, u.energy / 1000), (4, u.stepOvf), (4, u.stepPois), (8, u.stalls)])

/-- R361: the records of beat k, from its counter words. -/
def Dev.telBoundary (d : Dev) (k : Nat) (acc : List (Nat × W64)) : Dev :=
  let t := d.tel
  let d : Dev := { d with tel := { t with ovf := 0, pois := 0, lost := 0 } }
  let all (f : Fld) : Nat := tally acc f fun _ => true
  let causes := stallSums acc d.tilePowered
  let stalls := causes.foldl (· + ·) 0
  let d := causes.zipIdx.foldl (fun (d : Dev) c => d.set (R.TEL_STALL_TILE_CYCLES c.2) c.1) d
  let d := d.telPut 1 0xFFFF k (fieldsMax [(8, d.get R.BEAT_TOD_TOD_NS), (4, d.get R.PWR_ENERGY_UJ), (2, d.get R.PWR_ENERGY_PEAK_W),
    (1, d.get R.PWR_THERM_TJ_C), (1, d.get R.PWR_CLK_STEPS_DOWN), (4, d.get R.BEAT_SLIP_SLIP_BEATS), (2, d.get R.BEAT_DL_MISS_COUNT),
    (2, t.ovf), (4, d.get R.AGX_SEAL_LAT_NS), (4, d.get R.BEAT_VL0_MOVED_FLITS), (2, t.pois), (2, t.lost),
    (4, d.get R.BEAT_FILL_FILL_TILE_CYCLES), (4, all (R.TILE_BUSY_EXEC_CYCLES 0)), (4, all (R.TILE_BUSY_ARRAY_CYCLES 0))])
  let d := d.telPut 2 0xFFFF k (fieldsMax ((List.range 12).map fun n => (4, d.get (R.TEL_PHASE_TILE_CYCLES n))))
  let d := d.telPut 3 0xFFFF k (fieldsMax (causes.map (fun c => (4, c)) ++ [(2, stalledTiles acc d.tilePowered), (2, 0)]))
  let d := d.telPut 5 0xFFFF k (fieldsMax (([R.HBM_PC_W0_RD_GRANULES 0 0, R.HBM_PC_W0_WR_GRANULES 0 0, R.HBM_PC_W1_CORRECTED 0 0,
    R.HBM_PC_W1_RETRIES 0 0, R.HBM_PC_W1_AGE_CAP 0 0, R.ECC_CNT2_RMW, R.ECC_CNT2_POISON_READS, R.ECC_CNT_DEFERRED,
    R.PUMP_REFETCH_REFETCHES 0, R.PUMP_CAP_PC_CAP_CYCLES 0, R.PUMP_CAP_WATCH_FULL_CYCLES 0, R.CIST_NC_MISSES 0] : List Fld).map fun f => (4, all f)))
  let d := d.telPut 6 0xFFFF k (fieldsMax ((([R.AGX_PORT_FLITS_TX 0, R.AGX_PORT_FLITS_RX 0, R.AGX_PORT_VL_TX_VL0 0, R.AGX_PORT_VL_TX_VL1 0,
    R.AGX_PORT_VL_TX2_VL2 0, R.AGX_PORT_VL_TX2_VL3 0, R.AGX_PORT_LINK_REPLAYED 0, R.AGX_PORT_LINK_CRC_ERR 0,
    R.AGX_PORT_STALL_CREDIT_WAIT_CYCLES 0, R.AGX_TAG_WAIT_CYCLES] : List Fld).map fun f => (4, all f)) ++
    [(4, all R.AGX_RP_BYTES_BYTES / 64), (4, all R.AGX_COL_CNT_FENCE_DROP)]))
  let d := d.telStep k t stalls
  let (s, pos) := d.sampled
  let d : Dev := { d with tel := { d.tel with pos := pos } }
  s.foldl (fun (d : Dev) x => d.telPut 4 x k (fieldsMax ((stallSums acc fun y => y = x).map (fun c => (4, c)) ++
    [(4, tally acc (R.TILE_BUSY_EXEC_CYCLES 0) fun ix => ix.headD 0 = x)]))) d

/-! ### Page swaps (R35) -/

/-- An armed swap takes effect, or is cancelled. -/
def Dev.pageSwap (d : Dev) : Dev :=
  if !d.flag R.BEAT_PAGE_SWAP_ARM then d else
  let i := d.get R.BEAT_PAGE_SWAP_IN
  let o := d.get R.BEAT_PAGE_SWAP_OUT
  let withOut := d.flag R.BEAT_PAGE_SWAP_OUT_VALID
  if d.beat.staged ≠ some i ∨ (withOut ∧ d.pageState o ≠ 2) ∨ 2 ≤ d.get R.IMG_STATUS_SWAP_PHASE then d.cancelPageSwap
  else
    let d := (d.set R.BEAT_PAGE_SWAP_ARM 0).set (R.BEAT_PAGE_STATE i) 2
    let other (e : Nat) : Bool := e / 1024 ≠ i
    let d : Dev := { d with beat := { d.beat with staged := none, started := d.beat.started.filter other, dropped := d.beat.dropped.filter other } }
    -- R117: streams primed for entries of the page are abandoned
    if withOut then ((d.set (R.BEAT_PAGE_STATE o) 3).abandon fun e => decide (e / 1024 = o)).pageDrained o else d

/-! ### The version record (R170) -/

/-- Table 8.7, assembled at the boundary. A device state that the table does not list leaves DEV_STATE as it was. -/
def Dev.version (d : Dev) : Dev :=
  let d := (d.set R.AGX_VER_0_DEVICE_ID d.id).set R.AGX_VER_0_BEAT d.beatNow
  let d := (d.set R.AGX_VER_1_IMAGE_ID (d.get R.IMG_ACTIVE_ID_ID)).set R.AGX_VER_2_IMAGE_VERSION (d.get R.IMG_ACTIVE_VER_VERSION)
  let st : Option Nat := match d.get R.PWR_STATE_DEV_STATE with | 2 => some 0 | 3 => some 1 | 5 => some 2 | 4 => some 3 | 6 => some 4 | _ => none
  let d := st.elim d fun x => d.set R.AGX_VER_2_DEV_STATE x
  let d := (d.set R.AGX_VER_2_FENCED_SELF (b2n d.agx.fenced)).set R.AGX_VER_2_DEGRADED (d.get R.PWR_STATE_DEGRADED)
  let d := (d.set R.AGX_VER_3_LIVE_BANK (d.get R.UPD_BANK_LIVE_BANK)).set R.AGX_VER_3_LIVE_STEP (d.get R.UPD_BANK_LIVE_STEP)
  let d := (d.set R.AGX_VER_4_RET_VALID (d.get R.UPD_RET_RET_VALID)).set R.AGX_VER_4_RET_STEP (d.get R.UPD_RET_RET_STEP)
  let d := (d.set R.AGX_VER_6_FENCE_BEAT (d.get R.AGX_FENCE_STATUS_FENCE_BEAT)).set R.AGX_VER_6_FENCED_COUNT (d.get R.AGX_FENCE_STATUS_FENCED_COUNT)
  d.set R.AGX_VER_7_MEASURE_LO (d.get (R.IMG_MEASURE_DIGEST 0))

/-! ### The boundary -/

/-- Cycle 0: the beat number, the time of day from E0, or E1 when E0 is down (R30), counters and staged settings. -/
def Dev.beatEdge (d : Dev) (tod : Nat) : Dev :=
  let k := d.beatNow
  let d := ((d.set R.BEAT_NUM_NUM (beatAdd k 1)).set R.BEAT_TOD_TOD_NS tod).set R.BEAT_STATUS_SEALS_COMPLETE 0
  let d := d.set (R.ETH_PTP_TIME_NS (if d.get (R.ETH_PORT_STATUS_STATE 0) = 2 then 0 else 1)) tod
  (d.latch k).stagedApply

/-- R41: the boundary that ends the beat now running. `tod` is the PTP time. On a FATAL error the beat is counted only
(R17, R297). -/
def Dev.boundary (d : Dev) (tod : Nat) : Dev :=
  let k := d.beatNow
  let acc := d.acc
  let d := d.beatEdge tod
  if !d.alive then { d with sat := false } else
  let d := d.silenceBoundary k
  let d := d.swapDrain.pageSwap
  let was := (List.range 4096).filter fun x => d.fencedOut x
  let d := d.routeSwap.fenceBoundary.pruneBoundary.spareBoundary
  let d := d.commitBoundary (((List.range 4096).filter fun x => d.fencedOut x).filter fun x => !was.contains x)
  let d := d.refreshSeals
  let d := { d.telBoundary k acc with sat := false, coal := [] }
  let d := d.imageBoundary.retile
  let d := d.cfgBoundary.remapLines.applyDir.wgqDue.duskBoundary.clockBoundary.ethBoundary
  let d := d.version
  let d : Dev := { d with beat := { d.beat with slot := 0, holdover := decide (d.get R.BEAT_STATUS_LOCK_STATE = 3) } }
  d.checkDue.refreshWaiting

end Sys2Proof.Machine
end

