-- ==== Sys2Proof/Machine/Marks.lean ====
section
/-!
DEFINITION. Beat sources, the lock machine and the beat number (R26–R29, Table 2.1). The timebase is not a field of the
state: a mark's tick and the PTP time of a boundary come with the command.
-/

namespace Sys2Proof.Machine

def Dev.lockState (d : Dev) : Nat := d.get R.BEAT_STATUS_LOCK_STATE

/-- The beat period in ticks. -/
def Dev.period (d : Dev) : Nat := d.get R.BEAT_PERIOD_PERIOD_TICKS

/-- FABRIC mode; any other value of SRC is MARK mode (Table 2.6). -/
def Dev.fabric (d : Dev) : Bool := d.get R.BEAT_CTL_SRC = 1

/-- This device is the beat master (R27). -/
def Dev.master (d : Dev) : Bool := d.fabric && d.flag R.BEAT_CTL_MASTER

/-- BEAT_CTL.ENABLE written 1 in UNLOCKED: ACQUIRE begins. -/
def Dev.beatEnable (d : Dev) : Dev :=
  if d.lockState ≠ 0 then d
  else ({ d with beat := { d.beat with prev := none, inWin := 0, missed := 0, learned := none, heard := [], matched := none
                                       lastSeals := false } }).lockTo 1

/-- BEAT_CTL.ENABLE written 0 in any state but UNLOCKED: UNLOCKED at once, without an event. -/
def Dev.beatDisable (d : Dev) : Dev :=
  if d.lockState = 0 then d
  else
    let d := d.set R.BEAT_STATUS_LOCK_STATE 0
    { d with beat := { d.beat with prev := none, inWin := 0, missed := 0, learned := none, heard := [], matched := none, holdover := false
                                   lastSeals := false } }

/-- A tick within ±64 of a prediction. -/
def inMarkWindow (t q : Nat) : Bool := decide (t ≤ q + 64) && decide (q ≤ t + 64)

/-- A mark outside every window is late in the half period after the prediction last passed, else early (R28). -/
def Dev.markOut (d : Dev) (t : Nat) : Dev :=
  let off := (t - d.beat.prev.getD 0) % max 1 d.period
  d.raise1 (if 2 * off < d.period then R.BEAT_ERR_MARK_LATE else R.BEAT_ERR_MARK_EARLY) 0

/-- R29: the number of the beat that a mark of ACQUIRE starts: one more than learned before, the armed value, or the number a
mark flit carries. The spec does not say how a number learned follows the marks of ACQUIRE. DESIGN CHOICE (log entry 51): each mark adds
one, also one out of window; a mark that is missing adds none. -/
def Dev.learn (d : Dev) (tod : Nat) (flit : Option Nat) : Dev :=
  let put (d : Dev) (n : Nat) : Dev := { d with beat := { d.beat with learned := some n } }
  match d.beat.learned with
  | some n => put d (beatAdd n 1)
  | none =>
    if d.flag R.BEAT_NUM_INIT_ARM ∧ d.get R.BEAT_INIT_TOD_TOD_NS < tod then put (d.set R.BEAT_NUM_INIT_ARM 0) (d.get R.BEAT_NUM_INIT_VALUE)
    else flit.elim d fun n => put d n

/-- A mark in ACQUIRE: the first of a series, or one in the window of the one before it; the eighth locks, if the beat
number is known. `own` is a master's own mark, which is always in window. -/
def Dev.acquireMark (d : Dev) (t tod : Nat) (flit : Option Nat) (own : Bool) : Dev :=
  let good := own || d.beat.prev.any fun q => inMarkWindow t (q + d.period)
  let d := if d.beat.prev.isSome && !good then d.markOut t else d
  let d : Dev := { d with beat := { d.beat with prev := some t, heard := [], inWin := if good then d.beat.inWin + 1 else 1 } }
  (d.learn tod flit).lockIfReady

/-- A mark in HOLDOVER: the eighth in a row in window of a predicted instant locks, and makes the boundary if the timebase
has not made it. -/
def Dev.holdoverMark (d : Dev) (t tod : Nat) : Dev :=
  let p := d.beat.prev.getD 0
  let at_ : Option Nat := if inMarkWindow t (p + d.period) then some (p + d.period) else if inMarkWindow t p then some p else none
  match at_ with
  | none => { d.markOut t with beat := { d.beat with inWin := 0, matched := none } }
  | some q =>
    if d.beat.matched = some q then d
    else
      let n := if d.beat.matched.any fun x => x + d.period = q then d.beat.inWin + 1 else 1
      let d : Dev := { d with beat := { d.beat with inWin := n, matched := some q } }
      if n < 8 then d
      else
        let d := if q = p then d else d.boundary tod
        let d : Dev := { d with beat := { d.beat with prev := some t, missed := 0, matched := none, holdover := false } }
        d.lockTo 2

/-- A mark that is not a master's own, at tick `t` (Table 2.1). -/
def Dev.mark (d : Dev) (t tod : Nat) (flit : Option Nat) : Dev :=
  match d.lockState with
  | 1 => d.acquireMark t tod flit false
  | 2 =>
    if d.beat.prev.any fun q => inMarkWindow t (q + d.period) then
      ({ d with beat := { d.beat with prev := some t, missed := 0 } }).boundary tod
    else d.markOut t
  | 3 => d.holdoverMark t tod
  | _ => d

/-- BEAT_MARK: a rising edge of the pin, in MARK mode. It is not sampled while BEAT_REF is lost (R386). -/
def execBeatMark (t tod : Nat) (s : State) : Host.Outcome State Fault Refusal :=
  run s fun d => if d.fabric ∨ !d.pins.on ∨ d.pins.refLost then d else d.mark t tod none

/-- The port that supplies marks: UPLINK, or UPLINK_ALT while the uplink is down and ALT_VALID is set (R27). -/
def Dev.uplink (d : Dev) : Nat :=
  let u := d.force R.BEAT_TREE_UPLINK
  let up (p : Nat) : Bool := d.link p = 3 || d.link p = 4 || d.link p = 7
  if !up u && decide (d.force R.BEAT_TREE_ALT_VALID = 1) then d.force R.BEAT_TREE_UPLINK_ALT else u

/-- A mark leaves on every downlink port. -/
def Dev.sendMarks (d : Dev) (beat depth : Nat) : Dev :=
  (setBits 36 (d.force R.BEAT_TREE_DOWNLINK)).foldl (fun (d : Dev) p =>
    if d.link p = 3 ∨ d.link p = 7 then d.sendRaw p 3 (leBytes 6 beat ++ leBytes 1 depth) else d) d

/-- MARK: mark flit k of those that have arrived, at tick `t`: taken from the uplink only, corrected by half the round trip,
forwarded, and a mark (R27, R152). -/
def execMarkFlit (k t tod : Nat) (s : State) : Host.Outcome State Fault Refusal :=
  run s fun d => match d.agx.inbox[k]?, d.takeIn k with
    | some a, some (_, d') =>
      match a.item with
      | .mark beat depth =>
        let d := d'
        if !d.fabric ∨ d.master ∨ a.ingress ≠ d.uplink ∨ 4 < depth then d
        else
          let d := (d.set R.BEAT_STATUS_UPLINK_USED a.ingress).sendMarks beat (depth + 1)
          d.mark (t - d.get (R.AGX_PORT_RTT_TICKS a.ingress) / 2) tod (some beat)
      | _ => d
    | _, _ => d

/-- MARK_MISSING: a window closes with no mark in it; the third time in a row HOLDOVER follows the boundary. -/
def execMarkMissing (tod : Nat) (s : State) : Host.Outcome State Fault Refusal :=
  run s fun d =>
    if d.lockState ≠ 2 ∨ d.master then d
    else
      let n := d.beat.missed + 1
      let d : Dev := { d with beat := { d.beat with prev := d.beat.prev.map (· + d.period), missed := n } }
      let d := (d.raise1 R.BEAT_ERR_MARK_MISSING 0).boundary tod
      if n < 3 then d
      else
        let d := (d.set R.BEAT_STATUS_HOLDOVER_BEATS 0).set R.BEAT_STATUS_LOCK_STATE 3
        ({ d with beat := { d.beat with inWin := 0, matched := none, holdover := true } }).raise1 R.BEAT_ERR_HOLDOVER_ENTERED 0

/-- BEAT_BOUNDARY: the timebase reaches a predicted instant: a boundary of HOLDOVER, or a master's own mark. The spec does not say
whether a master in ACQUIRE sends mark flits. DESIGN CHOICE (log entry 50): it does once its beat number is known, and none before. -/
def execBeatBoundary (tod : Nat) (s : State) : Host.Outcome State Fault Refusal :=
  run s fun d =>
    let next := d.beat.prev.elim 0 (· + d.period)
    match d.lockState with
    | 1 =>
      if !d.master then d else
      let d := d.acquireMark next tod none true
      if d.lockState = 2 then d.sendMarks d.beatNow 0 else d.beat.learned.elim d fun n => d.sendMarks n 0
    | 2 =>
      if !d.master then d else
      let d := ({ d with beat := { d.beat with prev := some next } }).boundary tod
      d.sendMarks d.beatNow 0
    | 3 =>
      if d.get R.BEAT_CTL_HOLDOVER_MAX ≤ d.get R.BEAT_STATUS_HOLDOVER_BEATS then d
      else
        let d : Dev := { d with beat := { d.beat with prev := some next } }
        (d.set R.BEAT_STATUS_HOLDOVER_BEATS (d.get R.BEAT_STATUS_HOLDOVER_BEATS + 1)).boundary tod
    | _ => d

/-- HOLDOVER_MAX_REACHED: no boundary follows, and no seal but those of the boundary that reached it. -/
def execHoldoverMaxReached (s : State) : Host.Outcome State Fault Refusal :=
  run s fun d =>
    if d.lockState = 3 ∧ d.get R.BEAT_CTL_HOLDOVER_MAX ≤ d.get R.BEAT_STATUS_HOLDOVER_BEATS then
      let d := d.beatDisable
      ({ d with beat := { d.beat with lastSeals := true } }).raise1 R.BEAT_ERR_LOST 0
    else d

/-- A period of 5,000 to 1,250,000 ticks (R26). -/
def periodOk (v : Nat) : Bool := decide (5000 ≤ bits v 20 0) && decide (bits v 20 0 ≤ 1250000)

/-- BEAT_PERIOD: a value outside the range is ignored (R26). -/
def Dev.periodWrite (d : Dev) (v : Nat) : Dev :=
  if periodOk v then d.set R.BEAT_PERIOD_PERIOD_TICKS (bits v 20 0) else d.raise1 R.BEAT_ERR_PERIOD_RANGE 0

/-- A store to a word of a beat-table entry (R32). Reserved bits stay 0. -/
def Dev.entryWrite (d : Dev) (e k v : Nat) : Dev :=
  if d.pageState (e / 1024) ≠ 0 then d.raise1 R.BEAT_ERR_ENTRY_WRITE_REJECT e
  else d.setWord (R.BEAT_ENTRY e k) (BitVec.ofNat 64 (v &&& entryMask k))

/-- A store to BEAT_PAGE_n (R35). -/
def Dev.pageBaseWrite (d : Dev) (n v : Nat) : Dev :=
  if d.pageState n ≠ 0 then d.raise1 R.BEAT_ERR_ENTRY_WRITE_REJECT n else d.set (R.BEAT_PAGE_BASE_BEAT n) (bits v 47 0)

/-- A store to BEAT_PAGE_SWAP (R35): an armed request is replaced or withdrawn, and the page that it staged is IDLE again unless
the new request stages it. -/
def Dev.pageSwapWrite (d : Dev) (v : Nat) : Dev :=
  let d := d.beat.staged.elim d fun p => if d.pageState p = 1 then d.set (R.BEAT_PAGE_STATE p) 0 else d
  let d : Dev := { d with beat := { d.beat with staged := none } }
  let d := (d.set R.BEAT_PAGE_SWAP_OUT_VALID (bits v 7 7)).set R.BEAT_PAGE_SWAP_OUT (bits v 6 4)
  let i := bits v 2 0
  let d := (d.set R.BEAT_PAGE_SWAP_IN i).set R.BEAT_PAGE_SWAP_ARM (bits v 63 63)
  if v.testBit 63 ∧ d.pageState i = 0 then
    { d.set (R.BEAT_PAGE_STATE i) 1 with beat := { d.beat with staged := some i } }
  else d

end Sys2Proof.Machine
end

