-- ==== Sys2Proof/Machine/Writes.lean ====
section
/-!
DEFINITION. Stores to control space: who may make them (R24, R329), widths and offsets (R389, R390), access types (R7), staging
(R16), and each register whose store does more than set its fields. REGISTER_WRITE and every row that names a store to one
register are this one operation.
-/

namespace Sys2Proof.Machine

/-- A field of a value that is stored. -/
def Fld.of (f : Fld) (v : Nat) : Nat := bits v f.hi f.lo

/-- The value with a one-bit field set. -/
def Fld.on (f : Fld) (v : Nat) : Nat := v ||| f.mask

/-- The value with a field cleared. -/
def Fld.off (f : Fld) (v : Nat) : Nat := v - (v &&& f.mask)

/-- The requesting device of an access. -/
def Dev.sourceOf (d : Dev) : Who → Nat
  | .remote dev _ _ => dev
  | _ => d.id

/-- R7, R389, R390: an access is ignored or refused: counted, and logged if it is the first since the bits were clear. -/
def Dev.accErr (d : Dev) (f : Fld) (w : Who) (o : Nat) (wr : Bool) : Dev :=
  let clear := bits (d.reg R.GLB_ACC_ERR).toNat 3 0 = 0
  let d := (d.set f 1).bump R.GLB_ACC_ERR_COUNT 1
  if clear then
    (((d.set R.GLB_ACC_LOG_SOURCE (d.sourceOf w)).set R.GLB_ACC_LOG_INGRESS (ingressOf w)).set R.GLB_ACC_LOG_WRITE (b2n wr)).set
      R.GLB_ACC_LOG_OFFSET o
  else d

/-! ### Access types (R7) -/

/-- A store of `v` to a listed register: RW and RWS fields take it, RWI fields while no image is active, W1C bits clear where
`v` has 1; the others stay. -/
def Dev.plainStore (d : Dev) (w : Who) (row : RegRow) (o v : Nat) : Dev :=
  let old := (d.reg o).toNat
  let rwi := rowMask row fun a => a = .rwi
  let act := d.imageActive
  let d := if act && decide ((v ^^^ old) &&& rwi ≠ 0) then d.accErr R.GLB_ACC_ERR_RWI_REJECT w o true else d
  let take := (rowMask row fun a => a = .rw || a = .rws) ||| (if act then 0 else rwi)
  let clear := (rowMask row fun a => a = .w1c) &&& v
  d.setWord o (BitVec.ofNat 64 (old - (old &&& (take ||| clear)) + (v &&& take)))

/-! ### Registers whose store acts -/

/-- BEAT_CTL: ENABLE written 1 or 0 drives the lock machine (R28). -/
def Dev.beatCtlWrite (d : Dev) (w : Who) (row : RegRow) (v : Nat) : Dev :=
  let d := d.plainStore w row R.BEAT_CTL v
  if R.BEAT_CTL_ENABLE.of v = 1 ∧ d.flag R.BEAT_CTL_ENABLE then d.beatEnable
  else if !d.flag R.BEAT_CTL_ENABLE then d.beatDisable else d

/-- BEAT_PERIOD: its range (R26), and RWI: while an image is active the period stays, and a value that would change it is refused. -/
def Dev.beatPeriodWrite (d : Dev) (w : Who) (v : Nat) : Dev :=
  if !d.imageActive then d.periodWrite v
  else
    let d := if bits v 20 0 = d.period then d else d.accErr R.GLB_ACC_ERR_RWI_REJECT w R.BEAT_PERIOD true
    if periodOk v then d else d.raise1 R.BEAT_ERR_PERIOD_RANGE 0

/-- TILE_ERR: fault bits that clear end the halt (R85). -/
def Dev.tileErrWrite (d : Dev) (w : Who) (row : RegRow) (t v : Nat) : Dev :=
  let was := (d.reg (R.TILE_ERR t)).toNat
  (d.plainStore w row (R.TILE_ERR t) v).faultCleared t (was &&& v) 0xF

/-- PUMP_ERR: ADDR, REMOTE_ERR and DIR_FMT halt their operation as a descriptor fault does (R22, R85). -/
def Dev.pumpErrWrite (d : Dev) (w : Who) (row : RegRow) (t v : Nat) : Dev :=
  let was := (d.reg (R.PUMP_ERR t)).toNat
  (d.plainStore w row (R.PUMP_ERR t) v).faultCleared t (was &&& v) 0x15

/-- CIST_NC_CTL.INV starts an invalidation, while none runs (R126). -/
def Dev.ncCtlWrite (d : Dev) (t v : Nat) : Dev :=
  if v.testBit 63 ∧ !d.flag (R.CIST_NC_CTL_BUSY t) then (d.ncClear t).set (R.CIST_NC_CTL_BUSY t) 1 else d

/-- A store to word `ix` of a queue pair. -/
def Dev.qpStore (d : Dev) (w : Who) (row : RegRow) (q o v : Nat) : Dev :=
  let was := d.get (R.ETH_QP_W0_STATE q)
  (d.plainStore w row o v).qpWritten q was

/-- Machine mode of a control core. -/
def machineMode : Who → Bool
  | .core _ m => m = 3
  | _ => false

/-- The registers of the BEAT and IMG blocks whose store acts. -/
def Dev.storeBeatImg (d : Dev) (w : Who) (row : RegRow) (i j v : Nat) : Option Dev :=
  if row.off = R.BEAT_CTL then some (d.beatCtlWrite w row v)
  else if row.off = R.BEAT_PERIOD then some (d.beatPeriodWrite w v)
  else if row.off = R.BEAT_PAGE_SWAP then some (d.pageSwapWrite v)
  else if row.off = R.BEAT_PAGE 0 then some (d.pageBaseWrite i v)
  else if row.off = R.BEAT_ENTRY 0 0 then some (d.entryWrite i j v)
  else if row.off = R.IMG_LOAD then some (d.imgLoadWrite v)
  else if row.off = R.IMG_SWAP then some (d.imgSwapWrite v)
  else if row.off = R.IMG_SLOT_FREE then some (d.imgSlotFreeWrite v)
  else if row.off = R.IMG_PAGE_COPY then some (d.imgPageCopyWrite v)
  else if row.off = R.IMG_RETILE then some (d.imgRetileWrite v)
  else none

/-- Those of the tile sites. -/
def Dev.storeTile (d : Dev) (w : Who) (row : RegRow) (t o v : Nat) : Option Dev :=
  if row.off = R.TILE_ERR 0 then some (d.tileErrWrite w row t v)
  else if row.off = R.TILE_INJECT 0 then some (if d.testEnable then d.plainStore w row o v else d)
  else if row.off = R.PUMP_ERR 0 then some (d.pumpErrWrite w row t v)
  else if row.off = R.PUMP_INJECT 0 then some (if d.testEnable then d.plainStore w row o v else d)
  else if row.off = R.CIST_NC_CTL 0 then some (d.ncCtlWrite t v)
  else if row.off = R.ATTN_INJECT 0 then some (d.attnInjectWrite t v)
  else none

/-- Those of the AGX blocks. -/
def Dev.storeAgx (d : Dev) (row : RegRow) (i v : Nat) : Option Dev :=
  if row.off = R.AGX_MC_TREE_W0 0 then some (d.treeWrite i 0 v)
  else if row.off = R.AGX_MC_TREE_W1 0 then some (d.treeWrite i 1 v)
  else if row.off = R.AGX_MC_TREE_W2 0 then some (d.treeWrite i 2 v)
  else if row.off = R.AGX_MC_CTL then some (d.mcCtlWrite v)
  else if row.off = R.AGX_PORT_CTL 0 then some (d.portCtlWrite i v)
  else if row.off = R.AGX_PORT_INJECT 0 then some (d.portInjectWrite i v)
  else if row.off = R.AGX_PORT_SPARE_TH 0 then some (d.portSpareWrite i v)
  else none

/-- Those of the KVP, PFX, SEQ, UPD and WGQ blocks. -/
def Dev.storeKvUpd (d : Dev) (w : Who) (row : RegRow) (i o v : Nat) : Option Dev :=
  if row.off = R.KVP_CTL then some (d.kvpCtlWrite v)
  else if row.off = R.KVP_WALK_INV then some (d.kvpWalkInvWrite v)
  else if row.off = R.KVP_FRAME_RD then some (d.kvpFrameRdWrite v)
  else if row.off = R.KVP_CMD_GO 0 then some (d.kvpGoWrite i v)
  else if row.off = R.PFX_CTL then
    some (let d := d.plainStore w row o v; if R.PFX_CTL_CLEAR.of v = 1 then d.pfxClearAll else d)
  else if row.off = R.SEQ_CMD_GO 0 then some (d.seqGoWrite i v)
  else if row.off = R.UPD_BANK_CTL then some (d.bankCtlWrite v)
  else if row.off = R.UPD_COMMIT_CTL then some (d.commitCtlWrite v)
  else if row.off = R.UPD_COORD_CTL then some (d.coordCtlWrite v)
  else if row.off = R.WGQ_CTL then some ((d.plainStore w row o v).wgqCtlWrite v)
  else none

/-- Those of the HBM, ECC and PWR blocks. -/
def Dev.storeHbmPwr (d : Dev) (row : RegRow) (i v : Nat) : Option Dev :=
  if row.off = R.HBM_PPR 0 then some (d.pprWrite i v)
  else if row.off = R.ECC_SCRUB_CTL then some (d.scrubCtlWrite v)
  else if row.off = R.ECC_SELFTEST then some (d.selftestWrite v)
  else if row.off = R.ECC_INJECT then some (d.injectWrite v)
  else if row.off = R.PWR_CTL then some (d.pwrCtlWrite v)
  else if row.off = R.PWR_CEIL then some (d.ceilWrite v)
  else if row.off = R.PWR_THERM then some (d.thermWrite v)
  else if row.off = R.PWR_RPR_GO then some (d.rprGoWrite v)
  else none

/-- MGMT_RING_n word 0: a SIZE_LOG2 below 6 stores 6, one above 20 stores 20 (R331). -/
def Dev.ringBaseStore (d : Dev) (w : Who) (row : RegRow) (n o v : Nat) : Dev :=
  let d := d.plainStore w row o v
  d.set (R.MGMT_RING_W0_SIZE_LOG2 n) (min (max (d.get (R.MGMT_RING_W0_SIZE_LOG2 n)) 6) 20)

/-- Those of the ETH and MGMT blocks. Only machine mode writes MGMT_UACC_n (R329). -/
def Dev.storeEthMgmt (d : Dev) (w : Who) (row : RegRow) (i o v : Nat) : Option Dev :=
  if row.off = R.ETH_QP_W0 0 ∨ row.off = R.ETH_QP_W3 0 then some (d.qpStore w row i o v)
  else if row.off = R.ETH_PORT_CTL 0 then some (d.ethCtlWrite i v)
  else if row.off = R.ETH_PTP_STEP 0 then some (d.ptpStepWrite i v)
  else if row.off = R.MGMT_CORE 0 then some (d.coreWrite i v (machineMode w))
  else if row.off = R.MGMT_UACC 0 then some (if machineMode w then d.plainStore w row o v else d)
  else if row.off = R.MGMT_MBOX_CTL then some (d.mboxWrite v)
  else if row.off = R.MGMT_RING_W0 0 then some (d.ringBaseStore w row i o v)
  else none

/-- A store of one word to a listed register. A staged register takes effect at the next boundary; while the lock machine makes
none, at once (log entry 34). -/
def Dev.store (d : Dev) (w : Who) (row : RegRow) (ix : List Nat) (o v : Nat) : Dev :=
  let i := ix.getD 0 0
  let acts := (d.storeBeatImg w row i (ix.getD 1 0) v).or <| (d.storeTile w row i o v).or <| (d.storeAgx row i v).or <|
    (d.storeKvUpd w row i o v).or <| (d.storeHbmPwr row i v).or <| d.storeEthMgmt w row i o v
  let d := acts.getD (d.plainStore w row o v)
  if row.staged && !d.beating then d.setForce o (d.reg o) else d

/-! ### The gates (R24, R329, R389, R390) -/

/-- R329: the bit of MGMT_UACC that stands for an offset's block. -/
def uaccBit (o : Nat) : Nat := if o < 0x10000000 then o / 0x1000000 else if o < 0x28000000 then 16 else 64

/-- What a gate answers. -/
inductive Gate where
  | pass | uacc | addrErr
deriving DecidableEq, Repr

/-- R24, R329: whether an access of a requester reaches control space. User-mode stores to SEC, PWR and MGMT are refused. -/
def Dev.gate (d : Dev) (w : Who) (o : Nat) (wr : Bool) : Gate :=
  match w with
  | .core c 0 =>
    if (d.get (R.MGMT_UACC_BLOCKS (c % 16))).testBit (uaccBit o) ∧ !(wr && [0x0B, 0x0C, 0x0E].contains (o / 0x1000000)) then .pass else .uacc
  | .remote dev _ vl => if vl = 3 ∧ d.mgmtCapable dev then .pass else .addrErr
  | _ => .pass

/-- The access fault that a core takes (R329, R389). -/
def Dev.coreFault (d : Dev) (w : Who) (wr : Bool) : Dev := (coreOf w).elim d fun c => d.emit (.coreFault c wr)

/-- An address error of control space: the error is logged against WELLHEAD (R393); a core takes a fault. -/
def Dev.ctlError (d : Dev) (w : Who) (o : Nat) (wr : Bool) : Dev :=
  (d.contained 5 (ingressOf w) (0x1F0000000000 + o)).coreFault w wr

/-- The access has a width and alignment that R389 allows. -/
def widthOk (w : Who) (o n : Nat) : Bool :=
  match w with
  | .remote _ _ _ => decide (o % 8 = 0) && decide (n % 8 = 0)
  | _ => (decide (n = 8) && decide (o % 8 = 0)) || (decide (n = 4) && decide (o % 4 = 0) &&
      (findRow (o / 8 * 8)).any fun r => r.1.off = R.AGX_ROUTE_STAGED_PAIR 0 || r.1.off = R.AGX_ROUTE_PAIR 0)

/-- One word of a store that has passed the gates: a reserved offset is ignored and counted; SEC_CTL reaches the fuses. -/
def storeWord (s : Otp × Dev) (w : Who) (o v : Nat) : Otp × Dev :=
  match findRow o with
  | none => (s.1, s.2.accErr R.GLB_ACC_ERR_RESERVED_OFFSET w o true)
  | some (row, ix) => if o = R.SEC_CTL then secCtlWrite s.1 s.2 v else (s.1, s.2.store w row ix o v)

/-- A store of bytes at control offset `o`: false where it is refused as a whole. -/
def ctlWrite (otp : Otp) (d : Dev) (w : Who) (o : Nat) (bs : List Byte) : (Otp × Dev) × Bool :=
  let n := bs.length
  match d.gate w o true with
  | .uacc => ((otp, (d.raise1 R.MGMT_ERR_UACC_DENIED o).coreFault w true), false)
  | .addrErr => ((otp, d.ctlError w o true), false)
  | .pass =>
    if !widthOk w o n then ((otp, (d.accErr R.GLB_ACC_ERR_WIDTH w o true).ctlError w o true), false)
    else if n = 4 then
      let old := (d.reg (o / 8 * 8)).toNat
      let v := if o % 8 = 0 then old / 2 ^ 32 * 2 ^ 32 + leNat bs else old % 2 ^ 32 + leNat bs * 2 ^ 32
      (storeWord (otp, d) w (o / 8 * 8) v, true)
    else
      let words := (List.range (n / 8)).map fun i => o + 8 * i
      match words.find? fun x => (blockRows x).isNone with
      | some x => ((otp, (d.accErr R.GLB_ACC_ERR_UNDEFINED w x true).ctlError w x true), false)
      | none => (words.foldl (fun s x => storeWord s w x (leNat ((bs.drop (x - o)).take 8))) (otp, d), true)

/-- The registers of a disabled site read as zero but for TILE_ID, those of an ATTN sub-block whose site is no ATTENTION tile,
and those of an untrained stack but for HBM_STATUS (R88, R129, R201, R306). -/
def Dev.readsZero (d : Dev) (o : Nat) : Bool :=
  if 0x10000000 ≤ o ∧ o < 0x28000000 then
    let t := (o - 0x10000000) / 0x100000
    (!d.goodSite t && !d.starting && decide (o ≠ (R.TILE_ID_PHYS t).reg)) ||
      (decide (0xC0000 ≤ o % 0x100000) && !((d.placeAt t).any fun p => p.role = 2))
  else if 0x09000000 ≤ o ∧ o < 0x0A800000 then
    let s := (o - 0x09000000) / 0x100000
    !d.stacks.contains s && decide (o ≠ (R.HBM_STATUS_STATE s).reg)
  else false

/-- A load of one word that has passed the gates: what it reads, and the count of a reserved offset. -/
def Dev.loadWord (d : Dev) (w : Who) (o : Nat) : Dev × Nat :=
  match findRow o with
  | none => (d.accErr R.GLB_ACC_ERR_RESERVED_OFFSET w o false, 0)
  | some _ => (d, if d.readsZero o then 0 else (d.reg o).toNat)

/-- Every store command: in NIGHT the control cores do not run (R319). -/
def regWrite (w : Who) (o : Nat) (bs : List Byte) (s : State) : Host.Outcome State Fault Refusal :=
  let d : Dev := { s.dev with out := [] }
  let stopped : Bool := match w with | .core _ _ => d.get R.PWR_STATE_DEV_STATE = 5 | _ => false
  if stopped || !d.pins.on then .next { s with dev := d }
  else
    let (otp, d) := (ctlWrite s.otp d w o bs).1
    .next { s with otp := otp, dev := d }

/-- A store of an 8-byte word. -/
def regWrite8 (w : Who) (o v : Nat) (s : State) : Host.Outcome State Fault Refusal := regWrite w o (leBytes 8 v) s

/-- REGISTER_WRITE: `n` bytes at control offset `o`. -/
def execRegisterWrite (w : Who) (o n : Nat) (bs : List Byte) (s : State) : Host.Outcome State Fault Refusal := regWrite w o (padTo n bs) s

/-! ### Rows that are a store to one register -/

def execBeatEnable (w : Who) (v : Nat) (s : State) : Host.Outcome State Fault Refusal := regWrite8 w R.BEAT_CTL (R.BEAT_CTL_ENABLE.on v) s
def execBeatDisable (w : Who) (v : Nat) (s : State) : Host.Outcome State Fault Refusal := regWrite8 w R.BEAT_CTL (R.BEAT_CTL_ENABLE.off v) s
def execBeatPeriodWrite (w : Who) (v : Nat) (s : State) : Host.Outcome State Fault Refusal := regWrite8 w R.BEAT_PERIOD v s
def execBeatEntryWrite (w : Who) (e k v : Nat) (s : State) : Host.Outcome State Fault Refusal := regWrite8 w (R.BEAT_ENTRY (e % 8192) (k % 4)) v s
def execBeatPageBaseWrite (w : Who) (n v : Nat) (s : State) : Host.Outcome State Fault Refusal := regWrite8 w (R.BEAT_PAGE (n % 8)) v s
def execPageSwapArm (w : Who) (v : Nat) (s : State) : Host.Outcome State Fault Refusal := regWrite8 w R.BEAT_PAGE_SWAP (R.BEAT_PAGE_SWAP_ARM.on v) s
def execPageSwapWithdraw (w : Who) (v : Nat) (s : State) : Host.Outcome State Fault Refusal :=
  regWrite8 w R.BEAT_PAGE_SWAP (R.BEAT_PAGE_SWAP_ARM.off v) s
def execImgLoadGo (w : Who) (v : Nat) (s : State) : Host.Outcome State Fault Refusal :=
  regWrite8 w R.IMG_LOAD (R.IMG_LOAD_RESTAGE.off (R.IMG_LOAD_GO.on v)) s
def execImgLoadRestage (w : Who) (v : Nat) (s : State) : Host.Outcome State Fault Refusal :=
  regWrite8 w R.IMG_LOAD (R.IMG_LOAD_RESTAGE.on (R.IMG_LOAD_GO.on v)) s
def execImgSwapArm (w : Who) (v : Nat) (s : State) : Host.Outcome State Fault Refusal :=
  regWrite8 w R.IMG_SWAP (R.IMG_SWAP_UNLOAD.off (R.IMG_SWAP_ARM.on v)) s
def execImgSwapWithdraw (w : Who) (v : Nat) (s : State) : Host.Outcome State Fault Refusal := regWrite8 w R.IMG_SWAP (R.IMG_SWAP_ARM.off v) s
def execImgUnload (w : Who) (v : Nat) (s : State) : Host.Outcome State Fault Refusal :=
  regWrite8 w R.IMG_SWAP (R.IMG_SWAP_UNLOAD.on (R.IMG_SWAP_ARM.on v)) s
def execImgSlotFree (w : Who) (v : Nat) (s : State) : Host.Outcome State Fault Refusal := regWrite8 w R.IMG_SLOT_FREE (R.IMG_SLOT_FREE_GO.on v) s
def execImgPageCopy (w : Who) (v : Nat) (s : State) : Host.Outcome State Fault Refusal := regWrite8 w R.IMG_PAGE_COPY (R.IMG_PAGE_COPY_GO.on v) s
def execImgRetile (w : Who) (v : Nat) (s : State) : Host.Outcome State Fault Refusal := regWrite8 w R.IMG_RETILE (R.IMG_RETILE_ARM.on v) s
def execTileFaultClear (w : Who) (t v : Nat) (s : State) : Host.Outcome State Fault Refusal := regWrite8 w (R.TILE_ERR (t % 384)) v s
def execTileInjectPoisonOut (w : Who) (t v : Nat) (s : State) : Host.Outcome State Fault Refusal :=
  regWrite8 w (R.TILE_INJECT (t % 384)) ((R.TILE_INJECT_POISON_OUT 0).on v) s
def execTileInjectShadowParity (w : Who) (t v : Nat) (s : State) : Host.Outcome State Fault Refusal :=
  regWrite8 w (R.TILE_INJECT (t % 384)) ((R.TILE_INJECT_SHADOW_PARITY 0).on v) s
def execAttnInjectMispredict (w : Who) (t v : Nat) (s : State) : Host.Outcome State Fault Refusal :=
  regWrite8 w (R.ATTN_INJECT (t % 384)) ((R.ATTN_INJECT_MISPREDICT 0).on v) s
def execAttnInjectForceRecover (w : Who) (t v : Nat) (s : State) : Host.Outcome State Fault Refusal :=
  regWrite8 w (R.ATTN_INJECT (t % 384)) ((R.ATTN_INJECT_FORCE_RECOVER 0).on v) s
def execPumpInjectAddrErr (w : Who) (t v : Nat) (s : State) : Host.Outcome State Fault Refusal :=
  regWrite8 w (R.PUMP_INJECT (t % 384)) ((R.PUMP_INJECT_ADDR_ERR_NEXT 0).on v) s
def execPumpInjectStale (w : Who) (t v : Nat) (s : State) : Host.Outcome State Fault Refusal :=
  regWrite8 w (R.PUMP_INJECT (t % 384)) ((R.PUMP_INJECT_STALE_NEXT 0).on v) s
def execNearCacheInv (w : Who) (t v : Nat) (s : State) : Host.Outcome State Fault Refusal :=
  regWrite8 w (R.CIST_NC_CTL (t % 384)) ((R.CIST_NC_CTL_INV 0).on v) s
/-- NEAR_CACHE_INV_DONE: the sweep ends. -/
def execNearCacheInvDone (t : Nat) (s : State) : Host.Outcome State Fault Refusal :=
  run s fun d => if t < 384 then d.set (R.CIST_NC_CTL_BUSY t) 0 else d
def execAgxPortEnable (w : Who) (p v : Nat) (s : State) : Host.Outcome State Fault Refusal :=
  regWrite8 w (R.AGX_PORT_CTL (p % 36)) ((R.AGX_PORT_CTL_ENABLE 0).on v) s
def execAgxPortDisable (w : Who) (p v : Nat) (s : State) : Host.Outcome State Fault Refusal :=
  regWrite8 w (R.AGX_PORT_CTL (p % 36)) ((R.AGX_PORT_CTL_ENABLE 0).off v) s
def execAgxLoop (w : Who) (p v : Nat) (s : State) : Host.Outcome State Fault Refusal := regWrite8 w (R.AGX_PORT_CTL (p % 36)) v s
def execAgxPortCtlWrite (w : Who) (p v : Nat) (s : State) : Host.Outcome State Fault Refusal := regWrite8 w (R.AGX_PORT_CTL (p % 36)) v s
def execAgxPortInjectCrc (w : Who) (p v : Nat) (s : State) : Host.Outcome State Fault Refusal :=
  regWrite8 w (R.AGX_PORT_INJECT (p % 36)) ((R.AGX_PORT_INJECT_CRC_NEXT 0).on v) s
def execLaneFailNow (w : Who) (p v : Nat) (s : State) : Host.Outcome State Fault Refusal :=
  regWrite8 w (R.AGX_PORT_SPARE_TH (p % 36)) (v ||| 2 ^ 48) s
def execAgxRouteSwap (w : Who) (v : Nat) (s : State) : Host.Outcome State Fault Refusal := regWrite8 w R.AGX_ROUTE_SWAP (R.AGX_ROUTE_SWAP_ARM.on v) s
def execPullDone (w : Who) (n v : Nat) (s : State) : Host.Outcome State Fault Refusal :=
  regWrite8 w (R.AGX_MC_TREE_W2 (n % 256)) ((R.AGX_MC_TREE_W2_PULL_DONE 0).on v) s
def execPullDrop (w : Who) (n v : Nat) (s : State) : Host.Outcome State Fault Refusal :=
  regWrite8 w (R.AGX_MC_TREE_W2 (n % 256)) ((R.AGX_MC_TREE_W2_PULL_DROP 0).on v) s
def execMcTreeWrite (w : Who) (n k v : Nat) (s : State) : Host.Outcome State Fault Refusal :=
  regWrite8 w (R.AGX_MC_TREE_W0 (n % 256) + 8 * (k % 4)) v s
def execAgxFenceArm (w : Who) (v : Nat) (s : State) : Host.Outcome State Fault Refusal := regWrite8 w R.AGX_FENCE_ARM (R.AGX_FENCE_ARM_ARM.on v) s
def execKvpFlush (w : Who) (v : Nat) (s : State) : Host.Outcome State Fault Refusal := regWrite8 w R.KVP_CTL (R.KVP_CTL_FLUSH.on v) s
def execKvpWalkInv (w : Who) (v : Nat) (s : State) : Host.Outcome State Fault Refusal := regWrite8 w R.KVP_WALK_INV (R.KVP_WALK_INV_GO.on v) s
def execKvpFrameRd (w : Who) (v : Nat) (s : State) : Host.Outcome State Fault Refusal := regWrite8 w R.KVP_FRAME_RD (R.KVP_FRAME_RD_GO.on v) s
def execPfxClear (w : Who) (v : Nat) (s : State) : Host.Outcome State Fault Refusal := regWrite8 w R.PFX_CTL (R.PFX_CTL_CLEAR.on v) s
def execExpDirUpdArm (w : Who) (v : Nat) (s : State) : Host.Outcome State Fault Refusal :=
  regWrite8 w R.EXP_DIR_UPD_ARM (R.EXP_DIR_UPD_ARM_ARM.on v) s
def execWgqDrain (w : Who) (v : Nat) (s : State) : Host.Outcome State Fault Refusal := regWrite8 w R.WGQ_CTL (R.WGQ_CTL_DRAIN.on v) s
def execVote (w : Who) (v : Nat) (s : State) : Host.Outcome State Fault Refusal := regWrite8 w R.UPD_COMMIT_CTL (R.UPD_COMMIT_CTL_VOTE.on v) s
def execRevote (w : Who) (v : Nat) (s : State) : Host.Outcome State Fault Refusal := regWrite8 w R.UPD_COMMIT_CTL (R.UPD_COMMIT_CTL_REVOTE.on v) s
def execAbortNow (w : Who) (v : Nat) (s : State) : Host.Outcome State Fault Refusal := regWrite8 w R.UPD_COORD_CTL (R.UPD_COORD_CTL_ABORT_NOW.on v) s
def execFlipBack (w : Who) (v : Nat) (s : State) : Host.Outcome State Fault Refusal := regWrite8 w R.UPD_BANK_CTL (R.UPD_BANK_CTL_FLIP_BACK.on v) s
def execSetBank (w : Who) (v : Nat) (s : State) : Host.Outcome State Fault Refusal := regWrite8 w R.UPD_BANK_CTL (R.UPD_BANK_CTL_SET.on v) s
def execScrubGo (w : Who) (v : Nat) (s : State) : Host.Outcome State Fault Refusal := regWrite8 w R.ECC_SCRUB_CTL (R.ECC_SCRUB_CTL_GO.on v) s
def execEccSelftest (w : Who) (v : Nat) (s : State) : Host.Outcome State Fault Refusal := regWrite8 w R.ECC_SELFTEST (R.ECC_SELFTEST_GO.on v) s
/-- ECC_INJECT with ARM and a KIND (R301). -/
def injectStore (w : Who) (kind v : Nat) (s : State) : Host.Outcome State Fault Refusal :=
  regWrite8 w R.ECC_INJECT (R.ECC_INJECT_ARM.on (R.ECC_INJECT_KIND.off v) + kind * 2 ^ 61) s
def execHbmCorr (w : Who) (v : Nat) (s : State) : Host.Outcome State Fault Refusal := injectStore w 0 v s
def execHbmUncorr (w : Who) (v : Nat) (s : State) : Host.Outcome State Fault Refusal := injectStore w 1 v s
def execCistRow (w : Who) (v : Nat) (s : State) : Host.Outcome State Fault Refusal := injectStore w 2 v s
def execCistGroup (w : Who) (v : Nat) (s : State) : Host.Outcome State Fault Refusal := injectStore w 3 v s
def execHbmPpr (w : Who) (n v : Nat) (s : State) : Host.Outcome State Fault Refusal := regWrite8 w (R.HBM_PPR (n % 24)) ((R.HBM_PPR_GO 0).on v) s
def execDusk (w : Who) (v : Nat) (s : State) : Host.Outcome State Fault Refusal := regWrite8 w R.PWR_CTL (R.PWR_CTL_DUSK.on v) s
def execWake (w : Who) (v : Nat) (s : State) : Host.Outcome State Fault Refusal := regWrite8 w R.PWR_CTL (R.PWR_CTL_WAKE.on v) s
def execPwrRprGo (w : Who) (v : Nat) (s : State) : Host.Outcome State Fault Refusal := regWrite8 w R.PWR_RPR_GO (R.PWR_RPR_GO_GO.on v) s
def execCoreReset (w : Who) (n v : Nat) (s : State) : Host.Outcome State Fault Refusal := regWrite8 w (R.MGMT_CORE (n % 16)) ((R.MGMT_CORE_RESET 0).on v) s
def execC2mFull (w : Who) (v : Nat) (s : State) : Host.Outcome State Fault Refusal := regWrite8 w R.MGMT_MBOX_CTL (R.MGMT_MBOX_CTL_C2M_FULL.on v) s
def execM2cFull (w : Who) (v : Nat) (s : State) : Host.Outcome State Fault Refusal := regWrite8 w R.MGMT_MBOX_CTL (R.MGMT_MBOX_CTL_M2C_FULL.on v) s
def execSvnAdvance (w : Who) (v : Nat) (s : State) : Host.Outcome State Fault Refusal := regWrite8 w R.SEC_CTL (R.SEC_CTL_SVN_ADVANCE.on v) s
def execCfgApply (w : Who) (v : Nat) (s : State) : Host.Outcome State Fault Refusal := regWrite8 w R.SEC_CTL (R.SEC_CTL_CFG_APPLY.on v) s
def execEthPortEnable (w : Who) (p v : Nat) (s : State) : Host.Outcome State Fault Refusal :=
  regWrite8 w (R.ETH_PORT_CTL (p % 2)) ((R.ETH_PORT_CTL_ENABLE 0).on v) s
def execEthLoop (w : Who) (p v : Nat) (s : State) : Host.Outcome State Fault Refusal := regWrite8 w (R.ETH_PORT_CTL (p % 2)) v s
def execPtpStep (w : Who) (p v : Nat) (s : State) : Host.Outcome State Fault Refusal := regWrite8 w (R.ETH_PTP_STEP (p % 2)) v s

end Sys2Proof.Machine
end

