-- ==== Sys2Proof/Machine/Home.lean ====
section
/-!
DEFINITION. Requests at their home and responses at their source (spec/07_agxis_links.md): READ, WRITE, WRITE_POSTED
(R143, R144, R389), the wait for seals (R40), atomics (R147), REDUCE_PUT (R160), tags that end (R144, R145). A request is
handled after every earlier one of the same device, port and virtual lane (R150), and atomics in arrival order (R43).
-/

namespace Sys2Proof.Machine

/-- First local offset of control space (R20). -/
def ctlBase : Nat := 0x1F0000000000

/-- The turn of a request (R150): a WRITE or WRITE_POSTED follows every earlier write of its lane. -/
def Dev.homeTurn (d : Dev) (k : Nat) (a : Arrival) (p : Pkt) : Bool :=
  d.laneTurn k a.ingress p.src p.vl (decide (p.opc = 2 ∨ p.opc = 3))

/-- A request waits in its receive pool for the cistern window that it names (R62, R63, R87). -/
def Dev.windowHeld (d : Dev) (p : Pkt) : Bool :=
  if p.opc = 1 then (setBits 128 (leNat p.data)).any fun i => d.windowWaits (p.addr + 64 * i) 64
  else d.windowWaits p.addr (max 1 p.data.length)

/-- Arrival k, where it is a request that `want` accepts and whose turn it is. -/
def Dev.homeReq (d : Dev) (k : Nat) (want : Pkt → Bool) : Option (Arrival × Pkt) :=
  if !d.alive then none else
  match d.agx.inbox[k]? with
  | some a => match a.item with
    | .req p => if want p && d.homeTurn k a p && !d.windowHeld p then some (a, p) else none
    | _ => none
  | none => none

/-- A response leaves for the requester (R139, R143). -/
def Dev.respond (d : Dev) (q : Pkt) (opc status sector : Nat) (data : List Byte) (pz : List Bool) : Dev :=
  d.launch (d.newRsp q opc status sector data (flitPoison pz)) none

/-- COMPLETION with a status; none to a posted request. -/
def Dev.complete (d : Dev) (q : Pkt) (status : Nat) : Dev := if q.nonPosted then d.respond q 0x10 status 0 [] [] else d

/-- The SOURCE under which an address error at a local offset is logged (R393). -/
def sourceAt (off : Nat) : Nat := if off < 0x180000000000 then 0 else if off < 0x1800A0000000 then 1 else 5

/-- Who makes a request that arrived by an ingress number. -/
def Pkt.who (p : Pkt) (ingress : Nat) : Who :=
  if ingress < 36 then .remote p.src ingress p.vl else if 38 ≤ ingress ∧ ingress < 46 then .die (ingress - 38) else .well

/-- Data and poison of a request's packet. -/
def Pkt.bytePoison (p : Pkt) : List Bool := (List.range p.data.length).map p.poisonAt

/-! ### R40 -/

/-- The beat that a request's tag names: the one nearest the home's own. -/
def Dev.tagBeat (d : Dev) (tag : Nat) : Nat := beatSub (beatAdd d.beatNow ((tag % 65536 + 65536 + 32768 - d.beatNow % 65536) % 65536)) 32768

/-- A beat-tagged request may be served: the home counts beats, and the seals before its beat are in. -/
def Dev.tagReady (d : Dev) (p : Pkt) : Bool := d.beating && d.sealed (beatSub (d.tagBeat p.beatTag) 1)

/-- Atomics are served in arrival order (R43): an earlier one that may be served goes first. -/
def Dev.atomicTurn (d : Dev) (before : List Arrival) : Bool :=
  before.all fun x => match x.item with
    | .req q => decide (q.opc ≠ 4) || !d.tagReady q
    | _ => true

/-- A request that waits for seals is put aside, in its receive space. -/
def Dev.holdReq (d : Dev) (k : Nat) (a : Arrival) : Dev :=
  { d with agx := { d.agx with inbox := d.agx.inbox.eraseIdx k, held := d.agx.held ++ [a] } }

/-! ### READ -/

/-- The sectors of a READ in control space (R24, R389): every word's data, or none where the request completes as a whole with
an address error. -/
def Dev.ctlSectors (d : Dev) (w : Who) (base : Nat) (secs : List Nat) : Dev × Option (List (Nat × List Byte)) :=
  match d.gate w base false with
  | .pass =>
    let words := secs.flatMap fun i => (List.range 8).map fun j => base + 64 * i + 8 * j
    match words.find? fun o => (blockRows o).isNone with
    | some o => ((d.accErr R.GLB_ACC_ERR_UNDEFINED w o false).ctlError w o false, none)
    | none =>
      let (d, r) := words.foldl (fun (x : Dev × List (Nat × List Byte)) o =>
        let (d, v) := x.1.loadWord w o
        (d, x.2 ++ [(o, leBytes 8 v)])) (d, [])
      (d, some r)
  | _ => (d.ctlError w base false, none)

/-- What the runs of a READ return: first sector, bytes and poison of each; none after an address error. -/
def Dev.readRuns (d : Dev) (ingress : Nat) (p : Pkt) (runs : List (Nat × Nat)) : Dev × Option (List (Nat × Got)) :=
  if ctlBase ≤ p.addr then
    let secs := runs.flatMap fun (i, n) => (List.range n).map (· + i)
    let base := p.addr - ctlBase
    match d.ctlSectors (p.who ingress) base secs with
    | (d, none) => (d, none)
    | (d, some ws) =>
      (d, some (runs.map fun (i, n) =>
        let bs := (ws.filter fun w => decide (base + 64 * i ≤ w.1 ∧ w.1 < base + 64 * (i + n))).flatMap (·.2)
        (i, ⟨bs, List.replicate bs.length false⟩)))
  else
    runs.foldl (fun (x : Dev × Option (List (Nat × Got))) (i, n) =>
      match x.2 with
      | none => x
      | some l => match x.1.memRead ingress (p.addr + 64 * i) (64 * n) with
        | (d, some g) => (d, some (l ++ [(i, g)]))
        | (d, none) => (d, none)) (d, some [])

/-- A request on a lane that Table 7.6 does not allow: UNSUPPORTED, and the home logs what is posted (R144) and what would reach
control space (R24). -/
def Dev.wrongLane (d : Dev) (ingress : Nat) (p : Pkt) : Dev :=
  (if !p.nonPosted ∨ ctlBase ≤ p.addr then d.contained (sourceAt p.addr) ingress p.addr else d).complete p 3

/-- A READ is served. -/
def Dev.serveRead (d : Dev) (ingress : Nat) (p : Pkt) : Dev :=
  if !laneOk p then d.wrongLane ingress p
  else if p.addr % 8192 ≠ 0 then d.complete p 3
  else
    match d.readRuns ingress p (sectorRuns (recNat p.data 0 16)) with
    | (d, none) => d.complete p 1
    | (d, some []) => d.complete p 0
    | (d, some rs) => rs.foldl (fun (d : Dev) (i, g) => d.respond p 0x11 0 i g.bytes g.poison) d

/-! ### WRITE and WRITE_POSTED -/

/-- A WRITE or WRITE_POSTED is applied. -/
def serveWrite (otp : Otp) (d : Dev) (ingress : Nat) (p : Pkt) : Otp × Dev :=
  let n := p.data.length
  if !laneOk p then (otp, d.wrongLane ingress p)
  else if n = 0 then (otp, d.complete p 0)
  else if 8192 < p.addr % 8192 + n then (otp, (d.contained (sourceAt p.addr) ingress p.addr).complete p 1)
  else match d.locate p.addr n with
    | .ctl o =>
      let ((otp, d), ok) := ctlWrite otp d (p.who ingress) o p.data
      (otp, d.complete p (if ok then 0 else 1))
    | .hbm a =>
      if d.inMailbox a n then (otp, (d.mailboxWrite p.src a p.data).complete p 0)
      else
        let (d, ok) := d.memWrite ingress p.addr p.data p.poisonAt
        (otp, d.complete p (if ok then 0 else 1))
    | _ =>
      let (d, ok) := d.memWrite ingress p.addr p.data p.poisonAt
      (otp, d.complete p (if ok then 0 else 1))

/-! ### Atomics (R147) -/

/-- The length and alignment of an atomic's operands are allowed. -/
def atomicShape (p : Pkt) : Bool :=
  let n := p.data.length
  match p.atop with
  | 0 => decide (n % 4 = 0 ∧ 4 ≤ n ∧ p.addr % 4 = 0 ∧ p.addr % 64 + n ≤ 64)
  | 2 => decide (n % 4 = 0 ∧ 4 ≤ n ∧ p.addr % 4 = 0 ∧ p.addr % 64 + n ≤ 64)
  | 1 => decide (n = 8 ∧ p.addr % 8 = 0)
  | 3 => decide (n = 16 ∧ p.addr % 8 = 0)
  | _ => false

/-- Bytes of memory that an atomic acts on. -/
def atomicLen (p : Pkt) : Nat := if p.atop = 3 then 8 else p.data.length

/-- Element by element on FP32 codes. -/
def f32Each (f : Nat → Nat → Nat) (old new : List Byte) : List Byte :=
  (List.range (old.length / 4)).flatMap fun i => leBytes 4 (f (recNat old (4 * i) 4) (recNat new (4 * i) 4))

/-- What an atomic leaves in memory. -/
def atomicNew (p : Pkt) (old : List Byte) : List Byte :=
  match p.atop with
  | 0 => f32Each f32Add old p.data
  | 1 => leBytes 8 ((leNat old + leNat p.data) % 2 ^ 64)
  | 2 => f32Each f32Max old p.data
  | _ => if leNat old = recNat p.data 0 8 then p.data.drop 8 else old

/-- CAS64 writes when the stored value equals the compare value; the others always write. -/
def atomicWrites (p : Pkt) (old : List Byte) : Bool := decide (p.atop ≠ 3) || decide (leNat old = recNat p.data 0 8)

/-- An atomic is performed at the controller of its target. A cistern window and control space take none. -/
def Dev.serveAtomic (d : Dev) (ingress : Nat) (p : Pkt) : Dev :=
  let n := atomicLen p
  if !laneOk p then d.wrongLane ingress p
  else if ctlBase ≤ p.addr then (d.contained 5 ingress p.addr).complete p 3
  else if !atomicShape p then d.complete p 3
  else match d.locate p.addr n with
    | .hbm a =>
      if d.inMailbox a n then (d.mailboxWrite p.src a p.data).complete p 1
      else if (d.writeDenied a n).isSome then (d.memWrite ingress p.addr (p.data.take n) fun _ => false).1.complete p 1
      else match d.memRead ingress p.addr n with
        | (d, some g) =>
          if g.anyPoison then d.complete p 4
          else
            let d := if atomicWrites p g.bytes then
                (d.memWrite ingress p.addr (atomicNew p g.bytes) fun i => p.poisonAt (if p.atop = 3 then 8 + i else i)).1
              else d
            if p.fetch || p.atop = 3 then d.respond p 0x10 0 0 g.bytes [] else d.complete p 0
        | (d, none) => d.complete p 1
    | .bad src => if src = 1 then d.complete p 3 else (d.contained src ingress p.addr).complete p 1
    | _ => d.complete p 3

/-! ### The rows of requests -/

/-- READ or ATOMIC at its home: served in its turn, or put aside until its seals are in. -/
def Dev.taggedIn (d : Dev) (k : Nat) (want : Pkt → Bool) (go : Dev → Nat → Pkt → Dev) : Dev :=
  match d.homeReq k want with
  | none => d
  | some (a, p) =>
    if !d.tagReady p then d.holdReq k a
    else if p.opc = 4 && !d.atomicTurn (d.agx.held ++ d.agx.inbox.take k) then d
    else match d.takeIn k with
      | some (_, d) => go d a.ingress p
      | none => d

/-- READ. -/
def execReadReq (k : Nat) (s : State) : Host.Outcome State Fault Refusal :=
  run s fun d => d.taggedIn k (fun p => p.opc = 1) Dev.serveRead

/-- A WRITE or WRITE_POSTED that has arrived. -/
def writeIn (opc k : Nat) (s : State) : Host.Outcome State Fault Refusal :=
  let d : Dev := { s.dev with out := [] }
  match d.homeReq k fun p => p.opc = opc, d.takeIn k with
  | some (a, p), some (_, d) =>
    let (otp, d) := serveWrite s.otp d a.ingress p
    .next { s with otp := otp, dev := d }
  | _, _ => .next { s with dev := d }

/-- WRITE. -/
def execWriteReq (k : Nat) (s : State) : Host.Outcome State Fault Refusal := writeIn 2 k s

/-- WRITE_POSTED. -/
def execWritePosted (k : Nat) (s : State) : Host.Outcome State Fault Refusal := writeIn 3 k s

/-- An atomic of one ATOP that has arrived. -/
def atomicIn (want : Nat → Bool) (k : Nat) (s : State) : Host.Outcome State Fault Refusal :=
  run s fun d => d.taggedIn k (fun p => decide (p.opc = 4) && want p.atop) Dev.serveAtomic

/-- FP32_ADD. A reserved ATOP completes with UNSUPPORTED here. -/
def execFp32Add (k : Nat) (s : State) : Host.Outcome State Fault Refusal := atomicIn (fun a => decide (a = 0 ∨ 3 < a)) k s

/-- INT64_ADD. -/
def execInt64Add (k : Nat) (s : State) : Host.Outcome State Fault Refusal := atomicIn (fun a => decide (a = 1)) k s

/-- FP32_MAX. -/
def execFp32Max (k : Nat) (s : State) : Host.Outcome State Fault Refusal := atomicIn (fun a => decide (a = 2)) k s

/-- CAS64. -/
def execCas64 (k : Nat) (s : State) : Host.Outcome State Fault Refusal := atomicIn (fun a => decide (a = 3)) k s

/-- SEAL_WAIT_RELEASE: held request k is served once its seals are in, after `cycles` of SEAL_WAIT; its receive space goes back. -/
def execSealWaitRelease (k : Told) (s : State) : Host.Outcome State Fault Refusal :=
  run s fun d =>
    let ⟨k, cycles⟩ := k
    match d.agx.held[k]? with
    | none => d
    | some a => match a.item with
      | .req p =>
        if !d.alive || !d.tagReady p || d.windowHeld p || (p.opc = 4 && !d.atomicTurn (d.agx.held.take k)) then d
        else
          let d : Dev := { d with agx := { d.agx with held := d.agx.held.eraseIdx k, sealWait := d.agx.sealWait + cycles } }
          let d := d.giveBack a.ingress a.pools
          if p.opc = 1 then d.serveRead a.ingress p else d.serveAtomic a.ingress p
      | _ => d

/-! ### REDUCE_PUT (R160) -/

/-- Physical sites of the REDUCTION tiles, in ascending logical order. -/
def Dev.redTiles (d : Dev) : List Nat :=
  (List.range 320).filterMap fun l => (d.place l).bind fun p => if p.role = 5 then some p.phys else none

/-- The reduction tile that adds `n` bytes at a local offset; none where the target is not allowed. -/
def Dev.redTile (d : Dev) (off n : Nat) : Option Nat :=
  match d.locate off n with
  | .hbm a =>
    let ts := d.redTiles
    if d.img.regions.any (fun r => decide (r.tag = 3 ∧ r.base ≤ a ∧ a + n ≤ r.base + r.size)) then ts[off / 8192 % ts.length]? else none
  | .cist t _ => if (d.placeAt t).any fun p => p.role = 5 then some t else none
  | _ => none

/-- The packets queued at a reduction tile. -/
def Dev.redQueue (d : Dev) (t : Nat) : List RedPut := d.agx.red.filter fun x => x.tile = t

/-- The reduction queues set. -/
def Dev.setRed (d : Dev) (q : List RedPut) : Dev := { d with agx := { d.agx with red := q } }

/-- REDUCE_PUT: into its tile's queue, or discarded; it stays in its receive pool while the queue is full. -/
def Dev.reducePut (d : Dev) (k : Nat) : Dev :=
  match d.homeReq k fun p => p.opc = 5, d.takeIn k with
  | some (a, p), some (_, d') =>
    let n := p.data.length
    let bad (d : Dev) : Dev := (d.contained (sourceAt p.addr) a.ingress p.addr).raise1 R.AGX_COL_ERR_RP_TARGET p.addr
    if !laneOk p then d'.wrongLane a.ingress p
    else if 8192 < p.addr % 8192 + n ∨ n % 4 ≠ 0 ∨ p.addr % 4 ≠ 0 then bad d'
    else match d.redTile p.addr n with
      | none => bad d'
      | some t =>
        if 64 ≤ (d.redQueue t).length then d
        else d'.setRed (d.agx.red ++ [⟨a.ingress, p.src, p.addr, p.data, p.bytePoison, p.vl, t⟩])
  | _, _ => d

/-- REDUCE_PUT. -/
def execReducePut (k : Nat) (s : State) : Host.Outcome State Fault Refusal := run s fun d => d.reducePut k

/-- The sums of a packet's values with what the target holds, and which of them are poisoned. -/
def redSums (g : Got) (x : RedPut) : List Nat × List Bool :=
  let n := x.data.length / 4
  ((List.range n).map fun i => f32Add (recNat g.bytes (4 * i) 4) (recNat x.data (4 * i) 4),
   (List.range n).map fun i => (List.range 4).any fun j => g.poison.getD (4 * i + j) false || x.poison.getD (4 * i + j) false)

/-- No earlier REDUCE_PUT of the same source, port and lane is still to be added at another tile (R150). -/
def Dev.redTurn (d : Dev) (x : RedPut) : Bool :=
  (d.agx.red.takeWhile fun y => y ≠ x).all fun y => decide (y.ingress ≠ x.ingress ∨ y.src ≠ x.src ∨ y.vl ≠ x.vl)

/-- REDUCE_PUT_ADD: the oldest packet of a reduction tile is added, in the turn of its lane. -/
def Dev.reducePutAdd (d : Dev) (t : Nat) : Dev :=
  match d.redQueue t with
  | [] => d
  | x :: _ =>
    if !d.alive || !d.redTurn x then d else
    let d := d.setRed (d.agx.red.erase x)
    let ing := tileIngress t
    match d.memRead ing x.addr x.data.length with
    | (d, none) => d
    | (d, some g) =>
      let (vs, pz) := redSums g x
      let (d, ok) := d.memWrite ing x.addr (vs.flatMap (leBytes 4)) fun i => pz.getD (i / 4) false
      if !ok then d else
      let d := d.count R.AGX_RP_BYTES_BYTES x.data.length
      let ev := (vs.zip pz).countP fun v => !v.2 && (f32IsInf v.1 || f32IsNaN v.1)
      (d.watchEvents ev).watchPoison (pz.countP fun b => b)

/-- REDUCE_PUT_ADD. -/
def execReducePutAdd (t : Nat) (s : State) : Host.Outcome State Fault Refusal := run s fun d => d.reducePutAdd t

/-! ### Responses (R144, R145) -/

/-- The tag entry of a tag held. -/
def Dev.tagOf (d : Dev) (tag : Nat) : Option TagEnt := d.agx.tags.find? fun e => e.tag = tag

/-- A tag goes into quarantine instead of being freed. -/
def Dev.quarantineTag (d : Dev) (tag : Nat) : Dev :=
  ({ d with agx := { d.agx with tags := d.agx.tags.filter fun e => e.tag ≠ tag, quarantine := d.agx.quarantine ++ [tag] } }).refreshTags

/-- A request ends with its response. The tag of a request to a device that was lost is quarantined (R145, Table 8.4). -/
def Dev.endReq (d : Dev) (e : TagEnt) (status : Nat) : Dev :=
  let d := if status = 7 then d.quarantineTag e.tag else d.freeTagNow e.tag
  d.endFor e status

/-- Arrival k, where it is a response with an opcode. -/
def Dev.takeRsp (d : Dev) (k opc : Nat) : Option (Arrival × Pkt × Dev) :=
  match d.takeIn k with
  | some (a, d') => match a.item with
    | .rsp p => if p.opc = opc ∧ d.alive then some (a, p, d') else none
    | _ => none
  | none => none

/-- A response for a tag that is free or quarantined. -/
def Dev.lateRsp (d : Dev) : Dev := d.count R.AGX_LATE_CPL_COUNT 1

/-- COMPLETION. -/
def execCompletion (k : Nat) (s : State) : Host.Outcome State Fault Refusal :=
  run s fun d => match d.takeRsp k 0x10 with
    | none => d
    | some (_, p, d) => match d.tagOf p.tag with
      | none => d.lateRsp
      | some e => d.endReq e p.status

/-- The bytes of a READ_DATA reach the requester of a tag. -/
def Dev.dataFor (d : Dev) (e : TagEnt) (ingress : Nat) (p : Pkt) : Dev :=
  let g : Got := ⟨p.data, p.bytePoison⟩
  let off := e.pkt.addr + 64 * p.sector
  match e.waiter with
  | .pump t id => d.pumpData t id (e.pkt.dest * 2 ^ 45 + off) g
  | .fetch r => d.fetchData r off g
  | .pull n _ => d.pullData n ingress off g
  | _ => d

/-- READ_DATA: the last one ends its request. -/
def Dev.readDataIn (d : Dev) (ingress : Nat) (p : Pkt) : Dev :=
  match d.tagOf p.tag with
  | none => d.lateRsp
  | some e =>
    let d := d.dataFor e ingress p
    let left := e.left - ceilDiv p.data.length 64
    if left = 0 then d.endReq e 0
    else { d with agx := { d.agx with tags := d.agx.tags.map fun x => if x.tag = e.tag then { x with left := left } else x } }

/-- READ_DATA. -/
def execReadData (k : Nat) (s : State) : Host.Outcome State Fault Refusal :=
  run s fun d => match d.takeRsp k 0x11 with
    | none => d
    | some (a, p, d) => d.readDataIn a.ingress p

/-- NP_TIMEOUT: the request ends with TIMEOUT, and its tag is quarantined. -/
def execNpTimeout (tag : Nat) (s : State) : Host.Outcome State Fault Refusal :=
  run s fun d => match d.tagOf tag with
    | none => d
    | some e => (d.quarantineTag tag).endFor e 5

/-- TAG_QUARANTINE_END: the tag is free again, and the request that has waited longest takes it. -/
def execTagQuarantineEnd (tag : Nat) (s : State) : Host.Outcome State Fault Refusal :=
  run s fun d =>
    if d.agx.quarantine.contains tag then
      ({ d with agx := { d.agx with quarantine := d.agx.quarantine.filter fun t => t ≠ tag } }).freeTagNow tag
    else d

end Sys2Proof.Machine
end

