-- ==== Sys2Proof/Machine/Dispatch.lean ====
section
/-!
DEFINITION. The meaning of each command: one arm per constructor of Instr, each one direct call.
-/

namespace Sys2Proof.Machine

def exec (i : Instr) (s : State) : Host.Outcome State Fault Refusal :=
  match i with
  | .beatEnable w v => Sys2Proof.Machine.execBeatEnable w v s
  | .beatDisable w v => Sys2Proof.Machine.execBeatDisable w v s
  | .beatPeriodWrite w v => Sys2Proof.Machine.execBeatPeriodWrite w v s
  | .beatMark t tod => Sys2Proof.Machine.execBeatMark t tod s
  | .markFlit k t tod => Sys2Proof.Machine.execMarkFlit k t tod s
  | .markMissing tod => Sys2Proof.Machine.execMarkMissing tod s
  | .beatBoundary tod => Sys2Proof.Machine.execBeatBoundary tod s
  | .holdoverMaxReached => Sys2Proof.Machine.execHoldoverMaxReached s
  | .beatEntryWrite w e k v => Sys2Proof.Machine.execBeatEntryWrite w e k v s
  | .beatPageBaseWrite w n v => Sys2Proof.Machine.execBeatPageBaseWrite w n v s
  | .pageSwapArm w v => Sys2Proof.Machine.execPageSwapArm w v s
  | .pageSwapWithdraw w v => Sys2Proof.Machine.execPageSwapWithdraw w v s
  | .entryStart e fill urg full sealw => Sys2Proof.Machine.execEntryStart e fill urg full sealw s
  | .fillerStart e left sealw => Sys2Proof.Machine.execFillerStart e left sealw s
  | .opComplete id => Sys2Proof.Machine.execOpComplete id s
  | .sealSend p => Sys2Proof.Machine.execSealSend p s
  | .sealStageSend p => Sys2Proof.Machine.execSealStageSend p s
  | .beatSeal k => Sys2Proof.Machine.execBeatSeal k s
  | .sealWaitRelease k => Sys2Proof.Machine.execSealWaitRelease k s
  | .vl0SlotStart n => Sys2Proof.Machine.execVl0SlotStart n s
  | .imgLoadGo w v => Sys2Proof.Machine.execImgLoadGo w v s
  | .imgLoadRestage w v => Sys2Proof.Machine.execImgLoadRestage w v s
  | .imgLoadDone => Sys2Proof.Machine.execImgLoadDone s
  | .activationStart => Sys2Proof.Machine.execActivationStart s
  | .strengthReformat => Sys2Proof.Machine.execStrengthReformat s
  | .imgSwapArm w v => Sys2Proof.Machine.execImgSwapArm w v s
  | .imgSwapWithdraw w v => Sys2Proof.Machine.execImgSwapWithdraw w v s
  | .imgUnload w v => Sys2Proof.Machine.execImgUnload w v s
  | .swapReconfig => Sys2Proof.Machine.execSwapReconfig s
  | .imgSlotFree w v => Sys2Proof.Machine.execImgSlotFree w v s
  | .imgPageCopy w v => Sys2Proof.Machine.execImgPageCopy w v s
  | .pageCopyDone => Sys2Proof.Machine.execPageCopyDone s
  | .imgRetile w v => Sys2Proof.Machine.execImgRetile w v s
  | .stepIssue t stall exec array exposed left => Sys2Proof.Machine.execStepIssue t stall exec array exposed left s
  | .tileFaultClear w t v => Sys2Proof.Machine.execTileFaultClear w t v s
  | .tileInjectPoisonOut w t v => Sys2Proof.Machine.execTileInjectPoisonOut w t v s
  | .tileInjectShadowParity w t v => Sys2Proof.Machine.execTileInjectShadowParity w t v s
  | .matmul t => Sys2Proof.Machine.execMatmul t s
  | .matmulGrouped t => Sys2Proof.Machine.execMatmulGrouped t s
  | .matmulWgrad t => Sys2Proof.Machine.execMatmulWgrad t s
  | .attnFwd t => Sys2Proof.Machine.execAttnFwd t s
  | .attnBwd t => Sys2Proof.Machine.execAttnBwd t s
  | .attnDecode t => Sys2Proof.Machine.execAttnDecode t s
  | .attnMerge t => Sys2Proof.Machine.execAttnMerge t s
  | .attnInjectMispredict w t v => Sys2Proof.Machine.execAttnInjectMispredict w t v s
  | .attnInjectForceRecover w t v => Sys2Proof.Machine.execAttnInjectForceRecover w t v s
  | .vecProgram t => Sys2Proof.Machine.execVecProgram t s
  | .reduceLocal t => Sys2Proof.Machine.execReduceLocal t s
  | .convertOp t => Sys2Proof.Machine.execConvertOp t s
  | .copyGather t => Sys2Proof.Machine.execCopyGather t s
  | .routeTopk t => Sys2Proof.Machine.execRouteTopk t s
  | .dispatchSend t => Sys2Proof.Machine.execDispatchSend t s
  | .dispatchPlan t => Sys2Proof.Machine.execDispatchPlan t s
  | .dispatchPrefetch t => Sys2Proof.Machine.execDispatchPrefetch t s
  | .combineReturn t => Sys2Proof.Machine.execCombineReturn t s
  | .combineGather t => Sys2Proof.Machine.execCombineGather t s
  | .updateOp t => Sys2Proof.Machine.execUpdateOp t s
  | .kat t ms => Sys2Proof.Machine.execKat t ms s
  | .endProg t => Sys2Proof.Machine.execEndProg t s
  | .ldp t => Sys2Proof.Machine.execLdp t s
  | .ldg t => Sys2Proof.Machine.execLdg t s
  | .lds t => Sys2Proof.Machine.execLds t s
  | .ldw t => Sys2Proof.Machine.execLdw t s
  | .rstep t => Sys2Proof.Machine.execRstep t s
  | .stp t => Sys2Proof.Machine.execStp t s
  | .sts t => Sys2Proof.Machine.execSts t s
  | .stw t => Sys2Proof.Machine.execStw t s
  | .addV t => Sys2Proof.Machine.execAddV t s
  | .subV t => Sys2Proof.Machine.execSubV t s
  | .mulV t => Sys2Proof.Machine.execMulV t s
  | .fma t => Sys2Proof.Machine.execFma t s
  | .maxV t => Sys2Proof.Machine.execMaxV t s
  | .minV t => Sys2Proof.Machine.execMinV t s
  | .absV t => Sys2Proof.Machine.execAbsV t s
  | .adds t => Sys2Proof.Machine.execAdds t s
  | .muls t => Sys2Proof.Machine.execMuls t s
  | .fmas t => Sys2Proof.Machine.execFmas t s
  | .bcast t => Sys2Proof.Machine.execBcast t s
  | .exp2 t => Sys2Proof.Machine.execExp2 t s
  | .log2 t => Sys2Proof.Machine.execLog2 t s
  | .rsqrt t => Sys2Proof.Machine.execRsqrt t s
  | .rcp t => Sys2Proof.Machine.execRcp t s
  | .rsumsq t => Sys2Proof.Machine.execRsumsq t s
  | .rsum t => Sys2Proof.Machine.execRsum t s
  | .rmaxabs t => Sys2Proof.Machine.execRmaxabs t s
  | .sadd t => Sys2Proof.Machine.execSadd t s
  | .ssub t => Sys2Proof.Machine.execSsub t s
  | .smul t => Sys2Proof.Machine.execSmul t s
  | .smax t => Sys2Proof.Machine.execSmax t s
  | .smin t => Sys2Proof.Machine.execSmin t s
  | .srsqrt t => Sys2Proof.Machine.execSrsqrt t s
  | .srcp t => Sys2Proof.Machine.execSrcp t s
  | .sexp2 t => Sys2Proof.Machine.execSexp2 t s
  | .slog2 t => Sys2Proof.Machine.execSlog2 t s
  | .simm t => Sys2Proof.Machine.execSimm t s
  | .sched t => Sys2Proof.Machine.execSched t s
  | .passPhase t => Sys2Proof.Machine.execPassPhase t s
  | .mgram t => Sys2Proof.Machine.execMgram t s
  | .mmul t => Sys2Proof.Machine.execMmul t s
  | .loopProg t => Sys2Proof.Machine.execLoopProg t s
  | .streamPrime t e => Sys2Proof.Machine.execStreamPrime t e s
  | .watchGrant t => Sys2Proof.Machine.execWatchGrant t s
  | .pieceIssue t => Sys2Proof.Machine.execPieceIssue t s
  | .pieceArrive t r => Sys2Proof.Machine.execPieceArrive t r s
  | .pumpInjectAddrErr w t v => Sys2Proof.Machine.execPumpInjectAddrErr w t v s
  | .pumpInjectStale w t v => Sys2Proof.Machine.execPumpInjectStale w t v s
  | .nearCacheInv w t v => Sys2Proof.Machine.execNearCacheInv w t v s
  | .nearCacheInvDone t => Sys2Proof.Machine.execNearCacheInvDone t s
  | .cisternWindowAccess w l o n wr d => Sys2Proof.Machine.execCisternWindowAccess w l o n wr d s
  | .agxPortEnable w p v => Sys2Proof.Machine.execAgxPortEnable w p v s
  | .agxPortDisable w p v => Sys2Proof.Machine.execAgxPortDisable w p v s
  | .agxLoop w p v => Sys2Proof.Machine.execAgxLoop w p v s
  | .agxPortCtlWrite w p v => Sys2Proof.Machine.execAgxPortCtlWrite w p v s
  | .portDrainDone p => Sys2Proof.Machine.execPortDrainDone p s
  | .trainDone p bad => Sys2Proof.Machine.execTrainDone p bad s
  | .trainTimeout p bad => Sys2Proof.Machine.execTrainTimeout p bad s
  | .downRetry p => Sys2Proof.Machine.execDownRetry p s
  | .linkId k => Sys2Proof.Machine.execLinkId k s
  | .identifyTimeout p => Sys2Proof.Machine.execIdentifyTimeout p s
  | .laneFail p lane corr unc => Sys2Proof.Machine.execLaneFail p lane corr unc s
  | .spareReq k => Sys2Proof.Machine.execSpareReq k s
  | .spareAck k => Sys2Proof.Machine.execSpareAck k s
  | .retrainDone p => Sys2Proof.Machine.execRetrainDone p s
  | .lockLost p => Sys2Proof.Machine.execLockLost p s
  | .flitReceive p f => Sys2Proof.Machine.execFlitReceive p f s
  | .replayTimeout p => Sys2Proof.Machine.execReplayTimeout p s
  | .packetSend p left => Sys2Proof.Machine.execPacketSend p left s
  | .rttProbeTimer p t => Sys2Proof.Machine.execRttProbeTimer p t s
  | .rttProbe k => Sys2Proof.Machine.execRttProbe k s
  | .rttEcho k t => Sys2Proof.Machine.execRttEcho k t s
  | .loopReq k => Sys2Proof.Machine.execLoopReq k s
  | .loopExit k => Sys2Proof.Machine.execLoopExit k s
  | .agxPortInjectCrc w p v => Sys2Proof.Machine.execAgxPortInjectCrc w p v s
  | .laneFailNow w p v => Sys2Proof.Machine.execLaneFailNow w p v s
  | .agxRouteSwap w v => Sys2Proof.Machine.execAgxRouteSwap w v s
  | .routeFenceTimeout d => Sys2Proof.Machine.execRouteFenceTimeout d s
  | .readReq k => Sys2Proof.Machine.execReadReq k s
  | .writeReq k => Sys2Proof.Machine.execWriteReq k s
  | .writePosted k => Sys2Proof.Machine.execWritePosted k s
  | .fp32Add k => Sys2Proof.Machine.execFp32Add k s
  | .int64Add k => Sys2Proof.Machine.execInt64Add k s
  | .fp32Max k => Sys2Proof.Machine.execFp32Max k s
  | .cas64 k => Sys2Proof.Machine.execCas64 k s
  | .reducePut k => Sys2Proof.Machine.execReducePut k s
  | .reducePutAdd t => Sys2Proof.Machine.execReducePutAdd t s
  | .multicastWrite k => Sys2Proof.Machine.execMulticastWrite k s
  | .completion k => Sys2Proof.Machine.execCompletion k s
  | .readData k => Sys2Proof.Machine.execReadData k s
  | .npTimeout tag => Sys2Proof.Machine.execNpTimeout tag s
  | .tagQuarantineEnd tag => Sys2Proof.Machine.execTagQuarantineEnd tag s
  | .branchPrune n p => Sys2Proof.Machine.execBranchPrune n p s
  | .mcAck k => Sys2Proof.Machine.execMcAck k s
  | .mcPrune k => Sys2Proof.Machine.execMcPrune k s
  | .mcPruned k => Sys2Proof.Machine.execMcPruned k s
  | .mcPulled k => Sys2Proof.Machine.execMcPulled k s
  | .mcEnd k => Sys2Proof.Machine.execMcEnd k s
  | .mcPullDone n => Sys2Proof.Machine.execMcPullDone n s
  | .pullDone w n v => Sys2Proof.Machine.execPullDone w n v s
  | .pullDrop w n v => Sys2Proof.Machine.execPullDrop w n v s
  | .mcTreeWrite w n k v => Sys2Proof.Machine.execMcTreeWrite w n k v s
  | .portSilent p => Sys2Proof.Machine.execPortSilent p s
  | .agxFenceArm w v => Sys2Proof.Machine.execAgxFenceArm w v s
  | .fenceNote k => Sys2Proof.Machine.execFenceNote k s
  | .alloc c => Sys2Proof.Machine.execAlloc c s
  | .sharePage c => Sys2Proof.Machine.execSharePage c s
  | .cow c => Sys2Proof.Machine.execCow c s
  | .freeFrame c => Sys2Proof.Machine.execFreeFrame c s
  | .pin c => Sys2Proof.Machine.execPin c s
  | .unpin c => Sys2Proof.Machine.execUnpin c s
  | .sealPage c => Sys2Proof.Machine.execSealPage c s
  | .appendKv c => Sys2Proof.Machine.execAppendKv c s
  | .pfxMatch c => Sys2Proof.Machine.execPfxMatch c s
  | .pfxInsert c => Sys2Proof.Machine.execPfxInsert c s
  | .pfxEvict c => Sys2Proof.Machine.execPfxEvict c s
  | .kvpCmdqAdmit q => Sys2Proof.Machine.execKvpCmdqAdmit q s
  | .sealingDone f => Sys2Proof.Machine.execSealingDone f s
  | .cowCopyDone f => Sys2Proof.Machine.execCowCopyDone f s
  | .freeListRebuildDone => Sys2Proof.Machine.execFreeListRebuildDone s
  | .kvpFlush w v => Sys2Proof.Machine.execKvpFlush w v s
  | .kvpWalkInv w v => Sys2Proof.Machine.execKvpWalkInv w v s
  | .kvpFrameRd w v => Sys2Proof.Machine.execKvpFrameRd w v s
  | .pageTranslate t c pg => Sys2Proof.Machine.execPageTranslate t c pg s
  | .pfxClear w v => Sys2Proof.Machine.execPfxClear w v s
  | .seqAdmit c => Sys2Proof.Machine.execAdmit c s
  | .park c => Sys2Proof.Machine.execPark c s
  | .activate c => Sys2Proof.Machine.execActivate c s
  | .seqRelease c => Sys2Proof.Machine.execSeqRelease c s
  | .fork c => Sys2Proof.Machine.execFork c s
  | .contextRestore h => Sys2Proof.Machine.execContextRestore h s
  | .expDirUpdArm w v => Sys2Proof.Machine.execExpDirUpdArm w v s
  | .widenFetchDone r => Sys2Proof.Machine.execWidenFetchDone r s
  | .wgqSliceStart n left => Sys2Proof.Machine.execWgqSliceStart n left s
  | .wgqDrain w v => Sys2Proof.Machine.execWgqDrain w v s
  | .wgqComplete n => Sys2Proof.Machine.execWgqComplete n s
  | .vote w v => Sys2Proof.Machine.execVote w v s
  | .voteSend => Sys2Proof.Machine.execVoteSend s
  | .revote w v => Sys2Proof.Machine.execRevote w v s
  | .staged => Sys2Proof.Machine.execStaged s
  | .midnight => Sys2Proof.Machine.execMidnight s
  | .abortMsg => Sys2Proof.Machine.execAbortMsg s
  | .flipped => Sys2Proof.Machine.execFlipped s
  | .release => Sys2Proof.Machine.execRelease s
  | .decideTimeout => Sys2Proof.Machine.execDecideTimeout s
  | .voteDeadline => Sys2Proof.Machine.execVoteDeadline s
  | .abortNow w v => Sys2Proof.Machine.execAbortNow w v s
  | .flipBack w v => Sys2Proof.Machine.execFlipBack w v s
  | .setBank w v => Sys2Proof.Machine.execSetBank w v s
  | .hbmReread a syms => Sys2Proof.Machine.execHbmReread a syms s
  | .ageCap pc => Sys2Proof.Machine.execAgeCap pc s
  | .hbmRefresh pc => Sys2Proof.Machine.execHbmRefresh pc s
  | .scrubGo w v => Sys2Proof.Machine.execScrubGo w v s
  | .scrubCodeword => Sys2Proof.Machine.execScrubCodeword s
  | .scrubPassDone => Sys2Proof.Machine.execScrubPassDone s
  | .eccSelftest w v => Sys2Proof.Machine.execEccSelftest w v s
  | .eccSelftestDone hbm tiles => Sys2Proof.Machine.execEccSelftestDone hbm tiles s
  | .hbmCorr w v => Sys2Proof.Machine.execHbmCorr w v s
  | .hbmUncorr w v => Sys2Proof.Machine.execHbmUncorr w v s
  | .cistRow w v => Sys2Proof.Machine.execCistRow w v s
  | .cistGroup w v => Sys2Proof.Machine.execCistGroup w v s
  | .hbmPpr w n v => Sys2Proof.Machine.execHbmPpr w n v s
  | .hbmPprDone n st => Sys2Proof.Machine.execHbmPprDone n st s
  | .columnSweep t g bad near => Sys2Proof.Machine.execColumnSweep t g bad near s
  | .rowRebuildDone t line => Sys2Proof.Machine.execRowRebuildDone t line s
  | .dawn plim boot rom => Sys2Proof.Machine.execDawn plim boot rom s
  | .dawnReady ms bad trained => Sys2Proof.Machine.execDawnReady ms bad trained s
  | .warmReset => Sys2Proof.Machine.execWarmReset s
  | .morning rom => Sys2Proof.Machine.execMorning rom s
  | .morningReady ms bad trained => Sys2Proof.Machine.execMorningReady ms bad trained s
  | .coldReset => Sys2Proof.Machine.execColdReset s
  | .pwrOkDeassert => Sys2Proof.Machine.execPwrOkDeassert s
  | .undervoltage => Sys2Proof.Machine.execUndervoltage s
  | .vinAuxLoss => Sys2Proof.Machine.execVinAuxLoss s
  | .beatRefLoss => Sys2Proof.Machine.execBeatRefLoss s
  | .dusk w v => Sys2Proof.Machine.execDusk w v s
  | .duskDrainDone => Sys2Proof.Machine.execDuskDrainDone s
  | .nightEnter => Sys2Proof.Machine.execNightEnter s
  | .wake w v => Sys2Proof.Machine.execWake w v s
  | .wakeDone => Sys2Proof.Machine.execWakeDone s
  | .drainComplete u => Sys2Proof.Machine.execDrainComplete u s
  | .offTimeMet u => Sys2Proof.Machine.execOffTimeMet u s
  | .tilePowerReady t ok => Sys2Proof.Machine.execTilePowerReady t ok s
  | .tileClockGate t => Sys2Proof.Machine.execTileClockGate t s
  | .powerSample mw => Sys2Proof.Machine.execPowerSample mw s
  | .clockStepDown => Sys2Proof.Machine.execClockStepDown s
  | .floorHold => Sys2Proof.Machine.execFloorHold s
  | .thermalStep tj die => Sys2Proof.Machine.execThermalStep tj die s
  | .therm95 tj die => Sys2Proof.Machine.execTherm95 tj die s
  | .thermalTrip tj die => Sys2Proof.Machine.execThermalTrip tj die s
  | .pwrRprGo w v => Sys2Proof.Machine.execPwrRprGo w v s
  | .repairRecordWrite ok => Sys2Proof.Machine.execRepairRecordWrite ok s
  | .coreReset w n v => Sys2Proof.Machine.execCoreReset w n v s
  | .c2mFull w v => Sys2Proof.Machine.execC2mFull w v s
  | .m2cFull w v => Sys2Proof.Machine.execM2cFull w v s
  | .ringAgeInterrupt n => Sys2Proof.Machine.execRingAgeInterrupt n s
  | .svnAdvance w v => Sys2Proof.Machine.execSvnAdvance w v s
  | .cfgApply w v => Sys2Proof.Machine.execCfgApply w v s
  | .entdaa a => Sys2Proof.Machine.execEntdaa a s
  | .mctpControl m => Sys2Proof.Machine.execMctpControl m s
  | .pldmSensor m => Sys2Proof.Machine.execPldmSensor m s
  | .firmwareXfer o d => Sys2Proof.Machine.execFirmwareXfer o d s
  | .configXfer o d => Sys2Proof.Machine.execConfigXfer o d s
  | .repairXfer o d => Sys2Proof.Machine.execRepairXfer o d s
  | .verifyComplete => Sys2Proof.Machine.execVerifyComplete s
  | .applyComplete => Sys2Proof.Machine.execApplyComplete s
  | .getCert m => Sys2Proof.Machine.execGetCert m s
  | .getReport m => Sys2Proof.Machine.execGetReport m s
  | .getChunk m => Sys2Proof.Machine.execGetChunk m s
  | .reportSigned h => Sys2Proof.Machine.execReportSigned h s
  | .reportHandleFree h => Sys2Proof.Machine.execReportHandleFree h s
  | .ethPortEnable w p v => Sys2Proof.Machine.execEthPortEnable w p v s
  | .ethLoop w p v => Sys2Proof.Machine.execEthLoop w p v s
  | .ethLinkUp p => Sys2Proof.Machine.execEthLinkUp p s
  | .ethLinkDown p => Sys2Proof.Machine.execEthLinkDown p s
  | .ethFrame p d full => Sys2Proof.Machine.execEthFrame p d full s
  | .rocePacket k free gap rtt => Sys2Proof.Machine.execRocePacket k free gap rtt s
  | .send q => Sys2Proof.Machine.execSend q s
  | .sendImm q => Sys2Proof.Machine.execSendImm q s
  | .rdmaWrite q => Sys2Proof.Machine.execRdmaWrite q s
  | .writeImm q => Sys2Proof.Machine.execWriteImm q s
  | .rdmaRead q => Sys2Proof.Machine.execRdmaRead q s
  | .xferRelease n => Sys2Proof.Machine.execXferRelease n s
  | .wrComplete q => Sys2Proof.Machine.execWrComplete q s
  | .roceRetransmitTimeout q => Sys2Proof.Machine.execRoceRetransmitTimeout q s
  | .cnp k => Sys2Proof.Machine.execCnp k s
  | .ccInterval => Sys2Proof.Machine.execCcInterval s
  | .baseRttReset => Sys2Proof.Machine.execBaseRttReset s
  | .ptpStep w p v => Sys2Proof.Machine.execPtpStep w p v s
  | .bypass d => Sys2Proof.Machine.execBypass d s
  | .idcode => Sys2Proof.Machine.execIdcode s
  | .samplePreload d => Sys2Proof.Machine.execSamplePreload d s
  | .extest d => Sys2Proof.Machine.execExtest d s
  | .extestPulse d => Sys2Proof.Machine.execExtestPulse d s
  | .extestTrain d => Sys2Proof.Machine.execExtestTrain d s
  | .scanDebug d => Sys2Proof.Machine.execScanDebug d s
  | .coreDebug d => Sys2Proof.Machine.execCoreDebug d s
  | .ieee1500Access n d => Sys2Proof.Machine.execIeee1500Access n d s
  | .registerWrite w o n d => Sys2Proof.Machine.execRegisterWrite w o n d s
  | .regionInitDone => Sys2Proof.Machine.execRegionInitDone s
  | .appendDone q => Sys2Proof.Machine.execAppendDone q s
  | .stackFailure st => Sys2Proof.Machine.execStackFailure st s
  | .vinAux3v3Rise => Sys2Proof.Machine.execVinAux3v3Rise s
  | .pldmType0 m => Sys2Proof.Machine.execPldmType0 m s
  | .acknowledgementInterval p => Sys2Proof.Machine.execAcknowledgementInterval p s
  | .onDieEccStatusRead st => Sys2Proof.Machine.execOnDieEccStatusRead st s

end Sys2Proof.Machine
end

