-- ==== Sys2Proof/Safety.lean ====
section
/-!
DEFINITION. The terms that statements use: what a command answers, a store that reaches its register, a change that only writes
records, and the one-way order of the fuses.
-/

namespace Sys2Proof.Machine

/-- The device as a command finds it: what left with the last command is gone. -/
def State.fresh (s : State) : Dev := { s.dev with out := [] }

/-- A command answers a next state: the device is `d`, the fuses and the queue stay. -/
def Does (c : Instr) (s : State) (d : Dev) : Prop := exec c s = .next { s with dev := d }

/-- A requester runs: power is on, and a control core does not stand still in NIGHT (R319). -/
def State.runs (s : State) : Who → Bool
  | .core _ _ => s.dev.pins.on && decide (s.dev.get R.PWR_STATE_DEV_STATE ≠ 5)
  | _ => s.dev.pins.on

/-- A store of a requester to a control offset reaches the register (R24, R319, R329). -/
abbrev State.takes (s : State) (w : Who) (o : Nat) : Prop := s.runs w = true ∧ s.fresh.gate w o true = .pass

/-- The registers that writing a record may change: the error log, ECC_INJECT (a planted error is spent by a write), MGMT_ERR
and the event rings. -/
def logReg (o : Nat) : Bool :=
  o == R.ECC_ERR || o == R.ECC_LOG_0 || o == R.ECC_LOG_1 || o == R.ECC_INJECT || o == R.MGMT_ERR ||
    (decide (R.MGMT_RING_W0 0 ≤ o) && decide (o < R.MGMT_RING_W0 16))

/-- `d'` differs from `d` only by records written: HBM, counters, records and what leaves may differ, the registers of
`logReg`, and on tiles the stale marks of streams' buckets with near-cache lines (R121); nothing else. -/
structure LogOnly (d d' : Dev) : Prop where
  reg : ∀ o, logReg o = false → d'.reg o = d.reg o
  eff : d'.eff = d.eff
  cist : d'.cist = d.cist
  flash : d'.flash = d.flash
  tiles : ∀ t, ∃ l n, d'.tile t = { d.tile t with streams := l, nc := n }
  ops : d'.ops = d.ops
  nextOp : d'.nextOp = d.nextOp
  beat : d'.beat = d.beat
  img : d'.img = d.img
  kv : d'.kv = d.kv
  exp : d'.exp = d.exp
  wgq : d'.wgq = d.wgq
  tel : d'.tel = d.tel
  upd : d'.upd = d.upd
  pwr : d'.pwr = d.pwr
  pins : d'.pins = d.pins
  trust : d'.trust = d.trust
  jtag : d'.jtag = d.jtag
  eth : d'.eth = d.eth
  agx : d'.agx = d.agx
  ports : d'.ports = d.ports
  trees : d'.trees = d.trees

/-- The fuses stand within their banks (R337, R338). -/
def Otp.wf (o : Otp) : Prop := o.svn ≤ 64 ∧ o.owner.length ≤ 8

/-- One-time memory only gains (R337, R338): no fuse of the thermometer unburns, and no owner bank changes once programmed. -/
def Otp.le (a b : Otp) : Prop := a.svn ≤ b.svn ∧ a.owner <+: b.owner

/-- `d'` is `d` with at most the register at control offset `o` changed. -/
def Dev.storedAt (d : Dev) (o : Nat) (d' : Dev) : Prop := d' = d.setWord o (d'.reg o)

/-- Tile t runs an operation of a class that has results to give. -/
def Dev.works (d : Dev) (t cls : Nat) (x : Exec) : Prop := (d.tile t).exec = some x ∧ odClass x.desc = cls ∧ x.done = false

/-- The steps of tile t that have been issued and not ended end in turn, `f` forming the results of each. -/
def Dev.stepsEnd (d : Dev) (t : Nat) (x : Exec) (plan : Dev → Steps) (f : Dev → Nat → Dev) : Dev :=
  ((List.range (x.step - x.worked)).foldl (fun (e : Dev) i => (f e (x.worked + i)).stepFree t (plan e) (x.worked + i)) d).stepsDone t

/-- The device as the next word of a program finds it: at the start of a tensor its program has been fetched (R126). -/
def Dev.wordDev (d : Dev) (t : Nat) (x : Exec) (y : Work) : Dev :=
  if (d.tile t).vec.running then d else d.fetchProgram t (if odClass x.desc = 0x20 then vdProg x.desc else trProg y.r)

/-- The next word of the program on tile t is `w`, of opcode `op`, and it runs at a position. -/
def Dev.wordAt (d : Dev) (t op : Nat) (x : Exec) (y : Work) (npos : Nat) (prog : List Nat) (c : VecCtx) (w : Nat) : Prop :=
  d.vecReady t = some (x, y, npos, prog, c) ∧ prog.getD c.pc 0 = w ∧ iwOpc w = op ∧ (0 < npos ∨ c.pc ≠ bodyStart prog c.phase)

/-- The vector unit of tile t, its registers set and its pc at the next word. -/
def Dev.vecNext (d : Dev) (t : Nat) (c : VecCtx) : Dev := d.setTile t { d.tile t with vec := { c with pc := c.pc + 1 } }

end Sys2Proof.Machine
end

