-- ==== Sys2Proof/Certificates/Slice0/Obligations.lean ====
section
/-!
DEFINITION. The statements for the provers. `s.fresh` is the device as a command finds it; `Does c s d` says that command c
answers a next state in state s, with the device d and with fuses and queue unchanged, so that what d equals is both the
result and the frame.
-/

section
open Sys2Proof Sys2Proof.Machine

/-! ### The block and its commands -/

/-- One step runs the command at the front of the queue with the rest waiting; an empty queue idles (log entry 1). -/
def Obligations.StepRunsFront : Prop :=
  (∀ (c : Instr) (q : List Instr) (s : State), s.pending = c :: q → step s = exec c { s with pending := q }) ∧
  (∀ s : State, s.pending = [] → step s = .next s)

/-- Every command answers a next state, with the queue as it was; the test-port commands of R353 alone stop, and only while
TEST_ENABLE is 1. -/
def Obligations.OnlyTestPortStops : Prop :=
  ∀ (c : Instr) (s : State), (∃ t, exec c s = .next t ∧ t.pending = s.pending) ∨
    (exec c s = .refused .testPort ∧ s.dev.testEnable = true ∧
      ((∃ b, c = .scanDebug b) ∨ (∃ b, c = .coreDebug b) ∨ ∃ n b, c = .ieee1500Access n b))

/-- Every step keeps the fuses within their banks and one-way: the thermometer of FUSE_SVN never falls, and the owner banks
only gain entries (R337, R338). -/
def Obligations.FusesOneWay : Prop :=
  ∀ s t : State, s.otp.wf → step s = .next t → t.otp.wf ∧ s.otp.le t.otp

/-- After cold reset every field of every listed register holds the value that its field table gives (R8; "HW" and "—" stand as 0 in the
tables: log entry 2), memory lists nothing, no fuse is burnt, no operation runs and no command waits. -/
def Obligations.ResetValues : Prop :=
  (∀ o row ix F, findRow o = some (row, ix) → F ∈ row.fields → State.reset.dev.get ⟨o, F.f.hi, F.f.lo⟩ = F.rst) ∧
  State.reset.dev.hbm.cells = [] ∧ Memory.wf State.reset.dev.hbm.cells = true ∧ State.reset.otp.wf ∧ State.reset.dev.ops = [] ∧ State.reset.pending = []

/-! ### The beat (spec/02_beat.md) -/

/-- R31: beat a is at or after beat b when (a − b) mod 2^48 < 2^47: over the integers. -/
def Obligations.BeatCompare : Prop :=
  ∀ a b : Nat, (beatGe a b = true ↔ ((a : Int) - b) % 2 ^ 48 < 2 ^ 47) ∧
    (beatGt a b = true ↔ ((a : Int) - b) % 2 ^ 48 < 2 ^ 47 ∧ ((a : Int) - b) % 2 ^ 48 ≠ 0) ∧ beatAdd a b = (a + b) % 2 ^ 48

/-- BEAT_ENABLE, BEAT_DISABLE and BEAT_PERIOD_WRITE complete wherever the store is accepted: with no image active, ENABLE written 1 in
UNLOCKED begins ACQUIRE, written 0 it gives UNLOCKED at once; the period takes 5,000 to 1,250,000 and is ignored with PERIOD_RANGE
outside, and stays while an image is active (R7, R26, R28). -/
def Obligations.BeatControl : Prop :=
  ∀ (s : State) (w : Who) (v : Nat), v < 2 ^ 64 →
    (s.dev.imageActive = false →
      (s.takes w R.BEAT_CTL → s.dev.lockState = 0 → ∃ d, s.fresh.storedAt R.BEAT_CTL d ∧ d.flag R.BEAT_CTL_ENABLE = true ∧
        d.get R.BEAT_CTL_SRC = R.BEAT_CTL_SRC.of v ∧ d.get R.BEAT_CTL_MASTER = R.BEAT_CTL_MASTER.of v ∧
        d.get R.BEAT_CTL_HOLDOVER_MAX = R.BEAT_CTL_HOLDOVER_MAX.of v ∧
        let beat := { d.beat with prev := none, inWin := 0, missed := 0, learned := none, heard := [], matched := none, lastSeals := false }
        exec (.beatEnable w v) s = .next { s with dev := ({ d with beat := beat } : Dev).lockTo 1 }) ∧
      (s.takes w R.BEAT_CTL → s.dev.lockState ≠ 0 → ∃ d, s.fresh.storedAt R.BEAT_CTL d ∧ d.flag R.BEAT_CTL_ENABLE = false ∧
        d.get R.BEAT_CTL_SRC = R.BEAT_CTL_SRC.of v ∧
        let beat := { d.beat with
          prev := none, inWin := 0, missed := 0, learned := none, heard := [], matched := none, holdover := false, lastSeals := false }
        exec (.beatDisable w v) s = .next { s with dev := { d.set R.BEAT_STATUS_LOCK_STATE 0 with beat := beat } }) ∧
      (s.takes w R.BEAT_PERIOD → 5000 ≤ bits v 20 0 → bits v 20 0 ≤ 1250000 →
        exec (.beatPeriodWrite w v) s = .next { s with dev := s.fresh.set R.BEAT_PERIOD_PERIOD_TICKS (bits v 20 0) }) ∧
      (s.takes w R.BEAT_PERIOD → bits v 20 0 < 5000 ∨ 1250000 < bits v 20 0 →
        exec (.beatPeriodWrite w v) s = .next { s with dev := s.fresh.raise1 R.BEAT_ERR_PERIOD_RANGE 0 })) ∧
    (s.dev.imageActive = true → s.takes w R.BEAT_PERIOD →
      let d := if bits v 20 0 = s.dev.period then s.fresh else s.fresh.accErr R.GLB_ACC_ERR_RWI_REJECT w R.BEAT_PERIOD true
      (5000 ≤ bits v 20 0 → bits v 20 0 ≤ 1250000 → exec (.beatPeriodWrite w v) s = .next { s with dev := d }) ∧
      (bits v 20 0 < 5000 ∨ 1250000 < bits v 20 0 →
        exec (.beatPeriodWrite w v) s = .next { s with dev := d.raise1 R.BEAT_ERR_PERIOD_RANGE 0 }))

/-- BEAT_MARK, MARK, MARK_MISSING, BEAT_BOUNDARY and HOLDOVER_MAX_REACHED complete in the states of Table 2.1 in which they may come:
marks in LOCKED and ACQUIRE, the third missing mark, the boundaries of HOLDOVER and of a master, and the end of HOLDOVER, after which only
the seals of its last boundary still leave (R27–R29, R152; log entries 50 and 51). -/
def Obligations.BeatMarks : Prop :=
  ∀ (s : State) (t tod : Nat),
    -- a mark in the window of LOCKED is a boundary
    (∀ q, s.dev.fabric = false → s.dev.pins.on = true → s.dev.pins.refLost = false → s.dev.lockState = 2 → s.dev.beat.prev = some q →
      t ≤ q + s.dev.period + 64 → q + s.dev.period ≤ t + 64 →
      exec (.beatMark t tod) s =
        .next { s with dev := ({ s.fresh with beat := { s.dev.beat with prev := some t, missed := 0 } } : Dev).boundary tod }) ∧
    -- outside it, the mark is late or early and the beat runs on
    (∀ q, s.dev.fabric = false → s.dev.pins.on = true → s.dev.pins.refLost = false → s.dev.lockState = 2 → s.dev.beat.prev = some q →
      (q + s.dev.period + 64 < t ∨ t + 64 < q + s.dev.period) →
      let late : Bool := 2 * ((t - q) % max 1 s.dev.period) < s.dev.period
      exec (.beatMark t tod) s =
        .next { s with dev := s.fresh.raise1 (if late then R.BEAT_ERR_MARK_LATE else R.BEAT_ERR_MARK_EARLY) 0 }) ∧
    -- the eighth mark in a row in window locks, with the beat number learned
    (∀ q n, s.dev.fabric = false → s.dev.pins.on = true → s.dev.pins.refLost = false → s.dev.lockState = 1 → s.dev.beat.prev = some q →
      t ≤ q + s.dev.period + 64 → q + s.dev.period ≤ t + 64 → s.dev.beat.learned = some n → 7 ≤ s.dev.beat.inWin →
      let beat := { s.dev.beat with prev := some t, heard := [], inWin := s.dev.beat.inWin + 1, learned := some (beatAdd n 1) }
      exec (.beatMark t tod) s = .next { s with dev := ({ s.fresh with beat := beat } : Dev).lockOn (beatAdd n 1) }) ∧
    -- a mark flit of the uplink is taken, forwarded one deeper, and corrected by half the round trip
    (∀ k a d beat depth, s.dev.agx.inbox[k]? = some a → s.fresh.takeIn k = some (a, d) → a.item = .mark beat depth → d.fabric = true →
      d.master = false → a.ingress = d.uplink → depth ≤ 4 →
      let e := (d.set R.BEAT_STATUS_UPLINK_USED a.ingress).sendMarks beat (depth + 1)
      exec (.markFlit k t tod) s = .next { s with dev := e.mark (t - e.get (R.AGX_PORT_RTT_TICKS a.ingress) / 2) tod (some beat) }) ∧
    -- a missing mark is a boundary; the third in a row begins HOLDOVER
    (s.dev.lockState = 2 → s.dev.master = false →
      let beat := { s.dev.beat with prev := s.dev.beat.prev.map (· + s.dev.period), missed := s.dev.beat.missed + 1 }
      let d := (({ s.fresh with beat := beat } : Dev).raise1 R.BEAT_ERR_MARK_MISSING 0).boundary tod
      (s.dev.beat.missed < 2 → exec (.markMissing tod) s = .next { s with dev := d }) ∧
      (2 ≤ s.dev.beat.missed →
        let e := (d.set R.BEAT_STATUS_HOLDOVER_BEATS 0).set R.BEAT_STATUS_LOCK_STATE 3
        let g : Dev := { e with beat := { e.beat with inWin := 0, matched := none, holdover := true } }
        exec (.markMissing tod) s = .next { s with dev := g.raise1 R.BEAT_ERR_HOLDOVER_ENTERED 0 })) ∧
    -- HOLDOVER: the timebase makes the boundary, and counts it
    (∀ q, s.dev.lockState = 3 → s.dev.beat.prev = some q → s.dev.get R.BEAT_STATUS_HOLDOVER_BEATS < s.dev.get R.BEAT_CTL_HOLDOVER_MAX →
      let d : Dev := { s.fresh with beat := { s.dev.beat with prev := some (q + s.dev.period) } }
      let e := d.set R.BEAT_STATUS_HOLDOVER_BEATS (s.dev.get R.BEAT_STATUS_HOLDOVER_BEATS + 1)
      exec (.beatBoundary tod) s = .next { s with dev := e.boundary tod }) ∧
    -- a locked master makes each boundary, and sends the mark
    (∀ q, s.dev.lockState = 2 → s.dev.master = true → s.dev.beat.prev = some q →
      let d := ({ s.fresh with beat := { s.dev.beat with prev := some (q + s.dev.period) } } : Dev).boundary tod
      exec (.beatBoundary tod) s = .next { s with dev := d.sendMarks d.beatNow 0 }) ∧
    -- HOLDOVER_MAX: the beat is lost
    (s.dev.lockState = 3 → s.dev.get R.BEAT_CTL_HOLDOVER_MAX ≤ s.dev.get R.BEAT_STATUS_HOLDOVER_BEATS →
      let d := s.fresh.beatDisable
      exec .holdoverMaxReached s = .next { s with dev := ({ d with beat := { d.beat with lastSeals := true } } : Dev).raise1 R.BEAT_ERR_LOST 0 })

/-- BEAT_ENTRY_WRITE, BEAT_PAGE_BASE_WRITE, PAGE_SWAP_ARM and PAGE_SWAP_WITHDRAW complete wherever the store is accepted (R32, R35): an
entry's word is taken with its reserved bits 0 while its page is IDLE, else refused with ENTRY_WRITE_REJECT; an armed page swap stages an
idle page, and withdrawing it frees that page. -/
def Obligations.BeatTableWrites : Prop :=
  ∀ (s : State) (w : Who) (v : Nat), v < 2 ^ 64 →
    (∀ e k, e < 8192 → k < 4 → s.takes w (R.BEAT_ENTRY e k) → s.dev.pageState (e / 1024) = 0 →
      exec (.beatEntryWrite w e k v) s = .next { s with dev := s.fresh.setWord (R.BEAT_ENTRY e k) (BitVec.ofNat 64 (v &&& entryMask k)) }) ∧
    (∀ e k, e < 8192 → k < 4 → s.takes w (R.BEAT_ENTRY e k) → s.dev.pageState (e / 1024) ≠ 0 →
      exec (.beatEntryWrite w e k v) s = .next { s with dev := s.fresh.raise1 R.BEAT_ERR_ENTRY_WRITE_REJECT e }) ∧
    (∀ n, n < 8 → s.takes w (R.BEAT_PAGE n) → s.dev.pageState n = 0 →
      exec (.beatPageBaseWrite w n v) s = .next { s with dev := s.fresh.set (R.BEAT_PAGE_BASE_BEAT n) (bits v 47 0) }) ∧
    (∀ n, n < 8 → s.takes w (R.BEAT_PAGE n) → s.dev.pageState n ≠ 0 →
      exec (.beatPageBaseWrite w n v) s = .next { s with dev := s.fresh.raise1 R.BEAT_ERR_ENTRY_WRITE_REJECT n }) ∧
    (s.takes w R.BEAT_PAGE_SWAP → s.dev.beat.staged = none → s.dev.pageState (bits v 2 0) = 0 →
      let d := ((s.fresh.set R.BEAT_PAGE_SWAP_OUT_VALID (bits v 7 7)).set R.BEAT_PAGE_SWAP_OUT (bits v 6 4)).set
        R.BEAT_PAGE_SWAP_IN (bits v 2 0)
      let e := (d.set R.BEAT_PAGE_SWAP_ARM 1).set (R.BEAT_PAGE_STATE (bits v 2 0)) 1
      exec (.pageSwapArm w v) s = .next { s with dev := { e with beat := { s.dev.beat with staged := some (bits v 2 0) } } }) ∧
    (∀ p, s.takes w R.BEAT_PAGE_SWAP → s.dev.beat.staged = some p → s.dev.pageState p = 1 →
      let d := (((s.fresh.set (R.BEAT_PAGE_STATE p) 0).set R.BEAT_PAGE_SWAP_OUT_VALID (bits v 7 7)).set R.BEAT_PAGE_SWAP_OUT (bits v 6 4)).set
        R.BEAT_PAGE_SWAP_IN (bits v 2 0)
      let e := d.set R.BEAT_PAGE_SWAP_ARM 0
      exec (.pageSwapWithdraw w v) s = .next { s with dev := { e with beat := { s.dev.beat with staged := none } } })

/-! ### Entries, operations and steps (spec/02_beat.md, spec/04_tile_array.md, spec/12_backward.md) -/

/-- ENTRY_START, FILLER_START and STREAM_PRIME complete where they may happen: an entry that may start counts its waits and its slip, takes its tokens and starts
its operation; an early start opens the EARLY streams (R33, R34, R36, R117). -/
def Obligations.EntriesStart : Prop :=
  ∀ (s : State) (e : Nat),
    (∀ fill urg full sealw,
      let c := s.fresh.checkDue
      deferring (c.entry e) (c.opDesc (entOp (c.entry e))) = false → c.mainStartable e = true →
      let d := ((((c.entryWait e 2 (fill + urg)).entryWait e 3 sealw).count R.BEAT_FILL_FILL_DELAY_CYCLES fill).count
        R.WGQ_WAIT_URGENT_WAIT_CYCLES urg).count R.WGQ_WAIT_FULL_CYCLES 0
      exec (.entryStart e fill urg full sealw) s =
        .next { s with dev := (((d.countSlip e).takeEntry e).startOp (d.opOfEntry e false)).refreshWaiting }) ∧
    (∀ left sealw,
      let c := s.fresh.checkDue
      c.fillerStartable e left = true → (c.get R.WGQ_CTL_PRIORITY = 0 → c.sliceWants (entGroup (c.entry e)) left = false) →
      let d := ((c.entryWait e 3 sealw).countSlip e).takeEntry e
      exec (.fillerStart e left sealw) s = .next { s with dev := (d.startOp (c.opOfEntry e true)).refreshWaiting }) ∧
    (∀ t,
      let c := s.fresh
      let tiles := c.groupSites (entGroup (c.entry e))
      let desc := c.opDesc (entOp (c.entry e))
      c.isDue e = true → c.entryInRange (c.entry e) = true → tiles.contains t = true → c.alive = true → c.tileReady t = true →
      (∀ f, f ∈ c.dueEntries → f = e) → deferring (c.entry e) desc = false → c.descFault t desc (c.rankOf tiles desc t) tiles = none →
      (c.tile t).streams = [] →
      let d := (c.openings t desc (c.rankOf tiles desc t)).foldl (fun (d : Dev) o =>
        if o.ordered || !sdEarly (d.streamDesc o.strm) || sdOut (d.streamDesc o.strm) ||
          (d.tile t).streams.any (fun x => x.primed && x.op = e && decide (x.role = o.role)) then d else d.openStream t e true o) c
      exec (.streamPrime t e) s = .next { s with dev := (d.prepare t).refreshPump t })

/-- STEP_ISSUE completes on a tile that runs an operation: what issue is held for counts first; then the step issues when every stream of every
tile that runs it has what it needs, and else each tile's wait is counted under its own cause (R72, R73, R76, R119, R186, R324). -/
def Obligations.StepsIssue : Prop :=
  ∀ (s : State) (t stall exec array exposed left bank window : Nat) (x : Exec), (s.dev.tile t).exec = some x →
    let b := ((s.fresh.pumpCycles t exec).cistCycles t bank window).busyCycles t x exec
    let ts := b.stepTiles t x.desc
    let does (d : Dev) : Prop := Machine.exec (.stepIssue t stall exec array exposed ⟨left, bank, window⟩) s = .next { s with dev := d }
    x.done = false → b.alive = true → b.gangMember t x.desc = false → (∀ m ∈ ts, (b.tile m).exec.elim true (·.halted) = false) →
    let z := b.throttle ts stall
    let e := z.1
    let rest := z.2.1
    let held := z.2.2
    let d := ts.foldl (fun (d : Dev) m => (d.prepare m).refreshPump m) (if odClass x.desc = 0x30 then e.openGradients t x else e)
    let p := d.stepsOf t x
    (held = true → does e) ∧
    (held = false → isAttn (odClass x.desc) = false → x.step < p.count → d.updateHeld x = false →
      (d.stepShort t x.desc p x.step = true → does (d.ringHalt t x.desc)) ∧
      (d.stepShort t x.desc p x.step = false →
        ((∀ m ∈ d.stepTiles t x.desc, ∃ y, (d.tile m).exec = some y ∧ d.waitsFor m y p x.step = none) → (d.sliceGate t left x).2 = true →
          does ((d.sliceGate t left x).1.stepGo t x p array exposed)) ∧
        (∀ m y, m ∈ d.stepTiles t x.desc → (d.tile m).exec = some y → (d.waitsFor m y p x.step).isSome = true →
          does (d.stepWaits t x p rest)))) ∧
    (held = false → d.updateHeld x = true → x.step < p.count → does ((d.stepWait t none 1 rest).count R.UPD_WAIT_RET_WAIT_CYCLES rest)) ∧
    -- the attention engine plans its next step itself
    (held = false → isAttn (odClass x.desc) = true → x.step ≤ (d.tile t).attn.ran → (d.attnPlan t x 70000).2 = none →
      let h := ((d.attnPlan t x 70000).1.prepare t).refreshPump t
      (h.tile t).attn.fin = false → h.attnShort t x = false →
      (h.attnWaits t x = none → does (h.attnGo t x array exposed)) ∧
      ((h.attnWaits t x).isSome = true → does (h.stepWait t (h.attnWaits t x) 0 rest)))

/-- OP_COMPLETE and WGQ_COMPLETE complete once every tile has formed its results: the tiles are free, the operation is gone, its signals
are posted, and a deferred product's slot is free and counted (R74, R255). -/
def Obligations.OperationsComplete : Prop :=
  ∀ (s : State) (o : Op),
    let f := s.fresh.freeTiles o
    let d := ((({ f with ops := f.ops.filter fun y => y.id ≠ o.id } : Dev).copiesRead o.id).postSig o.sig0).postSig o.sig1
    (∀ i e, s.fresh.opOf i = some o → o.wgq = none → o.entry = some e → s.fresh.opDone o = true → o.report = false → o.deadline = none →
      exec (.opComplete i) s = .next { s with dev := (d.pageDrained (e / 1024)).refreshWaiting }) ∧
    (∀ n, (s.dev.ops.find? fun o => o.wgq = some n) = some o → s.fresh.opDone o = true → o.report = false →
      let g : Dev := { d with wgq := { d.wgq with masks := d.wgq.masks.filter fun m => m.slot ≠ n } }
      exec (.wgqComplete n) s = .next { s with dev := (g.setWgq n 0).count R.WGQ_POST_COMPLETED 1 })

/-- WGQ_SLICE_START completes: an URGENT entry that is first on its free tiles runs a slice; another one, once its tiles are filler-open and
its next block fits in the beat (R252–R254). -/
def Obligations.SlicesStart : Prop :=
  ∀ (s : State) (n left : Nat),
    let q := s.fresh.wgqEntry n
    (wqUrgent q = true → wqState q = 1 ∨ wqState q = 3 → s.fresh.wgqFirst n = true → s.fresh.groupFree (wqGroup q) = true →
      s.fresh.alive = true → exec (.wgqSliceStart n left) s = .next { s with dev := s.fresh.sliceRun n }) ∧
    (wqUrgent q = false → s.fresh.sliceOpen n left = true → s.dev.get R.WGQ_CTL_PRIORITY = 0 →
      exec (.wgqSliceStart n left) s = .next { s with dev := s.fresh.sliceRun n }) ∧
    (wqUrgent q = false → s.fresh.sliceOpen n left = true → s.dev.get R.WGQ_CTL_PRIORITY ≠ 0 →
      s.fresh.fillerWants (wqGroup q) left = false → exec (.wgqSliceStart n left) s = .next { s with dev := s.fresh.sliceRun n })

/-! ### Seals, silence and fences (spec/02_beat.md, spec/07_agxis_links.md, spec/08_agxis_collectives.md) -/

/-- SEAL_SEND, SEAL_STAGE_SEND, BEAT_SEAL, PORT_SILENT and FENCE_NOTE complete where each may happen (R29, R39, R151, R167, R169). -/
def Obligations.Seals : Prop :=
  ∀ (s : State) (p : Nat),
    -- stage 0 of the next beat's seal leaves once what this device queued before that beat's end has left
    (∀ b, (s.dev.port p).sent.getD 0 none = some b → s.fresh.sealPort p = true → beatGt s.dev.beatNow (beatAdd b 1) = true →
      (∀ q, q ∈ (s.dev.port p).txq → q.relay.isSome = true ∨ beatGe (beatAdd b 1) q.beat = false) →
      let d := s.fresh.setPort p { s.dev.port p with sent := (s.dev.port p).sent.set 0 (some (beatAdd b 1)) }
      exec (.sealSend p) s = .next { s with dev := d.sendCtl p 2 (s.fresh.sealBytes (beatAdd b 1) 0) }) ∧
    -- a later stage follows, the lowest that is due, once the stage before it has arrived on every other port of the set, and what came
    -- before that has gone on
    (∀ h b c, 1 ≤ h → h ≤ 3 → (s.dev.port p).sent.getD h none = some b → (s.dev.port p).sent.getD (h - 1) none = some c →
      beatGe c (beatAdd b 1) = true →
      (∀ g, 1 ≤ g → g < h → ∃ x y, (s.dev.port p).sent.getD g none = some x ∧ (s.dev.port p).sent.getD (g - 1) none = some y ∧
        beatGe y (beatAdd x 1) = false) →
      (∀ q, q ∈ s.fresh.sealSet → q ≠ p →
        s.fresh.sealCameBy q (h - 1) (beatAdd b 1) = true ∧ s.fresh.sealHeldBy p q (h - 1) (beatAdd b 1) = false) →
      s.fresh.sealPort p = true → exec (.sealStageSend p) s = .next { s with dev := s.fresh.sealOut p h (beatAdd b 1) }) ∧
    -- a seal is taken, and counts for the beat that it names; one that does not continue its series in a beat of its own is reported
    (∀ k a d (beat stage : Nat) (holdover : Bool), s.dev.agx.inbox[k]? = some a → s.fresh.takeIn k = some (a, d) → a.item = .seal beat stage holdover →
      s.fresh.sealMayPass k a.ingress = true →
      let u := d.port a.ingress
      let taken (e : Dev) : Dev := e.setPort a.ingress { e.port a.ingress with
        seals := u.seals.set stage (some beat), named := u.named.set stage (nameBeat (u.named.getD stage []) beat) }
      let expected := beatGt d.beatNow beat && (u.seals.getD stage none).all fun b => decide (beat = beatAdd b 1)
      (d.beating = true → expected = true → exec (.beatSeal k) s = .next { s with dev := (taken d).refreshSeals }) ∧
      (d.beating = true → expected = false → Does (.beatSeal k) s (taken (d.raise1 R.BEAT_ERR_SEAL_MISMATCH a.ingress)).refreshSeals) ∧
      -- in ACQUIRE a seal of the last stage may teach the beat number
      (d.lockState = 1 → stage = 3 → Does (.beatSeal k) s ((taken d).hearSeal a.ingress beat).refreshSeals)) ∧
    -- a port silent at SILENT_BEATS boundaries leaves the set
    (p < 36 → s.dev.get R.AGX_HB_CTL_SILENT_BEATS ≠ 0 → s.dev.get R.AGX_HB_CTL_SILENT_BEATS ≤ (s.dev.port p).silentRun →
      s.fresh.inSet p = true →
      let d := s.fresh.setPort p { s.dev.port p with inSet := false, joinReady := false, silentRun := 0 }
      Does (.portSilent p) s (((d.set R.AGX_SILENT_PORTS (s.dev.get R.AGX_SILENT_PORTS ||| 2 ^ p)).event R.AGX_SILENT_PORTS
        (s.dev.get (R.AGX_PORT_STATUS_PEER_ID p)) noArg noArg).refreshSeals)) ∧
    -- a fence note that names this device
    (∀ k q pl d, s.fresh.takeCtl k 0x25 = some (q, pl, d) → recNat pl 0 2 = d.id → d.agx.fenced = false →
      Does (.fenceNote k) s (({ d with agx := { d.agx with fenced := true } } : Dev).fencedDrop.raise1 R.AGX_VER_2_FENCED_SELF (recNat pl 2 6)))

/-! ### Images (spec/03_melum_images.md) -/

/-- Stores that command the loader, slots and page copies: GO on a slot that is EMPTY or RETIRED, GO with RESTAGE on a RETIRED one,
a slot made free, a library page copied into an IDLE page; and their refusals (R55, R59, R61). -/
def Obligations.ImageWrites : Prop :=
  ∀ (s : State) (w : Who) (v : Nat), v < 2 ^ 64 →
    (s.takes w R.IMG_LOAD → s.dev.get R.IMG_STATUS_LOAD_BUSY = 0 → s.dev.get R.IMG_STATUS_SWAP_PHASE = 0 →
      (s.dev.slotState (v % 2) = 0 ∨ s.dev.slotState (v % 2) = 4) →
      let d (r : Bool) : Dev := { s.fresh with img := { s.dev.img with loading := some (v % 2, r) } }
      let go (d : Dev) : Dev := (((d.set (slotField (v % 2)) 1).set R.IMG_STATUS_LOAD_BUSY 1).set R.IMG_LOAD_STATUS_CODE 0xFF).set
        R.IMG_LOAD_STATUS_DETAIL 0
      Does (.imgLoadGo w v) s (go (d false)) ∧
      Does (.imgLoadRestage w v) s (go (d (decide (s.dev.slotState (v % 2) = 4))))) ∧
    (s.takes w R.IMG_LOAD → s.dev.get R.IMG_STATUS_LOAD_BUSY = 1 →
      Does (.imgLoadGo w v) s (((s.fresh.set R.IMG_LOAD_STATUS_CODE 1).set R.IMG_LOAD_STATUS_DETAIL 0).event R.IMG_LOAD_STATUS_CODE 0 noArg noArg)) ∧
    (s.takes w R.IMG_SLOT_FREE → s.dev.slotState (v % 2) ≠ 1 → s.dev.slotState (v % 2) ≠ 3 → s.dev.img.activating ≠ some (v % 2) →
      Does (.imgSlotFree w v) s { (s.fresh.set (slotField (v % 2)) 0) with
        img := { s.dev.img with stagedPlaces := s.dev.img.stagedPlaces.filter fun x => x.1 ≠ v % 2 } }) ∧
    (s.takes w R.IMG_SLOT_FREE → s.dev.slotState (v % 2) = 3 →
      Does (.imgSlotFree w v) s (s.fresh.raise1 R.IMG_ERR_SLOT_FREE_REJECT (v % 2))) ∧
    (let d := (s.fresh.set R.IMG_PAGE_COPY_HW_PAGE (bits v 18 16)).set R.IMG_PAGE_COPY_LIB_PAGE (bits v 9 0)
     let n := s.dev.libCounts s.dev.activeBase
     s.takes w R.IMG_PAGE_COPY → s.dev.imageActive = true → s.dev.get R.IMG_PAGE_COPY_BUSY = 0 → s.dev.pageState (bits v 18 16) = 0 →
      bits v 9 0 < n.1 + n.2 →
      Does (.imgPageCopy w v) s { (d.set R.IMG_PAGE_COPY_BUSY 1) with img := { s.dev.img with copying := some (bits v 9 0, bits v 18 16) } }) ∧
    (s.takes w R.IMG_RETILE → s.dev.retileAllowed (bits v 8 0) (bits v 24 16) = true →
      Does (.imgRetile w v) s (((s.fresh.set R.IMG_RETILE_SPARE (bits v 24 16)).set R.IMG_RETILE_TARGET (bits v 8 0)).set R.IMG_RETILE_ARM 1)) ∧
    (s.takes w R.IMG_RETILE → s.dev.retileAllowed (bits v 8 0) (bits v 24 16) = false →
      Does (.imgRetile w v) s ((((s.fresh.set R.IMG_RETILE_SPARE (bits v 24 16)).set R.IMG_RETILE_TARGET (bits v 8 0)).set R.IMG_RETILE_ARM 0).raise1
        R.IMG_ERR_RETILE_REJECT (bits v 8 0)))

/-- Stores to IMG_SWAP while no swap is past its armed phase: arming a swap to a STAGED slot or an unload, and withdrawing (R63).
AT_BEAT lies ahead, or the lock machine makes no beats. -/
def Obligations.SwapWrites : Prop :=
  ∀ (s : State) (w : Who) (v : Nat), v < 2 ^ 64 → s.takes w R.IMG_SWAP → s.dev.get R.IMG_STATUS_SWAP_PHASE < 2 →
    (s.dev.beating && beatGe s.dev.beatNow (v % 2 ^ 48)) = false →
    let d (arm unload : Nat) : Dev := (((s.fresh.set R.IMG_SWAP_ARM arm).set R.IMG_SWAP_UNLOAD unload).set R.IMG_SWAP_AT_BEAT (v % 2 ^ 48)).set
      R.IMG_STATUS_SWAP_PHASE arm
    let told (d : Dev) : Dev := d.event R.IMG_STATUS_SWAP_PHASE 0 noArg noArg
    (s.dev.stagedSlot ≠ none → Does (.imgSwapArm w v) s (told (d 1 0))) ∧
    Does (.imgUnload w v) s (told (d 1 1)) ∧
    (s.dev.get R.IMG_STATUS_SWAP_PHASE = 1 → Does (.imgSwapWithdraw w v) s (told (d 0 (bits v 62 62)))) ∧
    (s.dev.stagedSlot = none → Does (.imgSwapArm w v) s (s.fresh.raise1 R.IMG_ERR_SWAP_REJECT 0))

/-- What loading, activation and swapping do when a phase ends: the load result and the STAGED slot, waves of power, a reformat at
the image's strength, regions initialised, reconfiguration of an unload, a page copied (R55, R57, R59, R62, R63). -/
def Obligations.ImagePhases : Prop :=
  ∀ s : State,
    (∀ slot r, s.dev.img.loading = some (slot, r) →
      let d := ({ s.fresh with img := { s.dev.img with loading := none } } : Dev).set R.IMG_STATUS_LOAD_BUSY 0
      (∀ f, (s.fresh.img? slot).check r = .inl f → Does .imgLoadDone s ((d.set (slotField slot) 0).loadResult f.code f.detail)) ∧
      (∀ ps, (s.fresh.img? slot).check r = .inr ps →
        let e := d.set (slotField slot) 2
        Does .imgLoadDone s (({ e with img := { e.img with
          stagedPlaces := (slot, ps) :: e.img.stagedPlaces.filter fun x => x.1 ≠ slot } } : Dev).loadResult 0 0))) ∧
    (∀ slot, s.dev.stagedSlot = some slot → s.dev.img.actDue = true → s.dev.imageActive = false → s.dev.img.activating = none →
      s.dev.beating = true → (s.fresh.img? slot).strength = s.dev.strength →
      let img := { s.dev.img with activating := some slot, regionsDone := false, reformat := false, actDue := false, keep := [], windowsWait := true }
      Does .activationStart s ({ s.fresh with img := img, pwr := { s.dev.pwr with wave := poweredSites (s.dev.placesOf slot) } } : Dev).nextWave) ∧
    (∀ slot, s.dev.img.activating = some slot → s.dev.img.reformat = true → s.dev.powerSettled = true →
      let m := s.fresh.img? slot
      let ps := s.dev.placesOf slot
      let e := ({ s.fresh with hbm := { s.dev.hbm with cells := [], poison := [], bad := [] } } : Dev).setStrength m.strength
      let f := (({ e with hbm := { e.hbm with cells := stPut (fun _ => 0) e.hbm.cells (e.slotBase 0) (s.fresh.peek m.b m.size) } } : Dev).set
        (slotField 0) 2).set (slotField 1) 0
      let img := { f.img with reformat := false, activating := some 0, stagedPlaces := [(0, ps)], lastActive := none }
      Does .strengthReformat s (((s.fresh.formatSites slot (poweredSites ps)).drop (poweredSites ps).length).foldl Dev.disableUnit { f with img := img })) ∧
    (s.dev.get R.IMG_STATUS_SWAP_PHASE = 2 → s.dev.ops = [] → s.dev.flag R.IMG_SWAP_UNLOAD = true →
      let e := (poweredSites s.dev.img.places).foldl Dev.disableUnit (s.fresh.set R.IMG_SWAP_ARM 0)
      let img := { e.img with activating := none, unload := true, keep := [], windowsWait := true, regionsDone := true, reformat := false }
      Does .swapReconfig s ((({ e with img := img, pwr := { e.pwr with wave := [] } } : Dev).setPhase 3).nextWave).reconfigDone) ∧
    (∀ slot, s.dev.img.activating = some slot → s.dev.img.regionsDone = false → s.dev.img.reformat = false →
      (s.dev.imageActive = true ∨ s.dev.powerSettled = true) →
      let m := s.fresh.img? slot
      let e := m.regions.foldl (fun (x : Dev) r => x.initRegion m m.regions r) s.fresh
      Does .regionInitDone s ({ e with img := { e.img with regionsDone := true } } : Dev).reconfigDone) ∧
    (∀ lib page, s.dev.img.copying = some (lib, page) → s.dev.imageActive = true →
      let e := (s.fresh.loadPage page (s.dev.libPageAt s.dev.activeBase lib)).set R.IMG_PAGE_COPY_BUSY 0
      Does .pageCopyDone s { e with img := { e.img with copying := none } })

/-! ### Operation classes and program words (spec/04_tile_array.md, spec/05_number_formats.md, spec/13_update_commit.md) -/

/-- Each class's row ends the steps that have been issued, in turn: results are formed from what the tile holds, and leave; the buckets
read for the last time are freed. After the last step the tile has only its outputs left (R75, R83, R183, R199, R227, R234, R238,
R239, R244, R264, R312). SEND, PLAN, PREFETCH, RETURN and KAT form all results with their last step. -/
def Obligations.ClassesFormResults : Prop :=
  ∀ (s : State) (t : Nat) (x : Exec),
    let d := s.fresh
    let whole (plan : Dev → Steps) (f : Dev → TileUnit → Exec → Dev) : Dev :=
      d.stepsEnd t x plan fun e i => if i + 1 = x.steps then f e (e.tile t) x else e
    (d.works t 0x01 x → Does (.matmul t) s (d.stepsEnd t x (fun e => e.matSteps t x) fun e i => e.matStep t x i)) ∧
    (d.works t 0x02 x → Does (.matmulGrouped t) s (d.stepsEnd t x (fun e => e.matSteps t x) fun e i => e.matStep t x i)) ∧
    (d.works t 0x03 x → Does (.matmulWgrad t) s (d.stepsEnd t x (fun e => e.matSteps t x) fun e i => e.matStep t x i)) ∧
    (d.works t 0x13 x →
      let e := d.stepsEnd t x (fun _ => mergeSteps x.desc) fun e i => e.mergeBlock t x i
      (∀ y, (e.tile t).exec = some y → odClass y.desc = 0x13 →
        (y.done = true → Does (.attnMerge t) s (e.set (R.ATTN_STATUS_PHASE t) 0)) ∧ (y.done = false → Does (.attnMerge t) s e))) ∧
    (d.works t 0x20 x → (d.runAll t x).works t 0x20 x →
      Does (.vecProgram t) s ((d.runAll t x).stepsEnd t x (fun _ => vecSteps x.desc) fun e _ => e)) ∧
    (d.works t 0x30 x → (d.runAll t x).works t 0x30 x →
      Does (.updateOp t) s ((d.runAll t x).stepsEnd t x (fun e => (e.updateSteps t x).1) fun e _ => e)) ∧
    (d.works t 0x31 x → Does (.reduceLocal t) s (d.stepsEnd t x (fun _ => localSteps x.desc) fun e i => e.reduceStep t x i)) ∧
    (d.works t 0x40 x → Does (.convertOp t) s (d.stepsEnd t x (fun _ => localSteps x.desc) fun e i => e.convertStep t x i)) ∧
    (d.works t 0x41 x → Does (.copyGather t) s (d.stepsEnd t x (fun _ => localSteps x.desc) fun e i => e.copyStep t x i)) ∧
    (d.works t 0x21 x → Does (.routeTopk t) s (d.stepsEnd t x (fun _ => routeSteps x.desc) fun e i => e.routeStep t x i)) ∧
    (d.works t 0x23 x → cbGather x.desc = true →
      Does (.combineGather t) s (d.stepsEnd t x (fun _ => combineSteps x.desc) fun e i =>
        if x.rank = 0 ∧ cbDeferAdd x.desc = true ∧ i + 1 = cbRows x.desc then (e.gatherStep t x i).deferAdd t x.desc else e.gatherStep t x i)) ∧
    (x.planned = true → x.step = x.steps →
      (d.works t 0x22 x → dpMode x.desc = 0 → d.sendReady t = true →
        Does (.dispatchSend t) s (whole (fun _ => dispatchSteps x.desc) fun e u y => e.runSend t u y)) ∧
      (d.works t 0x22 x → dpMode x.desc = 1 → Does (.dispatchPlan t) s (whole (fun _ => dispatchSteps x.desc) fun e u y => e.runPlan t u y)) ∧
      (d.works t 0x22 x → dpMode x.desc = 2 →
        Does (.dispatchPrefetch t) s (whole (fun _ => dispatchSteps x.desc) fun e u y => e.runPrefetch t u y)) ∧
      (d.works t 0x23 x → cbGather x.desc = false →
        Does (.combineReturn t) s (whole (fun _ => combineSteps x.desc) fun e u y => e.runReturn t u y)) ∧
      (∀ ms, d.works t 0x50 x → Does (.kat t ms) s (whole (fun _ => katSteps x.desc) fun e u y => e.runKat t u y ms)))

/-- The words of a program that compute on vector registers, and those that load and store them: the next word runs, its result goes
to register D, and the pc moves on (R265–R267, Table 13.4). -/
def Obligations.VectorWords : Prop :=
  ∀ (s : State) (t : Nat) (x : Exec) (y : Work) (npos : Nat) (prog : List Nat) (c : VecCtx) (w : Nat),
    let d := (s.fresh.wordDev t x y).count (R.TILE_VEC_VEC_INSTR t) 1
    let does (op : Nat) (i : Instr) (r : Dev) : Prop := s.fresh.wordAt t op x y npos prog c w → Does i s r
    -- arithmetic, by lanes
    (∀ op i, (op, i) ∈ [(0x10, Instr.addV t), (0x11, .subV t), (0x12, .mulV t), (0x13, .fma t), (0x14, .maxV t), (0x15, .minV t), (0x16, .absV t),
        (0x18, .adds t), (0x19, .muls t), (0x1A, .fmas t), (0x1B, .bcast t)] → does op i (d.vecNext t (c.vecWord w))) ∧
    (∀ op i, (op, i) ∈ [(0x20, Instr.exp2 t), (0x21, .log2 t), (0x22, .rsqrt t), (0x23, .rcp t)] →
      does op i ((d.count (R.TILE_VEC_SFU_RESULTS t) 512).vecNext t (c.vecWord w))) ∧
    -- reductions gather over the active lanes
    does 0x28 (.rsumsq t) (d.vecNext t (c.reduce (iwD w) false ((c.vr (iwA w)).map fun v => f32Mul v v) (c.vpz (iwA w)) y.act)) ∧
    does 0x29 (.rsum t) (d.vecNext t (c.reduce (iwD w) false (c.vr (iwA w)) (c.vpz (iwA w)) y.act)) ∧
    does 0x2A (.rmaxabs t) (d.vecNext t (c.reduce (iwD w) true ((c.vr (iwA w)).map f32Abs) (c.vpz (iwA w)) y.act)) ∧
    -- loads; poison that arrives is noted
    (∀ op i, (op, i) ∈ [(1, Instr.ldp t), (2, .ldg t), (3, .lds t), (4, .ldw t), (5, .rstep t)] →
      (s.fresh.opOf x.op).elim false (·.obs) = false →
      let l := d.progLoad t x y w
      let e := if (laneVals l.2).2 = 0 then l.1 else l.1.poisonRead t x
      does op i (e.vecNext t (c.setV (iwD w) (laneVals l.2).1 (laneVals l.2).2))) ∧
    -- stores
    (∀ op i, (op, i) ∈ [(8, Instr.stp t), (9, .sts t), (0xA, .stw t)] → (s.fresh.opOf x.op).elim false (·.obs) = false →
      does op i ((d.progStore t x y c w).vecNext t c))

/-- The scalar words of a program: register D of the scalars takes the value, with the poison of what was read (R265–R270). -/
def Obligations.ScalarWords : Prop :=
  ∀ (s : State) (t : Nat) (x : Exec) (y : Work) (npos : Nat) (prog : List Nat) (c : VecCtx) (w : Nat),
    let d := s.fresh.wordDev t x y
    let a := c.sr (iwA w)
    let b := c.sr (iwB w)
    let pa := c.spz (iwA w)
    let pb := c.spz (iwB w)
    let does (op : Nat) (i : Instr) (r : Dev) : Prop := s.fresh.wordAt t op x y npos prog c w → Does i s r
    let sfu := d.count (R.TILE_VEC_SFU_RESULTS t) 1
    does 0x30 (.sadd t) (d.vecNext t (c.setS (iwD w) (f32Add a b) (pa || pb))) ∧
    does 0x31 (.ssub t) (d.vecNext t (c.setS (iwD w) (f32Sub a b) (pa || pb))) ∧
    does 0x32 (.smul t) (d.vecNext t (c.setS (iwD w) (f32Mul a b) (pa || pb))) ∧
    does 0x33 (.smax t) (d.vecNext t (c.setS (iwD w) (f32Max a b) (pa || pb))) ∧
    does 0x34 (.smin t) (d.vecNext t (c.setS (iwD w) (f32Min a b) (pa || pb))) ∧
    does 0x35 (.srsqrt t) (sfu.vecNext t (c.setS (iwD w) (sfuRsqrt a) pa)) ∧
    does 0x36 (.srcp t) (sfu.vecNext t (c.setS (iwD w) (sfuRcp a) pa)) ∧
    does 0x37 (.sexp2 t) (sfu.vecNext t (c.setS (iwD w) (sfuExp2 a) pa)) ∧
    does 0x38 (.slog2 t) (sfu.vecNext t (c.setS (iwD w) (sfuLog2 a) pa)) ∧
    does 0x39 (.simm t) (d.vecNext t (c.setS (iwD w) (iwImm w) false)) ∧
    does 0x3A (.sched t) (d.vecNext t (c.setS (iwD w) (d.schedVal (trPgroup y.r) (iwN w)) false))

/-- The words that steer a program: END and PASS move to the next position of their body, and after the last one PASS begins the
next phase; MGRAM and MMUL form their product in one word; LOOP repeats from its word (R266–R268). -/
def Obligations.ControlWords : Prop :=
  ∀ (s : State) (t : Nat) (x : Exec) (y : Work) (npos : Nat) (prog : List Nat) (c : VecCtx) (w : Nat),
    let d := s.fresh.wordDev t x y
    let at_ (op : Nat) : Prop := s.fresh.wordAt t op x y npos prog c w
    let vec (e : Dev) (v : VecCtx) : Dev := e.setTile t { e.tile t with vec := v }
    let b := bodyStart prog c.phase
    (∀ op i, (op, i) ∈ [(0, Instr.endProg t), (0x40, .passPhase t)] → at_ op → b < c.pc → c.pos + 1 < npos →
      Does i s (vec d { c with used := c.used + 1, firstP := none, firstG := none, pc := b, pos := c.pos + 1 })) ∧
    (at_ 0x40 → b < c.pc → npos = c.pos + 1 →
      let e := ({ c with used := c.used + 1, firstP := none, firstG := none } : VecCtx).finish prog
      Does (.passPhase t) s (vec d { e with pc := e.pc + 1, phase := e.pc + 1, pos := 0 })) ∧
    (at_ 0 → b < c.pc → npos = c.pos + 1 →
      Does (.endProg t) s (d.tensorEnd t x y (({ c with used := c.used + 1, firstP := none, firstG := none } : VecCtx).finish prog))) ∧
    (∀ op i, (op, i) ∈ [(0x41, Instr.mgram t), (0x42, .mmul t)] → at_ op →
      Does i s (vec (d.progMatrix t x y w) { c with pc := c.pc + 1, phase := c.pc + 1, pos := 0, used := c.used + trPasses y.r })) ∧
    (at_ 0x48 → (if c.loops = 0 then iwImm w - 1 else c.loops - 1) = 0 →
      Does (.loopProg t) s (vec d { c with pc := c.pc + 1, phase := c.pc + 1, loops := 0, pos := 0 })) ∧
    (∀ n, at_ 0x48 → (if c.loops = 0 then iwImm w - 1 else c.loops - 1) = n + 1 →
      Does (.loopProg t) s (vec d { c with pc := iwN w, phase := iwN w, loops := n + 1, pos := 0 }))

/-- ATTN_FWD, ATTN_DECODE and ATTN_BWD: a key block whose step has been issued is computed; where none is, the engine goes on with its
next phase. Once the last block is done, the operation's results are complete (R179, R186, R195, R197; log entry 20). -/
def Obligations.AttentionBlocks : Prop :=
  ∀ (s : State) (t : Nat) (x : Exec), (s.dev.tile t).exec = some x → x.done = false →
    let ends (d : Dev) : Dev :=
      let u := d.tile t
      if u.attn.fin = true ∧ u.attn.ran = x.step ∧ x.halted = false then
        ((d.setTile t { u with exec := u.exec.map fun y => { y with done := true, planned := true, steps := y.step } }).set
          (R.TILE_STATUS_EXEC_STATE t) 3).refreshPump t
      else d
    (∀ c p r, (s.dev.tile t).attn.ran < x.step → s.fresh.attnFront t x.desc = some (c, p, r) →
      (odClass x.desc = 0x10 → Does (.attnFwd t) s (ends (s.fresh.fwdStep t x c p r))) ∧
      (odClass x.desc = 0x12 → Does (.attnDecode t) s (ends (s.fresh.fwdStep t x c p r))) ∧
      (odClass x.desc = 0x11 → Does (.attnBwd t) s (ends (s.fresh.bwdStep t x c p r)))) ∧
    (∀ d, x.step ≤ (s.dev.tile t).attn.ran → x.halted = false → s.fresh.attnNext t x = .go d →
      (odClass x.desc = 0x10 → Does (.attnFwd t) s (ends d)) ∧ (odClass x.desc = 0x12 → Does (.attnDecode t) s (ends d)) ∧
      (odClass x.desc = 0x11 → Does (.attnBwd t) s (ends d)))

/-! ### Tiles, pumps and cisterns (spec/04_tile_array.md, spec/06_pumps_cisterns.md, spec/09_attention.md) -/

/-- Stores to a tile's error, injection and near-cache registers: a fault bit written 1 clears and ends the halt; an injection is armed
while TEST_ENABLE is 1, and else the store does nothing; INV starts an invalidation, which NEAR_CACHE_INV_DONE ends (R85, R88, R126,
R129, R201). -/
def Obligations.TileWrites : Prop :=
  ∀ (s : State) (w : Who) (t v : Nat), v < 2 ^ 64 → t < 384 →
    (s.takes w (R.TILE_ERR t) → (s.dev.reg (R.TILE_ERR t)).toNat &&& v &&& 0xF ≠ 0 →
      Does (.tileFaultClear w t v) s ((s.fresh.setWord (R.TILE_ERR t)
        (s.dev.reg (R.TILE_ERR t) &&& ~~~ BitVec.ofNat 64 (v &&& 0x3F))).clearHalt t)) ∧
    (s.takes w (R.TILE_INJECT t) → s.dev.testEnable = true → ∃ d, s.fresh.storedAt (R.TILE_INJECT t) d ∧
      d.get (R.TILE_INJECT_POISON_OUT t) = 1 ∧ d.get (R.TILE_INJECT_SHADOW_PARITY t) = bits v 0 0 ∧
      Does (.tileInjectPoisonOut w t v) s d) ∧
    (s.takes w (R.TILE_INJECT t) → s.dev.testEnable = true → ∃ d, s.fresh.storedAt (R.TILE_INJECT t) d ∧
      d.get (R.TILE_INJECT_POISON_OUT t) = bits v 1 1 ∧ d.get (R.TILE_INJECT_SHADOW_PARITY t) = 1 ∧
      Does (.tileInjectShadowParity w t v) s d) ∧
    (s.takes w (R.TILE_INJECT t) → s.dev.testEnable = false →
      Does (.tileInjectPoisonOut w t v) s s.fresh ∧ Does (.tileInjectShadowParity w t v) s s.fresh) ∧
    (s.takes w (R.PUMP_INJECT t) → s.dev.testEnable = true → ∃ d, s.fresh.storedAt (R.PUMP_INJECT t) d ∧
      d.get (R.PUMP_INJECT_ADDR_ERR_NEXT t) = 1 ∧ d.get (R.PUMP_INJECT_STALE_NEXT t) = bits v 0 0 ∧
      Does (.pumpInjectAddrErr w t v) s d) ∧
    (s.takes w (R.PUMP_INJECT t) → s.dev.testEnable = true → ∃ d, s.fresh.storedAt (R.PUMP_INJECT t) d ∧
      d.get (R.PUMP_INJECT_ADDR_ERR_NEXT t) = bits v 1 1 ∧ d.get (R.PUMP_INJECT_STALE_NEXT t) = 1 ∧
      Does (.pumpInjectStale w t v) s d) ∧
    (s.takes w (R.ATTN_INJECT t) → s.dev.testEnable = true →
      Does (.attnInjectMispredict w t v) s ((s.fresh.set (R.ATTN_INJECT_MISPREDICT t) 1).set (R.ATTN_INJECT_FORCE_RECOVER t) (bits v 0 0)) ∧
      Does (.attnInjectForceRecover w t v) s ((s.fresh.set (R.ATTN_INJECT_MISPREDICT t) (bits v 1 1)).set (R.ATTN_INJECT_FORCE_RECOVER t) 1)) ∧
    (s.takes w (R.CIST_NC_CTL t) → s.dev.flag (R.CIST_NC_CTL_BUSY t) = false →
      Does (.nearCacheInv w t v) s ((s.fresh.ncClear t).set (R.CIST_NC_CTL_BUSY t) 1)) ∧
    Does (.nearCacheInvDone t) s (s.fresh.set (R.CIST_NC_CTL_BUSY t) 0)

/-- A window access to the cistern of a placed logical tile: a store reaches the cistern and marks what watches it, a load delivers its
bytes; while a placement changes, and while a step that holds the bucket has not ended, the access waits (R22, R23, R62, R87,
R121). A peer's store marks nothing (R123). -/
def Obligations.CisternWindows : Prop :=
  ∀ (s : State) (w : Who) (l o : Nat) (p : Place), l < 320 → o < 0x800000 → s.dev.place l = some p → p.role ≠ 0 →
    let off := 0x180000000000 + l * 0x800000 + o
    let d := s.fresh.count (R.CIST_WINDOW_ACCESSES p.phys) 1
    (∀ n (bs : List Byte), s.fresh.windowWaits off (max n bs.length) = false → o + bs.length ≤ 0x800000 →
      let e := d.cistStore p.phys o bs fun _ => false
      Does (.cisternWindowAccess w l o n true bs) s (if peerIngress (ingressOf w) then e else e.markStale off bs.length)) ∧
    (∀ n (bs : List Byte), s.fresh.windowWaits off (max n bs.length) = false → o + n ≤ 0x800000 → (d.cistRead p.phys o n).2.anyPoison = false →
      Does (.cisternWindowAccess w l o n false bs) s ((d.cistRead p.phys o n).1.emit (.loadData (ingressOf w) (d.cistRead p.phys o n).2.bytes))) ∧
    (∀ n (bs : List Byte), s.dev.img.windowsWait = true ∨ ((s.dev.tile p.phys).holds o (max n bs.length) = true ∧ o + max n bs.length ≤ 0x800000) →
      s.fresh.windowWaits off (max n bs.length) = true) ∧
    (∀ n wr (bs : List Byte), s.fresh.windowWaits off (max n bs.length) = true → Does (.cisternWindowAccess w l o n wr bs) s
      { s.fresh with img := { s.dev.img with waiting := s.dev.img.waiting ++ [.cisternWindowAccess w l o n wr bs] } })

/-- WATCH_GRANT, PIECE_ISSUE, PIECE_ARRIVE and PAGE_TRANSLATE: a freed watch goes to the first stream that waits; the pieces of one
window leave as one request, a local one being read in place when it arrives; an injected address error halts its stream; a page of
a walk is translated to its frame, and a page without a context or a frame is an address error (R114–R116, R120–R122, R129, R206,
R220). -/
def Obligations.PumpRequests : Prop :=
  ∀ (s : State) (t : Nat),
    (∀ c, ((s.dev.tile t).served.find? fun c => (s.dev.tile t).streams.any fun m => m.ctx = c ∧ m.waitWatch) = some c →
      (s.dev.tile t).freeWatch.isSome = true → Does (.watchGrant t) s ((s.fresh.setTile t ((s.dev.tile t).claim c)).refreshPump t)) ∧
    (let d := s.fresh.prepare t
     let k := d.picks (d.tile t)
     let id := (d.tile t).nextReq
     ∀ p ps win, s.dev.tileReady t = true → s.dev.alive = true → k.pieces = p :: ps → k.win = some win → win * 8192 / 2 ^ 45 = d.id →
      (d.flag (R.PUMP_INJECT_ADDR_ERR_NEXT t) && d.testEnable) = false →
      let grants := ((p :: ps).map (·.ctx)).eraseDups
      let u := { k.u with reqs := k.u.reqs ++ [⟨id, p :: ps, false, false, false⟩], nextReq := id + 1, order := k.u.order.filter (fun c => !grants.contains c) ++ grants }
      Does (.pieceIssue t) s (((d.setTile t u).count (R.PUMP_REQ_REQUESTS t) 1).count (R.PUMP_REQ_MERGED t) ps.length |>.refreshPump t)) ∧
    (∀ r q p d g, ((s.dev.tile t).reqs.find? fun x => x.id = r) = some q → q.remote = false → q.err = false → q.pieces = [p] →
      s.fresh.memRead (tileIngress t) (p.addr.getD 0 % 2 ^ 45) p.len = (d, some g) →
      let e := d.poisonIn t g p.ctx
      Does (.pieceArrive t r) s ((e.setTile t ((d.tile t).fill p.ctx p.bucket p.at_ g)).requestDone t q)) ∧
    (∀ r q, ((s.dev.tile t).reqs.find? fun x => x.id = r) = some q → q.remote = false → q.err = true →
      Does (.pieceArrive t r) s (s.fresh.requestError t q (R.PUMP_ERR_ADDR t))) ∧
    (∀ c pg m, ((s.dev.tile t).streams.find? fun m => m.ctx = c) = some m → sdKind m.desc = 3 → m.fault = false → m.waitWatch = false →
      (walkPages m).contains pg = true → (m.trans.any fun x => x.1 = pg) = false →
      (s.fresh.walkCtx m = none → Does (.pageTranslate t c pg) s
        ((s.fresh.raise1 R.KVP_ERR_NO_CTX (bits m.desc 134 128)).formFault t m (.fault 0))) ∧
      (∀ h x, s.fresh.walkCtx m = some (h, x) →
        let look := s.fresh.translate t (m.looks.contains pg) h (bits m.desc 142 135) (bits m.desc 150 143) pg
        (∀ d, look = .hole d → Does (.pageTranslate t c pg) s
          ((d.raise1 R.KVP_ERR_WALK_HOLE (bits m.desc 134 128)).formFault t m (.fault 0))) ∧
        (∀ d f isSealed, look = .ok d f isSealed →
          let e := d.setTile t { d.tile t with streams := (d.tile t).streams.map fun y =>
            if y.ctx = c then { y with trans := y.trans ++ [(pg, f, isSealed)], looks := y.looks.filter (· ≠ pg) } else y }
          Does (.pageTranslate t c pg) s ((if isSealed || sdImm m.desc || m.watch.isSome then e
            else e.setTile t ((e.tile t).claim c)).refreshPump t))))

/-! ### Agxis links (spec/07_agxis_links.md) -/

/-- Stores that command a port: fields first, then the loop-back of Table 7.10 (begun where the port is OFF, DOWN or HELD, ended from
TEST, refused elsewhere; a HELD port goes to TRAIN), then an enable or a disable; planted errors (R135, R154, R155, R321). -/
def Obligations.PortWrites : Prop :=
  ∀ (s : State) (w : Who) (p v : Nat), v < 2 ^ 64 → p < 36 →
    let f := ((s.fresh.set (R.AGX_PORT_CTL_RETRY_MS p) (bits v 31 16)).set (R.AGX_PORT_CTL_FORCE_X4 p) (bits v 6 6)).set (R.AGX_PORT_CTL_PRBS p)
      (bits v 5 4)
    let loop := bits v 3 1
    let old := s.dev.get (R.AGX_PORT_CTL_LOOP p)
    let st := s.dev.link p
    let idle := st = 0 ∨ st = 5 ∨ st = 6
    let clean (d : Dev) : Dev := d.setPort p { PortUnit.reset with txq := (d.port p).txq, vlOrder := (d.port p).vlOrder }
    -- what a store to LOOP makes of the port
    (∃ g : Dev,
      (loop = 0 → st = 8 → g = ((clean (if old = 4 then f.sendSeq p (f.ctlFlit p 4 (leBytes 1 7)) else f)).set (R.AGX_PORT_CTL_LOOP p) 0).setLink p 1) ∧
      (loop = 0 → st = 6 → g = (f.set (R.AGX_PORT_CTL_LOOP p) 0).setLink p 1) ∧
      (loop = 0 → st = 0 ∨ st = 5 → g = f.set (R.AGX_PORT_CTL_LOOP p) 0) ∧
      (1 ≤ loop → loop ≤ 3 → idle → g = clean ((f.set (R.AGX_PORT_CTL_LOOP p) loop).setLink p 8)) ∧
      (loop = 4 → idle → ∃ e, e = clean ((f.set (R.AGX_PORT_CTL_LOOP p) 4).setLink p 8) ∧ g = e.sendSeq p (e.ctlFlit p 4 (leBytes 1 6))) ∧
      (loop ≠ old → (¬ idle ∧ ¬ (loop = 0 ∧ st = 8)) ∨ 4 < loop → g = f.raise1 (R.AGX_PORT_ERR_LOOP_REJECT p) loop) ∧
      (loop = old → ¬ idle → ¬ (loop = 0 ∧ st = 8) → g = f) ∧
      (s.takes w (R.AGX_PORT_CTL p) →
        (s.dev.get (R.AGX_PORT_CTL_ENABLE p) = 0 → Does (.agxPortEnable w p v) s ((g.set (R.AGX_PORT_CTL_ENABLE p) 1).enableUnit (agxUnit p))) ∧
        (s.dev.get (R.AGX_PORT_CTL_ENABLE p) = 1 → Does (.agxPortDisable w p v) s ((g.set (R.AGX_PORT_CTL_ENABLE p) 0).disableUnit (agxUnit p))) ∧
        (s.dev.get (R.AGX_PORT_CTL_ENABLE p) = bits v 0 0 → Does (.agxPortCtlWrite w p v) s g ∧ Does (.agxLoop w p v) s g))) ∧
    (s.takes w (R.AGX_PORT_INJECT p) → Does (.agxPortInjectCrc w p v) s
      ((s.fresh.set (R.AGX_PORT_INJECT_LANE p) (bits v 4 1)).set (R.AGX_PORT_INJECT_CRC_NEXT p) 1)) ∧
    (s.takes w (R.AGX_PORT_SPARE_TH p) →
      let d := (s.fresh.set (R.AGX_PORT_SPARE_TH_UNCORR_TH p) (bits v 47 32)).set (R.AGX_PORT_SPARE_TH_CORR_TH p) (bits v 31 0)
      Does (.laneFailNow w p v) s (if s.dev.testEnable then d.failLane p (s.dev.get (R.AGX_PORT_INJECT_LANE p)) else d))

/-- The link machine (Table 7.1): training at width 8 or 4 with lanes too late left out, its failure and timeout, DOWN_RETRY, IDENTIFY
and its timeout, RETRAIN, a lost lock, a drained port. A lane's counts of a millisecond, and the flits by which both ends agree on the
switch to the spare (R134, R135, R138, R152). -/
def Obligations.LinksTrain : Prop :=
  (∀ (s : State) (p : Nat),
    (∀ bad skew, p < 36 → s.dev.link p = 1 →
      let old := s.dev.get (R.AGX_PORT_STATUS_LANE_BAD p)
      let d := s.fresh.set (R.AGX_PORT_STATUS_LANE_BAD p) (old ||| bad % 512 ||| lateLanes skew)
      let x4 := s.dev.flag (R.AGX_PORT_CTL_FORCE_X4 p)
      (8 ≤ (d.goodLanes p).length → x4 = false → Does (.trainDone p ⟨bad, skew⟩) s (((d.mapLanes p 8).setLink p 2).sendLinkId p)) ∧
      (4 ≤ (d.goodLanes p).length → (d.goodLanes p).length < 8 ∨ x4 = true →
        Does (.trainDone p ⟨bad, skew⟩) s (((d.mapLanes p 4).setLink p 2).sendLinkId p)) ∧
      ((d.goodLanes p).length < 4 → Does (.trainDone p ⟨bad, skew⟩) s
        (((d.mapLanes p 0).raise1 (R.AGX_PORT_ERR_TRAIN_FAIL p) p).setLink p 5)) ∧
      let e := s.fresh.set (R.AGX_PORT_STATUS_LANE_BAD p) (old ||| bad % 512)
      Does (.trainTimeout p bad) s (((e.mapLanes p 0).raise1 (R.AGX_PORT_ERR_TRAIN_FAIL p) p).setLink p 5)) ∧
    (s.dev.link p = 5 → Does (.downRetry p) s (s.fresh.setLink p 1)) ∧
    -- LINK_ID: an expected, listed peer with the same domain table comes UP; else the port is HELD, for the first reason of three
    (∀ k t pl d0, s.fresh.takeCtl k 1 = some (p, pl, d0) → d0.link p = 6 → Does (.linkId ⟨k, t⟩) s (d0.sendLinkId p)) ∧
    (∀ k t pl d0, s.fresh.takeCtl k 1 = some (p, pl, d0) → d0.link p = 2 →
      let dev := recNat pl 0 2 % 4096
      let port := recNat pl 2 1
      let d := ((d0.sendLinkId p).set (R.AGX_PORT_STATUS_PEER_ID p) dev).set (R.AGX_PORT_STATUS_PEER_PORT p) port
      (d.expectedPeer p = some (dev, port) → d.present dev = true → (pl.drop 3).take 48 = d.domainHash → Does (.linkId ⟨k, t⟩) s (d.portUp p t)) ∧
      (d.expectedPeer p = some (dev, port) → d.present dev = true → (pl.drop 3).take 48 ≠ d.domainHash → Does (.linkId ⟨k, t⟩) s (d.holdPort p 3)) ∧
      (∀ x, d.expectedPeer p = some x → d.present dev = true → x ≠ (dev, port) → Does (.linkId ⟨k, t⟩) s (d.holdPort p 1)) ∧
      (d.expectedPeer p = none ∨ d.present dev = false → Does (.linkId ⟨k, t⟩) s (d.holdPort p 2))) ∧
    (s.dev.link p = 2 → Does (.identifyTimeout p) s (((s.fresh.set (R.AGX_PORT_STATUS_HELD_WHY p) 4).raise1 (R.AGX_PORT_ERR_HELD p) 4).setLink p 6)) ∧
    (∀ t, s.dev.link p = 4 →
      let d := (s.fresh.mapLanes p 4).setLink p 3
      let u := d.port p
      let e := (d.setPort p { u with sparing := none, spareNext := none }).count (R.AGX_PORT_LINK_REPLAYED p) u.replay.length
      Does (.retrainDone ⟨p, t⟩) s (((u.replay.foldl (fun (d : Dev) x => d.wire p x.flit false) e).flushCtl p).probe p t)) ∧
    (s.dev.link p = 3 ∨ s.dev.link p = 4 ∨ s.dev.link p = 7 → Does (.lockLost p) s (s.fresh.goDown p 1)) ∧
    (s.dev.get (R.AGX_PORT_STATUS_PWR p) = 2 ∨ s.dev.get (R.AGX_PORT_STATUS_PWR p) = 3 →
      Does (.portDrainDone p) s ((s.fresh.goDown p 0).unitOff (agxUnit p)))) ∧
  ∀ (s : State) (p lane : Nat), p < 36 → lane < 9 →
    (∀ corr unc,
      let d := (s.fresh.count (R.AGX_PORT_LANE_CORR_SYM p lane) corr).count (R.AGX_PORT_LANE_UNCORR_CW p lane) unc
      (s.dev.link p ≠ 8 → (s.dev.get (R.AGX_PORT_SPARE_TH_CORR_TH p) ≤ corr ∨ s.dev.get (R.AGX_PORT_SPARE_TH_UNCORR_TH p) ≤ unc) →
        Does (.laneFail p lane corr unc) s (d.failLane p lane)) ∧
      ((s.dev.link p = 8 ∨ corr < s.dev.get (R.AGX_PORT_SPARE_TH_CORR_TH p) ∧ unc < s.dev.get (R.AGX_PORT_SPARE_TH_UNCORR_TH p)) →
        Does (.laneFail p lane corr unc) s d)) ∧
    -- the active lane of a port at width 8 with a spare: SPARE_REQ names it and the flit where the switch takes place
    (∀ corr unc sp,
      let d := (s.fresh.count (R.AGX_PORT_LANE_CORR_SYM p lane) corr).count (R.AGX_PORT_LANE_UNCORR_CW p lane) unc
      let e := ((d.markLane p lane).raise1 (R.AGX_PORT_ERR_LANE_FAIL p) lane).rprAdd 2 2 (p * 16 + lane) 0
      s.dev.link p = 3 → s.dev.get (R.AGX_PORT_SPARE_TH_CORR_TH p) ≤ corr → (s.dev.get (R.AGX_PORT_STATUS_LANE_BAD p)).testBit lane = false →
      (s.dev.get (R.AGX_PORT_STATUS_LANE_ACTIVE p)).testBit lane = true → (e.port p).sparing = none → e.link p = 3 →
      ((e.goodLanes p).find? fun i => e.get (R.AGX_PORT_LANE_STATE p i) = 1) = some sp →
      let n := ((e.port p).nextSeq + 64) % 4096
      Does (.laneFail p lane corr unc) s ((e.setPort p { e.port p with sparing := some ⟨lane, sp, n, none, false, false⟩ }).sendCtl p 4
        (leBytes 1 4 ++ leBytes 1 lane ++ leBytes 2 n))) ∧
    -- the answer carries this end's switch number; of two requests that cross, the one naming the lower lane is served first
    (∀ k pl d, s.fresh.takeCtl k 4 = some (p, pl, d) → recNat pl 0 1 = lane →
      ((d.port p).sparing = none →
        let n := ((d.port p).nextSeq + 64) % 4096
        let sp := ((d.goodLanes p).find? fun i => d.get (R.AGX_PORT_LANE_STATE p i) = 1).getD 8
        let e := (d.markLane p lane).sendCtl p 4 (leBytes 1 5 ++ leBytes 1 lane ++ leBytes 2 n)
        Does (.spareReq k) s (e.setPort p
          { e.port p with sparing := some ⟨lane, sp, n, some (recNat pl 1 2 % 4096), false, false⟩, spareNext := none })) ∧
      (∀ x, (d.port p).sparing = some x → x.lane < lane → Does (.spareReq k) s
        ((d.markLane p lane).setPort p { d.port p with spareNext := some lane }))) ∧
    (∀ k pl d x, s.fresh.takeCtl k 5 = some (p, pl, d) → (d.port p).sparing = some x → Does (.spareAck k) s
      (d.setPort p { d.port p with sparing := some { x with peerSeq := some (recNat pl 1 2 % 4096) } }))

/-- Flits in and out: a flit in sequence is taken, its acknowledgement and credits first, one accepted before is not asked for again, a gap
or a wrong CRC is answered once; a timeout resends what is unacknowledged, and the ninth ends the link; a packet leaves in its window or by
the first virtual lane in order; round trips and far-end loop-back (R137–R142, R152, R154, R158). -/
def Obligations.LinksCarry : Prop :=
  ∀ (s : State) (p : Nat),
    (∀ f : Flit, p < 36 → s.dev.link p = 3 → s.dev.alive = true → (s.dev.port p).farEnd = false → f.crc = flitCrc f → f.nak = false →
      f.ftype < 5 → sequencedFlit f = true →
      let d := s.fresh.count (R.AGX_PORT_FLITS_RX p) 1
      let u := if f.ackV then (s.dev.port p).acked f.ackSeq else s.dev.port p
      let v := if f.crCnt = 0 then u else u.credited f.crPool f.crCnt
      let e := (d.setPort p v).flushCtl p
      let x := { e.port p with expSeq := ((e.port p).expSeq + 1) % 4096, nakSent := false, sinceAck := (e.port p).sinceAck + 1 }
      let g := (e.setPort p x).spareRx p f.seq
      (f.seq % 4096 = (e.port p).expSeq → x.sinceAck < 32 → Does (.flitReceive p f) s (g.acceptFlit p f)) ∧
      (f.seq % 4096 = (e.port p).expSeq → 32 ≤ x.sinceAck → Does (.flitReceive p f) s ((g.sendAck p false).acceptFlit p f)) ∧
      ((e.port p).seen f.seq = true → Does (.flitReceive p f) s (e.setPort p { e.port p with sinceAck := (e.port p).sinceAck + 1 })) ∧
      (f.seq % 4096 ≠ (e.port p).expSeq → (e.port p).seen f.seq = false → Does (.flitReceive p f) s (e.nakOnce p))) ∧
    (∀ f : Flit, p < 36 → s.dev.link p = 3 → s.dev.alive = true → (s.dev.port p).farEnd = false → f.crc ≠ flitCrc f → sequencedFlit f = true →
      Does (.flitReceive p f) s (((s.fresh.count (R.AGX_PORT_FLITS_RX p) 1).count (R.AGX_PORT_LINK_CRC_ERR p) 1).nakOnce p)) ∧
    (s.dev.link p = 3 ∨ s.dev.link p = 7 ∨ s.dev.link p = 8 → (s.dev.port p).replay ≠ [] →
      let u := s.dev.port p
      (u.replays < 8 → Does (.replayTimeout p) s (u.replay.foldl (fun (d : Dev) x => d.wire p x.flit false)
        ((s.fresh.setPort p { u with replays := u.replays + 1 }).count (R.AGX_PORT_LINK_REPLAYED p) u.replay.length))) ∧
      (8 ≤ u.replays → Does (.replayTimeout p) s ((s.fresh.raise1 (R.AGX_PORT_ERR_REPLAY_LIMIT p) p).goDown p 5))) ∧
    (s.dev.link p = 3 ∨ s.dev.link p = 7 ∨ s.dev.link p = 8 → 0 < (s.dev.port p).sinceAck →
      Does (.acknowledgementInterval p) s (s.fresh.sendAck p false)) ∧
    -- no more than n flits of a packet; a stream in its window goes before the arbiter's choice
    (∀ left n q u, s.dev.alive = true → s.dev.link p = 3 ∨ s.dev.link p = 7 →
      s.fresh.fencedOut (s.dev.get (R.AGX_PORT_STATUS_PEER_ID p)) = false → s.fresh.capped p = false → 0 < n →
      s.fresh.maySend p q = some u →
      let inWin := (s.dev.port p).laneHead 0 (s.fresh.inWindow p)
      (inWin = some q → s.fresh.inWindow p q = true → q.flits.length - q.sent ≤ left →
        Does (.packetSend p ⟨left, n⟩) s (s.fresh.sendPkt p u q n)) ∧
      (∀ vl, inWin = none → (s.dev.port p).vlOrder.head? = some vl →
        (s.dev.port p).laneHead vl (fun q => vl ≠ 0 || (q.plan.isNone && !s.fresh.inWindow p q)) = some q →
        Does (.packetSend p ⟨left, n⟩) s (s.fresh.sendPkt p { u with vlOrder := (s.dev.port p).vlOrder.erase vl ++ [vl] } q n))) ∧
    (∀ t, s.dev.link p = 3 ∨ s.dev.link p = 7 →
      (s.fresh.mayRaw p 4 = true →
        Does (.rttProbeTimer p t) s ((s.fresh.setPort p { s.dev.port p with probeAt := some t }).sendRaw p 4 (leBytes 1 2))) ∧
      (s.fresh.mayRaw p 4 = false → Does (.rttProbeTimer p t) s s.fresh)) ∧
    (∀ k pl d, s.fresh.takeCtl k 2 = some (p, pl, d) → Does (.rttProbe k) s (d.sendRaw p 4 (leBytes 1 3))) ∧
    (∀ k t t0 pl d, s.fresh.takeCtl k 3 = some (p, pl, d) → (d.port p).probeAt = some t0 →
      Does (.rttEcho k t) s ((d.set (R.AGX_PORT_RTT_TICKS p) (min (t - t0) (2 ^ 20 - 1))).setPort p { d.port p with probeAt := none })) ∧
    (∀ k pl d, s.fresh.takeCtl k 6 = some (p, pl, d) → d.testEnable = true → Does (.loopReq k) s (d.setPort p { d.port p with farEnd := true })) ∧
    (∀ k pl d, s.fresh.takeCtl k 6 = some (p, pl, d) → d.testEnable = false → Does (.loopReq k) s d) ∧
    (∀ k pl d, s.fresh.takeCtl k 7 = some (p, pl, d) → Does (.loopExit k) s (d.setPort p { d.port p with farEnd := false })) ∧
    -- a slot of the beat begins; no planned packet has run out of windows
    (∀ n, n < 64 → s.dev.beating = true →
      let d : Dev := { s.fresh with beat := { s.dev.beat with slot := n } }
      (∀ q r, q ∈ (s.dev.port r).txq → d.windowGone r q = false) → Does (.vl0SlotStart n) s d)

/-! ### Requests at their home, responses, multicast (spec/07_agxis_links.md, spec/08_agxis_collectives.md) -/

/-- Requests whose turn it is at their home: READ with its sectors, or put aside until its beat's seals are in and served then; WRITE and WRITE_POSTED into
HBM or control space; FP32_ADD, INT64_ADD, FP32_MAX and CAS64 on HBM (R40, R143, R144, R147, R150). -/
def Obligations.HomeRequests : Prop :=
  (∀ (s : State) (k cycles : Nat) (a : Arrival) (q : Pkt), s.dev.agx.held[k]? = some a → a.item = .req q → s.dev.alive = true →
    s.fresh.tagReady q = true → s.fresh.windowHeld q = false →
    let d := ({ s.fresh with agx := { s.dev.agx with held := s.dev.agx.held.eraseIdx k
                                                     sealWait := s.dev.agx.sealWait + cycles } } : Dev).giveBack a.ingress a.pools
    (q.opc = 1 → Does (.sealWaitRelease ⟨k, cycles⟩) s (d.serveRead a.ingress q)) ∧
    (q.opc = 4 → s.fresh.atomicTurn (s.dev.agx.held.take k) = true → Does (.sealWaitRelease ⟨k, cycles⟩) s (d.serveAtomic a.ingress q))) ∧
  ∀ (s : State) (k : Nat) (a : Arrival) (q : Pkt) (d : Dev),
    s.dev.alive = true → s.dev.agx.inbox[k]? = some a → a.item = .req q → s.fresh.homeTurn k a q = true → s.fresh.windowHeld q = false →
    s.fresh.takeIn k = some (a, d) → laneOk q = true →
    let ready := s.fresh.tagReady q = true
    (∀ e rs, q.opc = 1 → ready → q.addr % 8192 = 0 → d.readRuns a.ingress q (sectorRuns (recNat q.data 0 16)) = (e, some rs) → rs ≠ [] →
      Does (.readReq k) s (rs.foldl (fun (d : Dev) x => d.respond q 0x11 0 x.1 x.2.bytes x.2.poison) e)) ∧
    (q.opc = 1 → s.fresh.tagReady q = false → Does (.readReq k) s (s.fresh.holdReq k a)) ∧
    (∀ x, 0 < q.data.length → q.addr % 8192 + q.data.length ≤ 8192 → d.locate q.addr q.data.length = .hbm x →
      d.inMailbox x q.data.length = false →
      let r := d.memWrite a.ingress q.addr q.data q.poisonAt
      let e := r.1.complete q (if r.2 then 0 else 1)
      (q.opc = 2 → Does (.writeReq k) s e) ∧ (q.opc = 3 → Does (.writePosted k) s e)) ∧
    (∀ o, q.opc = 2 → 0 < q.data.length → q.addr % 8192 + q.data.length ≤ 8192 → d.locate q.addr q.data.length = .ctl o →
      let r := ctlWrite s.otp d (q.who a.ingress) o q.data
      exec (.writeReq k) s = .next { s with otp := r.1.1, dev := r.1.2.complete q (if r.2 then 0 else 1) }) ∧
    -- an atomic on `n` bytes of HBM whose old bytes are `g`
    (∀ x n e g, q.opc = 4 → ready → s.fresh.atomicTurn (s.dev.agx.held ++ s.dev.agx.inbox.take k) = true → q.addr < ctlBase → atomicShape q = true → n = atomicLen q → d.locate q.addr n = .hbm x → d.inMailbox x n = false →
      d.writeDenied x n = none → d.memRead a.ingress q.addr n = (e, some g) → g.anyPoison = false →
      let put (bs : List Byte) (at_ : Nat) : Dev := (e.memWrite a.ingress q.addr bs fun i => q.poisonAt (at_ + i)).1
      let done (d : Dev) : Dev := if q.fetch then d.respond q 0x10 0 0 g.bytes [] else d.complete q 0
      (q.atop = 0 → Does (.fp32Add k) s (done (put (f32Each f32Add g.bytes q.data) 0))) ∧
      (q.atop = 2 → Does (.fp32Max k) s (done (put (f32Each f32Max g.bytes q.data) 0))) ∧
      (q.atop = 1 → Does (.int64Add k) s (done (put (leBytes 8 ((leNat g.bytes + leNat q.data) % 2 ^ 64)) 0))) ∧
      (q.atop = 3 → Does (.cas64 k) s
        ((if leNat g.bytes = recNat q.data 0 8 then put (q.data.drop 8) 8 else e).respond q 0x10 0 0 g.bytes [])))

/-- REDUCE_PUT joins the queue of its reduction tile, which holds 64; REDUCE_PUT_ADD adds the oldest to what its target holds, in
FP32, and watches the sums (R112, R160).
Responses and the ends of tags: a COMPLETION frees its tag, or quarantines it after the loss of a device; the last READ_DATA ends
its request; a tag that times out is quarantined; a response to no tag is counted (R144, R145). -/
def Obligations.TagsEnd : Prop :=
  (∀ s : State,
    (∀ k a q d t, s.dev.alive = true → s.dev.agx.inbox[k]? = some a → a.item = .req q → q.opc = 5 → s.fresh.homeTurn k a q = true →
      s.fresh.windowHeld q = false → s.fresh.takeIn k = some (a, d) → laneOk q = true → q.addr % 8192 + q.data.length ≤ 8192 →
      q.data.length % 4 = 0 → q.addr % 4 = 0 → s.fresh.redTile q.addr q.data.length = some t →
      ((s.fresh.redQueue t).length < 64 →
        Does (.reducePut k) s (d.setRed (s.dev.agx.red ++ [⟨a.ingress, q.src, q.addr, q.data, q.bytePoison, q.vl, t⟩]))) ∧
      (64 ≤ (s.fresh.redQueue t).length → Does (.reducePut k) s s.fresh)) ∧
    (∀ t x rest d g e, s.fresh.redQueue t = x :: rest → s.dev.alive = true → s.fresh.redTurn x = true →
      (s.fresh.setRed (s.dev.agx.red.erase x)).memRead (tileIngress t) x.addr x.data.length = (d, some g) →
      let r := redSums g x
      d.memWrite (tileIngress t) x.addr (r.1.flatMap (leBytes 4)) (fun i => r.2.getD (i / 4) false) = (e, true) →
      let odd := (r.1.zip r.2).countP fun v => !v.2 && (f32IsInf v.1 || f32IsNaN v.1)
      Does (.reducePutAdd t) s
        (((e.count R.AGX_RP_BYTES_BYTES x.data.length).watchEvents odd).watchPoison (r.2.countP fun b => b)))) ∧
  ∀ (s : State) (k tag : Nat),
    (∀ a q d, s.fresh.takeRsp k 0x10 = some (a, q, d) →
      (∀ e, d.tagOf q.tag = some e → q.status ≠ 7 → Does (.completion k) s ((d.freeTagNow e.tag).endFor e q.status)) ∧
      (∀ e, d.tagOf q.tag = some e → q.status = 7 → Does (.completion k) s ((d.quarantineTag e.tag).endFor e 7)) ∧
      (d.tagOf q.tag = none → Does (.completion k) s (d.count R.AGX_LATE_CPL_COUNT 1))) ∧
    (∀ a q d e, s.fresh.takeRsp k 0x11 = some (a, q, d) → d.tagOf q.tag = some e →
      let f := d.dataFor e a.ingress q
      (e.left ≤ ceilDiv q.data.length 64 → Does (.readData k) s ((f.freeTagNow e.tag).endFor e 0)) ∧
      (ceilDiv q.data.length 64 < e.left → Does (.readData k) s { f with agx := { f.agx with
        tags := f.agx.tags.map fun x => if x.tag = e.tag then { x with left := e.left - ceilDiv q.data.length 64 } else x } })) ∧
    (∀ e, s.fresh.tagOf tag = some e → Does (.npTimeout tag) s ((s.fresh.quarantineTag tag).endFor e 5)) ∧
    (s.dev.agx.quarantine.contains tag = true → Does (.tagQuarantineEnd tag) s
      (({ s.fresh with agx := { s.dev.agx with quarantine := s.dev.agx.quarantine.filter fun t => t ≠ tag } } : Dev).freeTagNow tag))

/-- Multicast trees: a packet of the current epoch, in its turn and in SEQ order, is delivered and copied to every live branch;
acknowledgements, prunes, pulls and the end of an epoch travel along the tree; a pull ends whole or, where a READ of it failed, leaves the
receiver's state; a branch that has lagged for PRUNE_BEATS beats is put down for the boundary, which prunes it (R162–R166). -/
def Obligations.TreesCarry : Prop :=
  ∀ (s : State) (k n : Nat),
    (∀ a q d, s.dev.agx.inbox[k]? = some a → s.fresh.takeIn k = some (a, d) → a.item = .mcast q → q.dest = n → n < 256 → s.fresh.mcValid n = true →
      a.ingress = s.fresh.mcUp n → bits q.mcInfo 23 16 = s.fresh.mcEpoch n → laneOk q = true →
      s.fresh.laneTurn k a.ingress q.src q.vl true = true → (s.fresh.mcDeliver n = true → bits q.mcInfo 15 0 = s.fresh.mcNext n) →
      s.fresh.mcWaits n q = false → q.addr + q.data.length ≤ s.dev.get (R.AGX_MC_TREE_W1_RX_SIZE_64K n) * 65536 → q.hops < 3 → s.fresh.branchRoom n q.flits.length = true →
      Does (.multicastWrite k) s
        ((((d.mcDeliverPkt n a.ingress q).mcCopy n { q with hops := q.hops + 1 } none (some (a.ingress, a.mark))).mcWhole n).mcAck n)) ∧
    (∀ e r p d, s.fresh.takeTree k 0x20 = some (n, e, r, p, d) → d.mcValid n = true → (d.mcDown n).contains p = true → e = d.mcEpoch n →
      let b : Branch := ⟨p, e, recNat r 0 2, recNat r 2 2, bitAt (recNat r 4 1) 0⟩
      Does (.mcAck k) s ((d.setTree n { d.tree n with branches := ((d.tree n).branches.filter fun x => x.port ≠ p) ++ [b] }).mcAck n)) ∧
    (∀ e r p d, s.fresh.takeTree k 0x21 = some (n, e, r, p, d) → d.mcValid n = true → p = d.mcUp n → e = d.mcEpoch n →
      Does (.mcPrune k) s ((d.mcMissed n).mcSendDown n (leBytes 1 0x21 ++ leBytes 1 n ++ leBytes 1 e ++ r.take 2))) ∧
    (∀ e r p d, s.fresh.takeTree k 0x22 = some (n, e, r, p, d) → d.mcValid n = true → (d.mcDown n).contains p = true →
      (d.mcSource n = false → Does (.mcPruned k) s (d.mcSendUp n (leBytes 1 0x22 ++ leBytes 1 n ++ leBytes 1 e ++ r.take 2))) ∧
      (d.mcSource n = true → e = d.mcEpoch n → Does (.mcPruned k) s
        ((d.set (R.AGX_MC_TREE_W2_OUT_PULLS n) (d.get (R.AGX_MC_TREE_W2_OUT_PULLS n) + recNat r 0 2)).mcAck n))) ∧
    (∀ e r p d, s.fresh.takeTree k 0x23 = some (n, e, r, p, d) → d.mcValid n = true → (d.mcDown n).contains p = true →
      (d.mcSource n = false → Does (.mcPulled k) s (d.mcSendUp n (leBytes 1 0x23 ++ leBytes 1 n ++ leBytes 1 e ++ r.take 2))) ∧
      (d.mcSource n = true → e = d.mcEpoch n → Does (.mcPulled k) s
        ((d.set (R.AGX_MC_TREE_W2_OUT_PULLS n) (d.get (R.AGX_MC_TREE_W2_OUT_PULLS n) - 1)).mcAck n))) ∧
    (∀ e r p d, s.fresh.takeTree k 0x24 = some (n, e, r, p, d) → d.mcValid n = true → p = d.mcUp n → e = d.mcEpoch n →
      let x := d.setTree n { d.tree n with last := some (recNat r 0 2, recNat r 2 2) }
      Does (.mcEnd k) s (((x.mcSendDown n (leBytes 1 0x24 ++ leBytes 1 n ++ leBytes 1 e ++ r.take 4)).mcWhole n).mcPull n)) ∧
    ((s.fresh.tree n).pulling = true → s.dev.agx.tags = [] → s.dev.agx.waiters = [] →
      ((s.fresh.tree n).pullBad = false → Does (.mcPullDone n) s (s.fresh.mcPulled n)) ∧
      ((s.fresh.tree n).pullBad = true → Does (.mcPullDone n) s (s.fresh.setTree n { s.fresh.tree n with pulling := false }))) ∧
    (∀ p beats, s.dev.get R.AGX_MC_CTL_PRUNE_BEATS ≠ 0 → s.dev.get R.AGX_MC_CTL_PRUNE_BEATS ≤ beats → s.fresh.mcValid n = true →
      (s.fresh.mcLive n).contains p = true → (s.fresh.tree n).lag = [] →
      (∀ b, b ∈ (s.fresh.tree n).branches → b.port = p → b.epoch = s.fresh.mcEpoch n → b.heldBelow = false) →
      let d := s.fresh.setTree n { s.fresh.tree n with lag := [p] }
      Does (.branchPrune n ⟨p, beats⟩) s d ∧
      (s.dev.trees = [] → d.pruneBoundary = (d.setTree n { d.tree n with lag := [] }).prune n p))

/-- Stores to the fabric's tables: a tree's entry that is not valid takes words 0 to 2, a valid one takes the clearing of VALID, PULL_DONE and
PULL_DROP, which act in either, and refuses the rest with TREE_WRITE (R172; PULL_DONE in a valid entry: log entry 42); a staged route table or fence table is
armed; a routing fence that times out lets what it held go (R148, R150, R168). -/
def Obligations.FabricTables : Prop :=
  ∀ (s : State) (w : Who) (v : Nat), v < 2 ^ 64 →
    (∀ n k, n < 256 → k < 3 → s.takes w (R.AGX_MC_TREE_W0 n + 8 * k) → s.fresh.mcValid n = false →
      let o := R.AGX_MC_TREE_W0 n + 8 * k
      let old := (s.dev.reg o).toNat
      let e := s.fresh.setWord o (BitVec.ofNat 64 ((v &&& treeMask k) + (old - (old &&& treeMask k))))
      Does (.mcTreeWrite w n k v) s (if k = 2 then e.pullBits n v else e)) ∧
    (∀ n, n < 256 → s.takes w (R.AGX_MC_TREE_W0 n + 8) → s.fresh.mcValid n = true →
      Does (.mcTreeWrite w n 1 v) s (s.fresh.raise1 R.AGX_COL_ERR_TREE_WRITE n)) ∧
    (∀ n, n < 256 → s.takes w (R.AGX_MC_TREE_W2 n) → s.fresh.mcValid n = true →
      (bitAt v 62 = false → s.dev.get (R.AGX_MC_TREE_W3_RX_STATE n) = 2 → s.dev.flag R.AGX_MC_CTL_AUTO_PULL = false →
        Does (.pullDone w n v) s (s.fresh.mcPulled n)) ∧
      (bitAt v 63 = false → s.fresh.mcSource n = true → Does (.pullDrop w n v) s (s.fresh.pullLess n))) ∧
    (s.takes w R.AGX_ROUTE_SWAP → Does (.agxRouteSwap w v) s (s.fresh.set R.AGX_ROUTE_SWAP_ARM 1)) ∧
    (s.takes w R.AGX_FENCE_ARM → ∃ d, s.fresh.storedAt R.AGX_FENCE_ARM d ∧ d.get R.AGX_FENCE_ARM_ARM = 1 ∧
      d.get R.AGX_FENCE_ARM_AT_BEAT = v % 2 ^ 48 ∧ Does (.agxFenceArm w v) s d) ∧
    (∀ dest began held, (s.dev.agx.fences.find? fun f => f.1 = dest) = some (dest, began, held) →
      s.dev.get R.AGX_CTL_FENCE_TIMEOUT_BEATS ≤ beatSub s.dev.beatNow began →
      let d : Dev := { s.fresh with agx := { s.dev.agx with fences := s.dev.agx.fences.filter fun f => f.1 ≠ dest } }
      Does (.routeFenceTimeout dest) s ((held.foldl (fun (d : Dev) q => d.launch q.pkt q.plan) d).raise1 R.AGX_ERR_FORCED_REORDER dest))

/-! ### KV pages, prefixes, sequences (spec/10_kv_pages.md) -/

/-- Page-manager commands of window or queue n that stand first, with no earlier sequence command on their frames (Tables 10.4 and 10.6):
what each does to its frame, its level-2 entry and the prefix index, and the result it completes with. SEAL, COW and APPEND leave work to
the append engine (R208–R213, R218, R219). -/
def Obligations.FrameCommands : Prop :=
  ∀ (s : State) (n : Nat) (c : KvCmd) (rest : List KvCmd), s.dev.kv.arrivals = c :: rest → c.src = n → kvReserved c.word = false →
    s.fresh.kvBlocked [] c = false →
    let r := c.word
    let b := s.fresh
    let ends (d : Dev) (code arg : Nat) : Dev := ({ d with kv := { d.kv with arrivals := d.kv.arrivals.erase c } } : Dev).kvFinish c code arg
    -- commands on one frame
    (∀ e, b.frameEntry (kvArg r) = some e →
      let f := kvArg r
      (kvOp r = 5 → feState e = 1 ∨ feState e = 3 ∨ feState e = 4 → fePin e < 65535 →
        Does (.pin n) s (ends ((b.setFrame f (feWith e (feFill e) (feState e) (fePin e + 1) (feRef e))).count R.KVP_PIN_PINS 1) 0 (feState e))) ∧
      (kvOp r = 6 → 0 < fePin e → (feState e ≠ 5 ∨ fePin e ≠ 1) →
        Does (.unpin n) s (ends ((b.count R.KVP_PIN_UNPINS 1).setFrame f (feWith e (feFill e) (feState e) (fePin e - 1) (feRef e))) 0 0)) ∧
      (kvOp r = 6 → feState e = 5 → fePin e = 1 → Does (.unpin n) s (ends ((b.count R.KVP_PIN_UNPINS 1).linkFrame f) 0 0)) ∧
      (kvOp r = 7 → kvCtx r = 0xFF → feState e = 1 → feFill e = 64 → Does (.sealPage n) s (ends ((b.setFrame f (feWith e 64 3 (fePin e) (feRef e))).queueWork (.sealing f)) 0 f)) ∧
      (kvOp r = 4 → kvCtx r = 0xFF → feState e = 1 ∨ feState e = 2 ∨ feState e = 4 →
        (1 < feRef e → Does (.freeFrame n) s (ends (b.setFrame f (feWith e (feFill e) (feState e) (fePin e) (feRef e - 1))) 0 0)) ∧
        (feRef e ≤ 1 → fePin e = 0 → Does (.freeFrame n) s (ends (b.linkFrame f) 0 0)) ∧
        (feRef e ≤ 1 → fePin e ≠ 0 → Does (.freeFrame n) s (ends (b.setFrame f (feWith e (feFill e) 5 (fePin e) 0)) 0 0)))) ∧
    -- commands on a page of a context, whose level-2 entry lies at `a`
    (∀ h x a, b.named (kvCtx r) = .ctx h x → b.l2At x (kvLayer r) (kvHead r) (kvPos r / 64) = some a →
      let page := kvPos r / 64
      let link (d : Dev) (f : Nat) : Dev := d.setL2 h (kvLayer r) (kvHead r) page a f
      (∀ f d, kvOp r = 1 → b.peekNat a 4 = noFrame → s.dev.kv.rebuild = false → b.takeFrame = some (f, d) →
        Does (.alloc n) s (ends (link (d.setFrame f (feMake 0 x.fmt x.dim 0 1 0 1)) f) 0 f)) ∧
      (kvOp r = 1 → b.peekNat a 4 = noFrame → s.dev.kv.rebuild = false → b.takeFrame = none →
        Does (.alloc n) s (ends (b.raise1 R.KVP_ERR_NO_FRAME h) 1 0)) ∧
      (∀ e, kvOp r = 2 → b.peekNat a 4 = noFrame → b.frameEntry (kvArg r) = some e → feState e = 4 → feRef e < 65535 →
        Does (.sharePage n) s (ends (link (b.setFrame (kvArg r) (feWith e (feFill e) 4 (fePin e) (feRef e + 1))) (kvArg r)) 0 (kvArg r))) ∧
      (∀ e f d, kvOp r = 3 → b.peekNat a 4 ≠ noFrame → b.frameEntry (b.peekNat a 4) = some e → feState e = 4 → fePin e < 65535 → s.dev.kv.rebuild = false →
        b.takeFrame = some (f, d) →
        let old := b.peekNat a 4
        let y := (d.setFrame f (feMake 0 (bits e 73 72) (bits e 71 71) 0 2 1 1)).setFrame old
          (feWith e (feFill e) (if feRef e ≤ 1 then 5 else 4) (fePin e + 1) (feRef e - 1))
        let z := ((y.count R.KVP_PIN_PINS 2).count R.KVP_COPY_COWS 1).queueWork (.copy ⟨old, f, if kvKeep r = 0 then 64 else kvKeep r⟩)
        Does (.cow n) s (ends (link z f) 0 f)) ∧
      (∀ e, kvOp r = 3 → b.peekNat a 4 ≠ noFrame → b.frameEntry (b.peekNat a 4) = some e → feState e = 1 →
        Does (.cow n) s (ends b 0 (b.peekNat a 4))) ∧
      -- APPEND to one page of one head that has its frame: it takes its positions, a full page is SEALING, the engine has the work
      (∀ f e, kvOp r = 0x10 → kvHeadCnt r = 1 → 0 < kvArg r → kvPos r % 64 + kvArg r ≤ 64 → b.appendPos x r 0 = some true →
        b.appendPage x r 0 page = .inr (some f) → b.frameEntry f = some e → s.dev.kv.rebuild = false →
        let fill := kvPos r % 64 + kvArg r
        let y := b.setFrame f (feWith e fill (if fill = 64 then 3 else 1) (fePin e) (feRef e))
        let z := (y.setCtx h (some { x with hwm := max x.hwm (kvPos r + kvArg r) })).queueWork (.append ⟨c, x.fmt, x.dim, [(0, page, f)]⟩)
        let z := if fill = 64 then z.queueWork (.sealing f) else z
        Does (.appendKv n) s { z with kv := { z.kv with arrivals := z.kv.arrivals.erase c } }) ∧
      -- a head whose tail is not where POS says: BAD_POS
      (kvOp r = 0x10 → kvHeadCnt r = 1 → 0 < kvArg r → kvPos r % 64 + kvArg r ≤ 64 → (b.headPage x r 0 page).isSome = true →
        b.appendPos x r 0 = some false → Does (.appendKv n) s (ends b 3 0))) ∧
    -- the prefix index
    (∀ h x, b.named (kvCtx r) = .ctx h x →
      (∀ d code k, kvOp r = 0x20 → s.dev.flag R.PFX_CTL_ENABLE = true →
        b.matchFrom h x (kvAddr r) (kvArg r) (kvArg r) 0 noFrame 0 = .done d code k → code ≠ 0xFF → Does (.pfxMatch n) s (ends d code k)) ∧
      (kvOp r = 0x20 → s.dev.flag R.PFX_CTL_ENABLE = false → Does (.pfxMatch n) s (ends b 0 0)) ∧
      (∀ d code k, kvOp r = 0x21 → s.dev.flag R.PFX_CTL_ENABLE = true → x.layers * x.heads ≤ (b.frameSize - 512) / 4 →
        b.insertFrom x (kvAddr r) (kvArg r) (kvArg r) 0 noFrame 0 = .done d code k → code ≠ 0xFF → Does (.pfxInsert n) s (ends d code k)) ∧
      (kvOp r = 0x21 → s.dev.flag R.PFX_CTL_ENABLE = true → (b.frameSize - 512) / 4 < x.layers * x.heads →
        Does (.pfxInsert n) s (ends b 5 0))) ∧
    (∀ k e, kvOp r = 0x22 → (s.dev.kv.pfx.find? fun e => e.2.elim false fun x => x.frame = kvArg r) = some (k, some e) →
      Does (.pfxEvict n) s (ends (b.pfxRemove k e) 0 0))

/-- What the page manager and its append engine end, and stores to its registers: a queue's record admitted for a token; a summary written,
a copy ended, an APPEND ended, each when it is the engine's oldest work; free lists rebuilt, the entry cache flushed, look-asides and the index cleared (R204, R207–R209, R211–R214). -/
def Obligations.FrameEngine : Prop :=
  ∀ (s : State) (n f : Nat),
    (let ch := s.dev.get (R.KVP_CMDQ_CFG_CHANNEL n)
     let k := s.dev.get (R.KVP_CMDQ_HEAD_ADMITTED n)
     let a := s.dev.get (R.KVP_CMDQ_BASE_BASE n) + 32 * (k % 2 ^ min (max (s.dev.get (R.KVP_CMDQ_CFG_SIZE_LOG2 n)) 4) 16)
     let d := (s.fresh.takeTokens ch 1).set (R.KVP_CMDQ_HEAD_ADMITTED n) (k + 1)
     n < 8 → s.dev.flag (R.KVP_CMDQ_CFG_ENABLE n) = true → s.fresh.chan ch ≠ 0 → chanKind (s.fresh.chan ch) = 0 →
      chanConsumer (s.fresh.chan ch) / 4096 = 3 → 0 < s.fresh.tokens ch →
      Does (.kvpCmdqAdmit n) s { d with kv := { d.kv with
        arrivals := d.kv.arrivals ++ [⟨16 + n, d.peekNat a 32, a, d.kv.next⟩], next := d.kv.next + 1 } }) ∧
    (∀ e rest, s.dev.kv.work = .sealing f :: rest →
      let b : Dev := { s.fresh with kv := { s.dev.kv with work := rest } }
      b.frameEntry f = some e → feState e = 3 →
      let dm := pageDim (bits e 71 71)
      let w := pageElem (bits e 73 72)
      let x := b.hbmRead (b.frameAddr f) (64 * dm * w)
      let keys := (List.range 64).map fun i => (List.range dm).map fun j => recNat x.2.bytes ((i * dm + j) * w) w
      let y := pageSummary (bits e 73 72) dm keys
      let d := x.1.hbmWrite (x.1.summaryAt f) (y.1.flatMap (leBytes 1) ++ leBytes (252 - dm) 0 ++ leBytes 4 y.2) fun _ => x.2.anyPoison
      Does (.sealingDone f) s ((d.setFrame f (feWith e (feFill e) 4 (fePin e) (feRef e))).count R.KVP_COPY_SEALS 1)) ∧
    (∀ c rest e e', s.dev.kv.work = .copy c :: rest → c.dst = f →
      let d : Dev := { s.fresh with kv := { s.dev.kv with work := rest } }
      d.frameEntry c.dst = some e →
      let x := d.hbmRead (d.frameAddr c.src) (128 * pageDim (bits e 71 71) * pageElem (bits e 73 72))
      let y := x.1.hbmWrite (x.1.frameAddr c.dst) x.2.bytes fun i => x.2.poison.getD i false
      y.frameEntry c.dst = some e' → feState e' = 2 →
      let z := y.setFrame c.dst (feWith e' c.keep 1 (fePin e') (feRef e'))
      let z := (z.unpinFrame c.dst).dev z
      Does (.cowCopyDone f) s ((z.unpinFrame c.src).dev z)) ∧
    (∀ a rest, s.dev.kv.work = .append a :: rest →
      let r := a.cmd.word
      let d := a.pages.foldl (fun (d : Dev) y => d.appendWrite a.fmt a.dim r y) ({ s.fresh with kv := { s.dev.kv with work := rest } } : Dev)
      Does (.appendDone 0) s
        ((d.count R.KVP_APPEND_BYTES (kvArg r * kvHeadCnt r * 2 * pageDim a.dim * pageElem a.fmt)).kvFinish a.cmd 0 (kvArg r))) ∧
    (s.dev.kv.rebuild = true →
      let d := ({ s.fresh with kv := { s.dev.kv with rebuild := false, free := [] } } : Dev).set R.KVP_STATUS_FREE 0
      Does .freeListRebuildDone s ((List.range d.frameCount).foldl (fun (d : Dev) g =>
        match d.frameEntry g with
        | some e =>
          if feState e ≠ 0 then d
          else
            let l := d.freeList (g % 64)
            ((d.setFree (g % 64) (g :: l)).setFrame g (feMake (l.headD noFrame) 0 0 0 0 0 0)).set R.KVP_STATUS_FREE (d.get R.KVP_STATUS_FREE + 1)
        | none => (d.raise1 R.KVP_ERR_POISON g).contained 0 63 (d.entryAt g)) d)) ∧
    (∀ w v, v < 2 ^ 64 →
      (s.takes w R.KVP_CTL →
        let d := s.dev.kv.cache.foldl Dev.writeBack s.fresh
        Does (.kvpFlush w v) s { d with kv := { d.kv with cache := [] } }) ∧
      (∀ h, s.takes w R.KVP_WALK_INV → s.fresh.bound (v % 128) = some h → Does (.kvpWalkInv w v) s (s.fresh.dropHandle h)) ∧
      (∀ e, s.takes w R.KVP_FRAME_RD → s.fresh.frameEntry (v % 2 ^ 32) = some e →
        Does (.kvpFrameRd w v) s (((s.fresh.set R.KVP_FRAME_RD_FRAME (v % 2 ^ 32)).set (R.KVP_FRAME_DATA_ENTRY 0) (e % 2 ^ 64)).set
          (R.KVP_FRAME_DATA_ENTRY 1) (e / 2 ^ 64))) ∧
      (s.takes w R.PFX_CTL → ∃ d, s.fresh.storedAt R.PFX_CTL d ∧ d.get R.PFX_CTL_ENABLE = bits v 0 0 ∧ Does (.pfxClear w v) s d.pfxClearAll))

/-- Sequence commands of window n that stand first (Table 10.10): ADMIT, PARK, ACTIVATE, RELEASE and FORK, and a context restored
(R220–R222). The handle that an admission gives is a free one, any (log entry 12). -/
def Obligations.SequenceCommands : Prop :=
  ∀ s : State,
    (∀ c rest, s.dev.kv.seqArrivals = c :: rest →
      let n := c.win
      let b : Dev := { s.fresh with kv := { s.dev.kv with seqArrivals := rest } }
      let h := scHandle c
      (c.op = 0 → 0 < bits c.a1 15 0 → bits c.a1 15 0 ≤ 256 → 0 < bits c.a1 31 16 → bits c.a1 31 16 ≤ 256 → bits c.a0 44 0 % 64 = 0 →
        bits c.a1 33 32 ≠ 3 → 128 * pageDim (bits c.a1 34 34) * pageElem (bits c.a1 33 32) ≤ b.frameSize →
        let r : SeqRec := ⟨1, bits c.a1 35 35, bits c.a1 33 32, bits c.a1 34 34, bits c.a1 15 0, bits c.a1 31 16, bits c.a0 44 0, 0, 0⟩
        (∀ g d, b.admitRec r = some (g, d) → Does (.seqAdmit n) s (d.seqFinish c 0 g)) ∧
        (b.admitRec r = none → Does (.seqAdmit n) s ((b.count R.SEQ_REFUSE_FULL 1).seqFinish c 8 0))) ∧
      (∀ r, c.op = 1 → b.seqCtx h = some r → r.state = 1 →
        Does (.park n) s ((b.setCtx h (some { r with state := 2, park := b.beatNow })).seqFinish c 0 0)) ∧
      (∀ r, c.op = 2 → b.seqCtx h = some r → r.state = 2 → Does (.activate n) s ((b.setCtx h (some { r with state := 1 })).seqFinish c 0 0)) ∧
      (∀ r, c.op = 2 → b.seqCtx h = some r → r.state = 3 →
        let d := b.wantRestore h
        Does (.activate n) s { d with kv := { d.kv with activates := d.kv.activates ++ [c] } }) ∧
      (∀ r, c.op = 3 → b.fullRec h = some r → b.anyIn (b.pagesOf r) 3 = false → s.fresh.seqBlocked c = false →
        let d := (b.pagesOf r).foldl (fun (d : Dev) x =>
          ((d.freeAny x.2.2.2.2).dev d).setL2 h x.1 x.2.1 x.2.2.1 x.2.2.2.1 noFrame) b
        let e : Dev := { d with kv := { d.kv with restores := d.kv.restores.erase h } }
        Does (.seqRelease n) s (((e.setCtx h none).dropHandle h).seqFinish c 0 0)) ∧
      -- FORK of a context without pages; a fork that finds too few frames
      (∀ r, c.op = 4 → b.seqCtx h = some r → r.state ≠ 3 → bits c.a0 44 0 % 64 = 0 → b.kv.rebuild = false →
        b.anyIn (b.pagesOf r) 3 = false → b.anyIn (b.pagesOf r) 2 = false → b.anyPinned (b.pagesOf r) = false → s.fresh.seqBlocked c = false →
        (∀ g d, b.pagesOf r = [] → r.layers * r.heads ≤ b.get R.KVP_STATUS_FREE →
          b.admitRec { r with state := 1, l1 := bits c.a0 44 0, park := 0 } = some (g, d) → Does (.fork n) s (d.seqFinish c 0 g)) ∧
        (b.get R.KVP_STATUS_FREE < r.layers * r.heads → Does (.fork n) s ((b.raise1 R.KVP_ERR_NO_FRAME h).seqFinish c 1 0)))) ∧
    (∀ h rest r d, s.dev.kv.restores = h :: rest → s.fresh.fullRec h = some r → s.fresh.makeSlot = some d → d.kv.activates = [] →
      let e : Dev := { d with kv := { d.kv with restores := d.kv.restores.tail } }
      Does (.contextRestore h) s ((e.setCtx h (some { r with state := 1 })).count R.SEQ_SPILL_RESTORES 1))

/-! ### Experts, deferred queue, midnight commit (spec/11_experts.md, spec/12_backward.md, spec/13_update_commit.md) -/

/-- WIDEN_FETCH_DONE: the copies of an entry reach the travel tiles and it is RESIDENT, or its fetch has failed; stores that arm a directory
update and that drain the deferred queue (R231, R241, R256). -/
def Obligations.EntriesChange : Prop :=
  ∀ s : State,
    (∀ r b, (s.dev.exp.fetch.find? fun b => b.res = r) = some b → b.left = 0 → b.bad = false →
      let wide := s.dev.force (R.EXP_LAYER_WIDE_FMT (s.dev.get (R.EXP_RES_W0_LAYER r)))
      let sites := s.fresh.travelSites
      let d := ((List.range sites.length).zip sites).foldl (fun (d : Dev) x => d.widenTile b wide sites.length x.1 x.2) s.fresh
      let e := d.set (R.EXP_RES_W0_STATE r) 2
      Does (.widenFetchDone r) s ({ e with exp := { e.exp with fetch := e.exp.fetch.filter fun x => x.res ≠ r } } : Dev).refreshExp) ∧
    (∀ r b, (s.dev.exp.fetch.find? fun b => b.res = r) = some b → b.left = 0 → b.bad = true →
      Does (.widenFetchDone r) s (s.fresh.failEntry r R.EXP_ERR_FETCH_FAIL)) ∧
    (∀ w v, v < 2 ^ 64 → s.takes w R.EXP_DIR_UPD_ARM → Does (.expDirUpdArm w v) s (s.fresh.set R.EXP_DIR_UPD_ARM_ARM 1)) ∧
    (∀ w v, v < 2 ^ 64 → s.takes w R.WGQ_CTL → s.dev.imageActive = false → ∃ d, s.fresh.storedAt R.WGQ_CTL d ∧
      d.get R.WGQ_CTL_PRIORITY = bits v 3 3 ∧ d.get R.WGQ_CTL_ORDER = bits v 1 0 ∧ Does (.wgqDrain w v) s d.urgentAll)

/-- The member of a commit (Table 13.7): its vote, MIDNIGHT, ABORT and RELEASE, a decision that does not come, and its stores (R106,
R256, R275, R276, R278, R282). -/
def Obligations.MembersVote : Prop :=
  ∀ s : State,
    (s.fresh.voteWaiting = true → s.fresh.wgqUsed ≠ [] → Does .voteSend s s.fresh.urgentAll) ∧
    (s.fresh.voteWaiting = true → s.fresh.wgqUsed = [] → s.dev.upd.voteReq = true →
      let d := ({ s.fresh with upd := { s.dev.upd with voteReq := false } } : Dev).set R.UPD_COMMIT_STATUS_STATE 1
      Does .voteSend s ({ d with upd := { d.upd with midStep := none, abortStep := none } } : Dev).sendVote) ∧
    (∀ m rest, s.dev.upd.box = m :: rest → s.fresh.commitSet.contains m.sender = true → m.scale = s.dev.get R.UPD_SCALE_S →
      let b : Dev := { s.fresh with upd := { s.dev.upd with box := rest } }
      (m.kind = 2 → b.decided m.step = false → b.commitState = 1 → m.step = b.nextStep → beatGe b.beatNow m.beat = false →
        let d := (b.set R.UPD_COMMIT_STATUS_STATE 2).set R.UPD_COMMIT_STATUS_M_BEAT m.beat
        let e : Dev := { d with upd := { d.upd with skip := m.flags.testBit 0, late := false, midStep := some m.step } }
        Does .midnight s ((e.commitSet.filter fun x => x ≠ e.id).foldl
          (fun (d : Dev) x => d.sendCommit x 2 m.flags m.step m.beat m.scale) e)) ∧
      (m.kind = 2 → b.decided m.step = true → Does .midnight s (b.count R.UPD_ABORTS_DISCARDED 1)) ∧
      (m.kind = 3 → b.decided m.step = false → (b.commitState = 1 ∨ b.commitState = 0 ∧ m.src = b.coord) → m.step = b.nextStep →
        let d := (b.clearWatch.set R.UPD_COMMIT_STATUS_STATE 0).set R.UPD_COMMIT_STATUS_OUTCOME 3
        let e : Dev := { d with upd := { d.upd with abortStep := some m.step } }
        Does .abortMsg s ((e.stepEnded m.step 3).count R.UPD_ABORTS_ABORTS 1).doneToken) ∧
      (m.kind = 5 → m.step = b.get R.UPD_BANK_LIVE_STEP → Does .release s (b.set R.UPD_RET_RET_VALID 0))) ∧
    (s.dev.get R.UPD_COMMIT_STATUS_STATE = 1 → s.dev.force R.UPD_COMMIT_CFG_DECIDE_TIMEOUT ≤ beatSub s.dev.beatNow s.dev.upd.since →
      let d := s.fresh.raise1 R.UPD_ERR_DECIDE_TIMEOUT s.dev.upd.since
      Does .decideTimeout s { d with upd := { d.upd with since := d.beatNow } }) ∧
    (∀ w v, v < 2 ^ 64 →
      (s.takes w R.UPD_COMMIT_CTL → s.fresh.wgqUsed = [] → bitAt v 62 = false →
        Does (.vote w v) s { s.fresh with upd := { s.dev.upd with voteReq := true } }) ∧
      (s.takes w R.UPD_COMMIT_CTL → bitAt v 63 = false → s.dev.get R.UPD_COMMIT_STATUS_STATE = 1 → Does (.revote w v) s s.fresh.sendVote) ∧
      (s.takes w R.UPD_BANK_CTL → bitAt v 62 = false →
        Does (.flipBack w v) s { s.fresh with upd := { s.dev.upd with bankCtl := some (R.UPD_BANK_CTL_FLIP_BACK.on v) } }) ∧
      (s.takes w R.UPD_BANK_CTL → bitAt v 63 = false →
        Does (.setBank w v) s { s.fresh with upd := { s.dev.upd with bankCtl := some (R.UPD_BANK_CTL_SET.on v) } }) ∧
      (s.takes w R.UPD_BANK_CTL → bitAt v 62 = true → Does (.flipBack w v) s (s.fresh.raise1 R.UPD_ERR_BANK_REJECT 0)))

/-- The coordinator (R279): votes and their decision, acknowledgements and RELEASE, the deadline, ABORT_NOW. -/
def Obligations.CoordinatorDecides : Prop :=
  ∀ s : State,
    (∀ m rest, s.dev.upd.box = m :: rest → s.fresh.commitSet.contains m.sender = true → m.scale = s.dev.get R.UPD_SCALE_S →
      let b : Dev := { s.fresh with upd := { s.dev.upd with box := rest } }
      (m.kind = 1 → b.id = b.coord → b.coordState = 1 → m.step = b.roundStep →
        let d : Dev := { b with upd := { b.upd with ovf := b.upd.ovf || m.flags.testBit 0, poison := b.upd.poison || m.flags.testBit 1 } }
        Does .staged s (d.noteVote m.src).decide1) ∧
      (m.kind = 4 → b.coordState = 2 → m.step = b.roundStep → b.upd.members.contains m.src = true →
        Does .flipped s (b.noteVote m.src).tryRelease)) ∧
    -- the last vote is in: ABORT for poison, a skipping MIDNIGHT for an overflow, else MIDNIGHT, LEAD_BEATS ahead
    (∀ d : Dev, d.coordState = 1 → d.commitSet ≠ [] → (∀ x, x ∈ d.commitSet → d.voted x = true) →
      let m := beatAdd d.beatNow (max 1 (d.force R.UPD_COMMIT_CFG_LEAD_BEATS))
      (d.upd.poison = true → d.decide1 = (d.sendAll d.commitLive 3 0 d.roundStep d.beatNow).set R.UPD_COORD_STATUS_STATE 0) ∧
      (d.upd.poison = false → d.upd.ovf = true → d.decide1 = (d.sendAll d.commitLive 2 1 d.roundStep m).set R.UPD_COORD_STATUS_STATE 0) ∧
      (d.upd.poison = false → d.upd.ovf = false → d.decide1 =
        { ((d.sendAll d.commitLive 2 0 d.roundStep m).set R.UPD_COORD_STATUS_STATE 2).clearVotes with upd :=
          { ((d.sendAll d.commitLive 2 0 d.roundStep m).set R.UPD_COORD_STATUS_STATE 2).clearVotes.upd with members := d.commitSet } })) ∧
    -- a vote is missing: nothing is decided
    (∀ d : Dev, d.coordState = 1 → (∃ x, x ∈ d.commitSet ∧ d.voted x = false) → d.decide1 = d) ∧
    (let ended := ((s.fresh.sendAll s.fresh.commitLive 3 0 s.fresh.roundStep s.dev.beatNow).set R.UPD_COORD_STATUS_STATE 0).takeHeld
     (s.fresh.coordState = 1 → beatGt s.dev.beatNow (s.dev.get R.UPD_DEADLINE_BEAT) = true →
      (∃ x, x ∈ s.fresh.commitSet ∧ s.fresh.voted x = false) → Does .voteDeadline s ended) ∧
     (∀ w v, v < 2 ^ 64 → s.takes w R.UPD_COORD_CTL → s.fresh.coordState = 1 → Does (.abortNow w v) s ended))

/-- A committed step at the boundary that starts M (R107, R273–R275): the live bank flips, the old one is retained at the old step, the
step counts, and the loss scale rises after RAISE_AFTER clean steps. A skipped step flips nothing and lowers the scale. -/
def Obligations.MidnightApplies : Prop :=
  ∀ d : Dev,
    let e := d.midnightApply
    e.get R.UPD_COMMIT_STATUS_STATE = 0 ∧
    (d.upd.skip = false →
      e.get R.UPD_BANK_LIVE_BANK = 1 - d.get R.UPD_BANK_LIVE_BANK ∧ e.get R.UPD_BANK_LIVE_STEP = (d.get R.UPD_BANK_LIVE_STEP + 1) % 2 ^ 48 ∧
      e.get R.UPD_RET_RET_VALID = 1 ∧ e.get R.UPD_RET_RET_STEP = d.get R.UPD_BANK_LIVE_STEP ∧ e.get R.UPD_COMMIT_STATUS_OUTCOME = 1 ∧
      (d.get R.UPDATE_CFG_RAISE_AFTER ≤ d.get R.UPD_SCALE_CLEAN + 1 →
        e.get R.UPD_SCALE_S = min 32 (d.get R.UPD_SCALE_S + 1) ∧ e.get R.UPD_SCALE_CLEAN = 0)) ∧
    (d.upd.skip = true →
      e.get R.UPD_BANK_LIVE_BANK = d.get R.UPD_BANK_LIVE_BANK ∧ e.get R.UPD_BANK_LIVE_STEP = d.get R.UPD_BANK_LIVE_STEP ∧
      e.get R.UPD_RET_RET_VALID = d.get R.UPD_RET_RET_VALID ∧ e.get R.UPD_COMMIT_STATUS_OUTCOME = 2 ∧
      e.get R.UPD_SCALE_S = d.get R.UPD_SCALE_S - 1 ∧ e.get R.UPD_SCALE_CLEAN = 0)

/-! ### HBM and protection (spec/14_hbm_protection.md) -/

/-- The controllers' own events: a second read that corrects its codeword or poisons it, a refresh, the age cap, on-die counts, a
failing stack (R284, R285, R289, R290, R293, R297). -/
def Obligations.ControllersAct : Prop :=
  ∀ (s : State) (n : Nat),
    (∀ a syms, a < s.dev.get R.ECC_TOP_TOP → stGet (fun _ => false) s.dev.hbm.poison (s.fresh.bankAddr a / 128) = false →
      let st := s.fresh.bankAddr a / 128
      let loc := a / 128 * 128
      let pc := s.fresh.pcOf loc
      let wrong := max syms (stGet (fun _ => 0) s.dev.hbm.bad st)
      let c := (s.fresh.markRetry loc).count (R.HBM_PC_W1_RETRIES (pc / 64) (pc % 64)) 1
      let d : Dev := { c with hbm := { c.hbm with bad := stSet (fun _ => 0) c.hbm.bad st wrong } }
      (2 * wrong ≤ s.dev.strength →
        Does (.hbmReread a syms) s ((d.count (R.HBM_PC_W1_CORRECTED (pc / 64) (pc % 64)) 1).logError 0 0 pc loc 0xFFFF (2 ^ 32 - 1))) ∧
      (s.dev.strength < 2 * wrong →
        Does (.hbmReread a syms) s (({ d with hbm := d.hbm.poisonWord s.dev.strength st } : Dev).logError 1 0 pc loc 0xFFFF (2 ^ 32 - 1)))) ∧
    (s.fresh.stackUp (n / 64) = true →
      Does (.ageCap n) s (s.fresh.count (R.HBM_PC_W1_AGE_CAP (n / 64) (n % 64)) 1) ∧
      (s.dev.get (R.HBM_CTL_REFRESH (n / 64)) = 1 → Does (.hbmRefresh n) s { s.dev with out := [.refresh n true] }) ∧
      (s.dev.get (R.HBM_CTL_REFRESH (n / 64)) ≠ 1 → Does (.hbmRefresh n) s { s.dev with out := [.refresh n false] })) ∧
    (∀ st, Does (.onDieEccStatusRead st) s (((List.range 24).filter s.fresh.stackUp).foldl (fun (d : Dev) n =>
      (d.bump (R.HBM_DIE_ECC_CORR n) (st.getD n (0, 0)).1).bump (R.HBM_DIE_ECC_UNCORR n) (st.getD n (0, 0)).2) s.fresh)) ∧
    (n < 24 → s.fresh.stackUp n = true → Does (.stackFailure n) s ((s.fresh.fatal 0 (64 * n)).set (R.HBM_STATUS_STATE n) 4))

/-- Scrubbing (R302, R303): GO starts a pass over a range that is aligned and below TOP and is refused else; one codeword; the end of a
pass, once or again. -/
def Obligations.Scrubbing : Prop :=
  ∀ s : State,
    (∀ w v, v < 2 ^ 64 → s.takes w R.ECC_SCRUB_CTL →
      let d := ((s.fresh.set R.ECC_SCRUB_CTL_CLEAR_POISON (bits v 61 61)).set R.ECC_SCRUB_CTL_CONTINUOUS (bits v 60 60)).set
        R.ECC_SCRUB_CTL_RATE_GBS (bits v 47 32)
      let b := d.get R.ECC_SCRUB_BASE_BASE
      let l := d.get R.ECC_SCRUB_LEN_LEN
      (b % 2048 = 0 → l % 2048 = 0 → b + l ≤ d.get R.ECC_TOP_TOP →
        let e := (d.set R.ECC_SCRUB_CTL_BUSY 1).set R.ECC_SCRUB_POS_POS b
        Does (.scrubGo w v) s { e with hbm := { e.hbm with scrub := ⟨b, l, e.beatNow, 0, 0, 0, 0, none, [], 0⟩ } }) ∧
      (b % 2048 ≠ 0 ∨ l % 2048 ≠ 0 ∨ d.get R.ECC_TOP_TOP < b + l → Does (.scrubGo w v) s (d.raise1 R.ECC_ERR_SCRUB_REJECT b))) ∧
    (let a := s.dev.get R.ECC_SCRUB_POS_POS
     s.fresh.scrubbing = true → a < s.dev.hbm.scrub.base + s.dev.hbm.scrub.len →
      Does .scrubCodeword s ((s.fresh.scrubWord a).set R.ECC_SCRUB_POS_POS (a + 128)) ∧
      -- a clean codeword is left as it is
      (stGet (fun _ => false) s.dev.hbm.poison (s.fresh.bankAddr a / 128) = false → stGet (fun _ => 0) s.dev.hbm.bad (s.fresh.bankAddr a / 128) = 0 →
        a % 2048 ≠ 0 → Does .scrubCodeword s (s.fresh.set R.ECC_SCRUB_POS_POS (a + 128)))) ∧
    (s.fresh.scrubbing = true → s.dev.hbm.scrub.base + s.dev.hbm.scrub.len ≤ s.dev.get R.ECC_SCRUB_POS_POS →
      let b := s.fresh
      let x := b.hbm.scrub
      let m := (b.memWrite 63 (b.get R.ECC_SCRUB_REC_REC / 64 * 64) (scrubRecord x b.beatNow) fun _ => false).1
      let d := m.scrubNote fun x => { x with passes := x.passes + 1 }
      (d.flag R.ECC_SCRUB_CTL_CONTINUOUS = false →
        Does .scrubPassDone s ((d.set R.ECC_SCRUB_CTL_BUSY 0).event R.ECC_SCRUB_CTL_BUSY x.base noArg noArg)) ∧
      (d.flag R.ECC_SCRUB_CTL_CONTINUOUS = true →
        Does .scrubPassDone s (((d.set R.ECC_SCRUB_POS_POS x.base).scrubNote fun y =>
          { y with startBeat := d.beatNow, corrected := 0, newPoison := 0, oldPoison := 0, cleared := 0, firstBad := none, perPc := [] }).event
          R.ECC_SCRUB_CTL_BUSY x.base noArg noArg)))

/-- Repair, self-test, planted errors, column sweeps and rebuilt rows (R298, R300, R301, R304). -/
def Obligations.ProtectionActs : Prop :=
  ∀ s : State,
    (∀ w n v, v < 2 ^ 64 → n < 24 → s.takes w (R.HBM_PPR n) →
      let d := (((s.fresh.set (R.HBM_PPR_HARD n) (bits v 59 59)).set (R.HBM_PPR_PC n) (bits v 58 53)).set (R.HBM_PPR_BANK n) (bits v 52 47)).set
        (R.HBM_PPR_ROW n) (bits v 46 29)
      (s.dev.imageActive = true → Does (.hbmPpr w n v) s (d.set (R.HBM_PPR_STATUS n) 2)) ∧
      (s.dev.imageActive = false → s.dev.get (R.HBM_PPR_BUSY n) = 0 → Does (.hbmPpr w n v) s (d.set (R.HBM_PPR_BUSY n) 1))) ∧
    (∀ n, n < 24 → s.dev.get (R.HBM_PPR_BUSY n) = 1 →
      let d := (s.fresh.set (R.HBM_PPR_BUSY n) 0).set (R.HBM_PPR_STATUS n) 0
      let at_ := (64 * n + d.get (R.HBM_PPR_PC n), d.get (R.HBM_PPR_BANK n), d.get (R.HBM_PPR_ROW n))
      Does (.hbmPprDone n 1) s ((s.fresh.set (R.HBM_PPR_BUSY n) 0).set (R.HBM_PPR_STATUS n) 1) ∧
      (d.flag (R.HBM_PPR_HARD n) = false →
        Does (.hbmPprDone n 0) s { d with hbm := { d.hbm with repairs := d.hbm.repairs ++ [(at_.1, at_.2.1, at_.2.2, false)] } }) ∧
      (d.flag (R.HBM_PPR_HARD n) = true →
        Does (.hbmPprDone n 0) s (({ d with hbm := { d.hbm with repairs := d.hbm.repairs ++ [(at_.1, at_.2.1, at_.2.2, true)] } } : Dev).rprHard at_.1
          (at_.2.1 * 2 ^ 18 + at_.2.2)))) ∧
    (∀ w v, v < 2 ^ 64 → s.takes w R.ECC_SELFTEST →
      (s.dev.imageActive = false → Does (.eccSelftest w v) s (s.fresh.set R.ECC_SELFTEST_BUSY 1)) ∧
      (s.dev.imageActive = true → Does (.eccSelftest w v) s s.fresh)) ∧
    (∀ hbm tiles, s.dev.get R.ECC_SELFTEST_BUSY = 1 → hbm < 2 ^ 24 → tiles < 2 ^ 384 →
      Does (.eccSelftestDone hbm tiles) s (s.fresh.selftestResult hbm tiles)) ∧
    (∀ w v, v < 2 ^ 64 → s.takes w R.ECC_INJECT →
      let planted (kind : Nat) : Dev := (((s.fresh.set R.ECC_INJECT_ARM 1).set R.ECC_INJECT_KIND kind).set R.ECC_INJECT_TILE (bits v 60 52)).set
        R.ECC_INJECT_OFFSET (bits v 44 0)
      Does (.hbmCorr w v) s (planted 0) ∧ Does (.hbmUncorr w v) s (planted 1) ∧ Does (.cistRow w v) s (planted 2) ∧
        Does (.cistGroup w v) s (planted 3)) ∧
    (∀ t g, t < 384 → s.dev.get (R.TILE_STATUS_PWR t) ≠ 0 →
      Does (.columnSweep t g true false) s (s.fresh.cistLost (t * 65536 + g / 32 % 32 * 64 * 32 + g % 32)) ∧
      Does (.columnSweep t g true true) s ((s.fresh.setTile t { s.dev.tile t with
        nc := (s.dev.tile t).nc.filter fun l => l.line % 512 / 8 ≠ g % 64 }).logError 0 2 t 0 0xFFFF (2 ^ 32 - 1)) ∧
      Does (.columnSweep t g false false) s s.fresh) ∧
    (∀ t line, t < 384 → line < 65536 → stGet (fun _ => 0) s.dev.cist.bad (t * 65536 + line) ≠ 0 →
      Does (.rowRebuildDone t line) s (s.fresh.cistRebuild (t * 65536 + line)))

/-! ### Dawn, resets, power (spec/15_dawn_power.md, spec/18_package.md) -/

/-- Dawn and Morning begin with their boot steps and end READY_NO_IMAGE; a boot ROM that fails its test stops the start at step 2 with a
FATAL error (R308, R316, R318). -/
def Obligations.StartsRun : Prop :=
  ∀ (s : State) (rom : Bool),
    (∀ plim boot, s.dev.pins.aux = true → s.dev.pins.cycle = false → s.dev.pins.warm = false → s.dev.get R.PWR_STATE_DEV_STATE = 0 →
      s.dev.get R.PWR_STATE_BOOT_STEP = 0 →
      let d : Dev := { s.fresh with pins := { s.dev.pins with on := true, undervoltage := false, bootSrc := boot % 2, refLost := false } }
      let d := (d.set R.PWR_PLIM_PLIM (plim % 8)).set R.PWR_PLIM_LIMIT_W (plimWatts plim)
      exec (.dawn plim boot rom) s = .next { s with otp := (bootSteps s.otp d rom).1, dev := (bootSteps s.otp d rom).2 } ∧
      Does (.dawn plim boot false) s ((((d.loadFixed s.otp).ceilReset).set R.PWR_STATE_BOOT_STEP 2).fatal 5 63)) ∧
    (s.dev.pins.warm = true → s.dev.pins.on = true →
      let d := ({ s.fresh with pins := { s.dev.pins with warm := false, refLost := false } } : Dev).devTo 1
      exec (.morning rom) s = .next { s with otp := (bootSteps s.otp d rom).1, dev := (bootSteps s.otp d rom).2 }) ∧
    (∀ ms bad trained, s.dev.pins.on = true → 6 ≤ s.dev.get R.PWR_STATE_BOOT_STEP →
      (s.dev.get R.PWR_STATE_DEV_STATE = 0 → Does (.dawnReady ms bad trained) s (startDone s.otp s.fresh true ms bad trained)) ∧
      (s.dev.get R.PWR_STATE_DEV_STATE = 1 → Does (.morningReady ms bad trained) s (startDone s.otp s.fresh false ms bad trained)))

/-- The resets and the supplies: what a warm reset keeps, what a cold reset and the loss of a supply leave, and how the pins stand
afterwards (R316, R378–R382). -/
def Obligations.ResetsClear : Prop :=
  ∀ s : State,
    (s.dev.pins.on = true → ∃ d, Does .warmReset s d ∧ d.hbm.cells = s.dev.hbm.cells ∧ d.hbm.poison = s.dev.hbm.poison ∧ d.flash = s.dev.flash ∧
      d.cist.cells = [] ∧ d.ops = [] ∧ d.pins = { s.dev.pins with warm := true, alert := false } ∧
      d.reg R.UPD_BANK = s.dev.reg R.UPD_BANK ∧ d.reg R.UPD_RET = s.dev.reg R.UPD_RET ∧ d.reg R.UPD_SCALE = s.dev.reg R.UPD_SCALE ∧
      d.strength = s.dev.strength ∧ d.reg R.BEAT_CTL = resetWord R.BEAT_CTL ∧
      d.slotState 0 = warmSlot (s.dev.slotState 0) ∧ d.slotState 1 = warmSlot (s.dev.slotState 1)) ∧
    (let off (p : PinUnit) : Dev := { Dev.reset with
       hbm := { Dev.reset.hbm with repairs := s.dev.hbm.repairs.filter fun r => r.2.2.2 }, flash := s.dev.flash, jtag := s.dev.jtag
       freeCtr := s.dev.freeCtr, pins := { p with on := false } }
     let p := s.dev.pins
     Does .coldReset s (off { p with warm := false, alert := false }) ∧
     Does .pwrOkDeassert s (off { p with warm := false, alert := false, cycle := false, tripped := false }) ∧
     Does .undervoltage s (off { p with warm := false, alert := false, cycle := true, undervoltage := true }) ∧
     Does .vinAuxLoss s (off { PinUnit.reset with aux := false }) ∧
     (∀ tj die, p.on = true → 105 ≤ tj → Does (.thermalTrip tj die) s (off { p with tripped := true, cycle := true, warm := false }))) ∧
    Does .vinAux3v3Rise s { s.fresh with pins := { s.dev.pins with aux := true, tripped := false, alert := false } } ∧
    (s.dev.alive = true →
      let d := s.fresh.fatal 5 63
      Does .beatRefLoss s { d with pins := { d.pins with refLost := true } })

/-- Power, clock and temperature: a sample, one step down over the ceiling, the hold at the floor, throttling at THROTTLE_C and at
95 °C (R323–R325). -/
def Obligations.ClockFollows : Prop :=
  ∀ s : State, s.dev.pins.on = true →
    (∀ mw,
      let d : Dev := { s.fresh with pwr := { s.dev.pwr with samples := (mw :: s.dev.pwr.samples).take 8 } }
      let e := (d.count R.PWR_ENERGY_UJ (mw / 1000)).countMax R.PWR_ENERGY_PEAK_W (d.meanPower / 1000)
      Does (.powerSample mw) s { e with pwr := { e.pwr with peak := max e.pwr.peak e.meanPower } }) ∧
    (s.fresh.overCeiling = true → s.dev.get R.PWR_CLK_STEPS_DOWN < 24 →
      let n := s.dev.get R.PWR_CLK_STEPS_DOWN + 1
      let d := ((s.fresh.set R.PWR_CLK_STEPS_DOWN n).set R.PWR_CLK_MHZ (1200 - 25 * n)).set R.PWR_CLK_CAUSE 1
      Does .clockStepDown s ((({ d with beat := { d.beat with throttled := true } } : Dev).count R.PWR_THROTTLE_STEPS 1).holdIssue 32)) ∧
    (s.fresh.overCeiling = true → s.dev.get R.PWR_CLK_STEPS_DOWN = 24 →
      Does .floorHold s (((s.fresh.set R.PWR_CLK_CAUSE 3).raise1 R.PWR_ERR_FLOOR_HOLD 0).holdIssue 600)) ∧
    (∀ tj die, tj < 256 → die < 10 →
      let d := s.fresh.sensed tj die
      (d.get R.PWR_THERM_THROTTLE_C ≤ d.get R.PWR_THERM_TJ_C →
        Does (.thermalStep tj die) s ((d.raise1 R.PWR_ERR_THERM_THROTTLE die).stepDown 1 2)) ∧
      (d.get R.PWR_THERM_TJ_C < d.get R.PWR_THERM_THROTTLE_C → Does (.thermalStep tj die) s d) ∧
      (95 ≤ tj →
        let e := (d.raise1 R.PWR_ERR_THERM_95 die).stepDown 24 2
        Does (.therm95 tj die) s { e with pins := { e.pins with alert := true } }))

/-- Units and Night: a store arms Dusk, which drains and ends in NIGHT; a wake; units that drain off, rest and rise; a tile's clock gated; the
repair record (R309, R315, R319–R322). -/
def Obligations.UnitsSleep : Prop :=
  ∀ (s : State) (w : Who) (v n : Nat), v < 2 ^ 64 →
    (s.takes w R.PWR_CTL → s.dev.get R.PWR_STATE_DEV_STATE = 2 ∨ s.dev.get R.PWR_STATE_DEV_STATE = 3 → bitAt v 62 = false →
      let d := s.fresh.set R.PWR_CTL_DUSK_AT_BEAT (v % 2 ^ 48)
      Does (.dusk w v) s { d with pwr := { d.pwr with duskArmed := true } }) ∧
    (s.takes w R.PWR_CTL → s.dev.get R.PWR_STATE_DEV_STATE = 5 → Does (.wake w v) s (s.fresh.set R.PWR_CTL_DUSK_AT_BEAT (v % 2 ^ 48)).wakeStart) ∧
    (s.dev.get R.PWR_STATE_DEV_STATE = 4 → s.dev.pwr.duskDone = true → (∀ p, p < 36 → s.fresh.portQuiet p = true) → s.dev.pwr.wakeHeld = false →
      ∃ d, Does .nightEnter s d ∧ d.get R.PWR_STATE_DEV_STATE = 5 ∧ d.get R.PWR_STATE_PSTATE = 2 ∧ d.agx.fenced = false ∧
        (∀ k, k < 24 → s.dev.get (R.HBM_STATUS_STATE k) = 2 → d.get (R.HBM_STATUS_STATE k) = 3)) ∧
    (s.dev.get R.PWR_STATE_DEV_STATE = 4 → s.dev.pwr.duskDone = false → s.dev.ops = [] → s.fresh.wgqUsed = [] → s.fresh.commitState = 0 →
      ∃ d, Does .duskDrainDone s d ∧ d.pwr.duskDone = true ∧ d.pwr.wave = [] ∧ d.pwr.rising = []) ∧
    (s.dev.get R.PWR_STATE_DEV_STATE = 6 → s.fresh.powerSettled = true → s.dev.imageActive = false →
      let d := (List.range 36).foldl (fun (d : Dev) p => if d.link p = 7 then d.goDown p 1 else d) s.fresh
      let e := ([0, 1] : List Nat).foldl (fun (d : Dev) p => if d.flag (R.ETH_PORT_CTL_ENABLE p) then d.enableUnit (ethUnit p) else d) d
      e.imageActive = false → Does .wakeDone s (e.devTo 2)) ∧
    (n < 384 → s.dev.get (R.TILE_STATUS_PWR n) = 2 ∨ s.dev.get (R.TILE_STATUS_PWR n) = 3 → (s.dev.tile n).exec = none →
      Does (.drainComplete n) s (s.fresh.siteOff n)) ∧
    (s.dev.pwr.offHold.contains n = true →
      let d : Dev := { s.fresh with pwr := { s.dev.pwr with offHold := s.dev.pwr.offHold.erase n, held := s.dev.pwr.held.erase n } }
      (s.dev.pwr.held.contains n = true → Does (.offTimeMet n) s (d.enableUnit n)) ∧
      (s.dev.pwr.held.contains n = false → Does (.offTimeMet n) s d)) ∧
    (s.dev.pwr.rising.contains n = true → 1 < s.dev.get R.PWR_STATE_DEV_STATE →
      let d : Dev := { s.fresh with pwr := { s.dev.pwr with rising := s.dev.pwr.rising.erase n } }
      Does (.tilePowerReady n true) s (d.powerEvent n true).nextWave.wavesDone.reconfigDone ∧
      Does (.tilePowerReady n false) s (d.siteFailed n).nextWave.wavesDone.reconfigDone) ∧
    (∀ ok, s.dev.pins.on = true → s.dev.get R.PWR_STATE_DEV_STATE ≤ 1 → s.dev.get R.PWR_STATE_BOOT_STEP = 6 →
      Does (.tilePowerReady n ok) s (s.fresh.powerSites.siteReady n ok)) ∧
    (n < 384 → s.fresh.tileReady n = true → (s.dev.tile n).exec = none → s.dev.pwr.gated.contains n = false → s.dev.ops ≠ [] →
      Does (.tileClockGate n) s { s.fresh with pwr := { s.dev.pwr with gated := s.dev.pwr.gated ++ [n] } }) ∧
    (s.takes w R.PWR_RPR_GO → Does (.pwrRprGo w v) s ((s.fresh.set R.PWR_RPR_GO_KIND (v % 256)).rprAdd (v % 256) 2
      (s.dev.get R.PWR_RPR_ADD_UNIT) (s.dev.get R.PWR_RPR_ADD_DETAIL))) ∧
    (s.dev.pwr.batch ≠ [] → Does (.repairRecordWrite true) s s.fresh.rprFlush ∧
      Does (.repairRecordWrite false) s (s.fresh.raise1 R.PWR_ERR_RECORD_WRITE_FAIL 0))

/-! ### Management and trust (spec/16_control_security.md) -/

/-- Control cores, mailboxes and rings: a core restarted by machine mode, a mailbox filled and filled again, the interrupt of a ring whose
oldest record waits (R328, R330, R331). -/
def Obligations.CoresServe : Prop :=
  ∀ (s : State) (w : Who) (n v : Nat), v < 2 ^ 64 → n < 16 →
    (s.takes w (R.MGMT_CORE n) → machineMode w = true → s.dev.get (R.MGMT_CORE_STATE n) ≠ 0 → s.dev.get (R.MGMT_CORE_STATE n) ≠ 4 →
      Does (.coreReset w n v) s (s.fresh.set (R.MGMT_CORE_STATE n) 1)) ∧
    (s.takes w (R.MGMT_CORE n) → machineMode w = false → Does (.coreReset w n v) s s.fresh) ∧
    (let d := s.fresh.set R.MGMT_MBOX_CTL_M2C_TARGET (v % 16)
     s.takes w R.MGMT_MBOX_CTL →
      (bitAt v 62 = false → s.dev.get R.MGMT_MBOX_CTL_C2M_FULL = 0 →
        Does (.c2mFull w v) s (((d.set R.MGMT_MBOX_CTL_C2M_FULL 1).emit .mgmtInt).set R.MGMT_MBOX_CTL_M2C_FULL 0)) ∧
      (bitAt v 62 = false → s.dev.get R.MGMT_MBOX_CTL_C2M_FULL = 1 →
        Does (.c2mFull w v) s ((d.raise1 R.MGMT_ERR_MBOX_OVERRUN 0).set R.MGMT_MBOX_CTL_M2C_FULL 0)) ∧
      (bitAt v 63 = false → s.dev.get R.MGMT_MBOX_CTL_M2C_FULL = 0 →
        Does (.m2cFull w v) s (((d.set R.MGMT_MBOX_CTL_C2M_FULL 0).set R.MGMT_MBOX_CTL_M2C_FULL 1).emit (.mboxInt (v % 16))))) ∧
    (s.dev.flag (R.MGMT_RING_W0_INT_EN n) = true → s.dev.get (R.MGMT_RING_W1_PROD n) ≠ s.dev.get (R.MGMT_RING_W1_CONS n) →
      Does (.ringAgeInterrupt n) s { s.dev with out := [.coreInt (s.dev.get (R.MGMT_RING_W0_TARGET n)) (16 + n)] })

/-- R337: a store with SVN_ADVANCE in READY_NO_IMAGE or READY burns the thermometer of 64 fuses up to the running firmware's SVN, and
completes OK; one at or below FUSE_SVN changes none. In any other state it is refused with NOT_READY. A store that sets CFG_APPLY too goes
on with R340. -/
def Obligations.FusesBurn : Prop :=
  ∀ (s : State) (w : Who) (v : Nat), v < 2 ^ 64 → s.takes w R.SEC_CTL →
    let goes (o : Otp) (d : Dev) : Dev := if bitAt v 62 then d.cfgApply o else d
    (s.dev.get R.PWR_STATE_DEV_STATE = 2 ∨ s.dev.get R.PWR_STATE_DEV_STATE = 3 →
      let n := max s.otp.svn (min 64 (s.dev.get R.SEC_STATUS_FW_SVN))
      let o := { s.otp with svn := n }
      exec (.svnAdvance w v) s = .next { s with otp := o, dev := goes o ((s.fresh.set R.SEC_STATUS_FUSE_SVN n).set R.SEC_RESULT_SVN_RESULT 0) }) ∧
    (s.dev.get R.PWR_STATE_DEV_STATE ≠ 2 → s.dev.get R.PWR_STATE_DEV_STATE ≠ 3 →
      Does (.svnAdvance w v) s (goes s.otp (s.fresh.set R.SEC_RESULT_SVN_RESULT 1)))

/-- CFG_APPLY (R339, R340): the copy not in use takes effect at a boundary once it is valid, newer, signed and the owner's; else it is refused for
the first reason that fails. -/
def Obligations.ConfigApplies : Prop :=
  ∀ (s : State) (w : Who) (v : Nat), v < 2 ^ 64 → bitAt v 63 = false → s.takes w R.SEC_CTL →
    let c := 1 - s.dev.get R.SEC_STATUS_CFG_SLOT
    let b := s.fresh.slotBody (cfgBase c)
    let refused (r : Nat) : Dev := (s.fresh.set R.SEC_RESULT_CFG_RESULT r).raise1 R.SEC_ERR_CFG_REJECT 0
    ((∃ x, x ∈ s.dev.trust.pldm ∧ x.comp = 2) → Does (.cfgApply w v) s (refused 4)) ∧
    (s.dev.trust.pldm = none →
      (s.fresh.copyValid (cfgBase c) cfgSize cfgMagic = false → Does (.cfgApply w v) s (refused 1)) ∧
      (s.fresh.copyValid (cfgBase c) cfgSize cfgMagic = true → b.length = 0x18AC0 →
        s.fresh.copyValid (cfgBase (1 - c)) cfgSize cfgMagic = true →
        (s.fresh.hdrSeq (cfgBase c) = s.fresh.hdrSeq (cfgBase (1 - c)) → Does (.cfgApply w v) s (refused 3)) ∧
        (s.fresh.hdrSeq (cfgBase c) ≠ s.fresh.hdrSeq (cfgBase (1 - c)) → seqNewer (s.fresh.hdrSeq (cfgBase c)) (s.fresh.hdrSeq (cfgBase (1 - c))) = true →
          (cfgSigned b = false → Does (.cfgApply w v) s (refused 2)) ∧
          (cfgSigned b = true → cfgOwner s.otp s.fresh b = false → Does (.cfgApply w v) s (refused 5)) ∧
          (cfgSigned b = true → cfgOwner s.otp s.fresh b = true →
            let d := s.fresh.set R.SEC_RESULT_CFG_RESULT 0
            Does (.cfgApply w v) s { d with trust := { d.trust with apply := some c } }))))

/-- Management over I3C (R351, R352): ENTDAA, MCTP control, PLDM sensors and base commands, a component transferred in order, verified and
applied. The layouts of messages are those of log entry 17. -/
def Obligations.ManagementTalks : Prop :=
  ∀ s : State,
    (∀ a, Does (.entdaa a) s ((s.fresh.reply (leBytes 6 (s.dev.get R.MGMT_I3C_PID)).reverse).set R.MGMT_I3C_DYN_ADDR a)) ∧
    (∀ m, recNat m 1 1 = 1 → ∃ r, Does (.mctpControl m) s ((s.fresh.set R.MGMT_MCTP_EID (recNat m 3 1)).reply r)) ∧
    (∀ m, recNat m 1 1 = 5 → ∃ r, Does (.mctpControl m) s (s.fresh.reply (r ++ [0x00, 0x01, 0x7F]))) ∧
    (∀ m, recNat m 2 1 = 1 → Does (.pldmType0 m) s (({ s.fresh with trust := { s.dev.trust with tid := recNat m 3 1 } } : Dev).reply (m.take 3 ++ leBytes 1 0))) ∧
    (∀ m, recNat m 2 1 = 2 → Does (.pldmType0 m) s (s.fresh.reply (m.take 3 ++ leBytes 1 0 ++ leBytes 1 s.dev.trust.tid))) ∧
    (∀ m v, s.fresh.sensor (recNat m 3 2) = some v → Does (.pldmSensor m) s (s.fresh.reply (m.take 3 ++ leBytes 1 0 ++ v))) ∧
    (∀ x o bs, s.dev.trust.pldm = some x → x.got = o → o ≠ 0 → bs.length ≤ 1024 →
      let held (keep : Nat) : PldmXfer := { x with got := o + bs.length, held := x.held ++ bs.take keep }
      let keep := min bs.length (64 - o)
      let put (d : Dev) (keep : Nat) : Dev := ({ d with trust := { d.trust with pldm := some (held keep) } } : Dev).reply (leBytes 1 0)
      (x.comp = 1 → o + bs.length ≤ (s.fresh.pldmBase? 1).2.1 →
        Does (.firmwareXfer o bs) s (put (s.fresh.flashPut ((s.fresh.pldmBase? 1).1 + o + keep) (bs.drop keep)) keep)) ∧
      (x.comp = 2 → o + bs.length ≤ (s.fresh.pldmBase? 2).2.1 →
        Does (.configXfer o bs) s (put (s.fresh.flashPut ((s.fresh.pldmBase? 2).1 + o + keep) (bs.drop keep)) keep)) ∧
      (x.comp = 3 → o + bs.length ≤ rprSize → Does (.repairXfer o bs) s (put s.fresh bs.length))) ∧
    (∀ x, s.dev.trust.pldm = some x → x.comp = 3 →
      let d : Dev := { s.fresh with trust := { s.dev.trust with pldm := some { x with ok := some (rprWhole x.held) } } }
      Does .verifyComplete s (d.reply (leBytes 1 (b2n (!rprWhole x.held))))) ∧
    (∀ x, s.dev.trust.pldm = some x → x.comp = 3 → x.ok = some true →
      let d : Dev := { s.fresh with trust := { s.dev.trust with pldm := none } }
      let es := (List.range (recNat x.held 0x0A 2)).map fun i => { RprEntry.ofBytes ((x.held.drop (64 + 16 * i)).take 16) with source := 3 }
      Does .applyComplete s ((d.rprWrite es).reply (leBytes 1 0))) ∧
    (∀ x, s.dev.trust.pldm = some x → x.ok ≠ some true →
      Does .applyComplete s (({ s.fresh with trust := { s.dev.trust with pldm := none } } : Dev).reply (leBytes 1 0x80)))

/-- Attestation (R342, R343): a certificate asked for, a report under a free handle or BUSY with four held, its chunks once it is signed, its end. -/
def Obligations.ReportsHeld : Prop :=
  ∀ s : State,
    (∀ m, Does (.getCert m) s (getCert s.otp s.fresh m)) ∧
    (∀ m, m.length = 32 → s.fresh.attRequest.trust.reports.length < 4 →
      ∃ h d, Does (.getReport m) s d ∧ d.trust.reports = s.fresh.attRequest.trust.reports ++ [⟨h, m, none⟩] ∧
        (∀ r, r ∈ s.fresh.attRequest.trust.reports → r.handle ≠ h)) ∧
    (∀ m, m.length = 32 → 4 ≤ s.fresh.attRequest.trust.reports.length →
      Does (.getReport m) s ((s.fresh.attRequest.raise1 R.SEC_ERR_ATT_BUSY 0).reply (leBytes 1 1))) ∧
    (∀ m r b, (s.fresh.attRequest.trust.reports.find? fun r => r.handle = recNat m 0 1) = some r → r.bytes = some b → m.length = 5 → recNat m 1 4 ≤ b.length →
      Does (.getChunk m) s (s.fresh.attRequest.reply (leBytes 1 0 ++ (b.drop (recNat m 1 4)).take 1024))) ∧
    (∀ h r, r ∈ s.dev.trust.reports → r.handle = h → r.bytes = none →
      let rs := s.dev.trust.reports.map fun r => if r.handle = h then { r with bytes := some (s.fresh.reportBytes r.nonce) } else r
      Does (.reportSigned h) s (({ s.fresh with trust := { s.dev.trust with reports := rs } } : Dev).count R.SEC_ATT_CNT_REPORTS 1)) ∧
    (∀ h, Does (.reportHandleFree h) s { s.fresh with trust := { s.dev.trust with
      reports := s.dev.trust.reports.filter fun r => r.handle ≠ h || r.bytes.isNone } })

/-! ### Ethernet and RoCEv2 (spec/16_control_security.md, layouts: log entry 19) -/

/-- Ethernet ports: enable and disable, a loop-back where the port allows, the link up and down, frames by address and VLAN, the clock
stepped; an untagged frame is one of VLAN 0 (R25, R321, R344–R346; what is counted for another MAC: log entry 72). -/
def Obligations.EthernetPorts : Prop :=
  ∀ (s : State) (p : Nat), p < 2 →
    (∀ w v, v < 2 ^ 64 → s.takes w (R.ETH_PORT_CTL p) →
      let d := s.fresh.set (R.ETH_PORT_CTL_PRBS p) (bits v 5 4)
      (s.dev.get (R.ETH_PORT_CTL_ENABLE p) = 0 → bits v 3 1 = s.dev.get (R.ETH_PORT_CTL_LOOP p) →
        Does (.ethPortEnable w p v) s ((d.set (R.ETH_PORT_CTL_ENABLE p) 1).enableUnit (ethUnit p))) ∧
      (s.dev.get (R.ETH_PORT_CTL_ENABLE p) = bits v 0 0 → bits v 3 1 ≠ s.dev.get (R.ETH_PORT_CTL_LOOP p) → bits v 3 1 ≠ 0 →
        s.dev.get (R.ETH_PORT_STATUS_STATE p) = 0 ∨ s.dev.get (R.ETH_PORT_STATUS_STATE p) = 3 →
        Does (.ethLoop w p v) s (((d.set (R.ETH_PORT_CTL_ENABLE p) (bits v 0 0)).set (R.ETH_PORT_CTL_LOOP p) (bits v 3 1)).ethTo p 4)) ∧
      (s.dev.get (R.ETH_PORT_CTL_ENABLE p) = bits v 0 0 → s.dev.get (R.ETH_PORT_STATUS_STATE p) = 2 →
        Does (.ethLoop w p v) s (d.set (R.ETH_PORT_CTL_ENABLE p) (bits v 0 0)))) ∧
    (s.dev.get (R.ETH_PORT_STATUS_STATE p) = 1 ∨ s.dev.get (R.ETH_PORT_STATUS_STATE p) = 3 → s.dev.get (R.ETH_PORT_STATUS_PWR p) = 1 →
      s.dev.get (R.ETH_PORT_STATUS_LANES_GOOD p) = 15 → s.dev.alive = true → Does (.ethLinkUp p) s (s.fresh.ethTo p 2)) ∧
    (s.dev.get (R.ETH_PORT_STATUS_STATE p) = 2 →
      Does (.ethLinkDown p) s ((s.fresh.set (R.ETH_PORT_STATUS_STATE p) 3).raise1 (R.ETH_PORT_ERR_LINK_DOWN p) p)) ∧
    (s.dev.get (R.ETH_PORT_STATUS_STATE p) = 1 → Does (.ethLinkDown p) s (s.fresh.ethTo p 3)) ∧
    (∀ w v, v < 2 ^ 64 → s.takes w (R.ETH_PTP_STEP p) →
      Does (.ptpStep w p v) s (s.fresh.set (R.ETH_PTP_TIME_NS p) ((s.dev.get (R.ETH_PTP_TIME_NS p) + v) % 2 ^ 64))) ∧
    (∀ f full, s.fresh.ethUp p = true → 14 ≤ f.length →
      let d := s.fresh.count (R.ETH_PORT_FRAMES_RX p) 1
      -- a VLAN that the port does not list
      (beAt f 12 2 = 0x8100 → d.vlanListed p (beAt f 14 2 % 4096) = false →
        Does (.ethFrame p f full) s ((d.count (R.ETH_PORT_LIMIT_VLAN_DROP p) 1).raise1 (R.ETH_PORT_ERR_LIMIT_VLAN p) (beAt f 14 2 % 4096))) ∧
      (beAt f 12 2 ≠ 0x8100 → d.vlanListed p 0 = false →
        Does (.ethFrame p f full) s ((d.count (R.ETH_PORT_LIMIT_VLAN_DROP p) 1).raise1 (R.ETH_PORT_ERR_LIMIT_VLAN p) 0)) ∧
      -- a frame for another MAC that is no group address
      (beAt f 12 2 ≠ 0x8100 → d.vlanListed p 0 = true → beAt f 0 6 ≠ d.get (R.ETH_PORT_MAC_MAC p) → bitAt (beAt f 0 1) 0 = false →
        Does (.ethFrame p f full) s ((d.count (R.ETH_PORT_LIMIT_MAC_DROP p) 1).raise1 (R.ETH_PORT_ERR_LIMIT_MAC p) p)) ∧
      -- a frame to this port that carries no UDP
      (beAt f 12 2 ≠ 0x8100 → d.vlanListed p 0 = true → beAt f 0 6 = d.get (R.ETH_PORT_MAC_MAC p) → udpOf (beAt f 12 2) (f.drop 14) = none →
        Does (.ethFrame p f full) s (d.rawRx p f (beAt f 12 2 = 0x88F7) full)) ∧
      -- a RoCEv2 packet waits for its queue pair
      (∀ sp m ip ecn, beAt f 12 2 ≠ 0x8100 → d.vlanListed p 0 = true → beAt f 0 6 = d.get (R.ETH_PORT_MAC_MAC p) → udpOf (beAt f 12 2) (f.drop 14) = some (sp, 4791, m, ip, ecn) →
        ecn ≠ 3 → Does (.ethFrame p f full) s { d with eth := { d.eth with inbox := d.eth.inbox ++ [(p, m.take (m.length - 4), false)] } }))

/-- Work requests leave a queue pair in order: each operation that may begin sends its packets from the next PSN on; one whose data cannot
be read completes with its status (R347, R348). -/
def Obligations.WorkBegins : Prop :=
  ∀ (s : State) (q i : Nat) (x : Wqe) (d : Dev) (st : Nat) (pkts : List (List Byte)),
    let u := s.fresh.qp q
    u.sq.findIdx? (fun w => w.psn.isNone && w.done.isNone) = some i → u.sq[i]? = some x → s.fresh.qpReady q = true →
    s.fresh.ethUp (s.fresh.qpPort q) = true →
    ((u.sq.take i).countP fun (y : Wqe) => y.opc = 5 && y.done.isNone) < 16 →
    (bitAt x.flags 1 = true → ((u.sq.take i).countP fun (y : Wqe) => y.opc = 5 && y.done.isNone) = 0) →
    s.fresh.wqeWaits x = false → s.fresh.wqePackets q x u.nextPsn 0 = (d, st, pkts) →
    let n := psnsOf x.len
    let e := if st ≠ 0 then d.setQp q { u with sq := u.sq.set i { x with done := some st } }
      else pkts.foldl (fun (d : Dev) b => d.qpEmit q b)
        (d.setQp q { u with sq := u.sq.set i { x with psn := some (u.nextPsn, n) }, nextPsn := add24 u.nextPsn n })
    (x.opc = 1 → Does (.send q) s e) ∧ (x.opc = 2 → Does (.sendImm q) s e) ∧ (x.opc = 3 → Does (.rdmaWrite q) s e) ∧
      (x.opc = 4 → Does (.writeImm q) s e) ∧ (x.opc = 5 → Does (.rdmaRead q) s e)

/-- The queue pairs' other events: a token releases a list's next request, a done request completes, a timeout retries or fails, a packet
reaches its queue pair, a CNP and the rates at an interval's end (R347–R350). -/
def Obligations.QueuesServe : Prop :=
  ∀ (s : State) (k q : Nat),
    (let p := s.dev.get (R.ETH_XFER_W0_PORT k)
     let c := s.dev.get (R.ETH_XFER_W1_CHANNEL k)
     let cnt := s.dev.get (R.ETH_XFER_W1_COUNT k)
     let i := s.dev.get (R.ETH_XFER_W2_ISSUED k)
     k < 32 → s.dev.flag (R.ETH_XFER_W0_ENABLE k) = true → cnt ≠ 0 → s.fresh.tokens c ≠ 0 → chanKind (s.fresh.chan c) = 0 →
      chanConsumer (s.fresh.chan c) = 0x7000 + p → s.dev.alive = true →
      ∀ d ok, s.fresh.takeWork p (s.dev.get (R.ETH_XFER_W0_BASE k) + 64 * (i % cnt)) = (d, ok) →
        Does (.xferRelease k) s (if ok then (d.takeTokens c 1).set (R.ETH_XFER_W2_ISSUED k) ((i + 1) % 2 ^ 32) else d)) ∧
    (∀ x rest st, (s.fresh.qp q).sq = x :: rest → x.done = some st → s.dev.alive = true →
      let d := s.fresh.setQp q { s.fresh.qp q with sq := rest }
      (bitAt x.flags 0 = true →
        Does (.wrComplete q) s (((d.cqPut (d.qpPort q) x.cq x.user q x.opc st x.len x.imm).postSig x.sig).postLists)) ∧
      (bitAt x.flags 0 = false → Does (.wrComplete q) s (d.postSig x.sig).postLists)) ∧
    (s.fresh.qpReady q = true → (s.fresh.qp q).ackPsn ≠ (s.fresh.qp q).nextPsn → s.dev.alive = true →
      ((s.fresh.qp q).retries < s.dev.get (R.ETH_QP_W6_RETRY_MAX q) →
        Does (.roceRetransmitTimeout q) s ((s.fresh.setQp q { s.fresh.qp q with retries := (s.fresh.qp q).retries + 1 }).goBack q)) ∧
      (s.dev.get (R.ETH_QP_W6_RETRY_MAX q) ≤ (s.fresh.qp q).retries → Does (.roceRetransmitTimeout q) s (s.fresh.qpFail q 3))) ∧
    (∀ p m ce, s.dev.eth.inbox[k]? = some (p, m, ce) → beAt m 5 3 = q → s.dev.alive = true →
      let d : Dev := { s.fresh with eth := { s.dev.eth with inbox := s.dev.eth.inbox.eraseIdx k } }
      (∀ free rtt, beAt m 0 1 ≠ 0x81 → s.fresh.roceWaits q m = false → d.qpReady q = true → d.qpPort q = p → 12 ≤ m.length →
        Does (.rocePacket k free false rtt) s (d.roceIn q m free rtt)) ∧
      (∀ free gap rtt, beAt m 0 1 ≠ 0x81 → s.fresh.roceWaits q m = false → d.qpReady q = false → Does (.rocePacket k free gap rtt) s d) ∧
      (∀ free gap rtt, beAt m 0 1 ≠ 0x81 → s.fresh.roceWaits q m = true → Does (.rocePacket k free gap rtt) s s.fresh) ∧
      (beAt m 0 1 = 0x81 → d.qpReady q = true →
        let e := d.count (R.ETH_PORT_ROCE_CNP_RX p) 1
        e.qpReady q = true → Does (.cnp k) s (e.setQp q { e.qp q with cnp := true }))) ∧
    Does .ccInterval s ((List.range 256).foldl (fun (d : Dev) q =>
      if !d.qpReady q then d
      else
        let u := d.qp q
        let r := ccRate (d.get (R.ETH_QP_W4_RATE_MBPS q)) u.clean (d.get (R.ETH_QP_W7_BASE_RTT_NS q)) (d.get R.ETH_CC2_RMIN_MBPS)
          (d.get (R.ETH_QP_W4_RMAX_MBPS q)) (d.get R.ETH_CC2_STEP_MBPS) (d.get R.ETH_CC_BETA_SHIFT) (d.get R.ETH_CC_DELAY_TH_NS) u.cnp u.rttMax
        (d.set (R.ETH_QP_W4_RATE_MBPS q) r.1).setQp q { u with cnp := false, clean := r.2, rttMax := 0 }) s.fresh) ∧
    Does .baseRttReset s ((List.range 256).foldl (fun (d : Dev) q => d.set (R.ETH_QP_W7_BASE_RTT_NS q) 0) s.fresh) ∧
    -- the rate never leaves its bounds, and falls on a CNP (R350)
    (∀ r c base rmin rmax step shift th cnp rtt, rmin ≤ rmax → rmin ≤ r → r ≤ rmax →
      rmin ≤ (ccRate r c base rmin rmax step shift th cnp rtt).1 ∧ (ccRate r c base rmin rmax step shift th cnp rtt).1 ≤ rmax ∧
      (cnp = true → (ccRate r c base rmin rmax step shift th cnp rtt).1 ≤ r))

/-- The test port (R353): boundary-scan instructions drive the pins and shift; a private one acts as BYPASS and is reported while TEST_ENABLE
is 0, and stops by name while it is 1, since what it then reaches is not described. -/
def Obligations.TestPort : Prop :=
  ∀ (s : State) (b n : Nat),
    let bypass : Dev := { s.dev with jtag := { s.dev.jtag with drive := 0 }, out := [.tdo (2 * b)] }
    Does (.bypass b) s bypass ∧
    Does .idcode s { s.dev with jtag := { s.dev.jtag with drive := 0 }, out := [.tdo (s.dev.get R.SEC_JTAG_IDCODE)] } ∧
    (∃ x k, Does (.samplePreload b) s { s.dev with freeCtr := k, jtag := ⟨b, 0⟩, out := [.tdo x] } ∧
      Does (.extest b) s { s.dev with freeCtr := k, jtag := ⟨b, 1⟩, out := [.tdo x] } ∧
      Does (.extestPulse b) s { s.dev with freeCtr := k, jtag := ⟨b, 2⟩, out := [.tdo x] } ∧
      Does (.extestTrain b) s { s.dev with freeCtr := k, jtag := ⟨b, 3⟩, out := [.tdo x] }) ∧
    (s.dev.testEnable = false → Does (.scanDebug b) s (bypass.raise1 R.SEC_ERR_JTAG_DENIED 0) ∧ Does (.coreDebug b) s (bypass.raise1 R.SEC_ERR_JTAG_DENIED 0) ∧
      Does (.ieee1500Access n b) s (bypass.raise1 R.SEC_ERR_JTAG_DENIED 0)) ∧
    (s.dev.testEnable = true → exec (.scanDebug b) s = .refused .testPort ∧ exec (.coreDebug b) s = .refused .testPort ∧
      exec (.ieee1500Access n b) s = .refused .testPort)

/-! ### Control space, memory, records, numbers (spec/00_scope.md, 05, 14, 16, 19) -/

/-- REGISTER_WRITE of one word: a listed register takes it; a reserved offset ignores it and is counted; user mode reaches neither SEC nor PWR
nor MGMT; another device reaches control space on VL3 alone, and only if it is management-capable (R24, R329, R390). -/
def Obligations.RegisterStores : Prop :=
  ∀ (s : State) (o v : Nat), v < 2 ^ 64 → o % 8 = 0 →
    (∀ w row ix, s.takes w o → findRow o = some (row, ix) → o ≠ R.SEC_CTL →
      Does (.registerWrite w o 8 (leBytes 8 v)) s (s.fresh.store w row ix o v)) ∧
    (∀ w rows, s.takes w o → findRow o = none → blockRows o = some rows →
      Does (.registerWrite w o 8 (leBytes 8 v)) s (s.fresh.accErr R.GLB_ACC_ERR_RESERVED_OFFSET w o true)) ∧
    (∀ w, s.takes w o → blockRows o = none →
      Does (.registerWrite w o 8 (leBytes 8 v)) s ((s.fresh.accErr R.GLB_ACC_ERR_UNDEFINED w o true).ctlError w o true)) ∧
    (∀ c, s.runs (.core c 0) → o / 0x1000000 = 0x0B ∨ o / 0x1000000 = 0x0C ∨ o / 0x1000000 = 0x0E →
      Does (.registerWrite (.core c 0) o 8 (leBytes 8 v)) s ((s.fresh.raise1 R.MGMT_ERR_UACC_DENIED o).emit (.coreFault (c % 16) true))) ∧
    (∀ dev p vl, s.runs (.remote dev p vl) → vl ≠ 3 ∨ s.dev.mgmtCapable dev = false →
      Does (.registerWrite (.remote dev p vl) o 8 (leBytes 8 v)) s (s.fresh.contained 5 p (0x1F0000000000 + o)))

/-- R7, over every field of every listed register: RW and RWS take the value, RO and WO stay, W1C bits clear where the value has 1, RWI is
taken only while no image is active; a store that would change an RWI field then is refused for it and sets RWI_REJECT. -/
def Obligations.AccessTypes : Prop :=
  ∀ (d : Dev) (w : Who) (o v : Nat) (row : RegRow) (ix : List Nat) (F : FldRow), findRow o = some (row, ix) → F ∈ row.fields → v < 2 ^ 64 →
    let f : Fld := ⟨o, F.f.hi, F.f.lo⟩
    let e := d.plainStore w row o v
    let kept := d.imageActive = true → (v ^^^ (d.reg o).toNat) &&& (rowMask row fun a => a = .rwi) = 0
    (F.acc = .rw ∨ F.acc = .rws → e.get f = f.of v) ∧
    (F.acc = .rwi → d.imageActive = false → e.get f = f.of v) ∧
    (F.acc = .rwi → d.imageActive = true → e.get f = d.get f) ∧
    (kept → F.acc = .ro ∨ F.acc = .wo → e.get f = d.get f) ∧
    (kept → F.acc = .w1c → e.get f = d.get f - (d.get f &&& f.of v)) ∧
    (kept → ∀ x, x ≠ o → e.reg x = d.reg x) ∧
    (¬ kept → e.get R.GLB_ACC_ERR_RWI_REJECT = 1)

/-- Bytes written to HBM (R292, R294): the memory keeps its canonical form, the bytes read back, no other byte changes but in a partly
written codeword with wrong symbols, a codeword is poisoned if a byte written is, and one that is only partly written stays poisoned. -/
def Obligations.MemoryStores : Prop :=
  ∀ (d : Dev) (a : Nat) (bs : List Byte) (pz : Nat → Bool),
    let e := (d.hbmStore a bs pz).1
    let st := d.bankAddr a
    (Memory.wf d.hbm.cells = true → Memory.wf e.hbm.cells = true) ∧
    (∀ i (h : i < bs.length), e.hbmByte (st + i) = bs[i]) ∧
    (∀ x, x < st ∨ st + bs.length ≤ x → x / 128 < st / 128 ∨ (st + bs.length - 1) / 128 < x / 128 ∨ stGet (fun _ => 0) d.hbm.bad (x / 128) = 0 →
      e.hbmByte x = d.hbmByte x) ∧
    (∀ c, st ≤ 128 * c → 128 * c + 128 ≤ st + bs.length →
      (stGet (fun _ => false) e.hbm.poison c = true ↔ ∃ i, i < 128 ∧ pz (128 * c + i - st) = true)) ∧
    (∀ c, 128 * c < st + bs.length → st < 128 * c + 128 → ¬ (st ≤ 128 * c ∧ 128 * c + 128 ≤ st + bs.length) → bs ≠ [] →
      stGet (fun _ => false) d.hbm.poison c = true → stGet (fun _ => false) e.hbm.poison c = true)

/-- R287: while no region is pinned, two granules of HBM never share storage: they differ in stack, pseudo-channel or slot. -/
def Obligations.GranulesApart : Prop :=
  ∀ (sts : List Nat) (u : Nat) (regions : List Region) (a b : Nat), sts.Nodup → sts ≠ [] → (∀ r, r ∈ regions → r.pinned = false) →
    storageOf sts u regions a = storageOf sts u regions b → a / 2048 = b / 2048

/-- A record and its ring (R331): a disabled or full ring, or a refused slot, discards it and says so; else it stands at BASE + 64 × (PROD mod
size), and PROD counts it. -/
def Obligations.RecordsRing : Prop :=
  ∀ (d : Dev) (n : Nat) (body : Nat → List Byte), n < 16 → (∀ p, (body p).length = 64) →
    let e := d.ringPut n body
    let prod := d.get (R.MGMT_RING_W1_PROD n)
    let full := sub32 prod (d.get (R.MGMT_RING_W1_CONS n)) = d.ringSize n
    let slot := d.get (R.MGMT_RING_W0_BASE n) + 64 * (prod % d.ringSize n)
    (d.flag (R.MGMT_RING_W0_ENABLE n) = false →
      e.hbm = d.hbm ∧ e.get (R.MGMT_RING_W1_PROD n) = prod ∧ e.get R.MGMT_ERR_RING_DISABLED = 1) ∧
    (d.flag (R.MGMT_RING_W0_ENABLE n) = true → full →
      e.hbm = d.hbm ∧ e.get (R.MGMT_RING_W1_PROD n) = prod ∧ e.get (R.MGMT_RING_W2_OVERFLOW n) = 1) ∧
    (d.flag (R.MGMT_RING_W0_ENABLE n) = true → ¬ full → d.writeDenied slot 64 ≠ none →
      e.hbm = d.hbm ∧ e.get (R.MGMT_RING_W1_PROD n) = prod ∧ e.get R.MGMT_ERR_RING_FAULT = 1 ∧ e.get R.ECC_ERR_CONTAINED = 1 ∧
      e.get (R.MGMT_RING_W2_OVERFLOW n) = d.get (R.MGMT_RING_W2_OVERFLOW n)) ∧
    (d.flag (R.MGMT_RING_W0_ENABLE n) = true → ¬ full → d.writeDenied slot 64 = none →
      e.get (R.MGMT_RING_W1_PROD n) = (prod + 1) % 2 ^ 32 ∧ ∀ i, i < 64 → some (e.hbmByte (d.bankAddr slot + i)) = (body prod)[i]?)

/-- R96, R98: a finite value that does not overflow converts, under round-to-nearest-even, to the nearest value of the format, the even
code where two are as near, and keeps its sign. Values are compared as integers at a common exponent. -/
def Obligations.RoundsToNearest : Prop :=
  ∀ f : FpFmt, f ∈ [fmtFp32, fmtBf16, fmtE4m3, fmtE5m2, fmtE2m3, fmtE3m2, fmtE2m1] →
    ∀ (neg sat : Bool) (m : Nat) (e : Int), (fpMag f .rne m e).ovf = false →
      ∃ nm ne, fpDec f (fpEnc f .rne sat (.fin neg m e)).code = .fin neg nm ne ∧
        ∀ c yn ym ye, c < 2 ^ f.width → fpDec f c = .fin yn ym ye → ∀ e0 : Int, e0 ≤ e → e0 ≤ ne → e0 ≤ ye →
          let x := alignTo neg m e e0
          let r := alignTo neg nm ne e0
          let y := alignTo yn ym ye e0
          (x - r).natAbs ≤ (x - y).natAbs ∧
            ((x - r).natAbs = (x - y).natAbs → r ≠ y → (fpEnc f .rne sat (.fin neg m e)).code % 2 = 0)

end
end

