-- ==== Sys2Proof/Laws/Store.lean ====
section
/-!
SUPPORT. The laws of the sparse stores: reading after writing, and that every operation keeps the canonical form.
-/

namespace Sys2Proof.Machine

variable {α : Type}

theorem stGet_stDrop_same (d : Nat → α) (st : List (Nat × α)) (k : Nat) : stGet d (stDrop st k) k = d k := by
  induction st with
  | nil => rfl
  | cons e r ih =>
    by_cases h : e.1 = k
    · simpa [stDrop, h] using ih
    · simpa [stDrop, h, stGet] using ih

theorem stGet_stDrop_ne (d : Nat → α) (st : List (Nat × α)) {j k : Nat} (h : j ≠ k) :
    stGet d (stDrop st k) j = stGet d st j := by
  induction st with
  | nil => rfl
  | cons e r ih =>
    by_cases hk : e.1 = k
    · have : e.1 ≠ j := fun h' => h (h'.symm.trans hk)
      simpa [stDrop, hk, stGet, this, Ne.symm h] using ih
    · by_cases hj : e.1 = j <;> simp_all [stDrop, stGet]

variable [DecidableEq α]

/-- Reading back what was set. -/
@[simp] theorem stGet_stSet_same (d : Nat → α) (st : List (Nat × α)) (k : Nat) (v : α) : stGet d (stSet d st k v) k = v := by
  induction st with
  | nil => by_cases h : v = d k <;> simp [stSet, stGet, h]
  | cons e r ih =>
    obtain ⟨k', v'⟩ := e
    by_cases h1 : k < k'
    · have : k' ≠ k := by omega
      by_cases h : v = d k <;> simp [stSet, stGet, h1, h, this, stGet_stDrop_same]
    · by_cases h2 : k = k'
      · subst h2
        by_cases h : v = d k <;> simp [stSet, stGet, h, stGet_stDrop_same]
      · simp [stSet, stGet, h1, h2, Ne.symm h2, ih]

/-- Setting one key leaves the others. -/
theorem stGet_stSet_ne (d : Nat → α) (st : List (Nat × α)) {j k : Nat} (v : α) (h : j ≠ k) :
    stGet d (stSet d st k v) j = stGet d st j := by
  induction st with
  | nil => by_cases hv : v = d k <;> simp [stSet, stGet, hv, Ne.symm h]
  | cons e r ih =>
    obtain ⟨k', v'⟩ := e
    by_cases h1 : k < k'
    · by_cases hv : v = d k
      · simp [stSet, stGet, h1, hv, stGet_stDrop_ne d r h]
      · simp [stSet, stGet, h1, hv, Ne.symm h]
    · by_cases h2 : k = k'
      · subst h2
        by_cases hv : v = d k <;> simp [stSet, stGet, hv, stGet_stDrop_ne d r h, Ne.symm h]
      · simp only [stSet, h1, h2, if_false, stGet, ih]

theorem stGet_stSet (d : Nat → α) (st : List (Nat × α)) (j k : Nat) (v : α) :
    stGet d (stSet d st k v) j = if j = k then v else stGet d st j := by
  split
  · next h => rw [h]; exact stGet_stSet_same d st k v
  · next h => exact stGet_stSet_ne d st v h

/-- Setting a run of keys: each holds its value, the others stay. -/
theorem stGet_stPut (d : Nat → α) (vs : List α) (st : List (Nat × α)) (a j : Nat) :
    stGet d (stPut d st a vs) j = if h : a ≤ j ∧ j - a < vs.length then vs[j - a] else stGet d st j := by
  induction vs generalizing st a with
  | nil => simp [stPut]
  | cons v r ih =>
    rw [stPut, ih]
    by_cases h1 : a + 1 ≤ j ∧ j - (a + 1) < r.length
    · have h2 : a ≤ j ∧ j - a < (v :: r).length := by simp; omega
      have h3 : j - a = (j - (a + 1)) + 1 := by omega
      rw [dif_pos h1, dif_pos h2]
      simp [h3]
    · rw [dif_neg h1]
      by_cases h2 : j = a
      · subst h2; simp
      · have h3 : ¬ (a ≤ j ∧ j - a < (v :: r).length) := by simp at h1 ⊢; omega
        rw [dif_neg h3, stGet_stSet_ne d st v h2]

omit [DecidableEq α] in
/-- A run of keys within a longer one. -/
theorem stRange_sub (d : Nat → α) (st : List (Nat × α)) (a o n m : Nat) (h : o + n ≤ m) :
    stRange d st (a + o) n = ((stRange d st a m).drop o).take n := by
  induction o generalizing a m with
  | zero =>
    induction n generalizing a m with
    | zero => simp [stRange]
    | succ n ih =>
      obtain ⟨m, rfl⟩ := Nat.exists_eq_add_of_le' (show 1 ≤ m by omega)
      have := ih (a + 1) m (by omega)
      simp_all [stRange]
  | succ o ih =>
    obtain ⟨m, rfl⟩ := Nat.exists_eq_add_of_le' (show 1 ≤ m by omega)
    have := ih (a + 1) m (by omega)
    simp_all [stRange, Nat.add_assoc, Nat.add_comm 1 o]

/-- The keys that were set read as the values. -/
theorem stRange_stPut (d : Nat → α) (vs : List α) (st : List (Nat × α)) (a : Nat) : stRange d (stPut d st a vs) a vs.length = vs := by
  have g (n o : Nat) (h : o + n = vs.length) : stRange d (stPut d st a vs) (a + o) n = vs.drop o := by
    induction n generalizing o with
    | zero => rw [List.drop_eq_nil_of_le (by omega)]; rfl
    | succ n ih =>
      have hlt : o < vs.length := by omega
      rw [stRange, show a + o + 1 = a + (o + 1) from rfl, ih (o + 1) (by omega), stGet_stPut, dif_pos (by omega), List.drop_eq_getElem_cons hlt]
      simp
  simpa using g vs.length 0 (by omega)

/-- A run of other keys reads as before. -/
theorem stRange_stPut_ne (d : Nat → α) (vs : List α) (st : List (Nat × α)) (a b n : Nat) (h : b + n ≤ a ∨ a + vs.length ≤ b) :
    stRange d (stPut d st a vs) b n = stRange d st b n := by
  induction n generalizing b with
  | zero => rfl
  | succ n ih => rw [stRange, ih (b + 1) (by omega), stGet_stPut, dif_neg (by omega)]; rfl

omit [DecidableEq α] in
theorem stGet_stClear (d : Nat → α) (st : List (Nat × α)) (a n j : Nat) :
    stGet d (stClear st a n) j = if a ≤ j ∧ j < a + n then d j else stGet d st j := by
  induction st with
  | nil => simp [stClear, stGet]
  | cons e r ih =>
    have hc : stClear (e :: r) a n = if e.1 < a ∨ a + n ≤ e.1 then e :: stClear r a n else stClear r a n := by
      unfold stClear; rw [List.filter_cons]; simp
    rw [hc]
    by_cases h : e.1 < a ∨ a + n ≤ e.1
    · rw [if_pos h]
      by_cases hj : e.1 = j
      · have : ¬ (a ≤ j ∧ j < a + n) := by omega
        simp [stGet, hj, this]
      · simp [stGet, hj, ih]
    · rw [if_neg h, ih]
      by_cases hj : e.1 = j
      · have : a ≤ j ∧ j < a + n := by omega
        simp [this]
      · simp [stGet, hj]

/-! ### The canonical form -/

theorem stWfFrom_mono (d : Nat → α) {b c : Nat} (h : c ≤ b) (st : List (Nat × α)) (hw : stWfFrom d b st = true) :
    stWfFrom d c st = true := by
  cases st with
  | nil => rfl
  | cons e r =>
    simp [stWfFrom] at hw ⊢
    exact ⟨⟨by omega, hw.1.2⟩, hw.2⟩

theorem stDrop_of_lt (d : Nat → α) {b k : Nat} (st : List (Nat × α)) (hw : stWfFrom d b st = true) (h : k < b) :
    stDrop st k = st := by
  induction st generalizing b with
  | nil => rfl
  | cons e r ih =>
    simp [stWfFrom] at hw
    have : e.1 ≠ k := by omega
    have hr := ih hw.2 (by omega)
    simp [stDrop, this] at hr ⊢
    exact hr

theorem stSet_wfFrom (d : Nat → α) (st : List (Nat × α)) {b k : Nat} (v : α) (hb : b ≤ k) (hw : stWfFrom d b st = true) :
    stWfFrom d b (stSet d st k v) = true := by
  induction st generalizing b with
  | nil => by_cases h : v = d k <;> simp [stSet, stWfFrom, h, hb]
  | cons e r ih =>
    obtain ⟨k', v'⟩ := e
    simp [stWfFrom] at hw
    obtain ⟨⟨h1, h2⟩, h3⟩ := hw
    by_cases hlt : k < k'
    · by_cases hv : v = d k
      · simp [stSet, hlt, hv, stWfFrom, h1, h2, stDrop_of_lt d r h3 (by omega : k < k' + 1), h3]
      · simp [stSet, hlt, hv, stWfFrom, hb, h2, h3]
    · by_cases he : k = k'
      · subst he
        by_cases hv : v = d k
        · simp only [stSet, Nat.lt_irrefl, if_false, if_true, hv, stDrop_of_lt d r h3 (Nat.lt_succ_self k)]
          exact stWfFrom_mono d (by omega) r h3
        · simp [stSet, hv, stWfFrom, hb, h3]
      · simp [stSet, hlt, he, stWfFrom, h1, h2]
        exact ih (by omega) h3

/-- Setting a key keeps the canonical form. -/
theorem stSet_wf (d : Nat → α) (st : List (Nat × α)) (k : Nat) (v : α) (h : stWf d st = true) :
    stWf d (stSet d st k v) = true := stSet_wfFrom d st v (Nat.zero_le k) h

/-- Setting a run of keys keeps it. -/
theorem stPut_wf (d : Nat → α) (vs : List α) (st : List (Nat × α)) (a : Nat) (h : stWf d st = true) :
    stWf d (stPut d st a vs) = true := by
  induction vs generalizing st a with
  | nil => exact h
  | cons v r ih => exact ih _ _ (stSet_wf d st a v h)

theorem filter_wfFrom (d : Nat → α) (p : Nat × α → Bool) (st : List (Nat × α)) (b : Nat) (h : stWfFrom d b st = true) :
    stWfFrom d b (st.filter p) = true := by
  induction st generalizing b with
  | nil => rfl
  | cons e r ih =>
    simp [stWfFrom] at h
    by_cases hp : p e = true
    · simp [hp, stWfFrom, h.1, ih _ h.2]
    · simp only [List.filter_cons, hp]
      exact stWfFrom_mono d (by omega) _ (ih _ h.2)

/-- Clearing a run of keys keeps it. -/
theorem stClear_wf (d : Nat → α) (st : List (Nat × α)) (a n : Nat) (h : stWf d st = true) :
    stWf d (stClear st a n) = true := filter_wfFrom d _ st 0 h

end Sys2Proof.Machine
end

