-- ==== Sys2Proof/Laws/State.lean ====
section
/-!
SUPPORT. One lemma per field of the device per update of it, and what reading a register, a tile or a port gives after each.
-/

namespace Sys2Proof.Machine

variable (d : Dev)

/-! ### setWord -/

@[simp] theorem Dev.setWord_acc (o : Nat) (w : W64) : (d.setWord o w).acc = d.acc := rfl
@[simp] theorem Dev.setWord_eff (o : Nat) (w : W64) : (d.setWord o w).eff = d.eff := rfl
@[simp] theorem Dev.setWord_sat (o : Nat) (w : W64) : (d.setWord o w).sat = d.sat := rfl
@[simp] theorem Dev.setWord_hbm (o : Nat) (w : W64) : (d.setWord o w).hbm = d.hbm := rfl
@[simp] theorem Dev.setWord_cist (o : Nat) (w : W64) : (d.setWord o w).cist = d.cist := rfl
@[simp] theorem Dev.setWord_flash (o : Nat) (w : W64) : (d.setWord o w).flash = d.flash := rfl
@[simp] theorem Dev.setWord_tiles (o : Nat) (w : W64) : (d.setWord o w).tiles = d.tiles := rfl
@[simp] theorem Dev.setWord_ops (o : Nat) (w : W64) : (d.setWord o w).ops = d.ops := rfl
@[simp] theorem Dev.setWord_nextOp (o : Nat) (w : W64) : (d.setWord o w).nextOp = d.nextOp := rfl
@[simp] theorem Dev.setWord_beat (o : Nat) (w : W64) : (d.setWord o w).beat = d.beat := rfl
@[simp] theorem Dev.setWord_img (o : Nat) (w : W64) : (d.setWord o w).img = d.img := rfl
@[simp] theorem Dev.setWord_kv (o : Nat) (w : W64) : (d.setWord o w).kv = d.kv := rfl
@[simp] theorem Dev.setWord_exp (o : Nat) (w : W64) : (d.setWord o w).exp = d.exp := rfl
@[simp] theorem Dev.setWord_wgq (o : Nat) (w : W64) : (d.setWord o w).wgq = d.wgq := rfl
@[simp] theorem Dev.setWord_tel (o : Nat) (w : W64) : (d.setWord o w).tel = d.tel := rfl
@[simp] theorem Dev.setWord_upd (o : Nat) (w : W64) : (d.setWord o w).upd = d.upd := rfl
@[simp] theorem Dev.setWord_pwr (o : Nat) (w : W64) : (d.setWord o w).pwr = d.pwr := rfl
@[simp] theorem Dev.setWord_pins (o : Nat) (w : W64) : (d.setWord o w).pins = d.pins := rfl
@[simp] theorem Dev.setWord_trust (o : Nat) (w : W64) : (d.setWord o w).trust = d.trust := rfl
@[simp] theorem Dev.setWord_jtag (o : Nat) (w : W64) : (d.setWord o w).jtag = d.jtag := rfl
@[simp] theorem Dev.setWord_eth (o : Nat) (w : W64) : (d.setWord o w).eth = d.eth := rfl
@[simp] theorem Dev.setWord_agx (o : Nat) (w : W64) : (d.setWord o w).agx = d.agx := rfl
@[simp] theorem Dev.setWord_ports (o : Nat) (w : W64) : (d.setWord o w).ports = d.ports := rfl
@[simp] theorem Dev.setWord_trees (o : Nat) (w : W64) : (d.setWord o w).trees = d.trees := rfl
@[simp] theorem Dev.setWord_coal (o : Nat) (w : W64) : (d.setWord o w).coal = d.coal := rfl
@[simp] theorem Dev.setWord_out (o : Nat) (w : W64) : (d.setWord o w).out = d.out := rfl
@[simp] theorem Dev.setWord_freeCtr (o : Nat) (w : W64) : (d.setWord o w).freeCtr = d.freeCtr := rfl

/-! ### set -/

@[simp] theorem Dev.set_acc (f : Fld) (v : Nat) : (d.set f v).acc = d.acc := rfl
@[simp] theorem Dev.set_eff (f : Fld) (v : Nat) : (d.set f v).eff = d.eff := rfl
@[simp] theorem Dev.set_sat (f : Fld) (v : Nat) : (d.set f v).sat = d.sat := rfl
@[simp] theorem Dev.set_hbm (f : Fld) (v : Nat) : (d.set f v).hbm = d.hbm := rfl
@[simp] theorem Dev.set_cist (f : Fld) (v : Nat) : (d.set f v).cist = d.cist := rfl
@[simp] theorem Dev.set_flash (f : Fld) (v : Nat) : (d.set f v).flash = d.flash := rfl
@[simp] theorem Dev.set_tiles (f : Fld) (v : Nat) : (d.set f v).tiles = d.tiles := rfl
@[simp] theorem Dev.set_ops (f : Fld) (v : Nat) : (d.set f v).ops = d.ops := rfl
@[simp] theorem Dev.set_nextOp (f : Fld) (v : Nat) : (d.set f v).nextOp = d.nextOp := rfl
@[simp] theorem Dev.set_beat (f : Fld) (v : Nat) : (d.set f v).beat = d.beat := rfl
@[simp] theorem Dev.set_img (f : Fld) (v : Nat) : (d.set f v).img = d.img := rfl
@[simp] theorem Dev.set_kv (f : Fld) (v : Nat) : (d.set f v).kv = d.kv := rfl
@[simp] theorem Dev.set_exp (f : Fld) (v : Nat) : (d.set f v).exp = d.exp := rfl
@[simp] theorem Dev.set_wgq (f : Fld) (v : Nat) : (d.set f v).wgq = d.wgq := rfl
@[simp] theorem Dev.set_tel (f : Fld) (v : Nat) : (d.set f v).tel = d.tel := rfl
@[simp] theorem Dev.set_upd (f : Fld) (v : Nat) : (d.set f v).upd = d.upd := rfl
@[simp] theorem Dev.set_pwr (f : Fld) (v : Nat) : (d.set f v).pwr = d.pwr := rfl
@[simp] theorem Dev.set_pins (f : Fld) (v : Nat) : (d.set f v).pins = d.pins := rfl
@[simp] theorem Dev.set_trust (f : Fld) (v : Nat) : (d.set f v).trust = d.trust := rfl
@[simp] theorem Dev.set_jtag (f : Fld) (v : Nat) : (d.set f v).jtag = d.jtag := rfl
@[simp] theorem Dev.set_eth (f : Fld) (v : Nat) : (d.set f v).eth = d.eth := rfl
@[simp] theorem Dev.set_agx (f : Fld) (v : Nat) : (d.set f v).agx = d.agx := rfl
@[simp] theorem Dev.set_ports (f : Fld) (v : Nat) : (d.set f v).ports = d.ports := rfl
@[simp] theorem Dev.set_trees (f : Fld) (v : Nat) : (d.set f v).trees = d.trees := rfl
@[simp] theorem Dev.set_coal (f : Fld) (v : Nat) : (d.set f v).coal = d.coal := rfl
@[simp] theorem Dev.set_out (f : Fld) (v : Nat) : (d.set f v).out = d.out := rfl
@[simp] theorem Dev.set_freeCtr (f : Fld) (v : Nat) : (d.set f v).freeCtr = d.freeCtr := rfl

/-! ### bump -/

@[simp] theorem Dev.bump_acc (f : Fld) (n : Nat) : (d.bump f n).acc = d.acc := rfl
@[simp] theorem Dev.bump_eff (f : Fld) (n : Nat) : (d.bump f n).eff = d.eff := rfl
@[simp] theorem Dev.bump_sat (f : Fld) (n : Nat) : (d.bump f n).sat = d.sat := rfl
@[simp] theorem Dev.bump_hbm (f : Fld) (n : Nat) : (d.bump f n).hbm = d.hbm := rfl
@[simp] theorem Dev.bump_cist (f : Fld) (n : Nat) : (d.bump f n).cist = d.cist := rfl
@[simp] theorem Dev.bump_flash (f : Fld) (n : Nat) : (d.bump f n).flash = d.flash := rfl
@[simp] theorem Dev.bump_tiles (f : Fld) (n : Nat) : (d.bump f n).tiles = d.tiles := rfl
@[simp] theorem Dev.bump_ops (f : Fld) (n : Nat) : (d.bump f n).ops = d.ops := rfl
@[simp] theorem Dev.bump_nextOp (f : Fld) (n : Nat) : (d.bump f n).nextOp = d.nextOp := rfl
@[simp] theorem Dev.bump_beat (f : Fld) (n : Nat) : (d.bump f n).beat = d.beat := rfl
@[simp] theorem Dev.bump_img (f : Fld) (n : Nat) : (d.bump f n).img = d.img := rfl
@[simp] theorem Dev.bump_kv (f : Fld) (n : Nat) : (d.bump f n).kv = d.kv := rfl
@[simp] theorem Dev.bump_exp (f : Fld) (n : Nat) : (d.bump f n).exp = d.exp := rfl
@[simp] theorem Dev.bump_wgq (f : Fld) (n : Nat) : (d.bump f n).wgq = d.wgq := rfl
@[simp] theorem Dev.bump_tel (f : Fld) (n : Nat) : (d.bump f n).tel = d.tel := rfl
@[simp] theorem Dev.bump_upd (f : Fld) (n : Nat) : (d.bump f n).upd = d.upd := rfl
@[simp] theorem Dev.bump_pwr (f : Fld) (n : Nat) : (d.bump f n).pwr = d.pwr := rfl
@[simp] theorem Dev.bump_pins (f : Fld) (n : Nat) : (d.bump f n).pins = d.pins := rfl
@[simp] theorem Dev.bump_trust (f : Fld) (n : Nat) : (d.bump f n).trust = d.trust := rfl
@[simp] theorem Dev.bump_jtag (f : Fld) (n : Nat) : (d.bump f n).jtag = d.jtag := rfl
@[simp] theorem Dev.bump_eth (f : Fld) (n : Nat) : (d.bump f n).eth = d.eth := rfl
@[simp] theorem Dev.bump_agx (f : Fld) (n : Nat) : (d.bump f n).agx = d.agx := rfl
@[simp] theorem Dev.bump_ports (f : Fld) (n : Nat) : (d.bump f n).ports = d.ports := rfl
@[simp] theorem Dev.bump_trees (f : Fld) (n : Nat) : (d.bump f n).trees = d.trees := rfl
@[simp] theorem Dev.bump_coal (f : Fld) (n : Nat) : (d.bump f n).coal = d.coal := rfl
@[simp] theorem Dev.bump_out (f : Fld) (n : Nat) : (d.bump f n).out = d.out := rfl
@[simp] theorem Dev.bump_freeCtr (f : Fld) (n : Nat) : (d.bump f n).freeCtr = d.freeCtr := rfl

/-! ### setForce -/

@[simp] theorem Dev.setForce_regs (o : Nat) (w : W64) : (d.setForce o w).regs = d.regs := rfl
@[simp] theorem Dev.setForce_acc (o : Nat) (w : W64) : (d.setForce o w).acc = d.acc := rfl
@[simp] theorem Dev.setForce_sat (o : Nat) (w : W64) : (d.setForce o w).sat = d.sat := rfl
@[simp] theorem Dev.setForce_hbm (o : Nat) (w : W64) : (d.setForce o w).hbm = d.hbm := rfl
@[simp] theorem Dev.setForce_cist (o : Nat) (w : W64) : (d.setForce o w).cist = d.cist := rfl
@[simp] theorem Dev.setForce_flash (o : Nat) (w : W64) : (d.setForce o w).flash = d.flash := rfl
@[simp] theorem Dev.setForce_tiles (o : Nat) (w : W64) : (d.setForce o w).tiles = d.tiles := rfl
@[simp] theorem Dev.setForce_ops (o : Nat) (w : W64) : (d.setForce o w).ops = d.ops := rfl
@[simp] theorem Dev.setForce_nextOp (o : Nat) (w : W64) : (d.setForce o w).nextOp = d.nextOp := rfl
@[simp] theorem Dev.setForce_beat (o : Nat) (w : W64) : (d.setForce o w).beat = d.beat := rfl
@[simp] theorem Dev.setForce_img (o : Nat) (w : W64) : (d.setForce o w).img = d.img := rfl
@[simp] theorem Dev.setForce_kv (o : Nat) (w : W64) : (d.setForce o w).kv = d.kv := rfl
@[simp] theorem Dev.setForce_exp (o : Nat) (w : W64) : (d.setForce o w).exp = d.exp := rfl
@[simp] theorem Dev.setForce_wgq (o : Nat) (w : W64) : (d.setForce o w).wgq = d.wgq := rfl
@[simp] theorem Dev.setForce_tel (o : Nat) (w : W64) : (d.setForce o w).tel = d.tel := rfl
@[simp] theorem Dev.setForce_upd (o : Nat) (w : W64) : (d.setForce o w).upd = d.upd := rfl
@[simp] theorem Dev.setForce_pwr (o : Nat) (w : W64) : (d.setForce o w).pwr = d.pwr := rfl
@[simp] theorem Dev.setForce_pins (o : Nat) (w : W64) : (d.setForce o w).pins = d.pins := rfl
@[simp] theorem Dev.setForce_trust (o : Nat) (w : W64) : (d.setForce o w).trust = d.trust := rfl
@[simp] theorem Dev.setForce_jtag (o : Nat) (w : W64) : (d.setForce o w).jtag = d.jtag := rfl
@[simp] theorem Dev.setForce_eth (o : Nat) (w : W64) : (d.setForce o w).eth = d.eth := rfl
@[simp] theorem Dev.setForce_agx (o : Nat) (w : W64) : (d.setForce o w).agx = d.agx := rfl
@[simp] theorem Dev.setForce_ports (o : Nat) (w : W64) : (d.setForce o w).ports = d.ports := rfl
@[simp] theorem Dev.setForce_trees (o : Nat) (w : W64) : (d.setForce o w).trees = d.trees := rfl
@[simp] theorem Dev.setForce_coal (o : Nat) (w : W64) : (d.setForce o w).coal = d.coal := rfl
@[simp] theorem Dev.setForce_out (o : Nat) (w : W64) : (d.setForce o w).out = d.out := rfl
@[simp] theorem Dev.setForce_freeCtr (o : Nat) (w : W64) : (d.setForce o w).freeCtr = d.freeCtr := rfl

/-! ### count -/

@[simp] theorem Dev.count_regs (f : Fld) (n : Nat) : (d.count f n).regs = d.regs := rfl
@[simp] theorem Dev.count_eff (f : Fld) (n : Nat) : (d.count f n).eff = d.eff := rfl
@[simp] theorem Dev.count_hbm (f : Fld) (n : Nat) : (d.count f n).hbm = d.hbm := rfl
@[simp] theorem Dev.count_cist (f : Fld) (n : Nat) : (d.count f n).cist = d.cist := rfl
@[simp] theorem Dev.count_flash (f : Fld) (n : Nat) : (d.count f n).flash = d.flash := rfl
@[simp] theorem Dev.count_tiles (f : Fld) (n : Nat) : (d.count f n).tiles = d.tiles := rfl
@[simp] theorem Dev.count_ops (f : Fld) (n : Nat) : (d.count f n).ops = d.ops := rfl
@[simp] theorem Dev.count_nextOp (f : Fld) (n : Nat) : (d.count f n).nextOp = d.nextOp := rfl
@[simp] theorem Dev.count_beat (f : Fld) (n : Nat) : (d.count f n).beat = d.beat := rfl
@[simp] theorem Dev.count_img (f : Fld) (n : Nat) : (d.count f n).img = d.img := rfl
@[simp] theorem Dev.count_kv (f : Fld) (n : Nat) : (d.count f n).kv = d.kv := rfl
@[simp] theorem Dev.count_exp (f : Fld) (n : Nat) : (d.count f n).exp = d.exp := rfl
@[simp] theorem Dev.count_wgq (f : Fld) (n : Nat) : (d.count f n).wgq = d.wgq := rfl
@[simp] theorem Dev.count_tel (f : Fld) (n : Nat) : (d.count f n).tel = d.tel := rfl
@[simp] theorem Dev.count_upd (f : Fld) (n : Nat) : (d.count f n).upd = d.upd := rfl
@[simp] theorem Dev.count_pwr (f : Fld) (n : Nat) : (d.count f n).pwr = d.pwr := rfl
@[simp] theorem Dev.count_pins (f : Fld) (n : Nat) : (d.count f n).pins = d.pins := rfl
@[simp] theorem Dev.count_trust (f : Fld) (n : Nat) : (d.count f n).trust = d.trust := rfl
@[simp] theorem Dev.count_jtag (f : Fld) (n : Nat) : (d.count f n).jtag = d.jtag := rfl
@[simp] theorem Dev.count_eth (f : Fld) (n : Nat) : (d.count f n).eth = d.eth := rfl
@[simp] theorem Dev.count_agx (f : Fld) (n : Nat) : (d.count f n).agx = d.agx := rfl
@[simp] theorem Dev.count_ports (f : Fld) (n : Nat) : (d.count f n).ports = d.ports := rfl
@[simp] theorem Dev.count_trees (f : Fld) (n : Nat) : (d.count f n).trees = d.trees := rfl
@[simp] theorem Dev.count_coal (f : Fld) (n : Nat) : (d.count f n).coal = d.coal := rfl
@[simp] theorem Dev.count_out (f : Fld) (n : Nat) : (d.count f n).out = d.out := rfl
@[simp] theorem Dev.count_freeCtr (f : Fld) (n : Nat) : (d.count f n).freeCtr = d.freeCtr := rfl

/-! ### countMax -/

@[simp] theorem Dev.countMax_regs (f : Fld) (n : Nat) : (d.countMax f n).regs = d.regs := rfl
@[simp] theorem Dev.countMax_eff (f : Fld) (n : Nat) : (d.countMax f n).eff = d.eff := rfl
@[simp] theorem Dev.countMax_sat (f : Fld) (n : Nat) : (d.countMax f n).sat = d.sat := rfl
@[simp] theorem Dev.countMax_hbm (f : Fld) (n : Nat) : (d.countMax f n).hbm = d.hbm := rfl
@[simp] theorem Dev.countMax_cist (f : Fld) (n : Nat) : (d.countMax f n).cist = d.cist := rfl
@[simp] theorem Dev.countMax_flash (f : Fld) (n : Nat) : (d.countMax f n).flash = d.flash := rfl
@[simp] theorem Dev.countMax_tiles (f : Fld) (n : Nat) : (d.countMax f n).tiles = d.tiles := rfl
@[simp] theorem Dev.countMax_ops (f : Fld) (n : Nat) : (d.countMax f n).ops = d.ops := rfl
@[simp] theorem Dev.countMax_nextOp (f : Fld) (n : Nat) : (d.countMax f n).nextOp = d.nextOp := rfl
@[simp] theorem Dev.countMax_beat (f : Fld) (n : Nat) : (d.countMax f n).beat = d.beat := rfl
@[simp] theorem Dev.countMax_img (f : Fld) (n : Nat) : (d.countMax f n).img = d.img := rfl
@[simp] theorem Dev.countMax_kv (f : Fld) (n : Nat) : (d.countMax f n).kv = d.kv := rfl
@[simp] theorem Dev.countMax_exp (f : Fld) (n : Nat) : (d.countMax f n).exp = d.exp := rfl
@[simp] theorem Dev.countMax_wgq (f : Fld) (n : Nat) : (d.countMax f n).wgq = d.wgq := rfl
@[simp] theorem Dev.countMax_tel (f : Fld) (n : Nat) : (d.countMax f n).tel = d.tel := rfl
@[simp] theorem Dev.countMax_upd (f : Fld) (n : Nat) : (d.countMax f n).upd = d.upd := rfl
@[simp] theorem Dev.countMax_pwr (f : Fld) (n : Nat) : (d.countMax f n).pwr = d.pwr := rfl
@[simp] theorem Dev.countMax_pins (f : Fld) (n : Nat) : (d.countMax f n).pins = d.pins := rfl
@[simp] theorem Dev.countMax_trust (f : Fld) (n : Nat) : (d.countMax f n).trust = d.trust := rfl
@[simp] theorem Dev.countMax_jtag (f : Fld) (n : Nat) : (d.countMax f n).jtag = d.jtag := rfl
@[simp] theorem Dev.countMax_eth (f : Fld) (n : Nat) : (d.countMax f n).eth = d.eth := rfl
@[simp] theorem Dev.countMax_agx (f : Fld) (n : Nat) : (d.countMax f n).agx = d.agx := rfl
@[simp] theorem Dev.countMax_ports (f : Fld) (n : Nat) : (d.countMax f n).ports = d.ports := rfl
@[simp] theorem Dev.countMax_trees (f : Fld) (n : Nat) : (d.countMax f n).trees = d.trees := rfl
@[simp] theorem Dev.countMax_coal (f : Fld) (n : Nat) : (d.countMax f n).coal = d.coal := rfl
@[simp] theorem Dev.countMax_out (f : Fld) (n : Nat) : (d.countMax f n).out = d.out := rfl
@[simp] theorem Dev.countMax_freeCtr (f : Fld) (n : Nat) : (d.countMax f n).freeCtr = d.freeCtr := rfl

/-! ### emit -/

@[simp] theorem Dev.emit_regs (x : Out) : (d.emit x).regs = d.regs := rfl
@[simp] theorem Dev.emit_acc (x : Out) : (d.emit x).acc = d.acc := rfl
@[simp] theorem Dev.emit_eff (x : Out) : (d.emit x).eff = d.eff := rfl
@[simp] theorem Dev.emit_sat (x : Out) : (d.emit x).sat = d.sat := rfl
@[simp] theorem Dev.emit_hbm (x : Out) : (d.emit x).hbm = d.hbm := rfl
@[simp] theorem Dev.emit_cist (x : Out) : (d.emit x).cist = d.cist := rfl
@[simp] theorem Dev.emit_flash (x : Out) : (d.emit x).flash = d.flash := rfl
@[simp] theorem Dev.emit_tiles (x : Out) : (d.emit x).tiles = d.tiles := rfl
@[simp] theorem Dev.emit_ops (x : Out) : (d.emit x).ops = d.ops := rfl
@[simp] theorem Dev.emit_nextOp (x : Out) : (d.emit x).nextOp = d.nextOp := rfl
@[simp] theorem Dev.emit_beat (x : Out) : (d.emit x).beat = d.beat := rfl
@[simp] theorem Dev.emit_img (x : Out) : (d.emit x).img = d.img := rfl
@[simp] theorem Dev.emit_kv (x : Out) : (d.emit x).kv = d.kv := rfl
@[simp] theorem Dev.emit_exp (x : Out) : (d.emit x).exp = d.exp := rfl
@[simp] theorem Dev.emit_wgq (x : Out) : (d.emit x).wgq = d.wgq := rfl
@[simp] theorem Dev.emit_tel (x : Out) : (d.emit x).tel = d.tel := rfl
@[simp] theorem Dev.emit_upd (x : Out) : (d.emit x).upd = d.upd := rfl
@[simp] theorem Dev.emit_pwr (x : Out) : (d.emit x).pwr = d.pwr := rfl
@[simp] theorem Dev.emit_pins (x : Out) : (d.emit x).pins = d.pins := rfl
@[simp] theorem Dev.emit_trust (x : Out) : (d.emit x).trust = d.trust := rfl
@[simp] theorem Dev.emit_jtag (x : Out) : (d.emit x).jtag = d.jtag := rfl
@[simp] theorem Dev.emit_eth (x : Out) : (d.emit x).eth = d.eth := rfl
@[simp] theorem Dev.emit_agx (x : Out) : (d.emit x).agx = d.agx := rfl
@[simp] theorem Dev.emit_ports (x : Out) : (d.emit x).ports = d.ports := rfl
@[simp] theorem Dev.emit_trees (x : Out) : (d.emit x).trees = d.trees := rfl
@[simp] theorem Dev.emit_coal (x : Out) : (d.emit x).coal = d.coal := rfl
@[simp] theorem Dev.emit_freeCtr (x : Out) : (d.emit x).freeCtr = d.freeCtr := rfl

/-! ### setTile -/

@[simp] theorem Dev.setTile_regs (t : Nat) (u : TileUnit) : (d.setTile t u).regs = d.regs := rfl
@[simp] theorem Dev.setTile_acc (t : Nat) (u : TileUnit) : (d.setTile t u).acc = d.acc := rfl
@[simp] theorem Dev.setTile_eff (t : Nat) (u : TileUnit) : (d.setTile t u).eff = d.eff := rfl
@[simp] theorem Dev.setTile_sat (t : Nat) (u : TileUnit) : (d.setTile t u).sat = d.sat := rfl
@[simp] theorem Dev.setTile_hbm (t : Nat) (u : TileUnit) : (d.setTile t u).hbm = d.hbm := rfl
@[simp] theorem Dev.setTile_cist (t : Nat) (u : TileUnit) : (d.setTile t u).cist = d.cist := rfl
@[simp] theorem Dev.setTile_flash (t : Nat) (u : TileUnit) : (d.setTile t u).flash = d.flash := rfl
@[simp] theorem Dev.setTile_ops (t : Nat) (u : TileUnit) : (d.setTile t u).ops = d.ops := rfl
@[simp] theorem Dev.setTile_nextOp (t : Nat) (u : TileUnit) : (d.setTile t u).nextOp = d.nextOp := rfl
@[simp] theorem Dev.setTile_beat (t : Nat) (u : TileUnit) : (d.setTile t u).beat = d.beat := rfl
@[simp] theorem Dev.setTile_img (t : Nat) (u : TileUnit) : (d.setTile t u).img = d.img := rfl
@[simp] theorem Dev.setTile_kv (t : Nat) (u : TileUnit) : (d.setTile t u).kv = d.kv := rfl
@[simp] theorem Dev.setTile_exp (t : Nat) (u : TileUnit) : (d.setTile t u).exp = d.exp := rfl
@[simp] theorem Dev.setTile_wgq (t : Nat) (u : TileUnit) : (d.setTile t u).wgq = d.wgq := rfl
@[simp] theorem Dev.setTile_tel (t : Nat) (u : TileUnit) : (d.setTile t u).tel = d.tel := rfl
@[simp] theorem Dev.setTile_upd (t : Nat) (u : TileUnit) : (d.setTile t u).upd = d.upd := rfl
@[simp] theorem Dev.setTile_pwr (t : Nat) (u : TileUnit) : (d.setTile t u).pwr = d.pwr := rfl
@[simp] theorem Dev.setTile_pins (t : Nat) (u : TileUnit) : (d.setTile t u).pins = d.pins := rfl
@[simp] theorem Dev.setTile_trust (t : Nat) (u : TileUnit) : (d.setTile t u).trust = d.trust := rfl
@[simp] theorem Dev.setTile_jtag (t : Nat) (u : TileUnit) : (d.setTile t u).jtag = d.jtag := rfl
@[simp] theorem Dev.setTile_eth (t : Nat) (u : TileUnit) : (d.setTile t u).eth = d.eth := rfl
@[simp] theorem Dev.setTile_agx (t : Nat) (u : TileUnit) : (d.setTile t u).agx = d.agx := rfl
@[simp] theorem Dev.setTile_ports (t : Nat) (u : TileUnit) : (d.setTile t u).ports = d.ports := rfl
@[simp] theorem Dev.setTile_trees (t : Nat) (u : TileUnit) : (d.setTile t u).trees = d.trees := rfl
@[simp] theorem Dev.setTile_coal (t : Nat) (u : TileUnit) : (d.setTile t u).coal = d.coal := rfl
@[simp] theorem Dev.setTile_out (t : Nat) (u : TileUnit) : (d.setTile t u).out = d.out := rfl
@[simp] theorem Dev.setTile_freeCtr (t : Nat) (u : TileUnit) : (d.setTile t u).freeCtr = d.freeCtr := rfl

/-! ### setPort -/

@[simp] theorem Dev.setPort_regs (p : Nat) (u : PortUnit) : (d.setPort p u).regs = d.regs := rfl
@[simp] theorem Dev.setPort_acc (p : Nat) (u : PortUnit) : (d.setPort p u).acc = d.acc := rfl
@[simp] theorem Dev.setPort_eff (p : Nat) (u : PortUnit) : (d.setPort p u).eff = d.eff := rfl
@[simp] theorem Dev.setPort_sat (p : Nat) (u : PortUnit) : (d.setPort p u).sat = d.sat := rfl
@[simp] theorem Dev.setPort_hbm (p : Nat) (u : PortUnit) : (d.setPort p u).hbm = d.hbm := rfl
@[simp] theorem Dev.setPort_cist (p : Nat) (u : PortUnit) : (d.setPort p u).cist = d.cist := rfl
@[simp] theorem Dev.setPort_flash (p : Nat) (u : PortUnit) : (d.setPort p u).flash = d.flash := rfl
@[simp] theorem Dev.setPort_tiles (p : Nat) (u : PortUnit) : (d.setPort p u).tiles = d.tiles := rfl
@[simp] theorem Dev.setPort_ops (p : Nat) (u : PortUnit) : (d.setPort p u).ops = d.ops := rfl
@[simp] theorem Dev.setPort_nextOp (p : Nat) (u : PortUnit) : (d.setPort p u).nextOp = d.nextOp := rfl
@[simp] theorem Dev.setPort_beat (p : Nat) (u : PortUnit) : (d.setPort p u).beat = d.beat := rfl
@[simp] theorem Dev.setPort_img (p : Nat) (u : PortUnit) : (d.setPort p u).img = d.img := rfl
@[simp] theorem Dev.setPort_kv (p : Nat) (u : PortUnit) : (d.setPort p u).kv = d.kv := rfl
@[simp] theorem Dev.setPort_exp (p : Nat) (u : PortUnit) : (d.setPort p u).exp = d.exp := rfl
@[simp] theorem Dev.setPort_wgq (p : Nat) (u : PortUnit) : (d.setPort p u).wgq = d.wgq := rfl
@[simp] theorem Dev.setPort_tel (p : Nat) (u : PortUnit) : (d.setPort p u).tel = d.tel := rfl
@[simp] theorem Dev.setPort_upd (p : Nat) (u : PortUnit) : (d.setPort p u).upd = d.upd := rfl
@[simp] theorem Dev.setPort_pwr (p : Nat) (u : PortUnit) : (d.setPort p u).pwr = d.pwr := rfl
@[simp] theorem Dev.setPort_pins (p : Nat) (u : PortUnit) : (d.setPort p u).pins = d.pins := rfl
@[simp] theorem Dev.setPort_trust (p : Nat) (u : PortUnit) : (d.setPort p u).trust = d.trust := rfl
@[simp] theorem Dev.setPort_jtag (p : Nat) (u : PortUnit) : (d.setPort p u).jtag = d.jtag := rfl
@[simp] theorem Dev.setPort_eth (p : Nat) (u : PortUnit) : (d.setPort p u).eth = d.eth := rfl
@[simp] theorem Dev.setPort_agx (p : Nat) (u : PortUnit) : (d.setPort p u).agx = d.agx := rfl
@[simp] theorem Dev.setPort_trees (p : Nat) (u : PortUnit) : (d.setPort p u).trees = d.trees := rfl
@[simp] theorem Dev.setPort_coal (p : Nat) (u : PortUnit) : (d.setPort p u).coal = d.coal := rfl
@[simp] theorem Dev.setPort_out (p : Nat) (u : PortUnit) : (d.setPort p u).out = d.out := rfl
@[simp] theorem Dev.setPort_freeCtr (p : Nat) (u : PortUnit) : (d.setPort p u).freeCtr = d.freeCtr := rfl

end Sys2Proof.Machine
end

