-- ==== Sys2Proof/Laws/Reg.lean ====
section
/-!
SUPPORT. Reading fields after setting fields: what a register operation does, said once.
-/

namespace Sys2Proof.Machine

/-- A field lies in a register word. -/
def Fld.ok (f : Fld) : Bool := decide (f.lo ≤ f.hi) && decide (f.hi < 64)

/-- Two fields share no bit. -/
def Fld.apart (f g : Fld) : Bool := decide (f.reg ≠ g.reg) || decide (f.hi < g.lo) || decide (g.hi < f.lo)

theorem testBit_bits (w hi lo i : Nat) : (bits w hi lo).testBit i = (decide (i < hi + 1 - lo) && w.testBit (lo + i)) := by
  simp [bits, Nat.testBit_mod_two_pow, Nat.testBit_shiftRight]

theorem testBit_mask (f : Fld) (i : Nat) : f.mask.testBit i = (decide (f.lo ≤ i) && decide (i < f.lo + (f.hi + 1 - f.lo))) := by
  simp only [Fld.mask, Nat.testBit_shiftLeft, Nat.testBit_two_pow_sub_one]
  by_cases h : f.lo ≤ i
  · simp [h]; omega
  · simp [h]

theorem testBit_wordSet (w : W64) (f : Fld) (v i : Nat) : (wordSet w f v).toNat.testBit i =
    (decide (i < 64) && if f.lo ≤ i ∧ i < f.lo + (f.hi + 1 - f.lo) then v.testBit (i - f.lo) else w.toNat.testBit i) := by
  have hm := testBit_mask f i
  by_cases hi : i < 64
  · rw [← BitVec.getLsbD, wordSet]
    simp only [BitVec.getLsbD_or, BitVec.getLsbD_and, BitVec.getLsbD_not, BitVec.getLsbD_ofNat, BitVec.getLsbD_shiftLeft, hm, hi,
      decide_true, Bool.true_and]
    by_cases h : f.lo ≤ i ∧ i < f.lo + (f.hi + 1 - f.lo)
    · have h1 : ¬ i < f.lo := by omega
      have h2 : i - f.lo < 64 := by omega
      simp [h, h1, h2]
    · by_cases h1 : f.lo ≤ i
      · have h2 : ¬ i < f.lo + (f.hi + 1 - f.lo) := fun h' => h ⟨h1, h'⟩
        simp [h1, h2, BitVec.getLsbD]
      · simp [h1, BitVec.getLsbD]
  · have : (wordSet w f v).toNat.testBit i = false := by
      apply Nat.testBit_lt_two_pow
      exact Nat.lt_of_lt_of_le (wordSet w f v).isLt (Nat.pow_le_pow_right (by decide) (by omega))
    simp [this, hi]

/-- A field reads what was written, cut to its width. -/
theorem wordGet_wordSet_same (w : W64) (f : Fld) (v : Nat) (h : f.ok = true) :
    wordGet (wordSet w f v) f = v % 2 ^ (f.hi + 1 - f.lo) := by
  simp [Fld.ok] at h
  apply Nat.eq_of_testBit_eq; intro i
  rw [wordGet, testBit_bits, testBit_wordSet, Nat.testBit_mod_two_pow]
  by_cases hi : i < f.hi + 1 - f.lo
  · have h1 : f.lo + i < 64 := by omega
    have h2 : f.lo ≤ f.lo + i ∧ f.lo + i < f.lo + (f.hi + 1 - f.lo) := by omega
    simp [hi, h1]
  · simp [hi]

/-- A field that shares no bit with the one written stays. -/
theorem wordGet_wordSet_ne (w : W64) (f g : Fld) (v : Nat) (h : f.hi < g.lo ∨ g.hi < f.lo) (hf : f.ok = true) (hg : g.ok = true) :
    wordGet (wordSet w f v) g = wordGet w g := by
  simp [Fld.ok] at hf hg
  apply Nat.eq_of_testBit_eq; intro i
  rw [wordGet, wordGet, testBit_bits, testBit_bits, testBit_wordSet]
  by_cases hi : i < g.hi + 1 - g.lo
  · have h1 : g.lo + i < 64 := by omega
    have h2 : ¬ (f.lo ≤ g.lo + i ∧ g.lo + i < f.lo + (f.hi + 1 - f.lo)) := by omega
    rw [if_neg h2]; simp [h1]
  · simp [hi]

theorem wordGet_lt (w : W64) (f : Fld) : wordGet w f < 2 ^ (f.hi + 1 - f.lo) := Nat.mod_lt _ (Nat.two_pow_pos _)

variable (d : Dev)

@[simp] theorem Dev.reg_setWord_same (o : Nat) (w : W64) : (d.setWord o w).reg o = w := by simp [Dev.reg, Dev.setWord]

theorem Dev.reg_setWord_ne {o o' : Nat} (w : W64) (h : o' ≠ o) : (d.setWord o w).reg o' = d.reg o' := by
  simp [Dev.reg, Dev.setWord, stGet_stSet_ne _ _ _ h]

theorem Dev.reg_set_ne (f : Fld) (v : Nat) {o : Nat} (h : o ≠ f.reg) : (d.set f v).reg o = d.reg o := Dev.reg_setWord_ne d _ h

/-- A field reads what was set, cut to its width. -/
theorem Dev.get_set_same (f : Fld) (v : Nat) (h : f.ok = true) : (d.set f v).get f = v % 2 ^ (f.hi + 1 - f.lo) := by
  simp [Dev.get, Dev.set, wordGet_wordSet_same _ _ _ h]

/-- A field set leaves every field that shares no bit with it. -/
theorem Dev.get_set_ne (f g : Fld) (v : Nat) (h : f.apart g = true) (hf : f.ok = true) (hg : g.ok = true) :
    (d.set f v).get g = d.get g := by
  unfold Dev.get
  by_cases hr : g.reg = f.reg
  · rw [hr]
    simp [Dev.set]
    refine wordGet_wordSet_ne _ _ _ _ ?_ hf hg
    simp [Fld.apart, hr] at h
    exact h
  · rw [Dev.reg_set_ne d f v hr]

theorem Dev.get_lt (f : Fld) : d.get f < 2 ^ (f.hi + 1 - f.lo) := wordGet_lt _ _

/-- The tile that was set. -/
@[simp] theorem Dev.tile_setTile_same (t : Nat) (u : TileUnit) : (d.setTile t u).tile t = u := by simp [Dev.tile, Dev.setTile]

theorem Dev.tile_setTile_ne {t t' : Nat} (u : TileUnit) (h : t' ≠ t) : (d.setTile t u).tile t' = d.tile t' := by
  simp [Dev.tile, Dev.setTile, stGet_stSet_ne _ _ _ h]

@[simp] theorem Dev.port_setPort_same (p : Nat) (u : PortUnit) : (d.setPort p u).port p = u := by simp [Dev.port, Dev.setPort]

theorem Dev.port_setPort_ne {p p' : Nat} (u : PortUnit) (h : p' ≠ p) : (d.setPort p u).port p' = d.port p' := by
  simp [Dev.port, Dev.setPort, stGet_stSet_ne _ _ _ h]

end Sys2Proof.Machine
end

