-- ==== Sys2Proof/Laws/Write.lean ====
section
/-!
SUPPORT. Stores to control space: what a store that reaches a listed register is, and what access types do to a field.
-/

namespace Sys2Proof.Machine

theorem leNat_leBytes (n v : Nat) : leNat (leBytes n v) = v % 256 ^ n := by
  induction n generalizing v with
  | zero => simp [leBytes, leNat, Nat.mod_one]
  | succ n ih =>
    have h : v % 256 ^ (n + 1) = v % 256 + 256 * (v / 256 % 256 ^ n) := by
      rw [Nat.pow_succ, Nat.mul_comm (256 ^ n) 256, Nat.mod_mul]
    rw [h, leBytes, leNat, ih]; rfl

@[simp] theorem length_leBytes (n v : Nat) : (leBytes n v).length = n := by
  induction n generalizing v with
  | zero => rfl
  | succ n ih => simp [leBytes, ih]

/-- A register that a block lists stands in a block. -/
theorem blockRows_of_findRow {o : Nat} {x : RegRow × List Nat} (h : findRow o = some x) : (blockRows o).isNone = false := by
  unfold findRow at h
  cases hb : blockRows o with
  | none => simp [hb] at h
  | some r => rfl

/-- An aligned 8-byte access has a width that is allowed (R389). -/
theorem widthOk_word (w : Who) (o : Nat) (h : o % 8 = 0) : widthOk w o 8 = true := by cases w <;> simp [widthOk, h]

/-- A word stored to a listed register, past the gates: the one operation of that register. -/
theorem ctlWrite_word {otp : Otp} {d : Dev} {w : Who} {o v : Nat} {row : RegRow} {ix : List Nat} (hg : d.gate w o true = .pass)
    (hf : findRow o = some (row, ix)) (h8 : o % 8 = 0) (hs : o ≠ R.SEC_CTL) (hv : v < 2 ^ 64) :
    ctlWrite otp d w o (leBytes 8 v) = ((otp, d.store w row ix o v), true) := by
  have hb := blockRows_of_findRow hf
  have hv' : v % 18446744073709551616 = v := Nat.mod_eq_of_lt hv
  have ht : (leBytes 8 v).take 8 = leBytes 8 v := List.take_of_length_le (by simp)
  simp [ctlWrite, hg, widthOk_word w o h8, hb, storeWord, hf, hs, ht, leNat_leBytes, hv', List.range_succ]

/-- A store command that takes: the device stores the word. -/
theorem regWrite8_takes {s : State} {w : Who} {o v : Nat} {row : RegRow} {ix : List Nat} (ht : s.takes w o)
    (hf : findRow o = some (row, ix)) (h8 : o % 8 = 0) (hs : o ≠ R.SEC_CTL) (hv : v < 2 ^ 64) :
    regWrite8 w o v s = .next { s with dev := s.fresh.store w row ix o v } := by
  obtain ⟨hr, hg⟩ := ht
  have h := ctlWrite_word (otp := s.otp) hg hf h8 hs hv
  unfold State.fresh at h
  have hn : ∀ d : Dev, Dev.get { d with out := [] } R.PWR_STATE_DEV_STATE = d.get R.PWR_STATE_DEV_STATE := fun d => rfl
  unfold regWrite8 regWrite
  cases w <;> simp only [State.runs, Bool.and_eq_true, decide_eq_true_eq] at hr <;> simp [hr, hn, h, State.fresh]

/-- The word that a plain store leaves: the bits taken from the value, the bits cleared 0, the others from before. -/
theorem ofNat_takeBits (old : W64) (v k c : Nat) :
    BitVec.ofNat 64 (old.toNat - (old.toNat &&& (k ||| c)) + (v &&& k)) =
      (old &&& ~~~ BitVec.ofNat 64 (k ||| c)) ||| (BitVec.ofNat 64 v &&& BitVec.ofNat 64 k) := by
  generalize hm : k ||| c = m
  have e : ∀ a b : Nat, BitVec.ofNat 64 (a &&& b) = BitVec.ofNat 64 a &&& BitVec.ofNat 64 b := by
    intro a b; ext i hi; simp
  have h0 : (old &&& BitVec.ofNat 64 m) + (old &&& ~~~ BitVec.ofNat 64 m) = old := by
    rw [BitVec.add_eq_or_of_and_eq_zero]
    · ext i hi; simp; cases old[i] <;> simp
    · ext i hi; simp; intro a b c; simp_all
  have h1 : BitVec.ofNat 64 (old.toNat - (old.toNat &&& m)) = old &&& ~~~ BitVec.ofNat 64 m := by
    have : BitVec.ofNat 64 (old.toNat - (old.toNat &&& m)) + (old &&& BitVec.ofNat 64 m) = old := by
      have h2 : BitVec.ofNat 64 (old.toNat &&& m) = old &&& BitVec.ofNat 64 m := by rw [e]; simp
      rw [← h2, ← BitVec.ofNat_add, Nat.sub_add_cancel Nat.and_le_left]; simp
    have h3 := this.trans h0.symm
    rw [BitVec.add_comm] at h3
    exact (BitVec.add_right_inj _).mp h3
  rw [BitVec.ofNat_add, h1, e, BitVec.add_eq_or_of_and_eq_zero]
  subst hm
  ext i hi
  simp
  intro a b1 b2 b3
  simp_all

/-- A field of a number cut out of a word by masks: taken where the mask covers it, cleared, or kept. -/
theorem wordGet_masked (old : W64) (v k c : Nat) (f : Fld) (hf : f.ok = true) :
    (k &&& f.mask = f.mask → wordGet ((old &&& ~~~ BitVec.ofNat 64 (k ||| c)) ||| (BitVec.ofNat 64 v &&& BitVec.ofNat 64 k)) f = f.of v) ∧
    (k &&& f.mask = 0 → c &&& f.mask = 0 →
      wordGet ((old &&& ~~~ BitVec.ofNat 64 (k ||| c)) ||| (BitVec.ofNat 64 v &&& BitVec.ofNat 64 k)) f = wordGet old f) := by
  simp [Fld.ok] at hf
  have hm : ∀ i, i < f.hi + 1 - f.lo → f.mask.testBit (f.lo + i) = true := by
    intro i hi; rw [testBit_mask]; simp; omega
  constructor
  · intro hk
    apply Nat.eq_of_testBit_eq; intro i
    rw [wordGet, Fld.of, testBit_bits, testBit_bits]
    by_cases hi : i < f.hi + 1 - f.lo
    · have h64 : f.lo + i < 64 := by omega
      have hki : k.testBit (f.lo + i) = true := by
        have := congrArg (·.testBit (f.lo + i)) hk
        simpa [hm i hi] using this
      rw [← BitVec.getLsbD]
      simp only [hi, decide_true, Bool.true_and, BitVec.getLsbD_or, BitVec.getLsbD_and, BitVec.getLsbD_not, BitVec.getLsbD_ofNat, h64,
        Nat.testBit_or, hki, Bool.true_or, Bool.not_true, Bool.and_false, Bool.false_or, Bool.and_true]
    · simp [hi]
  · intro hk hc
    apply Nat.eq_of_testBit_eq; intro i
    rw [wordGet, wordGet, testBit_bits, testBit_bits]
    by_cases hi : i < f.hi + 1 - f.lo
    · have h64 : f.lo + i < 64 := by omega
      have hki : k.testBit (f.lo + i) = false := by
        have := congrArg (·.testBit (f.lo + i)) hk
        simpa [hm i hi] using this
      have hci : c.testBit (f.lo + i) = false := by
        have := congrArg (·.testBit (f.lo + i)) hc
        simpa [hm i hi] using this
      rw [← BitVec.getLsbD]
      simp only [hi, decide_true, Bool.true_and, BitVec.getLsbD_or, BitVec.getLsbD_and, BitVec.getLsbD_not, BitVec.getLsbD_ofNat, h64,
        Nat.testBit_or, hki, hci, Bool.or_false, Bool.not_false, Bool.and_true, Bool.and_false]
      rfl
    · simp [hi]

/-- The masks of a plain store: the fields that take the value, and the bits that clear. -/
def takeMask (row : RegRow) (act : Bool) : Nat :=
  (rowMask row fun a => a = .rw || a = .rws) ||| (if act then 0 else rowMask row fun a => a = .rwi)

/-- A plain store in which no RWI field refuses is one word set. -/
theorem Dev.plainStore_eq (d : Dev) (w : Who) (row : RegRow) (o v : Nat)
    (h : d.imageActive = false ∨ (v ^^^ (d.reg o).toNat) &&& (rowMask row fun a => a = .rwi) = 0) :
    d.plainStore w row o v = d.setWord o
      (((d.reg o) &&& ~~~ BitVec.ofNat 64 (takeMask row d.imageActive ||| ((rowMask row fun a => a = .w1c) &&& v))) |||
        (BitVec.ofNat 64 v &&& BitVec.ofNat 64 (takeMask row d.imageActive))) := by
  unfold Dev.plainStore takeMask
  rcases h with h | h <;> simp [h, ofNat_takeBits]

/-- A field with the access type RW or RWS takes the value; so does RWI while no image is active (R7). -/
theorem Dev.plainStore_get_taken (d : Dev) (w : Who) (row : RegRow) (v : Nat) (f : Fld)
    (h : d.imageActive = false ∨ (v ^^^ (d.reg f.reg).toNat) &&& (rowMask row fun a => a = .rwi) = 0) (hf : f.ok = true)
    (hk : takeMask row d.imageActive &&& f.mask = f.mask) : (d.plainStore w row f.reg v).get f = f.of v := by
  rw [Dev.plainStore_eq d w row _ v h, Dev.get, Dev.reg_setWord_same]
  exact (wordGet_masked _ _ _ _ f hf).1 hk

/-- A field that a store neither takes nor clears stays. -/
theorem Dev.plainStore_get_kept (d : Dev) (w : Who) (row : RegRow) (v : Nat) (f : Fld)
    (h : d.imageActive = false ∨ (v ^^^ (d.reg f.reg).toNat) &&& (rowMask row fun a => a = .rwi) = 0) (hf : f.ok = true)
    (hk : takeMask row d.imageActive &&& f.mask = 0) (hc : (rowMask row fun a => a = .w1c) &&& v &&& f.mask = 0) :
    (d.plainStore w row f.reg v).get f = d.get f := by
  rw [Dev.plainStore_eq d w row _ v h, Dev.get, Dev.reg_setWord_same]
  exact (wordGet_masked _ _ _ _ f hf).2 hk hc

/-- A store leaves every register but its own. -/
theorem Dev.plainStore_reg_ne (d : Dev) (w : Who) (row : RegRow) (o v : Nat) {o' : Nat}
    (h : d.imageActive = false ∨ (v ^^^ (d.reg o).toNat) &&& (rowMask row fun a => a = .rwi) = 0) (hn : o' ≠ o) :
    (d.plainStore w row o v).reg o' = d.reg o' := by
  rw [Dev.plainStore_eq d w row _ v h]; exact Dev.reg_setWord_ne d _ hn

/-- The field that `on` sets reads 1. -/
theorem Fld.of_on (f : Fld) (v : Nat) (h : f.hi = f.lo) : f.of (f.on v) = 1 := by
  have hm : f.mask.testBit f.lo = true := by rw [testBit_mask]; simp [h]
  apply Nat.eq_of_testBit_eq; intro i
  rw [Fld.of, testBit_bits, h]
  by_cases hi : i = 0
  · subst hi; simp [Fld.on, hm]
  · have : (1 : Nat).testBit i = false := by
      rw [Nat.testBit_eq_decide_div_mod_eq, Nat.div_eq_of_lt]; · rfl
      exact Nat.one_lt_two_pow hi
    simp [this]; omega

theorem testBit_on (f : Fld) (v i : Nat) : (f.on v).testBit i = (v.testBit i || f.mask.testBit i) := by simp [Fld.on]

theorem testBit_off (f : Fld) (v i : Nat) (hv : v < 2 ^ 64) : (f.off v).testBit i = (v.testBit i && !f.mask.testBit i) := by
  have h := ofNat_takeBits (BitVec.ofNat 64 v) 0 0 f.mask
  have hn : (BitVec.ofNat 64 v).toNat = v := by rw [BitVec.toNat_ofNat]; exact Nat.mod_eq_of_lt hv
  rw [hn] at h
  simp at h
  have hlt : f.off v < 2 ^ 64 := by unfold Fld.off; omega
  by_cases hi : i < 64
  · have h1 := congrArg (·.getLsbD i) h
    simp only [BitVec.getLsbD_ofNat, BitVec.getLsbD_and, BitVec.getLsbD_not, hi, decide_true, Bool.true_and] at h1
    exact h1
  · have a : v.testBit i = false := Nat.testBit_lt_two_pow (Nat.lt_of_lt_of_le hv (Nat.pow_le_pow_right (by decide) (by omega)))
    have b : (f.off v).testBit i = false := Nat.testBit_lt_two_pow (Nat.lt_of_lt_of_le hlt (Nat.pow_le_pow_right (by decide) (by omega)))
    simp [a, b]

theorem Fld.off_lt (f : Fld) (v : Nat) (h : v < 2 ^ 64) : f.off v < 2 ^ 64 := by unfold Fld.off; omega

theorem Fld.on_lt (f : Fld) (v : Nat) (hf : f.ok = true) (h : v < 2 ^ 64) : f.on v < 2 ^ 64 := by
  simp [Fld.ok] at hf
  refine Nat.or_lt_two_pow h (Nat.lt_pow_two_of_testBit _ fun i hi => ?_)
  rw [testBit_mask]; simp; omega

/-- A bit range that misses the field reads the same with the field set or cleared. -/
theorem bits_on (f : Fld) (v hi lo : Nat) (h : f.hi < lo ∨ hi < f.lo) (hf : f.lo ≤ f.hi) (hl : lo ≤ hi) : bits (f.on v) hi lo = bits v hi lo := by
  apply Nat.eq_of_testBit_eq; intro i
  rw [testBit_bits, testBit_bits, testBit_on, testBit_mask]
  by_cases h1 : i < hi + 1 - lo
  · have : (decide (f.lo ≤ lo + i) && decide (lo + i < f.lo + (f.hi + 1 - f.lo))) = false := by simp; omega
    simp [this]
  · simp [h1]

theorem bits_off (f : Fld) (v hi lo : Nat) (hv : v < 2 ^ 64) (h : f.hi < lo ∨ hi < f.lo) (hf : f.lo ≤ f.hi) (hl : lo ≤ hi) :
    bits (f.off v) hi lo = bits v hi lo := by
  apply Nat.eq_of_testBit_eq; intro i
  rw [testBit_bits, testBit_bits, testBit_off _ _ _ hv, testBit_mask]
  by_cases h1 : i < hi + 1 - lo
  · have : (decide (f.lo ≤ lo + i) && decide (lo + i < f.lo + (f.hi + 1 - f.lo))) = false := by simp; omega
    simp [this]
  · simp [h1]

/-- The field that `off` clears reads 0. -/
theorem Fld.of_off (f : Fld) (v : Nat) (hv : v < 2 ^ 64) : f.of (f.off v) = 0 := by
  apply Nat.eq_of_testBit_eq; intro i
  rw [Fld.of, testBit_bits, testBit_off _ _ _ hv, testBit_mask]
  by_cases h1 : i < f.hi + 1 - f.lo
  · have : (decide (f.lo ≤ f.lo + i) && decide (f.lo + i < f.lo + (f.hi + 1 - f.lo))) = true := by simp; omega
    simp only [this, h1, decide_true, Bool.not_true, Bool.and_false, Nat.zero_testBit]
  · simp [h1]

end Sys2Proof.Machine
end

