-- ==== Sys2Proof/Laws/Rows.lean ====
section
/-!
SUPPORT. The register listed at an instance's offset: the register of instance 0, with the instance's index.
-/

namespace Sys2Proof.Machine

/-- A row of a block of `N` instances, `S` apart from `B`: it repeats with the instances and does not reach into the one before at
offset `r`, or it lies outside them all. -/
def rowApart (B S N r : Nat) (row : RegRow) : Bool :=
  match row.dims with
  | [] => decide (B + N * S ≤ row.off) || decide (row.off < B)
  | (s, c) :: ds =>
    (decide (s = S) && decide (c = N) && decide (B ≤ row.off) && decide (row.off < B + S) &&
      (decide (row.off ≤ B + r) || (matchDims ds (S - (row.off - (B + r)))).isNone)) ||
    decide (B + N * S ≤ row.off) || (decide (0 < s) && decide (row.off + s * c ≤ B))

theorem rowMatch_apart (B S N r t : Nat) (row : RegRow) (h : rowApart B S N r row = true) (hr : r < S) (ht : t < N) :
    rowMatch row (B + r + t * S) = (rowMatch row (B + r)).map fun ix => t :: ix.tail := by
  have htS : (t + 1) * S ≤ N * S := Nat.mul_le_mul_right S ht
  have hS : (t + 1) * S = t * S + S := Nat.succ_mul t S
  unfold rowApart at h
  unfold rowMatch
  cases hd : row.dims with
  | nil =>
    simp only [hd, Bool.or_eq_true, decide_eq_true_eq] at h
    rcases h with h | h
    · rw [if_pos (by omega), if_pos (by omega)]; rfl
    · rw [if_neg (by omega), if_neg (by omega), matchDims, if_neg (by omega), matchDims, if_neg (by omega)]; rfl
  | cons x ds =>
    obtain ⟨s, c⟩ := x
    simp only [hd, Bool.or_eq_true, Bool.and_eq_true, decide_eq_true_eq, Option.isNone_iff_eq_none] at h
    rcases h with (⟨⟨⟨⟨rfl, rfl⟩, hB⟩, hBS⟩, h⟩ | h) | h
    · by_cases hle : row.off ≤ B + r
      · have h1 : (B + r + t * s - row.off) / s = t := by
          rw [show B + r + t * s - row.off = (B + r - row.off) + t * s by omega, Nat.add_mul_div_right _ _ (by omega),
            Nat.div_eq_of_lt (by omega)]; omega
        have h2 : (B + r + t * s - row.off) % s = B + r - row.off := by
          rw [show B + r + t * s - row.off = (B + r - row.off) + t * s by omega, Nat.add_mul_mod_self_right, Nat.mod_eq_of_lt (by omega)]
        have h3 : (B + r - row.off) / s = 0 := Nat.div_eq_of_lt (by omega)
        have h4 : (B + r - row.off) % s = B + r - row.off := Nat.mod_eq_of_lt (by omega)
        rw [if_neg (by omega), if_neg (by omega)]
        simp only [matchDims, h1, h2, h3, h4, ht, if_true, if_pos (show 0 < c by omega)]
        cases matchDims ds (B + r - row.off) <;> rfl
      · have hn : matchDims ds (s - (row.off - (B + r))) = none := h.resolve_left hle
        rw [if_pos (show B + r < row.off by omega)]
        by_cases h0 : t = 0
        · subst h0; rw [if_pos (by omega)]; rfl
        · obtain ⟨u, rfl⟩ : ∃ u, t = u + 1 := ⟨t - 1, by omega⟩
          have hu : (u + 1) * s = u * s + s := Nat.succ_mul u s
          have h2 : (B + r + (u + 1) * s - row.off) % s = s - (row.off - (B + r)) := by
            rw [show B + r + (u + 1) * s - row.off = (s - (row.off - (B + r))) + u * s by omega, Nat.add_mul_mod_self_right,
              Nat.mod_eq_of_lt (by omega)]
          rw [if_neg (by omega), matchDims, h2, hn]
          split <;> rfl
    · rw [if_pos (by omega), if_pos (by omega)]; rfl
    · have hsc : ∀ x, s * c ≤ x → ¬ x / s < c := by
        intro x hx hlt
        have h5 : x < c * s := (Nat.div_lt_iff_lt_mul h.1).1 hlt
        rw [Nat.mul_comm] at h5; omega
      have h0 : ∀ x, s * c ≤ x → matchDims ((s, c) :: ds) x = none := fun x hx => by rw [matchDims, if_neg (hsc x hx)]
      have ho : row.off ≤ B := by omega
      rw [if_neg (by omega), if_neg (by omega), h0 _ (by omega), h0 _ (by omega)]; rfl

/-- The register at instance `t`, from the one at instance 0. -/
theorem findRow_instance (B S N r t : Nat) (rows : List RegRow) (hb : blockRows (B + r + t * S) = some rows) (hb0 : blockRows (B + r) = some rows)
    (h : rows.all (rowApart B S N r) = true) (hr : r < S) (ht : t < N) :
    findRow (B + r + t * S) = (findRow (B + r)).map fun x => (x.1, t :: x.2.tail) := by
  simp only [findRow, hb, hb0, Option.bind_some]
  clear hb hb0
  induction rows with
  | nil => rfl
  | cons row rest ih =>
    simp only [List.all_cons, Bool.and_eq_true] at h
    simp only [List.findSome?_cons, rowMatch_apart B S N r t row h.1 hr ht]
    cases rowMatch row (B + r) with
    | none => simpa using ih h.2
    | some ix => rfl

/-! ### Where the blocks stand -/

theorem blockRows_Beat (o : Nat) (h : 0x1000000 ≤ o) (h' : o < 0x2000000) : blockRows o = some rowsBeat := by
  unfold blockRows
  iterate 1 rw [if_neg (by omega)]
  rw [if_pos (by omega)]

theorem blockRows_Tile (o : Nat) (h : 0x10000000 ≤ o) (h' : o < 0x28000000) : blockRows o = some rowsTile := by
  unfold blockRows
  iterate 19 rw [if_neg (by omega)]
  rw [if_pos (by omega)]

theorem blockRows_Agx (o : Nat) (h : 0x7000000 ≤ o) (h' : o < 0x7010000) : blockRows o = some rowsAgx := by
  unfold blockRows
  iterate 8 rw [if_neg (by omega)]
  rw [if_pos (by omega)]

theorem blockRows_AgxPort (o : Nat) (h : 0x7010000 ≤ o) (h' : o < 0x8000000) : blockRows o = some rowsAgxPort := by
  unfold blockRows
  iterate 9 rw [if_neg (by omega)]
  rw [if_pos (by omega)]

theorem blockRows_Hbm (o : Nat) (h : 0x9000000 ≤ o) (h' : o < 0xa800000) : blockRows o = some rowsHbm := by
  unfold blockRows
  iterate 12 rw [if_neg (by omega)]
  rw [if_pos (by omega)]

theorem blockRows_EthPort (o : Nat) (h : 0x8010000 ≤ o) (h' : o < 0x9000000) : blockRows o = some rowsEthPort := by
  unfold blockRows
  iterate 11 rw [if_neg (by omega)]
  rw [if_pos (by omega)]

theorem blockRows_Mgmt (o : Nat) (h : 0xe000000 ≤ o) (h' : o < 0xf000000) : blockRows o = some rowsMgmt := by
  unfold blockRows
  iterate 17 rw [if_neg (by omega)]
  rw [if_pos (by omega)]

/-! ### The indexed registers whose store is a command -/

theorem findRow_BEAT_PAGE (t : Nat) (h : t < 8) : findRow (R.BEAT_PAGE t) = (findRow (R.BEAT_PAGE 0)).map fun x => (x.1, [t]) := by
  rw [show R.BEAT_PAGE t = 0x1000100 + 0x0 + t * 0x8 by unfold R.BEAT_PAGE; omega]
  exact findRow_instance 0x1000100 0x8 8 0x0 t rowsBeat (blockRows_Beat _ (by omega) (by omega)) (blockRows_Beat _ (by omega) (by omega))
    (by decide) (by omega) h

theorem findRow_TILE_ERR (t : Nat) (h : t < 384) : findRow (R.TILE_ERR t) = (findRow (R.TILE_ERR 0)).map fun x => (x.1, [t]) := by
  rw [show R.TILE_ERR t = 0x10000000 + 0x18 + t * 0x100000 by unfold R.TILE_ERR; omega]
  exact findRow_instance 0x10000000 0x100000 384 0x18 t rowsTile (blockRows_Tile _ (by omega) (by omega)) (blockRows_Tile _ (by omega) (by omega))
    (by decide) (by omega) h

theorem findRow_TILE_INJECT (t : Nat) (h : t < 384) : findRow (R.TILE_INJECT t) = (findRow (R.TILE_INJECT 0)).map fun x => (x.1, [t]) := by
  rw [show R.TILE_INJECT t = 0x10000000 + 0x20 + t * 0x100000 by unfold R.TILE_INJECT; omega]
  exact findRow_instance 0x10000000 0x100000 384 0x20 t rowsTile (blockRows_Tile _ (by omega) (by omega)) (blockRows_Tile _ (by omega) (by omega))
    (by decide) (by omega) h

theorem findRow_PUMP_ERR (t : Nat) (h : t < 384) : findRow (R.PUMP_ERR t) = (findRow (R.PUMP_ERR 0)).map fun x => (x.1, [t]) := by
  rw [show R.PUMP_ERR t = 0x10000000 + 0x40008 + t * 0x100000 by unfold R.PUMP_ERR; omega]
  exact findRow_instance 0x10000000 0x100000 384 0x40008 t rowsTile (blockRows_Tile _ (by omega) (by omega)) (blockRows_Tile _ (by omega) (by omega))
    (by decide) (by omega) h

theorem findRow_PUMP_INJECT (t : Nat) (h : t < 384) : findRow (R.PUMP_INJECT t) = (findRow (R.PUMP_INJECT 0)).map fun x => (x.1, [t]) := by
  rw [show R.PUMP_INJECT t = 0x10000000 + 0x40010 + t * 0x100000 by unfold R.PUMP_INJECT; omega]
  exact findRow_instance 0x10000000 0x100000 384 0x40010 t rowsTile (blockRows_Tile _ (by omega) (by omega)) (blockRows_Tile _ (by omega) (by omega))
    (by decide) (by omega) h

theorem findRow_CIST_NC_CTL (t : Nat) (h : t < 384) : findRow (R.CIST_NC_CTL t) = (findRow (R.CIST_NC_CTL 0)).map fun x => (x.1, [t]) := by
  rw [show R.CIST_NC_CTL t = 0x10000000 + 0x80008 + t * 0x100000 by unfold R.CIST_NC_CTL; omega]
  exact findRow_instance 0x10000000 0x100000 384 0x80008 t rowsTile (blockRows_Tile _ (by omega) (by omega)) (blockRows_Tile _ (by omega) (by omega))
    (by decide) (by omega) h

theorem findRow_ATTN_INJECT (t : Nat) (h : t < 384) : findRow (R.ATTN_INJECT t) = (findRow (R.ATTN_INJECT 0)).map fun x => (x.1, [t]) := by
  rw [show R.ATTN_INJECT t = 0x10000000 + 0xc0018 + t * 0x100000 by unfold R.ATTN_INJECT; omega]
  exact findRow_instance 0x10000000 0x100000 384 0xc0018 t rowsTile (blockRows_Tile _ (by omega) (by omega)) (blockRows_Tile _ (by omega) (by omega))
    (by decide) (by omega) h

theorem findRow_AGX_MC_TREE_W0 (t : Nat) (h : t < 256) : findRow (R.AGX_MC_TREE_W0 t) = (findRow (R.AGX_MC_TREE_W0 0)).map fun x => (x.1, [t]) := by
  rw [show R.AGX_MC_TREE_W0 t = 0x7002000 + 0x0 + t * 0x20 by unfold R.AGX_MC_TREE_W0; omega]
  exact findRow_instance 0x7002000 0x20 256 0x0 t rowsAgx (blockRows_Agx _ (by omega) (by omega)) (blockRows_Agx _ (by omega) (by omega))
    (by decide) (by omega) h

theorem findRow_AGX_MC_TREE_W1 (t : Nat) (h : t < 256) : findRow (R.AGX_MC_TREE_W1 t) = (findRow (R.AGX_MC_TREE_W1 0)).map fun x => (x.1, [t]) := by
  rw [show R.AGX_MC_TREE_W1 t = 0x7002000 + 0x8 + t * 0x20 by unfold R.AGX_MC_TREE_W1; omega]
  exact findRow_instance 0x7002000 0x20 256 0x8 t rowsAgx (blockRows_Agx _ (by omega) (by omega)) (blockRows_Agx _ (by omega) (by omega))
    (by decide) (by omega) h

theorem findRow_AGX_MC_TREE_W2 (t : Nat) (h : t < 256) : findRow (R.AGX_MC_TREE_W2 t) = (findRow (R.AGX_MC_TREE_W2 0)).map fun x => (x.1, [t]) := by
  rw [show R.AGX_MC_TREE_W2 t = 0x7002000 + 0x10 + t * 0x20 by unfold R.AGX_MC_TREE_W2; omega]
  exact findRow_instance 0x7002000 0x20 256 0x10 t rowsAgx (blockRows_Agx _ (by omega) (by omega)) (blockRows_Agx _ (by omega) (by omega))
    (by decide) (by omega) h

theorem findRow_AGX_PORT_CTL (t : Nat) (h : t < 36) : findRow (R.AGX_PORT_CTL t) = (findRow (R.AGX_PORT_CTL 0)).map fun x => (x.1, [t]) := by
  rw [show R.AGX_PORT_CTL t = 0x7010000 + 0x0 + t * 0x10000 by unfold R.AGX_PORT_CTL; omega]
  exact findRow_instance 0x7010000 0x10000 36 0x0 t rowsAgxPort (blockRows_AgxPort _ (by omega) (by omega)) (blockRows_AgxPort _ (by omega) (by omega))
    (by decide) (by omega) h

theorem findRow_AGX_PORT_INJECT (t : Nat) (h : t < 36) : findRow (R.AGX_PORT_INJECT t) = (findRow (R.AGX_PORT_INJECT 0)).map fun x => (x.1, [t]) := by
  rw [show R.AGX_PORT_INJECT t = 0x7010000 + 0x20 + t * 0x10000 by unfold R.AGX_PORT_INJECT; omega]
  exact findRow_instance 0x7010000 0x10000 36 0x20 t rowsAgxPort (blockRows_AgxPort _ (by omega) (by omega)) (blockRows_AgxPort _ (by omega) (by omega))
    (by decide) (by omega) h

theorem findRow_AGX_PORT_SPARE_TH (t : Nat) (h : t < 36) : findRow (R.AGX_PORT_SPARE_TH t) = (findRow (R.AGX_PORT_SPARE_TH 0)).map fun x => (x.1, [t]) := by
  rw [show R.AGX_PORT_SPARE_TH t = 0x7010000 + 0x28 + t * 0x10000 by unfold R.AGX_PORT_SPARE_TH; omega]
  exact findRow_instance 0x7010000 0x10000 36 0x28 t rowsAgxPort (blockRows_AgxPort _ (by omega) (by omega)) (blockRows_AgxPort _ (by omega) (by omega))
    (by decide) (by omega) h

theorem findRow_HBM_PPR (t : Nat) (h : t < 24) : findRow (R.HBM_PPR t) = (findRow (R.HBM_PPR 0)).map fun x => (x.1, [t]) := by
  rw [show R.HBM_PPR t = 0x9000000 + 0x18 + t * 0x100000 by unfold R.HBM_PPR; omega]
  exact findRow_instance 0x9000000 0x100000 24 0x18 t rowsHbm (blockRows_Hbm _ (by omega) (by omega)) (blockRows_Hbm _ (by omega) (by omega))
    (by decide) (by omega) h

theorem findRow_ETH_PORT_CTL (t : Nat) (h : t < 2) : findRow (R.ETH_PORT_CTL t) = (findRow (R.ETH_PORT_CTL 0)).map fun x => (x.1, [t]) := by
  rw [show R.ETH_PORT_CTL t = 0x8010000 + 0x0 + t * 0x10000 by unfold R.ETH_PORT_CTL; omega]
  exact findRow_instance 0x8010000 0x10000 2 0x0 t rowsEthPort (blockRows_EthPort _ (by omega) (by omega)) (blockRows_EthPort _ (by omega) (by omega))
    (by decide) (by omega) h

theorem findRow_ETH_PTP_STEP (t : Nat) (h : t < 2) : findRow (R.ETH_PTP_STEP t) = (findRow (R.ETH_PTP_STEP 0)).map fun x => (x.1, [t]) := by
  rw [show R.ETH_PTP_STEP t = 0x8010000 + 0x210 + t * 0x10000 by unfold R.ETH_PTP_STEP; omega]
  exact findRow_instance 0x8010000 0x10000 2 0x210 t rowsEthPort (blockRows_EthPort _ (by omega) (by omega)) (blockRows_EthPort _ (by omega) (by omega))
    (by decide) (by omega) h

theorem findRow_MGMT_CORE (t : Nat) (h : t < 16) : findRow (R.MGMT_CORE t) = (findRow (R.MGMT_CORE 0)).map fun x => (x.1, [t]) := by
  rw [show R.MGMT_CORE t = 0xe000000 + 0x0 + t * 0x8 by unfold R.MGMT_CORE; omega]
  exact findRow_instance 0xe000000 0x8 16 0x0 t rowsMgmt (blockRows_Mgmt _ (by omega) (by omega)) (blockRows_Mgmt _ (by omega) (by omega))
    (by decide) (by omega) h

/-- Word `k` of beat-table entry `e`. -/
theorem findRow_BEAT_ENTRY (e k : Nat) (h : e < 8192) (hk : k < 4) :
    findRow (R.BEAT_ENTRY e k) = (findRow (R.BEAT_ENTRY 0 0)).map fun x => (x.1, [e, k]) := by
  have h1 := fun r hr hc => findRow_instance 0x1100000 0x20 8192 r e rowsBeat (blockRows_Beat _ (by omega) (by omega))
    (blockRows_Beat _ (by omega) (by omega)) hc hr h
  have h2 : R.BEAT_ENTRY e k = 0x1100000 + 8 * k + e * 0x20 := by unfold R.BEAT_ENTRY; omega
  rw [h2]
  have : k = 0 ∨ k = 1 ∨ k = 2 ∨ k = 3 := by omega
  rcases this with rfl | rfl | rfl | rfl <;> exact h1 _ (by omega) (by decide)

end Sys2Proof.Machine
end

