-- ==== Sys2Proof/Laws/Does.lean ====
section
/-!
SUPPORT. What a command answers, from its meaning: the common shapes.
-/

namespace Sys2Proof.Machine

variable {s : State} {c : Instr} {d : Dev}

@[simp] theorem State.fresh_reg (s : State) (o : Nat) : s.fresh.reg o = s.dev.reg o := rfl
@[simp] theorem State.fresh_get (s : State) (f : Fld) : s.fresh.get f = s.dev.get f := rfl
@[simp] theorem State.fresh_flag (s : State) (f : Fld) : s.fresh.flag f = s.dev.flag f := rfl
@[simp] theorem State.fresh_force (s : State) (f : Fld) : s.fresh.force f = s.dev.force f := rfl
@[simp] theorem State.fresh_imageActive (s : State) : s.fresh.imageActive = s.dev.imageActive := rfl
@[simp] theorem State.fresh_out (s : State) : s.fresh.out = [] := rfl
@[simp] theorem State.fresh_port (s : State) (p : Nat) : s.fresh.port p = s.dev.port p := rfl
@[simp] theorem State.fresh_tile (s : State) (t : Nat) : s.fresh.tile t = s.dev.tile t := rfl

/-- A meaning that changes only the device. -/
theorem does_run {f : Dev → Dev} (h : exec c s = run s f) (hd : f s.fresh = d) : Does c s d := by
  rw [Does, h, ← hd]; rfl

/-- A meaning that is a store of one word. -/
theorem does_write {w : Who} {o v : Nat} {row : RegRow} {ix : List Nat} (h : exec c s = regWrite8 w o v s) (ht : s.takes w o)
    (hf : findRow o = some (row, ix)) (h8 : o % 8 = 0) (hs : o ≠ R.SEC_CTL) (hv : v < 2 ^ 64) (hd : s.fresh.store w row ix o v = d) :
    Does c s d := by
  rw [Does, h, regWrite8_takes ht hf h8 hs hv, hd]

end Sys2Proof.Machine
end

