-- ==== Sys2Proof/Laws/Log.lean ====
section
/-!
SUPPORT. Raising an event and logging an error write records: what that can touch, said once. A record goes to HBM and
moves a ring's registers, counters and the error log; nothing else changes.
-/

namespace Sys2Proof.Machine

namespace LogOnly

theorem refl (d : Dev) : LogOnly d d := by constructor <;> intros <;> first | rfl | exact ⟨_, _, rfl⟩

theorem tilesTrans {a b c : Dev} (h : LogOnly a b) (k : LogOnly b c) (t : Nat) :
    ∃ l n, c.tile t = { a.tile t with streams := l, nc := n } := by
  obtain ⟨_, _, e⟩ := h.tiles t
  obtain ⟨l, n, e'⟩ := k.tiles t
  exact ⟨l, n, by rw [e', e]⟩

theorem trans {a b c : Dev} (h : LogOnly a b) (k : LogOnly b c) : LogOnly a c :=
  ⟨fun o ho => (k.reg o ho).trans (h.reg o ho), k.eff.trans h.eff, k.cist.trans h.cist, k.flash.trans h.flash, tilesTrans h k,
    k.ops.trans h.ops, k.nextOp.trans h.nextOp, k.beat.trans h.beat, k.img.trans h.img, k.kv.trans h.kv, k.exp.trans h.exp,
    k.wgq.trans h.wgq, k.tel.trans h.tel, k.upd.trans h.upd, k.pwr.trans h.pwr, k.pins.trans h.pins, k.trust.trans h.trust,
    k.jtag.trans h.jtag, k.eth.trans h.eth, k.agx.trans h.agx, k.ports.trans h.ports, k.trees.trans h.trees⟩

/-- Any device with the same registers and the same of everything but memory, counters, records and output. -/
theorem of_same {d : Dev} (acc : List (Nat × W64)) (sat : Bool) (hbm : HbmUnit) (coal : List Coal) (out : List Out) (freeCtr : Nat) :
    LogOnly d { d with acc := acc, sat := sat, hbm := hbm, coal := coal, out := out, freeCtr := freeCtr } := by
  constructor <;> intros <;> first | rfl | exact ⟨_, _, rfl⟩

theorem set (d : Dev) (f : Fld) (v : Nat) (h : logReg f.reg = true) : LogOnly d (d.set f v) := by
  refine ⟨fun o ho => Dev.reg_set_ne d f v ?_, ?_, ?_, ?_, ?_, ?_, ?_, ?_, ?_, ?_, ?_, ?_, ?_, ?_, ?_, ?_, ?_, ?_, ?_, ?_, ?_, ?_⟩ <;>
    first | rfl | exact fun t => ⟨_, _, rfl⟩ | (rintro rfl; simp [h] at ho)

theorem count (d : Dev) (f : Fld) (n : Nat) : LogOnly d (d.count f n) := of_same _ _ _ _ _ _
theorem emit (d : Dev) (x : Out) : LogOnly d (d.emit x) := of_same _ _ _ _ _ _
theorem draw (d : Dev) : LogOnly d d.draw.2 := of_same _ _ _ _ _ _
theorem stamp (d : Dev) : LogOnly d d.stamp.2 := of_same _ _ _ _ _ _
theorem hbm (d : Dev) (h : HbmUnit) : LogOnly d { d with hbm := h } := of_same _ _ _ _ _ _
theorem coal (d : Dev) (h : List Coal) : LogOnly d { d with coal := h } := of_same _ _ _ _ _ _
theorem bump (d : Dev) (f : Fld) (n : Nat) (h : logReg f.reg = true) : LogOnly d (d.bump f n) := set d f _ h

/-- A fold of changes each of which only writes records. -/
theorem foldl {α : Type} (f : Dev → α → Dev) (h : ∀ d x, LogOnly d (f d x)) (l : List α) (d : Dev) : LogOnly d (l.foldl f d) := by
  induction l generalizing d with
  | nil => exact refl d
  | cons x r ih => exact (h d x).trans (ih (f d x))

theorem foldl2 {α β : Type} (f : Dev × β → α → Dev × β) (h : ∀ p x, LogOnly p.1 (f p x).1) (l : List α) (p : Dev × β) :
    LogOnly p.1 (l.foldl f p).1 := by
  induction l generalizing p with
  | nil => exact refl p.1
  | cons x r ih => exact (h p x).trans (ih (f p x))

theorem ite {d a b : Dev} {c : Prop} [Decidable c] (ha : LogOnly d a) (hb : LogOnly d b) : LogOnly d (if c then a else b) := by
  split <;> assumption

theorem eccNote (d : Dev) (cls source unit off : Nat) : LogOnly d (d.eccNote cls source unit off) := by
  unfold Dev.eccNote
  dsimp only
  split <;> split <;>
    repeat' (first | exact refl _ | refine trans ?_ (count _ _ _) | refine trans ?_ (set _ _ _ (by rfl)))

theorem plant (d : Dev) (k c : Nat) : LogOnly d (d.plant k c) := by
  unfold Dev.plant
  exact ite (trans (set _ _ _ (by rfl)) (hbm _ _)) (refl d)

theorem storeWord (d : Dev) (k st n : Nat) (pz : Nat → Bool) (c : Nat) : LogOnly d (d.storeWord k st n pz c) := by
  unfold Dev.storeWord
  exact trans (ite (hbm _ _) (trans (hbm _ _) (count _ _ _))) (plant _ _ _)

theorem hbmStore (d : Dev) (a : Nat) (bs : List Byte) (pz : Nat → Bool) : LogOnly d (d.hbmStore a bs pz).1 := by
  unfold Dev.hbmStore
  exact trans (trans (foldl _ (fun _ _ => storeWord _ _ _ _ _ _) _ _) (hbm _ _)) (foldl _ (fun _ _ => count _ _ _) _ _)

/-- A tile whose buckets are marked and whose near-cache lines are dropped. -/
theorem setTile (d : Dev) (t : Nat) (l : List Stream) (n : List NcLine) :
    LogOnly d (d.setTile t { d.tile t with streams := l, nc := n }) := by
  refine ⟨?_, ?_, ?_, ?_, fun j => ?_, ?_, ?_, ?_, ?_, ?_, ?_, ?_, ?_, ?_, ?_, ?_, ?_, ?_, ?_, ?_, ?_, ?_⟩
  case refine_5 =>
    by_cases h : j = t
    · subst h; exact ⟨l, n, stGet_stSet_same _ _ _ _⟩
    · exact ⟨(d.tile j).streams, (d.tile j).nc, stGet_stSet_ne _ _ _ h⟩
  all_goals first | rfl | exact fun _ _ => rfl

theorem tileMark (u : TileUnit) (self a n : Nat) : ∃ l k, (u.markStale self a n).1 = { u with streams := l, nc := k } := by
  unfold TileUnit.markStale
  dsimp only
  split <;> exact ⟨_, _, rfl⟩

theorem markStale (d : Dev) (a n : Nat) : LogOnly d (d.markStale a n) := by
  unfold Dev.markStale
  refine foldl _ (fun d e => ?_) _ _
  obtain ⟨l, k, h⟩ := tileMark (d.tile e.1) d.id a n
  dsimp only
  split
  · exact refl d
  · exact trans (trans (trans (h ▸ setTile d e.1 l k) (count _ _ _)) (count _ _ _)) (count _ _ _)

theorem hbmPut (d : Dev) (a : Nat) (bs : List Byte) (pz : Nat → Bool) : LogOnly d (d.hbmPut a bs pz).1 :=
  trans (hbmStore d a bs pz) (markStale _ _ _)

theorem ringInterrupt (d : Dev) (n : Nat) : LogOnly d (d.ringInterrupt n) := ite (emit _ _) (refl d)

theorem logReg_ring {n : Nat} (h : n < 16) (i : Nat) (hi : i < 0x20) : logReg (R.MGMT_RING_W0 n + i) = true := by
  have h1 : R.MGMT_RING_W0 0 ≤ R.MGMT_RING_W0 n + i := by simp only [R.MGMT_RING_W0]; omega
  have h2 : R.MGMT_RING_W0 n + i < R.MGMT_RING_W0 16 := by simp only [R.MGMT_RING_W0]; omega
  simp [logReg, h1, h2]

theorem logReg_w1 {n : Nat} (h : n < 16) : logReg (R.MGMT_RING_W1 n) = true := by
  have := logReg_ring h 8 (by decide)
  simp only [R.MGMT_RING_W0, R.MGMT_RING_W1] at *
  rwa [show 0xE000408 + n * 0x20 = 0xE000400 + n * 0x20 + 8 by omega]

theorem logReg_w2 {n : Nat} (h : n < 16) : logReg (R.MGMT_RING_W2 n) = true := by
  have := logReg_ring h 16 (by decide)
  simp only [R.MGMT_RING_W0, R.MGMT_RING_W2] at *
  rwa [show 0xE000410 + n * 0x20 = 0xE000400 + n * 0x20 + 16 by omega]

theorem ringPut (d : Dev) {n : Nat} (h : n < 16) (body : Nat → List Byte) : LogOnly d (d.ringPut n body) := by
  unfold Dev.ringPut
  dsimp only
  split
  · exact trans (bump _ _ _ (logReg_w2 h)) (set _ _ _ (by rfl))
  · split
    · exact trans (bump _ _ _ (logReg_w2 h)) (trans (set _ _ _ (logReg_w2 h)) (set _ _ _ (by rfl)))
    · split
      · exact trans (bump _ _ _ (logReg_w2 h)) (trans (set _ _ _ (by rfl)) (eccNote _ _ _ _ _))
      · refine trans ?_ (ringInterrupt _ _)
        refine trans ?_ (set _ _ _ (logReg_w1 h))
        exact trans (hbmPut _ _ _ _) (foldl _ (fun d x => eccNote _ _ _ _ _) _ _)

theorem ringOf_lt (d : Dev) (cls : Nat) : d.ringOf cls < 16 := by
  have : (2 : Nat) ^ (4 * cls + 3 + 1 - 4 * cls) = 16 := by rw [show 4 * cls + 3 + 1 - 4 * cls = 4 by omega]; rfl
  unfold Dev.ringOf bits
  rw [this]; exact Nat.mod_lt _ (by decide)

theorem event (d : Dev) (f : Fld) (a b c : Nat) : LogOnly d (d.event f a b c) := by
  unfold Dev.event
  exact trans (stamp d) (ringPut _ (ringOf_lt _ _) _)

theorem raise (d : Dev) (f : Fld) (a b c : Nat) : LogOnly (d.set f 1) (d.raise f a b c) := event _ _ _ _ _
theorem raise1 (d : Dev) (f : Fld) (a : Nat) : LogOnly (d.set f 1) (d.raise1 f a) := event _ _ _ _ _

theorem coalAdd (d : Dev) (n : Nat) (c : Coal) (cyc off ingress strm : Nat) : LogOnly d (d.coalAdd n c cyc off ingress strm) := by
  unfold Dev.coalAdd
  exact ite (coal _ _) (trans (coal _ _) (hbmPut _ _ _ _))

theorem errPut (d : Dev) {n : Nat} (h : n < 16) (cls source unit cyc off ingress strm : Nat) :
    LogOnly d (d.errPut n cls source unit cyc off ingress strm) := by
  unfold Dev.errPut
  exact ite (trans (ringPut _ h _) (coal _ _)) (ringPut _ h _)

theorem logError (d : Dev) (cls source unit off ingress strm : Nat) : LogOnly d (d.logError cls source unit off ingress strm) := by
  unfold Dev.logError
  refine trans (eccNote d cls source unit off) (trans (stamp _) ?_)
  dsimp only
  split
  · exact coalAdd _ _ _ _ _ _ _
  · exact errPut _ (ringOf_lt _ _) _ _ _ _ _ _ _

theorem contained (d : Dev) (source unit off : Nat) : LogOnly d (d.contained source unit off) := logError _ _ _ _ _ _ _

theorem msgBad (d : Dev) : LogOnly (d.set R.UPD_ERR_MSG_BAD 1) d.msgBad := by
  unfold Dev.msgBad
  refine trans ?_ (raise1 _ _ _)
  exact of_same _ _ _ _ _ _

theorem get {d d' : Dev} (h : LogOnly d d') (f : Fld) (hf : logReg f.reg = false) : d'.get f = d.get f := by
  simp only [Dev.get, h.reg _ hf]

end LogOnly

/-- An event raised for a field outside the log sets it to 1. -/
theorem Dev.raise1_get_same (d : Dev) (f : Fld) (a : Nat) (hf : f.ok = true) (hl : logReg f.reg = false) (h1 : f.hi = f.lo) :
    (d.raise1 f a).get f = 1 := by
  rw [(LogOnly.raise1 d f a).get f hl, Dev.get_set_same _ _ _ hf, h1]
  simp

/-- It leaves every other field outside the log. -/
theorem Dev.raise1_get_ne (d : Dev) (f g : Fld) (a : Nat) (h : f.apart g = true) (hf : f.ok = true) (hg : g.ok = true)
    (hl : logReg g.reg = false) : (d.raise1 f a).get g = d.get g := by
  rw [(LogOnly.raise1 d f a).get g hl, Dev.get_set_ne _ _ _ _ h hf hg]

end Sys2Proof.Machine
end

