-- ==== Sys2Proof/Laws/Memory.lean ====
section
/-!
SUPPORT. Every memory operation keeps the canonical form of HBM and of the cisterns.
-/

namespace Sys2Proof.Machine

/-- From canonical memories a change leads to canonical memories. -/
structure KeepsMem (d d' : Dev) : Prop where
  hbm : Memory.wf d.hbm.cells = true → Memory.wf d'.hbm.cells = true
  cist : Memory.wf d.cist.cells = true → Memory.wf d'.cist.cells = true

/-- The memories of a device after reset are canonical. -/
theorem Memory.wf_reset : Memory.wf Dev.reset.hbm.cells = true ∧ Memory.wf Dev.reset.cist.cells = true := by decide

namespace KeepsMem

theorem refl (d : Dev) : KeepsMem d d := ⟨id, id⟩

theorem trans {a b c : Dev} (h : KeepsMem a b) (k : KeepsMem b c) : KeepsMem a c := ⟨k.hbm ∘ h.hbm, k.cist ∘ h.cist⟩

/-- A change that leaves both memories alone. -/
theorem of_eq {d d' : Dev} (h : d'.hbm = d.hbm) (k : d'.cist = d.cist) : KeepsMem d d' := by constructor <;> simp [h, k]

theorem of_cells {d d' : Dev} (h : d'.hbm.cells = d.hbm.cells) (k : d'.cist.cells = d.cist.cells) : KeepsMem d d' := by
  constructor <;> simp [h, k]

theorem ite {d a b : Dev} {c : Prop} [Decidable c] (ha : KeepsMem d a) (hb : KeepsMem d b) : KeepsMem d (if c then a else b) := by
  split <;> assumption

theorem foldl {α : Type} (f : Dev → α → Dev) (h : ∀ d x, KeepsMem d (f d x)) (l : List α) (d : Dev) : KeepsMem d (l.foldl f d) := by
  induction l generalizing d with
  | nil => exact refl d
  | cons x r ih => exact (h d x).trans (ih (f d x))

theorem foldl2 {α β : Type} (f : Dev × β → α → Dev × β) (h : ∀ p x, KeepsMem p.1 (f p x).1) (l : List α) (p : Dev × β) :
    KeepsMem p.1 (l.foldl f p).1 := by
  induction l generalizing p with
  | nil => exact refl p.1
  | cons x r ih => exact (h p x).trans (ih (f p x))

theorem set (d : Dev) (f : Fld) (v : Nat) : KeepsMem d (d.set f v) := of_eq rfl rfl
theorem count (d : Dev) (f : Fld) (n : Nat) : KeepsMem d (d.count f n) := of_eq rfl rfl
theorem bump (d : Dev) (f : Fld) (n : Nat) : KeepsMem d (d.bump f n) := of_eq rfl rfl
theorem emit (d : Dev) (x : Out) : KeepsMem d (d.emit x) := of_eq rfl rfl
theorem setTile (d : Dev) (t : Nat) (u : TileUnit) : KeepsMem d (d.setTile t u) := of_eq rfl rfl

/-- A change of HBM's cells that keeps their form. -/
theorem hbmWith (d : Dev) (h : HbmUnit) (hk : Memory.wf d.hbm.cells = true → Memory.wf h.cells = true) : KeepsMem d { d with hbm := h } :=
  ⟨hk, id⟩

/-- A change of the cisterns' cells that keeps their form. -/
theorem cistWith (d : Dev) (c : CistUnit) (hk : Memory.wf d.cist.cells = true → Memory.wf c.cells = true) : KeepsMem d { d with cist := c } :=
  ⟨id, hk⟩

theorem poisonWord (h : HbmUnit) (k c : Nat) (hw : Memory.wf h.cells = true) : Memory.wf (h.poisonWord k c).cells = true := by
  unfold HbmUnit.poisonWord
  dsimp only
  generalize List.map _ _ = bs
  exact stPut_wf _ bs _ _ hw

theorem hbmStoreWord (h : HbmUnit) (k st n : Nat) (pz : Nat → Bool) (c : Nat) (hw : Memory.wf h.cells = true) :
    Memory.wf (h.storeWord k st n pz c).cells = true := by
  have hp := poisonWord h k c hw
  unfold HbmUnit.storeWord
  dsimp only
  generalize h.poisonWord k c = q at hp ⊢
  split <;> assumption

theorem plant (d : Dev) (k c : Nat) : KeepsMem d (d.plant k c) := by
  unfold Dev.plant
  exact ite (trans (set _ _ _) (hbmWith _ _ id)) (refl d)

theorem storeWord (d : Dev) (k st n : Nat) (pz : Nat → Bool) (c : Nat) : KeepsMem d (d.storeWord k st n pz c) := by
  unfold Dev.storeWord
  have h : KeepsMem d { d with hbm := d.hbm.storeWord k st n pz c } := hbmWith _ _ (hbmStoreWord _ _ _ _ _ _)
  exact trans (ite h (trans h (count _ _ _))) (plant _ _ _)

theorem hbmStore (d : Dev) (a : Nat) (bs : List Byte) (pz : Nat → Bool) : KeepsMem d (d.hbmStore a bs pz).1 := by
  unfold Dev.hbmStore
  exact trans (trans (foldl _ (fun _ _ => storeWord _ _ _ _ _ _) _ _) (hbmWith _ _ (stPut_wf _ _ _ _))) (foldl _ (fun _ _ => count _ _ _) _ _)

theorem markStale (d : Dev) (a n : Nat) : KeepsMem d (d.markStale a n) := by
  unfold Dev.markStale
  refine foldl _ (fun d e => ?_) _ _
  dsimp only
  split
  · exact refl d
  · exact of_eq rfl rfl

theorem hbmPut (d : Dev) (a : Nat) (bs : List Byte) (pz : Nat → Bool) : KeepsMem d (d.hbmPut a bs pz).1 :=
  trans (hbmStore d a bs pz) (markStale _ _ _)

theorem eccNote (d : Dev) (cls source unit off : Nat) : KeepsMem d (d.eccNote cls source unit off) := by
  unfold Dev.eccNote
  dsimp only
  split <;> split <;> exact of_eq rfl rfl

theorem ringPut (d : Dev) (n : Nat) (body : Nat → List Byte) : KeepsMem d (d.ringPut n body) := by
  unfold Dev.ringPut
  dsimp only
  split
  · exact of_eq rfl rfl
  · split
    · exact of_eq rfl rfl
    · split
      · exact trans (bump _ _ _) (trans (set _ _ _) (eccNote _ _ _ _ _))
      · refine trans ?_ (ite (emit _ _) (refl _))
        refine trans ?_ (set _ _ _)
        exact trans (hbmPut _ _ _ _) (foldl _ (fun d x => eccNote _ _ _ _ _) _ _)

theorem event (d : Dev) (f : Fld) (a b c : Nat) : KeepsMem d (d.event f a b c) := by
  unfold Dev.event
  exact trans (b := d.stamp.2) (of_eq rfl rfl) (ringPut _ _ _)

theorem raise1 (d : Dev) (f : Fld) (a : Nat) : KeepsMem d (d.raise1 f a) := trans (set _ _ _) (event _ _ _ _ _)

theorem coalAdd (d : Dev) (n : Nat) (c : Coal) (cyc off ingress strm : Nat) : KeepsMem d (d.coalAdd n c cyc off ingress strm) := by
  unfold Dev.coalAdd
  dsimp only
  split
  · exact of_eq rfl rfl
  · exact trans (b := { d with coal := d.coal.map fun x => if x = c then { c with count := c.count + 1 } else x }) (of_eq rfl rfl)
      (hbmPut _ _ _ _)

theorem errPut (d : Dev) (n cls source unit cyc off ingress strm : Nat) : KeepsMem d (d.errPut n cls source unit cyc off ingress strm) := by
  unfold Dev.errPut
  dsimp only
  generalize hr : d.ringPut n _ = e
  have h : KeepsMem d e := hr ▸ ringPut _ _ _
  exact ite (trans h (of_eq rfl rfl)) h

theorem logError (d : Dev) (cls source unit off ingress strm : Nat) : KeepsMem d (d.logError cls source unit off ingress strm) := by
  unfold Dev.logError
  refine trans (eccNote d cls source unit off) (trans (b := (d.eccNote cls source unit off).stamp.2) (of_eq rfl rfl) ?_)
  dsimp only
  split
  · exact coalAdd _ _ _ _ _ _ _
  · exact errPut _ _ _ _ _ _ _ _ _

theorem contained (d : Dev) (source unit off : Nat) : KeepsMem d (d.contained source unit off) := logError _ _ _ _ _ _ _

theorem logFound (d : Dev) (source : Nat) (fs : List Found) : KeepsMem d (d.logFound source fs) := by
  unfold Dev.logFound
  refine foldl _ (fun d f => ?_) _ _
  dsimp only
  split
  · exact trans (count _ _ _) (logError _ _ _ _ _ _ _)
  · exact logError _ _ _ _ _ _ _

/-- A write of HBM. -/
theorem hbmWrite (d : Dev) (a : Nat) (bs : List Byte) (pz : Nat → Bool) : KeepsMem d (d.hbmWrite a bs pz) := by
  unfold Dev.hbmWrite
  split
  · exact refl d
  · exact trans (hbmPut _ _ _ _) (logFound _ _ _)

/-- A write of HBM by another device. -/
theorem hbmPeer (d : Dev) (a : Nat) (bs : List Byte) (pz : Nat → Bool) : KeepsMem d (d.hbmPeer a bs pz) := by
  unfold Dev.hbmPeer
  split
  · exact refl d
  · exact trans (hbmStore _ _ _ _) (logFound _ _ _)

theorem readWord (d : Dev) (k loc c : Nat) : KeepsMem d (d.readWord k loc c).1 := by
  unfold Dev.readWord
  dsimp only
  split
  · exact refl d
  · split
    · exact refl d
    · refine trans (count d _ _) (hbmWith _ _ ?_)
      exact poisonWord _ _ _

/-- A read of HBM. -/
theorem hbmRead (d : Dev) (a n : Nat) : KeepsMem d (d.hbmRead a n).1 := by
  unfold Dev.hbmRead
  dsimp only
  refine trans ?_ (foldl _ (fun _ _ => count _ _ _) _ _)
  have h := fun st k => foldl2 (fun (x : Dev × List Found) c =>
      ((x.1.readWord k (a / 128 * 128 + 128 * (c - st / 128)) c).1, x.2 ++ (x.1.readWord k (a / 128 * 128 + 128 * (c - st / 128)) c).2))
    (fun p x => readWord _ _ _ _) (codewords st n) (d, [])
  refine ite (trans (trans (h _ _) (logFound _ _ _)) (count _ _ _)) (trans (h _ _) (logFound _ _ _))

theorem cistLost (d : Dev) (line : Nat) : KeepsMem d (d.cistLost line) := by
  unfold Dev.cistLost
  refine trans ?_ (logError _ _ _ _ _ _ _)
  exact of_cells rfl rfl

theorem cistRebuild (d : Dev) (line : Nat) : KeepsMem d (d.cistRebuild line) := by
  unfold Dev.cistRebuild
  dsimp only
  split
  · exact cistLost d line
  · refine trans ?_ (logError _ _ _ _ _ _ _)
    refine trans ?_ (bump _ _ _)
    exact of_cells rfl rfl

/-- A read of a cistern. -/
theorem cistRead (d : Dev) (t o n : Nat) : KeepsMem d (d.cistRead t o n).1 :=
  foldl _ (fun d l => ite (refl d) (cistRebuild d l)) _ _

theorem cist_cells_foldl (f : CistUnit → Nat → CistUnit) (h : ∀ c l, (f c l).cells = c.cells) (ls : List Nat) (c : CistUnit) :
    (ls.foldl f c).cells = c.cells := by
  induction ls generalizing c with
  | nil => rfl
  | cons x r ih => rw [List.foldl_cons, ih, h]

/-- A write of a cistern. -/
theorem cistStore (d : Dev) (t o : Nat) (bs : List Byte) (pz : Nat → Bool) : KeepsMem d (d.cistStore t o bs pz) := by
  have h : (d.cistStore t o bs pz).hbm = d.hbm ∧
      (d.cistStore t o bs pz).cist.cells = stPut (fun _ => 0) d.cist.cells (cistKey t o) bs := by
    unfold Dev.cistStore
    dsimp only
    split <;>
    · refine ⟨rfl, ?_⟩
      show stPut _ (List.foldl _ d.cist _).cells _ _ = _
      rw [cist_cells_foldl]
      intros; rfl
  exact ⟨fun k => h.1 ▸ k, fun k => h.2 ▸ stPut_wf _ bs _ _ k⟩

/-- A cistern cleared. -/
theorem cistZero (d : Dev) (t : Nat) : KeepsMem d (d.cistZero t) := cistWith _ _ (stClear_wf _ _ _ _)

theorem mailboxWrite (d : Dev) (sender a : Nat) (bs : List Byte) : KeepsMem d (d.mailboxWrite sender a bs) := by
  have hb : ∀ e : Dev, KeepsMem e e.msgBad := fun e => trans (count _ _ _) (raise1 _ _ _)
  unfold Dev.mailboxWrite
  dsimp only
  split
  · exact refl d
  · exact ite (hb d) (ite (trans (count _ _ _) (hb _)) (of_eq rfl rfl))

/-- A write of local memory. -/
theorem memWrite (d : Dev) (ingress off : Nat) (bs : List Byte) (pz : Nat → Bool) : KeepsMem d (d.memWrite ingress off bs pz).1 := by
  unfold Dev.memWrite
  split
  · split
    · exact mailboxWrite _ _ _ _
    · split
      · exact ite (hbmPeer _ _ _ _) (hbmWrite _ _ _ _)
      · refine trans ?_ (contained _ _ _ _)
        split
        · exact raise1 _ _ _
        · exact raise1 _ _ _
        · exact refl d
  · exact ite (cistStore _ _ _ _ _) (trans (cistStore _ _ _ _ _) (markStale _ _ _))
  · exact contained _ _ _ _
  · exact contained _ _ _ _

/-- A read of local memory. -/
theorem memRead (d : Dev) (ingress off n : Nat) : KeepsMem d (d.memRead ingress off n).1 := by
  unfold Dev.memRead
  split
  · exact hbmRead _ _ _
  · exact cistRead _ _ _ _
  · exact contained _ _ _ _
  · exact contained _ _ _ _

end KeepsMem

end Sys2Proof.Machine
end

