-- ==== Sys2Proof/WellFormed.lean ====
section
/-!
DEFINITION. Which commands can reach the device: operands that name a unit name one the device has (Tables 1.1, 1.3,
2.2, 7.3), a stored word has 64 bits, and an arriving flit's fields have the widths of Table 7.2. The step does not
check this: a command that names no unit finds nothing to act on (log entry 45).
-/

namespace Sys2Proof

/-- An operand below a bound. -/
def below (x n : Nat) : Bool := decide (x < n)

/-- A 64-bit word. -/
def word (v : Nat) : Bool := below v (2 ^ 64)

/-- Control cores 0–15 in one of their three modes, device IDs of 12 bits, ports A0–A35, four virtual lanes, two Ethernet
ports, and the compute dies (R17, R43, R329). -/
def Who.wf : Who → Bool
  | .core n m => below n 16 && (m == 0 || m == 1 || m == 3)
  | .mgmt | .well => true
  | .remote dev port vl => below dev 4096 && below port 36 && below vl 4
  | .eth p => below p 2
  | .die d => below d 8

/-- Table 7.2: the fields have their widths, and the payload at most 240 bytes. -/
def Flit.wf (f : Flit) : Bool :=
  below f.ftype 16 && below f.ackSeq 4096 && below f.seq 4096 && below f.dest 4096 && below f.src 4096 &&
  below f.crPool 32 && below f.crCnt 64 && below f.hops 4 && below f.len 256 && below f.vl 4 && below f.crc (2 ^ 32) &&
  below f.payload.length 241

/-- The operands of a command name what the device has. -/
def Instr.wf : Instr → Bool
  | .beatEnable w v | .beatDisable w v | .beatPeriodWrite w v | .pageSwapArm w v | .pageSwapWithdraw w v
  | .imgLoadGo w v | .imgLoadRestage w v | .imgSwapArm w v | .imgSwapWithdraw w v | .imgUnload w v | .imgSlotFree w v
  | .imgPageCopy w v | .imgRetile w v | .agxRouteSwap w v | .agxFenceArm w v | .kvpFlush w v | .kvpWalkInv w v
  | .kvpFrameRd w v | .pfxClear w v | .expDirUpdArm w v | .wgqDrain w v | .vote w v | .revote w v | .abortNow w v
  | .flipBack w v | .setBank w v | .scrubGo w v | .eccSelftest w v | .hbmCorr w v | .hbmUncorr w v | .cistRow w v
  | .cistGroup w v | .dusk w v | .wake w v | .pwrRprGo w v | .c2mFull w v | .m2cFull w v | .svnAdvance w v
  | .cfgApply w v => w.wf && word v
  | .beatMark t tod | .markFlit _ t tod => word t && word tod
  | .markMissing tod | .beatBoundary tod => word tod
  | .holdoverMaxReached | .opComplete _ | .beatSeal _ | .sealWaitRelease _ | .imgLoadDone | .activationStart
  | .strengthReformat | .swapReconfig | .pageCopyDone | .linkId _ | .spareReq _ | .spareAck _ | .rttProbe _
  | .loopReq _ | .loopExit _ | .readReq _ | .writeReq _ | .writePosted _ | .fp32Add _ | .int64Add _ | .fp32Max _
  | .cas64 _ | .reducePut _ | .multicastWrite _ | .completion _ | .readData _ | .mcAck _ | .mcPrune _ | .mcPruned _
  | .mcPulled _ | .mcEnd _ | .fenceNote _ | .alloc _ | .sharePage _ | .cow _ | .freeFrame _ | .pin _ | .unpin _
  | .sealPage _ | .appendKv _ | .pfxMatch _ | .pfxInsert _ | .pfxEvict _ | .sealingDone _ | .cowCopyDone _
  | .freeListRebuildDone | .seqAdmit _ | .park _ | .activate _ | .seqRelease _ | .fork _ | .contextRestore _
  | .widenFetchDone _ | .wgqSliceStart _ _ | .wgqComplete _ | .voteSend | .staged | .midnight | .abortMsg | .flipped
  | .release | .decideTimeout | .voteDeadline | .hbmReread _ _ | .scrubCodeword | .scrubPassDone
  | .eccSelftestDone _ _ | .dawn _ _ _ | .warmReset | .morning _ | .coldReset | .pwrOkDeassert | .undervoltage
  | .vinAuxLoss | .beatRefLoss | .duskDrainDone | .nightEnter | .wakeDone | .powerSample _ | .clockStepDown
  | .floorHold | .repairRecordWrite _ | .entdaa _ | .mctpControl _ | .pldmSensor _ | .firmwareXfer _ _
  | .configXfer _ _ | .repairXfer _ _ | .verifyComplete | .applyComplete | .getCert _ | .getReport _ | .getChunk _
  | .reportSigned _ | .reportHandleFree _ | .rocePacket _ _ _ _ | .send _ | .sendImm _ | .rdmaWrite _ | .writeImm _
  | .rdmaRead _ | .wrComplete _ | .cnp _ | .ccInterval | .baseRttReset | .bypass _ | .idcode | .samplePreload _
  | .extest _ | .extestPulse _ | .extestTrain _ | .scanDebug _ | .coreDebug _ | .regionInitDone | .appendDone _
  | .vinAux3v3Rise | .pldmType0 _ | .onDieEccStatusRead _ => true
  | .beatEntryWrite w e k v => w.wf && below e 8192 && below k 4 && word v
  | .beatPageBaseWrite w n v => w.wf && below n 8 && word v
  | .entryStart e _ _ _ _ | .fillerStart e _ _ => below e 8192
  | .sealSend p | .sealStageSend p | .portDrainDone p | .downRetry p | .identifyTimeout p | .retrainDone ⟨p, _⟩
  | .lockLost p | .replayTimeout p | .packetSend p _ | .portSilent p | .acknowledgementInterval p => below p 36
  | .vl0SlotStart n => below n 64
  | .stepIssue t _ _ _ _ _ | .matmul t | .matmulGrouped t | .matmulWgrad t | .attnFwd t | .attnBwd t | .attnDecode t
  | .attnMerge t | .vecProgram t | .reduceLocal t | .convertOp t | .copyGather t | .routeTopk t | .dispatchSend t
  | .dispatchPlan t | .dispatchPrefetch t | .combineReturn t | .combineGather t | .updateOp t | .kat t _ | .endProg t
  | .ldp t | .ldg t | .lds t | .ldw t | .rstep t | .stp t | .sts t | .stw t | .addV t | .subV t | .mulV t | .fma t
  | .maxV t | .minV t | .absV t | .adds t | .muls t | .fmas t | .bcast t | .exp2 t | .log2 t | .rsqrt t | .rcp t
  | .rsumsq t | .rsum t | .rmaxabs t | .sadd t | .ssub t | .smul t | .smax t | .smin t | .srsqrt t | .srcp t
  | .sexp2 t | .slog2 t | .simm t | .sched t | .passPhase t | .mgram t | .mmul t | .loopProg t | .watchGrant t
  | .pieceIssue t | .pieceArrive t _ | .nearCacheInvDone t | .reducePutAdd t | .pageTranslate t _ _
  | .columnSweep t _ _ _ | .rowRebuildDone t _ | .tilePowerReady t _ | .tileClockGate t => below t 384
  | .tileFaultClear w t v | .tileInjectPoisonOut w t v | .tileInjectShadowParity w t v | .attnInjectMispredict w t v
  | .attnInjectForceRecover w t v | .pumpInjectAddrErr w t v | .pumpInjectStale w t v | .nearCacheInv w t v =>
    w.wf && below t 384 && word v
  | .streamPrime t e => below t 384 && below e 8192
  | .cisternWindowAccess w l _ n _ _ => w.wf && below l 320 && below n 8193
  | .agxPortEnable w p v | .agxPortDisable w p v | .agxLoop w p v | .agxPortCtlWrite w p v | .agxPortInjectCrc w p v
  | .laneFailNow w p v => w.wf && below p 36 && word v
  | .trainDone p l => below p 36 && below l.bad 512 && below l.skew.length 10
  | .trainTimeout p bad => below p 36 && below bad 512
  | .laneFail p lane _ _ => below p 36 && below lane 9
  | .flitReceive p f => below p 36 && f.wf
  | .rttProbeTimer p t => below p 36 && word t
  | .rttEcho _ t => word t
  | .routeFenceTimeout d => below d 4096
  | .npTimeout tag | .tagQuarantineEnd tag => below tag 16384
  | .branchPrune n p => below n 256 && below p.n 36
  | .mcPullDone n => below n 256
  | .pullDone w n v | .pullDrop w n v => w.wf && below n 256 && word v
  | .mcTreeWrite w n k v => w.wf && below n 256 && below k 4 && word v
  | .kvpCmdqAdmit q => below q 8
  | .ageCap pc | .hbmRefresh pc => below pc 1536
  | .hbmPpr w n v => w.wf && below n 24 && word v
  | .hbmPprDone n _ | .ieee1500Access n _ => below n 24
  | .dawnReady _ _ trained | .morningReady _ _ trained => below trained 0x1000000
  | .drainComplete u | .offTimeMet u => below u 422
  | .thermalStep _ die | .therm95 _ die | .thermalTrip _ die => below die 10
  | .coreReset w n v => w.wf && below n 16 && word v
  | .ringAgeInterrupt n => below n 16
  | .ethPortEnable w p v | .ethLoop w p v | .ptpStep w p v => w.wf && below p 2 && word v
  | .ethLinkUp p | .ethLinkDown p | .ethFrame p _ _ => below p 2
  | .xferRelease n => below n 32
  | .roceRetransmitTimeout q => below q 256
  | .registerWrite w o n _ => w.wf && below o 0x10000000000 && below n 4097
  | .stackFailure st => below st 24

end Sys2Proof
end

