-- ==== Sys2Proof/Tests/Slice0.lean ====
section
/-!
SUPPORT. Tests: words of the wrong form, one step of a few commands against values of the spec, and, for every statement with
hypotheses, that they can be met. A theorem test_<statement>_met applies its statement to concrete states and operands; `by decide`
meets each hypothesis there, and what the statement then says of the command is the conclusion.
-/

namespace Sys2Proof.Tests
open Sys2Proof Sys2Proof.Machine

set_option maxRecDepth 20000
set_option Elab.async false

/-- The state after reset with a change of the device. -/
def st (f : Dev → Dev) : State := { State.reset with dev := f Dev.reset }

/-- A command answers a next state that differs in the device alone. -/
abbrev Runs (c : Instr) (s : State) : Prop := ∃ d, Does c s d


/-- An image is active. -/
def active (d : Dev) : Dev := d.set R.IMG_STATUS_IMAGE_STATE 1
/-- A number of n bytes at HBM offset a, above every byte written before. -/
def put (a n v : Nat) (d : Dev) : Dev :=
  { d with hbm := { d.hbm with cells := d.hbm.cells ++ ((List.range n).map fun i => (a + i, BitVec.ofNat 8 (v / 256 ^ i))).filter fun c => c.2 ≠ 0 } }

/-- An active image in slot A at offset 0, with its sections of 2 KiB 4 KiB apart: their types, and numbers at places in them. -/
def image (secs : List (Nat × List (Nat × Nat × Nat))) (d : Dev) : Dev :=
  let at_ (i : Nat) : Nat := 0x1000 * (i + 1)
  let d := put 0x0A 2 secs.length (((d.set R.IMG_STATUS_IMAGE_STATE 1).set R.IMG_STATUS_SLOT_A_STATE 3).set R.ECC_TOP_TOP (2 ^ 36))
  let d := (List.range secs.length).foldl (fun d i => put (0x100 + 16 * i) 12 ((secs.getD i (0, [])).1 + at_ i * 2 ^ 32 + 2048 * 2 ^ 64) d) d
  (List.range secs.length).foldl (fun d i => (secs.getD i (0, [])).2.foldl (fun d x => put (at_ i + x.1) x.2.1 x.2.2 d) d) d

/-- An image of one copy operation (2 KiB from 0x100000 to 0x200000) on a group of logical tile 0, which stands on site 5 as a
VECTOR tile; a channel of tokens; the beat runs. -/
def work (d : Dev) : Dev :=
  let d := image [(4, [(0, 4, 1), (4, 64, 1)]), (5, [(0, 4, 1), (4, 16, 3 * 2 ^ 60)]),
    (6, [(0, 8, 2), (8, 32, 0x100000 + 4 * 2 ^ 76 + 2 ^ 102 + 2048 * 2 ^ 128), (40, 32, 0x200000 + 2 ^ 61 + 4 * 2 ^ 76 + 2048 * 2 ^ 128)]),
    (7, [(0, 8, 1), (8, 64, 0x41 + 2 ^ 12 + 2 ^ 14 + 2 ^ 72 + 2 ^ 128)])] d
  { (d.set (R.TILE_STATUS_PWR 5) 1).set R.BEAT_STATUS_LOCK_STATE 2 with img := { d.img with places := [⟨0, 5, 3, 0xFF, 0⟩] } }

/-- An image of the group alone, placed and powered the same. -/
def group (d : Dev) : Dev :=
  let d := image [(4, [(0, 4, 1), (4, 64, 1)])] d
  { (d.set (R.TILE_STATUS_PWR 5) 1).set R.BEAT_STATUS_LOCK_STATE 2 with img := { d.img with places := [⟨0, 5, 1, 0xFF, 0⟩] } }

/-- Entry 0 of an active page is due; `f` is its lane bit and others. -/
def due (f : Nat) (d : Dev) : Dev := (d.setWord (R.BEAT_ENTRY 0 0) (BitVec.ofNat 64 (2 ^ 63 + f))).set (R.BEAT_PAGE_STATE 0) 2

/-- An image of the program of words `ws`, and a parameter group of constants 0. -/
def prog (ws : List Nat) (d : Dev) : Dev :=
  image [(11, [(0, 4, 1), (4, 4, 1)] ++ ((List.range ws.length).map fun i => (12 + 8 * i, 8, ws.getD i 0)) ++ [(12 + 512, 16, 2 ^ 128 - 1)])] d

/-- An operation of descriptor w on tile 5, with n of its steps issued; and the device that runs it there. -/
def one (w n : Nat) : Exec :=
  { op := 0, desc := w, rank := 0, steps := 0, planned := false, step := n, worked := 0, done := false, acks := 0, poisoned := [], halted := false,
    mask := none }
def oper (w : Nat) (q : Option Nat) : Op :=
  { id := 0, entry := if q = none then some 0 else none, opIndex := 0, desc := w, tiles := [5], filler := false, due := 0, started := 0, deadline := none
    sig0 := 0x1000, sig1 := 0, report := false, dlEvent := false, slotPlan := 0, phaseMap := 0, scale := 0, obs := false, wgq := q, urgent := false
    gate := 0, binds := [] }
def runs (w n : Nat) (f : TileUnit → TileUnit) (d : Dev) : Dev :=
  { d.setTile 5 (f { TileUnit.idle with exec := some (one w n) }) with ops := [oper w none], nextOp := 1 }

/-- A stream that has fetched nothing, and one that has the bytes `bs` in its first bucket. -/
def strm (r : Role) (w : Nat) : Stream :=
  { ctx := 0, strm := 0, role := r, desc := w, op := 0, primed := false, waitWatch := false, watch := none, buckets := [], trans := [], withdrawn := []
    plan := none, fault := false, hold := none, skip := [], looks := [] }
def has (r : Role) (w : Nat) (bs : List Byte) : Stream :=
  { strm r w with buckets := [{ idx := 0, all := [], ready := [], sent := 0, stale := false, refetch := false, live := true, pcs := []
                                bytes := bs ++ List.replicate (2048 - bs.length) 0, poison := 0, src := [], kept := false }] }
def streams (l : List Stream) (u : TileUnit) : TileUnit := { u with streams := l }

/-- 2 KiB from 0x100000, and 6 KiB with a ring of one bucket. -/
def mov (u : TileUnit) : TileUnit := streams [strm .mov (0x100000 + 4 * 2 ^ 76 + 2048 * 2 ^ 128)] u
def long (u : TileUnit) : TileUnit := streams [strm .mov (0x100000 + 2 ^ 76 + 6144 * 2 ^ 128)] u

/-- A tensor of one row of 512 FP32 elements at 0 of a live window of 1 MiB at 256 MiB, with two states and no copy; its gradient lies at
3 MiB. And an EMBED one with a list of one row. -/
def tensor : Nat := 0x1000 * 2 ^ 64 + 0x2000 * 2 ^ 128 + trNone * 2 ^ 192 + 0x300000 * 2 ^ 256 + 2 ^ 320 + 512 * 2 ^ 352
def embed : Nat := tensor + 2 ^ 408 + 2 ^ 416 + 0x3000 * 2 ^ 448
def updOp : Nat := 0x30 + 2 ^ 12 + 0x40 * 2 ^ 139 + 2 ^ 168 + 2 ^ 192
def params (d : Dev) : Dev :=
  { d with img := { d.img with regions := [⟨0x10000000, 0x100000, 0, 0, 0, 1, 0, false, false⟩, ⟨0x20000000, 0x100000, 0, 0, 0, 2, 0, false, false⟩] } }
def update (r : Nat) (ws : List Nat) (d : Dev) : Dev :=
  runs updOp 0 (streams [has .mov (0x100000 + 4 * 2 ^ 76 + 2048 * 2 ^ 128) (leBytes 64 r)]) (params (prog ws d))

/-- The lock machine in state n, with its last mark at tick 100000. -/
def lock (n : Nat) (d : Dev) : Dev := { d.set R.BEAT_STATUS_LOCK_STATE n with beat := { d.beat with prev := some 100000 } }

/-- An arrival is all that waits. -/
def got (p : Nat) (x : Item) (d : Dev) : Dev := { d with agx := { d.agx with inbox := [⟨p, x, [], 0⟩] } }

/-- A VEC_PROGRAM of 512 elements. -/
def gather : Nat := 0x23 + 2 ^ 136
def vecOp : Nat := 0x20 + 512 * 2 ^ 144 + 2 ^ 176

/-- A program runs: its registers, with ones in every lane. -/
def vc : VecCtx :=
  { running := true, v := List.replicate 16 (List.replicate 512 0x3F800000), vp := List.replicate 16 0, s := List.replicate 16 0x40000000
    sp := List.replicate 16 false, pc := 0, phase := 0, pos := 0, loops := 0, record := 0, used := 0, red := [], firstP := none, firstG := none }
def program (c : VecCtx) (x : Exec) (d : Dev) : Dev := d.setTile 5 { d.tile 5 with exec := some x, vec := c }

/-- The first word of opcode o, to register 3 from 1 and 2, runs on tile 5: in a VEC_PROGRAM, and in an UPDATE. -/
def code (o : Nat) : Nat := o * 2 ^ 56 + 0x312 * 2 ^ 44
def word (o : Nat) : State := st fun d => program vc (one vecOp 1) (runs vecOp 1 id (prog [code o] d))
def uword (r o : Nat) : State := st fun d => program vc (one updOp 1) (update r [code o] d)
def vwork : Work := ⟨0, 0, ⟨0, 512, 0, 0, false⟩, 2 ^ 512 - 1⟩
def uwork (r : Nat) : Work := { vwork with r := r }
def ework : Work := { uwork embed with pos := ⟨0, 512, 0, 2048, false⟩ }

/-- A key block stands first in the attention engine. -/
def block (u : TileUnit) : TileUnit := { u with attn := { AttnCtx.idle with todo := [⟨0, [], [], true, true⟩] } }

/-- A KV world: four 32-KiB frames at 256 MiB with the entries `es`, their table at 512 MiB, and context 0 (handle 0) of one layer and
head with two pages, whose level-2 entries are `l2`. -/
def ctx0 : SeqRec := ⟨1, 0, 0, 128, 1, 1, 0x30000000, 0, 0⟩
def kvWorld (es : List (Nat × Nat)) (l2 : Nat) (d : Dev) : Dev :=
  let d := put 0x30001000 8 l2 (put 0x30000000 16 (0x30001000 + 2 ^ 45 + 2 * 2 ^ 64) (active d))
  { (d.setForce (R.SEQ_BIND 0) (BitVec.ofNat 64 (2 ^ 63))) with
    img := { d.img with regions := [⟨0x10000000, 0x20000, 0, 0, 0, 5, 0, false, false⟩, ⟨0x20000000, 0x1000, 0, 0, 0, 6, 0, false, false⟩] }
    kv := { d.kv with cache := es, ctxs := [(0, some ctx0)], lastBank := 63 } }
/-- A frame entry of state, pins and references. -/
def fe (fill state pin ref : Nat) : Nat := feMake 0xFFFFFFFF 0 0 fill state pin ref

/-- An operation of descriptor w on tile 5 with one of its n steps issued; and all of them. -/
def at5 (x : Exec) (d : Dev) : Dev := d.setTile 5 { d.tile 5 with exec := some x }
def works (w : Nat) : State := st fun d => runs w 1 id d
def last (w : Nat) : Exec := { one w 1 with planned := true, steps := 1 }
def whole (w : Nat) : State := st fun d => at5 (last w) (runs w 1 id d)

/-- A COPY_GATHER of one bucket; a REDUCE_LOCAL of three sources of 512. -/
def copyOp : Nat := 0x41 + 2 ^ 12 + 2 ^ 128
def reduceOp : Nat := 0x31 + 2 ^ 12 + 3 * 2 ^ 128 + 512 * 2 ^ 144

/-- TEST_ENABLE is 1. -/
def test (d : Dev) : Dev := d.set R.SEC_STATUS_TEST_ENABLE 1

/-- Port 35 in a state of the link machine. -/
def linkAt (n : Nat) (d : Dev) : Dev := d.set (R.AGX_PORT_STATUS_STATE 35) n
def link (n : Nat) : State := st (linkAt n)

/-- A posted write of no bytes to device 40. -/
def pkt (vl : Nat) : Pkt :=
  { src := 0, dest := 40, vl := vl, rsp := false, mcast := false, ind := false, hops := 0, opc := 2, tag := 0, addr := 0, len := 0, atop := 0, fetch := false
    mcInfo := 0, beatTag := 0, sector := 0, status := 0, data := [], poison := [false], unit := 63 }

/-- The beat runs, in beat 9; port p is UP with device 7 on its link. -/
def up (p : Nat) (d : Dev) : Dev :=
  ((((d.set R.BEAT_STATUS_LOCK_STATE 2).set R.BEAT_NUM_NUM 9).set (R.AGX_PORT_STATUS_STATE p) 3).set (R.AGX_PORT_STATUS_PWR p) 1).set
    (R.AGX_PORT_STATUS_PEER_ID p) 7

/-- A page-manager command waits alone in the KV world: its word from opcode, context, argument and position; frame 0 is free. -/
def kvw (o ctx arg pos : Nat) : Nat := o + ctx * 2 ^ 8 + arg * 2 ^ 96 + pos * 2 ^ 64
def kv (es : List (Nat × Nat)) (l2 w : Nat) (f : Dev → Dev) : State := st fun d =>
  let d := kvWorld es l2 (d.set R.PFX_CTL_ENABLE 1)
  f { d with kv := { d.kv with free := [(0, [0])], arrivals := [⟨0, w, 0, 0⟩] } }
/-- A page without a frame, and one with frame 2. -/
def bare : Nat := 2 ^ 64 - 1
def held : Nat := 2 ^ 64 - 2 ^ 32 + 2
/-- An APPEND of n positions at a position to head 0. -/
def append (n pos : Nat) : Nat := kvw 0x10 0 n pos + 0x2000 * 2 ^ 128

/-- The device is on, in state n of Table 15.1. -/
def live (n : Nat) (f : Dev → Dev) : State := st fun d => f (let d := d.set R.PWR_STATE_DEV_STATE n; { d with pins := { d.pins with aux := true, on := true } })

/-- The firmware that runs has SVN n. -/
def running (n k : Nat) : State := live n fun d => d.set R.SEC_STATUS_FW_SVN k

/-- R26 (spec/02_beat.md): the period is 31,250 ticks at reset. -/
theorem test_reset_period : State.reset.dev.get R.BEAT_PERIOD_PERIOD_TICKS = 31250 := (by decide +kernel)
/-- The pump registers of tile P5.37 (spec/00_scope.md, worked example). -/
theorem test_pump_offset : R.PUMP_STATUS (5 * 48 + 37) = 0x21540000 := (by decide +kernel)
/-- Where 0x1_2345_6800 lies (spec/14_hbm_protection.md, worked example): stack 6, pseudo-channel 13, slot 1,553 and raw unit 1,603. -/
theorem test_storage : storageOf (List.range 24) 380928 [] 0x123456800 = (6, 13, 1553) := (by decide +kernel)
/-- A block of MXFP8_E4M3 (spec/05_number_formats.md, worked example): 14.3, 13.7 and 0.01 give the scale 0x7A and 448, 448 and 0.3125. -/
theorem test_mx_block : mxForm 4 (fun _ => .rne) [f32Dec 0x4164CCCD, f32Dec 0x415B3333, f32Dec 0x3C23D70A] = (0x7A, [0x7E, 0x7E, 0x2A]) := (by decide +kernel)
/-- A cistern word of logical tile L203 (spec/01_architecture.md, worked example). -/
theorem test_window : (let d : Dev := { Dev.reset with img := { Dev.reset.img with places := [⟨203, 149, 1, 0xFF, 0⟩] } }
    d.locate 0x180065824000 8) = .cist 149 0x24000 := (by decide +kernel)
/-- R26: a period out of range is ignored, and sets PERIOD_RANGE. -/
theorem test_period_range : (∃ d, Does (.beatPeriodWrite .mgmt 4999) (st id) d ∧ d.get R.BEAT_ERR_PERIOD_RANGE = 1 ∧ d.get R.BEAT_PERIOD_PERIOD_TICKS = 31250) :=
  ⟨_, rfl, (by decide +kernel), (by decide +kernel)⟩

/-- A flit without payload. -/
def plain : Flit := ⟨0, false, 0, false, 0, 0, 0, 0, 0, 0, false, false, false, 0, false, false, false, 0, 0, []⟩
/-- One command for each check of Instr.wf, with one operand outside it. -/
theorem test_wf_refuses : List.all (
  [.beatEnable (.core 16 3) 0, .beatEnable (.core 0 2) 0, .beatEnable (.remote 4096 0 0) 0, .beatEnable (.remote 0 36 0) 0, .beatEnable (.remote 0 0 4) 0,
   .beatEnable (.eth 2) 0, .beatEnable (.die 8) 0, .beatEnable .mgmt (2 ^ 64), .beatMark (2 ^ 64) 0, .beatMark 0 (2 ^ 64), .markMissing (2 ^ 64),
   .beatEntryWrite .mgmt 8192 0 0, .beatEntryWrite .mgmt 0 4 0, .beatPageBaseWrite .mgmt 8 0, .fillerStart 8192 0 0, .sealSend 36, .vl0SlotStart 64,
   .matmul 384, .tileFaultClear .mgmt 384 0, .streamPrime 384 0, .streamPrime 0 8192, .agxLoop .mgmt 36 0, .trainTimeout 0 512, .laneFail 0 9 0 0,
   .rttProbeTimer 0 (2 ^ 64), .rttEcho 0 (2 ^ 64), .routeFenceTimeout 4096, .npTimeout 16384, .branchPrune 256 ⟨0, 0⟩, .mcPullDone 256, .pullDone .mgmt 256 0,
   .mcTreeWrite .mgmt 0 4 0, .kvpCmdqAdmit 8, .ageCap 1536, .hbmPpr .mgmt 24 0, .hbmPprDone 24 0, .dawnReady 0 [] (2 ^ 24), .drainComplete 422,
   .thermalStep 0 10, .coreReset .mgmt 16 0, .ringAgeInterrupt 16, .ptpStep .mgmt 2 0, .ethLinkUp 2, .xferRelease 32, .roceRetransmitTimeout 256,
   .registerWrite .mgmt (2 ^ 40) 8 [], .registerWrite .mgmt 0 4097 [], .stackFailure 24, .flitReceive 36 plain, .flitReceive 0 { plain with ftype := 16 },
   .flitReceive 0 { plain with ackSeq := 4096 }, .flitReceive 0 { plain with seq := 4096 }, .flitReceive 0 { plain with dest := 4096 },
   .flitReceive 0 { plain with src := 4096 }, .flitReceive 0 { plain with crPool := 32 }, .flitReceive 0 { plain with crCnt := 64 },
   .flitReceive 0 { plain with hops := 4 }, .flitReceive 0 { plain with len := 256 }, .flitReceive 0 { plain with vl := 4 },
   .flitReceive 0 { plain with crc := 2 ^ 32 }, .flitReceive 0 { plain with payload := List.replicate 241 0 }]) (fun i : Instr => !i.wf) = true := (by decide +kernel)
theorem test_wf_takes : (Instr.flitReceive 35 plain).wf = true := (by decide +kernel)

theorem test_BeatControl_met (H : Obligations.BeatControl) :
    Runs (.beatEnable .mgmt 1) (st id) ∧ Runs (.beatDisable (.die 7) 0) (st fun d => d.set R.BEAT_STATUS_LOCK_STATE 2) ∧
    Runs (.beatPeriodWrite (.core 3 3) 5000) (st id) ∧ Runs (.beatPeriodWrite (.core 3 3) 1250000) (st id) ∧
    Runs (.beatPeriodWrite .mgmt 4999) (st id) ∧ Runs (.beatPeriodWrite .mgmt 1250001) (st id) ∧
    Runs (.beatPeriodWrite .mgmt 5000) (st active) ∧ Runs (.beatPeriodWrite .mgmt 4999) (st active) :=
  ⟨⟨_, (((H _ _ 1 (by decide)).1 (by decide)).1 (by decide) (by decide)).choose_spec.2.2.2.2.2⟩,
   ⟨_, (((H _ _ 0 (by decide)).1 (by decide)).2.1 (by decide) (by decide)).choose_spec.2.2.2⟩,
   ⟨_, ((H _ _ _ (by decide)).1 (by decide)).2.2.1 (by decide) (by decide) (by decide)⟩,
   ⟨_, ((H _ _ _ (by decide)).1 (by decide)).2.2.1 (by decide) (by decide) (by decide)⟩,
   ⟨_, ((H _ _ _ (by decide)).1 (by decide)).2.2.2 (by decide) (by decide)⟩,
   ⟨_, ((H _ _ _ (by decide)).1 (by decide)).2.2.2 (by decide) (by decide)⟩,
   ⟨_, ((H _ _ _ (by decide)).2 (by decide) (by decide)).1 (by decide) (by decide)⟩,
   ⟨_, ((H _ _ _ (by decide)).2 (by decide) (by decide)).2 (by decide)⟩⟩

theorem test_BeatMarks_met (H : Obligations.BeatMarks) :
    Runs (.beatMark 131314 9) (st (lock 2)) ∧ Runs (.beatMark 131186 9) (st (lock 2)) ∧
    Runs (.beatMark 131315 9) (st (lock 2)) ∧ Runs (.beatMark 131185 9) (st (lock 2)) ∧
    Runs (.beatMark 131250 9) (st fun d => { lock 1 d with beat := { (lock 1 d).beat with inWin := 7, learned := some 41 } }) ∧
    Runs (.markFlit 0 131250 9) (st fun d => got 0 (.mark 7 4) ((lock 2 d).set R.BEAT_CTL_SRC 1)) ∧
    Runs (.markMissing 9) (st fun d => { lock 2 d with beat := { (lock 2 d).beat with missed := 1 } }) ∧
    Runs (.markMissing 9) (st fun d => { lock 2 d with beat := { (lock 2 d).beat with missed := 2 } }) ∧
    Runs (.beatBoundary 9) (st fun d => (lock 3 d).set R.BEAT_STATUS_HOLDOVER_BEATS 0xFFF) ∧
    Runs (.beatBoundary 9) (st fun d => ((lock 2 d).set R.BEAT_CTL_SRC 1).set R.BEAT_CTL_MASTER 1) ∧
    Runs .holdoverMaxReached (st fun d => (lock 3 d).set R.BEAT_STATUS_HOLDOVER_BEATS 0x1000) :=
  ⟨⟨_, (H _ _ _).1 _ (by decide) (by decide) (by decide) (by decide) rfl (by decide) (by decide)⟩,
   ⟨_, (H _ _ _).1 _ (by decide) (by decide) (by decide) (by decide) rfl (by decide) (by decide)⟩,
   ⟨_, (H _ _ _).2.1 _ (by decide) (by decide) (by decide) (by decide) rfl (by decide)⟩,
   ⟨_, (H _ _ _).2.1 _ (by decide) (by decide) (by decide) (by decide) rfl (by decide)⟩,
   ⟨_, (H _ _ _).2.2.1 _ _ (by decide) (by decide) (by decide) (by decide) rfl (by decide) (by decide) rfl (by decide)⟩,
   ⟨_, (H _ _ _).2.2.2.1 _ _ _ _ _ rfl rfl rfl (by decide) (by decide) (by decide) (by decide)⟩,
   ⟨_, ((H _ 0 _).2.2.2.2.1 (by decide) (by decide)).1 (by decide)⟩,
   ⟨_, ((H _ 0 _).2.2.2.2.1 (by decide) (by decide)).2 (by decide)⟩,
   ⟨_, (H _ 0 _).2.2.2.2.2.1 _ (by decide) rfl (by decide)⟩,
   ⟨_, (H _ 0 _).2.2.2.2.2.2.1 _ (by decide) (by decide) rfl⟩,
   ⟨_, (H _ 0 0).2.2.2.2.2.2.2 (by decide) (by decide)⟩⟩

theorem test_BeatTableWrites_met (H : Obligations.BeatTableWrites) :
    Runs (.beatEntryWrite .mgmt 8191 3 (2 ^ 64 - 1)) (st id) ∧
    Runs (.beatEntryWrite .mgmt 8191 3 0) (st fun d => d.set (R.BEAT_PAGE_STATE 7) 2) ∧
    Runs (.beatPageBaseWrite .mgmt 7 (2 ^ 64 - 1)) (st id) ∧
    Runs (.beatPageBaseWrite .mgmt 7 0) (st fun d => d.set (R.BEAT_PAGE_STATE 7) 1) ∧
    Runs (.pageSwapArm .mgmt 7) (st id) ∧
    Runs (.pageSwapWithdraw .mgmt 7) (st fun d =>
      { (d.set (R.BEAT_PAGE_STATE 7) 1).set R.BEAT_PAGE_SWAP_ARM 1 with beat := { d.beat with staged := some 7 } }) :=
  ⟨⟨_, (H _ _ _ (by decide)).1 _ _ (by decide) (by decide) (by decide) (by decide)⟩,
   ⟨_, (H _ _ _ (by decide)).2.1 _ _ (by decide) (by decide) (by decide) (by decide)⟩,
   ⟨_, (H _ _ _ (by decide)).2.2.1 _ (by decide) (by decide) (by decide)⟩,
   ⟨_, (H _ _ _ (by decide)).2.2.2.1 _ (by decide) (by decide) (by decide)⟩,
   ⟨_, (H _ _ _ (by decide)).2.2.2.2.1 (by decide) (by decide) (by decide)⟩,
   ⟨_, (H _ _ _ (by decide)).2.2.2.2.2 7 (by decide) (by decide) (by decide)⟩⟩

theorem test_EntriesStart_met (H : Obligations.EntriesStart) :
    Runs (.entryStart 0 3 4 5 6) (st fun d => due 0 (work d)) ∧ Runs (.fillerStart 0 7 9) (st fun d => due (2 ^ 62) (work d)) ∧
    Runs (.streamPrime 5 0) (st fun d => due 0 (work d)) :=
  ⟨⟨_, (H _ 0).1 3 4 5 6 (by decide +kernel) (by decide +kernel)⟩,
   ⟨_, (H _ 0).2.1 7 9 (by decide +kernel) (by decide +kernel)⟩,
   ⟨_, (H (st fun d => due 0 (work d)) 0).2.2 5 (by decide +kernel) (by decide +kernel) (by decide +kernel) (by decide +kernel) (by decide +kernel)
     (by decide +kernel) (by decide +kernel) (by decide +kernel) (by decide +kernel)⟩⟩

def katOp : Nat := 0x50 + 2 ^ 144

def step_held : State := st fun d => runs copyOp 0 (fun u => { u with hold := 4 }) d
theorem test_StepsIssue_met_held (H : Obligations.StepsIssue) : Runs (.stepIssue 5 3 7 3 2 ⟨9, 1, 2⟩) step_held :=
  ⟨_, (H step_held 5 3 7 3 2 9 1 2 (one copyOp 0) (by decide +kernel) (by decide +kernel) (by decide +kernel) (by decide +kernel) (by decide +kernel)).1 (by decide +kernel)⟩

def step_short : State := st fun d => runs reduceOp 0 long d
theorem test_StepsIssue_met_short (H : Obligations.StepsIssue) : Runs (.stepIssue 5 3 7 3 2 ⟨9, 1, 2⟩) step_short :=
  ⟨_, ((H step_short 5 3 7 3 2 9 1 2 (one reduceOp 0) (by decide +kernel) (by decide +kernel) (by decide +kernel) (by decide +kernel) (by decide +kernel)).2.1 (by decide +kernel) (by decide +kernel) (by decide +kernel) (by decide +kernel)).1 (by decide +kernel)⟩

def step_go : State := st fun d => runs katOp 0 (fun u => { u with hold := 4 }) d
theorem test_StepsIssue_met_go (H : Obligations.StepsIssue) : Runs (.stepIssue 5 5 7 3 2 ⟨9, 1, 2⟩) step_go :=
  ⟨_, (((H step_go 5 5 7 3 2 9 1 2 (one katOp 0) (by decide +kernel) (by decide +kernel) (by decide +kernel) (by decide +kernel) (by decide +kernel)).2.1 (by decide +kernel) (by decide +kernel) (by decide +kernel) (by decide +kernel)).2 (by decide +kernel)).1 (fun m h => ⟨one katOp 0, by
    obtain rfl : m = 5 := List.mem_singleton.1 h
    decide +kernel⟩) (by decide +kernel)⟩

def step_wait : State := st fun d => runs copyOp 0 mov (work d)
theorem test_StepsIssue_met_wait (H : Obligations.StepsIssue) : Runs (.stepIssue 5 4 7 3 2 ⟨9, 1, 2⟩) step_wait :=
  ⟨_, (((H step_wait 5 4 7 3 2 9 1 2 (one copyOp 0) (by decide +kernel) (by decide +kernel) (by decide +kernel) (by decide +kernel) (by decide +kernel)).2.1 (by decide +kernel) (by decide +kernel) (by decide +kernel) (by decide +kernel)).2 (by decide +kernel)).2 5 (one copyOp 0) (by decide +kernel) (by decide +kernel) (by decide +kernel)⟩

def step_update : State := st fun d => update tensor [0x10 * 2 ^ 56] (d.set R.UPD_RET_RET_VALID 1)
theorem test_StepsIssue_met_update (H : Obligations.StepsIssue) : Runs (.stepIssue 5 4 7 3 2 ⟨9, 1, 2⟩) step_update :=
  ⟨_, (H step_update 5 4 7 3 2 9 1 2 (one updOp 0) (by decide +kernel) (by decide +kernel) (by decide +kernel) (by decide +kernel) (by decide +kernel)).2.2.1 (by decide +kernel) (by decide +kernel) (by decide +kernel)⟩

def step_attn : State := st fun d => runs 0x10 0 block d
theorem test_StepsIssue_met_attn (H : Obligations.StepsIssue) : Runs (.stepIssue 5 4 7 3 2 ⟨9, 1, 2⟩) step_attn :=
  ⟨_, ((H step_attn 5 4 7 3 2 9 1 2 (one 0x10 0) (by decide +kernel) (by decide +kernel) (by decide +kernel) (by decide +kernel) (by decide +kernel)).2.2.2 (by decide +kernel) (by decide +kernel) (by decide +kernel) (by decide +kernel) (by decide +kernel) (by decide +kernel)).1 (by decide +kernel)⟩

def step_attnWait : State := st fun d => runs 0x10 0 (fun u => block { u with streams := [{ strm .mov (2048 * 2 ^ 128) with plan := some [.mem 0 2048] }] }) d
theorem test_StepsIssue_met_attnWait (H : Obligations.StepsIssue) : Runs (.stepIssue 5 4 7 3 2 ⟨9, 1, 2⟩) step_attnWait :=
  ⟨_, ((H step_attnWait 5 4 7 3 2 9 1 2 (one 0x10 0) (by decide +kernel) (by decide +kernel) (by decide +kernel) (by decide +kernel) (by decide +kernel)).2.2.2 (by decide +kernel) (by decide +kernel) (by decide +kernel) (by decide +kernel) (by decide +kernel) (by decide +kernel)).2 (by decide +kernel)⟩

/-- Tile 5's operation has formed its results. -/
def ended (o : Op) (d : Dev) : Dev :=
  { (work d).setTile 5 { TileUnit.idle with exec := some { one 0x41 1 with steps := 1, planned := true, worked := 1, done := true } } with ops := [o] }

/-- A deferred queue at 1 MiB with entry `q` in slot 2. -/
def queued (q : Nat) (d : Dev) : Dev :=
  let d := put (0x100000 + 64) 32 q d
  { d with img := { d.img with regions := [⟨0x100000, 128, 0, 0, 0, 9, 0, false, false⟩] } }

theorem test_OperationsComplete_met (H : Obligations.OperationsComplete) :
    Runs (.opComplete 0) (st fun d => ended (oper 0x41 none) d) ∧
    Runs (.wgqComplete 2) (st fun d => ended (oper 0x41 (some 2)) d) :=
  ⟨⟨_, (H _ (oper 0x41 none)).1 0 0 (by decide +kernel) rfl rfl (by decide +kernel) rfl rfl⟩,
   ⟨_, (H _ (oper 0x41 (some 2))).2 2 (by decide +kernel) (by decide +kernel) rfl⟩⟩

def slice_urgent : State := st fun d => queued (wqMake 0 0 1 0 0 0 0 0 1 true 0) (group d)
def slice_open : State := st fun d => queued (wqMake 0 0 1 0 0 0 0 0 3 false 0) (group d)
def slice_first : State := st fun d => (queued (wqMake 0 0 1 0 0 0 0 0 1 false 0) (group d)).set R.WGQ_CTL_PRIORITY 1

theorem test_SlicesStart_met (H : Obligations.SlicesStart) :
    Runs (.wgqSliceStart 2 90) slice_urgent ∧ Runs (.wgqSliceStart 2 900000) slice_open ∧ Runs (.wgqSliceStart 2 900000) slice_first :=
  ⟨⟨_, (H slice_urgent 2 90).1 (by decide +kernel) (by decide +kernel) (by decide +kernel) (by decide +kernel) (by decide +kernel)⟩,
   ⟨_, (H slice_open 2 900000).2.1 (by decide +kernel) (by decide +kernel) (by decide +kernel)⟩,
   ⟨_, (H slice_first 2 900000).2.2 (by decide +kernel) (by decide +kernel) (by decide +kernel) (by decide +kernel)⟩⟩

/-- Ports 0 and 4 are of the set, and from port 4 the seals of beat 8 have come; `l` has been sent on port 0. -/
def sealed (l : List (Option Nat)) (d : Dev) : Dev :=
  let d := up 4 (up 0 d)
  (d.setPort 0 { d.port 0 with inSet := true, sent := l }).setPort 4 { d.port 4 with
    inSet := true, came := [[(1, 8)], [(1, 8)], [(1, 8)], []] }

def seal_send : State := st fun d => let d := up 35 d; d.setPort 35 { d.port 35 with sent := [some 7, some 7, some 7, some 7] }
def seal_stage : State := st (sealed [some 8, some 7, some 7, some 7])
def seal_stage3 : State := st (sealed [some 8, some 8, some 8, some 7])
def seal_taken (prev : Nat) : State := st fun d => got 3 (.seal 8 0 false) (let d := up 3 d; d.setPort 3 { d.port 3 with seals := [some prev, none, none, none] })
def seal_teach : State := st fun d => got 3 (.seal 8 3 false)
  { up 3 d with beat := { d.beat with heard := [(4, 8)] } } |>.set R.BEAT_STATUS_LOCK_STATE 1
def seal_silent : State := st fun d => let d := (up 35 d).set R.AGX_HB_CTL_SILENT_BEATS 3; d.setPort 35 { d.port 35 with inSet := true, silentRun := 3 }
def seal_fence : State := st fun d => got 3 (.ctl 0x25 (leBytes 2 0 ++ leBytes 6 9)) (up 3 d)

theorem test_Seals_met_send (H : Obligations.Seals) : Runs (.sealSend 35) seal_send := ⟨_, (H seal_send 35).1 7 (by decide +kernel) (by decide +kernel) (by decide +kernel) (by
  intro q h
  have e : (seal_send.dev.port 35).txq = [] := (by decide +kernel)
  rw [e] at h
  cases h)⟩
theorem test_Seals_met_stage (H : Obligations.Seals) : Runs (.sealStageSend 0) seal_stage ∧ Runs (.sealStageSend 0) seal_stage3 :=
  ⟨⟨_, (H seal_stage 0).2.1 1 7 8 (by decide +kernel) (by decide +kernel) (by decide +kernel) (by decide +kernel) (by decide +kernel) (fun g h k => absurd (Nat.lt_of_lt_of_le k h) (Nat.lt_irrefl g)) (fun q h => by
      have e : seal_stage.fresh.sealSet = [0, 4] := (by decide +kernel)
      rw [e] at h
      intro n
      obtain rfl : q = 4 := by simpa [n] using h
      exact ⟨(by decide +kernel), (by decide +kernel)⟩) (by decide +kernel)⟩,
   ⟨_, (H seal_stage3 0).2.1 3 7 8 (by decide +kernel) (by decide +kernel) (by decide +kernel) (by decide +kernel) (by decide +kernel) (fun g h k => by
      obtain rfl | rfl : g = 1 ∨ g = 2 := by omega
      exacts [⟨8, 8, (by decide +kernel), (by decide +kernel), (by decide +kernel)⟩, ⟨8, 8, (by decide +kernel), (by decide +kernel), (by decide +kernel)⟩]) (fun q h => by
      have e : seal_stage3.fresh.sealSet = [0, 4] := (by decide +kernel)
      rw [e] at h
      intro n
      obtain rfl : q = 4 := by simpa [n] using h
      exact ⟨(by decide +kernel), (by decide +kernel)⟩) (by decide +kernel)⟩⟩
theorem test_Seals_met_taken (H : Obligations.Seals) :
    Runs (.beatSeal 0) (seal_taken 7) ∧ Runs (.beatSeal 0) (seal_taken 6) ∧ Runs (.beatSeal 0) seal_teach :=
  ⟨⟨_, ((H (seal_taken 7) 0).2.2.1 0 _ _ 8 0 false rfl rfl rfl (by decide +kernel)).1 (by decide +kernel) (by decide +kernel)⟩,
   ⟨_, ((H (seal_taken 6) 0).2.2.1 0 _ _ 8 0 false rfl rfl rfl (by decide +kernel)).2.1 (by decide +kernel) (by decide +kernel)⟩,
   ⟨_, ((H seal_teach 0).2.2.1 0 _ _ 8 3 false rfl rfl rfl (by decide +kernel)).2.2 (by decide +kernel) (by decide +kernel)⟩⟩
theorem test_Seals_met_silent (H : Obligations.Seals) : Runs (.portSilent 35) seal_silent ∧ Runs (.fenceNote 0) seal_fence :=
  ⟨⟨_, (H seal_silent 35).2.2.2.1 (by decide +kernel) (by decide +kernel) (by decide +kernel) (by decide +kernel)⟩, ⟨_, (H seal_fence 0).2.2.2.2 0 _ _ _ rfl (by decide +kernel) (by decide +kernel)⟩⟩

theorem test_ImageWrites_met (H : Obligations.ImageWrites) :
    Runs (.imgLoadGo .mgmt 1) (st id) ∧ Runs (.imgLoadRestage .mgmt 1) (st fun d => d.set R.IMG_STATUS_SLOT_B_STATE 4) ∧
    Runs (.imgLoadGo .mgmt 1) (st fun d => d.set R.IMG_STATUS_LOAD_BUSY 1) ∧
    Runs (.imgSlotFree .mgmt 1) (st fun d => d.set R.IMG_STATUS_SLOT_B_STATE 2) ∧
    Runs (.imgSlotFree .mgmt 1) (st fun d => d.set R.IMG_STATUS_SLOT_B_STATE 3) :=
  ⟨⟨_, ((H _ _ 1 (by decide +kernel)).1 (by decide +kernel) (by decide +kernel) (by decide +kernel) (by decide +kernel)).1⟩, ⟨_, ((H _ _ 1 (by decide +kernel)).1 (by decide +kernel) (by decide +kernel) (by decide +kernel) (by decide +kernel)).2⟩, ⟨_, (H _ _ 1 (by decide +kernel)).2.1 (by decide +kernel) (by decide +kernel)⟩, ⟨_, (H _ _ 1 (by decide +kernel)).2.2.1 (by decide +kernel) (by decide +kernel) (by decide +kernel) (by decide +kernel)⟩,
   ⟨_, (H _ _ 1 (by decide +kernel)).2.2.2.1 (by decide +kernel) (by decide +kernel)⟩⟩

/-- A library of one page; tile 1 is a spare on the die of tile 0. -/
def library : State := st fun d =>
  let d := image [(9, [(0, 4, 1)]), (10, [])] d
  { d with img := { d.img with places := [⟨0, 5, 3, 0xFF, 0⟩, ⟨1, 47, 0, 0xFF, 0⟩, ⟨2, 48, 0, 0xFF, 0⟩] } }

theorem test_ImageWrites_met_pages (H : Obligations.ImageWrites) :
    Runs (.imgPageCopy .mgmt (7 * 2 ^ 16)) library ∧ Runs (.imgRetile .mgmt (2 ^ 63 + 2 ^ 16)) library ∧
    Runs (.imgRetile .mgmt (2 ^ 63 + 2 * 2 ^ 16)) library :=
  ⟨⟨_, (H library _ (7 * 2 ^ 16) (by decide +kernel)).2.2.2.2.1 (by decide +kernel) (by decide +kernel) (by decide +kernel) (by decide +kernel) (by decide +kernel)⟩, ⟨_, (H library _ (2 ^ 63 + 2 ^ 16) (by decide +kernel)).2.2.2.2.2.1 (by decide +kernel) (by decide +kernel)⟩,
   ⟨_, (H library _ (2 ^ 63 + 2 * 2 ^ 16) (by decide +kernel)).2.2.2.2.2.2 (by decide +kernel) (by decide +kernel)⟩⟩

theorem test_SwapWrites_met (H : Obligations.SwapWrites) :
    Runs (.imgSwapArm .mgmt (2 ^ 48 - 1)) (st fun d => d.set R.IMG_STATUS_SLOT_B_STATE 2) ∧
    Runs (.imgUnload .mgmt 10) (st fun d => (d.set R.BEAT_STATUS_LOCK_STATE 2).set R.BEAT_NUM_NUM 9) ∧
    Runs (.imgSwapWithdraw .mgmt 0) (st fun d => d.set R.IMG_STATUS_SWAP_PHASE 1) ∧ Runs (.imgSwapArm .mgmt 0) (st id) :=
  ⟨⟨_, (H _ _ (2 ^ 48 - 1) (by decide +kernel) (by decide +kernel) (by decide +kernel) (by decide +kernel)).1 (by decide +kernel)⟩, ⟨_, (H _ _ 10 (by decide +kernel) (by decide +kernel) (by decide +kernel) (by decide +kernel)).2.1⟩, ⟨_, (H _ _ 0 (by decide +kernel) (by decide +kernel) (by decide +kernel) (by decide +kernel)).2.2.1 (by decide +kernel)⟩, ⟨_, (H _ _ 0 (by decide +kernel) (by decide +kernel) (by decide +kernel) (by decide +kernel)).2.2.2 (by decide +kernel)⟩⟩

def loading : State := st fun d => { d with img := { d.img with loading := some (1, false) } }
def starting : State := st fun d =>
  let d := put 7 1 2 (((d.set R.IMG_STATUS_SLOT_A_STATE 2).set R.BEAT_STATUS_LOCK_STATE 2).set R.ECC_TOP_TOP (2 ^ 36))
  { d with img := { d.img with actDue := true, stagedPlaces := [(0, [⟨0, 5, 3, 0xFF, 0⟩])] } }
def formatting : State := st fun d => { d with img := { d.img with activating := some 1, reformat := true, stagedPlaces := [(1, [⟨0, 5, 3, 0xFF, 0⟩])] } }
def unloading : State := st fun d => (active d).set R.IMG_STATUS_SWAP_PHASE 2 |>.set R.IMG_SWAP_UNLOAD 1
def regions : State := st fun d =>
  let d := image [(12, [(0, 4, 1), (4, 32, 2 ^ 224 + 2 ^ 192 + 2 ^ 6)])] d
  { d with img := { d.img with activating := some 0 } }
def paging : State := st fun d =>
  let d := image [(9, [(0, 4, 1), (132, 32, 2 ^ 63)]), (10, [])] d
  { d with img := { d.img with copying := some (0, 7) } }

theorem test_ImagePhases_met (H : Obligations.ImagePhases) :
    Runs .imgLoadDone loading ∧ Runs .activationStart starting ∧ Runs .strengthReformat formatting ∧ Runs .swapReconfig unloading ∧
    Runs .regionInitDone regions ∧ Runs .pageCopyDone paging :=
  ⟨⟨_, ((H loading).1 1 false (by decide +kernel)).1 ⟨2, 0⟩ (by decide +kernel)⟩, ⟨_, (H starting).2.1 0 (by decide +kernel) (by decide +kernel) (by decide +kernel) (by decide +kernel) (by decide +kernel) (by decide +kernel)⟩, ⟨_, (H formatting).2.2.1 1 (by decide +kernel) (by decide +kernel) (by decide +kernel)⟩,
   ⟨_, (H unloading).2.2.2.1 (by decide +kernel) (by decide +kernel) (by decide +kernel)⟩, ⟨_, (H regions).2.2.2.2.1 0 (by decide +kernel) (by decide +kernel) (by decide +kernel) (by decide +kernel)⟩, ⟨_, (H paging).2.2.2.2.2 0 7 (by decide +kernel) (by decide +kernel)⟩⟩

/-- The smallest image that loads, in slot A: one VECTOR tile, a tile group of it, one channel, a main page without entries, one region.
Sections by type, offset and length, with numbers at places in them, ascending. -/
def least : List (Nat × Nat × Nat × List (Nat × Nat × Nat)) :=
  [(1, 0x1000, 64, [(2, 2, 1), (7, 1, 2)]), (2, 0x2000, 12, [(0, 4, 1), (4, 8, 0xFFF3)]), (4, 0x3000, 68, [(0, 4, 1), (4, 64, 1)]),
   (5, 0x4000, 20, [(0, 4, 1), (4, 16, 2 ^ 32 * 0x0000 + 3 * 2 ^ 60 + 2 ^ 64)]), (6, 0x5000, 8, [(4, 4, 32)]), (7, 0x6000, 8, [(4, 4, 64)]), (8, 0x7000, 4, []),
   (10, 0x8000, 4, []), (11, 0x9000, 12, []), (12, 0xA000, 36, [(0, 4, 1), (4, 32, 2 ^ 192)]), (13, 0xB000, 4, []), (9, 0xC000, 32900, [(0, 4, 1)]),
   (15, 0x15000, 16624, [])]
def leastImage (d : Dev) : Dev :=
  let d := ((d.set (R.HBM_STATUS_STATE 0) 2).set R.GLB_OFFER_0_TILES_TOTAL 1).set (R.PWR_SITES_W3_GOOD 3) 32
  let d := put 0x28 2 0xFFFF (put 0 0x18 (0x474D494D554C454D + 2 ^ 64 + 13 * 2 ^ 80 + (0x15000 + 16624) * 2 ^ 128 + 0x15000 * 2 ^ 160) d)
  let d := (List.range 13).foldl (fun d i => let e := least.getD i (0, 0, 0, []); put (0x100 + 16 * i) 12 (e.1 + e.2.1 * 2 ^ 32 + e.2.2.1 * 2 ^ 64) d) d
  least.foldl (fun d e => e.2.2.2.foldl (fun d x => put (e.2.1 + x.1) x.2.1 x.2.2 d) d) d
def restaging : State := st fun d => let d := leastImage d; { d with img := { d.img with loading := some (0, true) } }
def leastImg : Img := restaging.fresh.img? 0

/-- Bytes of HBM with none listed among them read as 0. -/
theorem unlisted (c : List Host.Cell) (a n : Nat) (h : ∀ e ∈ c, e.1 < a ∨ a + n ≤ e.1) : leNat (stRange (fun _ => (0 : Byte)) c a n) = 0 := by
  have g (k : Nat) (h1 : a ≤ k) (h2 : k < a + n) : stGet (fun _ => (0 : Byte)) c k = 0 := by
    induction c with
    | nil => rfl
    | cons e r ih =>
      have := h e (List.mem_cons_self ..)
      rw [stGet, if_neg (by omega)]
      exact ih fun x hx => h x (List.mem_cons_of_mem _ hx)
  have f (m k : Nat) (h1 : a ≤ k) (h2 : k + m ≤ a + n) : leNat (stRange (fun _ => (0 : Byte)) c k m) = 0 := by
    induction m generalizing k with
    | zero => rfl
    | succ m ih => rw [stRange, leNat, g k h1 (by omega), ih (k + 1) (by omega) (by omega)]; rfl
  exact f n a le_rfl le_rfl

theorem least_entries (i e : Nat) (h : i < 1 ∧ e < 1024) : leastImg.u (leastImg.entryAt i e) 32 = 0 := by
  have at0 : leastImg.entryAt i e = 0xC084 + 32 * e := by
    have m1 : leastImg.mainPages = 1 := (by decide +kernel)
    have a9 : leastImg.at 9 = 0xC000 := (by decide +kernel)
    rw [Img.entryAt, Img.pageAt, m1, a9, if_pos h.1]
    omega
  have b0 : leastImg.d.bankAddr (leastImg.b + (0xC084 + 32 * e)) = 0xC084 + 32 * e := by
    have : leastImg.b = 0 := (by decide +kernel)
    have t : leastImg.d.tagged 1 = none := (by decide +kernel)
    rw [this, Nat.zero_add, Dev.bankAddr, t]
  rw [at0, Img.u, Dev.peekNat, Dev.peek, Dev.hbmBytes, b0]
  apply unlisted
  have far : ∀ x ∈ leastImg.d.hbm.cells, x.1 < 0xC084 ∨ 0x14084 ≤ x.1 := (by decide +kernel)
  intro x hx
  have := far x hx
  omega

theorem entryFault_zero (m : Img) (i e : Nat) (h : m.u (m.entryAt i e) 32 = 0) : m.entryFault i e = none := by
  have z (g : Nat → Nat) (l : List Nat) : lowest (l.map fun j => (false, g j)) = none := by
    have : (l.map fun j => (false, g j)).filter (·.1) = [] := by simp [List.filter_map, Function.comp_def]
    rw [lowest, this]
    rfl
  have r : entryReserved 0 = 0 := (by decide +kernel)
  have v : entValid 0 = false := (by decide +kernel)
  unfold Img.entryFault
  simp [h, r, v, firstFail, z]

theorem firstFail_none (l : List (Option LoadFail)) (h : ∀ x ∈ l, x = none) : firstFail l = none := by
  unfold firstFail
  exact List.findSome?_eq_none_iff.mpr h

theorem least_pages : leastImg.pagesFault = none := by
  have pages : leastImg.mainPages + leastImg.fillerPages = 1 := (by decide +kernel)
  have rest (l : List (Option LoadFail)) (h : ∀ x ∈ l, x = none) : firstFail (l ++ leastImg.entries.map fun x => leastImg.entryFault x.1 x.2) = none := by
    refine firstFail_none _ fun x hx => (List.mem_append.mp hx).elim (h x) fun hx => ?_
    obtain ⟨y, hy, rfl⟩ := List.mem_map.mp hx
    refine entryFault_zero _ _ _ (least_entries _ _ ?_)
    rw [Img.entries, pages] at hy
    simp only [List.mem_flatMap, List.mem_map, List.mem_range] at hy
    obtain ⟨a, ha, b, hb, rfl⟩ := hy
    exact ⟨by simpa using ha, hb⟩
  unfold Img.pagesFault
  exact rest _ (by decide +kernel)

theorem least_roles : leastImg.rolesFault = none := by
  have pages : leastImg.mainPages + leastImg.fillerPages = 1 := (by decide +kernel)
  have v : entValid 0 = false := (by decide +kernel)
  unfold Img.rolesFault
  refine List.findSome?_eq_none_iff.mpr fun y hy => ?_
  rw [Img.entries, pages] at hy
  simp only [List.mem_flatMap, List.mem_map, List.mem_range] at hy
  obtain ⟨a, ha, b, hb, rfl⟩ := hy
  simp [least_entries a b ⟨by simpa using ha, hb⟩, v]

theorem check_restaged (m : Img) (ps : List Place) (h1 : m.headerFault = none) (h2 : m.sizeFault = none) (h3 : m.requirementFault = none)
    (h4 : m.strengthFault = none) (h5 : m.contentsFault = none) (h6 : m.rolesFault = none) (p : m.placement = .inl ps) : m.check true = .inr ps := by
  simp [Img.check, h1, h2, h3, h4, h5, h6, p, firstFail]

theorem contents_none (m : Img) (h1 : m.tilesFault = none) (h2 : m.gangsFault = none) (h3 : m.groupsFault = none) (h4 : m.chansFault = none)
    (h5 : m.poolsFault = none) (h6 : m.depsFault = none) (h7 : m.pagesFault = none) (h8 : m.updateFault = none) (h9 : m.planFault = none)
    (h10 : m.slotsFault = none) : m.contentsFault = none := by
  simp [Img.contentsFault, h1, h2, h3, h4, h5, h6, h7, h8, h9, h10, firstFail]

theorem least_check : leastImg.check true = .inr [⟨0, 149, 3, 0xFF, 0⟩] :=
  check_restaged _ _ (by decide +kernel) (by decide +kernel) (by decide +kernel) (by decide +kernel) (contents_none _ (by decide +kernel) (by decide +kernel) (by decide +kernel) (by decide +kernel) (by decide +kernel) (by decide +kernel) least_pages (by decide +kernel) (by decide +kernel) (by decide +kernel)) least_roles (by decide +kernel)

/-- It loads. -/
theorem test_ImagePhases_met_load (H : Obligations.ImagePhases) : Runs .imgLoadDone restaging := by
  have h := ((H restaging).1 0 true rfl).2 [⟨0, 149, 3, 0xFF, 0⟩] (by exact least_check)
  exact ⟨_, h⟩

def prog_vec : State := st fun d => runs vecOp 0 id (prog [0x10 * 2 ^ 56] d)
def prog_update : State := st (update tensor [0x10 * 2 ^ 56])

theorem test_ClassesFormResults_met (H : Obligations.ClassesFormResults) :
    Runs (.matmul 5) (works 1) ∧ Runs (.matmulGrouped 5) (works 2) ∧ Runs (.matmulWgrad 5) (works 3) ∧
    Runs (.attnMerge 5) (whole 0x13) ∧ Runs (.attnMerge 5) (works 0x13) ∧ Runs (.vecProgram 5) prog_vec ∧ Runs (.updateOp 5) prog_update ∧
    Runs (.reduceLocal 5) (works 0x31) ∧ Runs (.convertOp 5) (works 0x40) ∧ Runs (.copyGather 5) (works 0x41) ∧
    Runs (.routeTopk 5) (works 0x21) ∧ Runs (.combineGather 5) (works gather) :=
  ⟨⟨_, (H (works 1) 5 (one 1 1)).1 ⟨(by decide +kernel), (by decide +kernel), (by decide +kernel)⟩⟩, ⟨_, (H (works 2) 5 (one 2 1)).2.1 ⟨(by decide +kernel), (by decide +kernel), (by decide +kernel)⟩⟩, ⟨_, (H (works 3) 5 (one 3 1)).2.2.1 ⟨(by decide +kernel), (by decide +kernel), (by decide +kernel)⟩⟩,
   ⟨_, ((H (whole 0x13) 5 (last 0x13)).2.2.2.1 ⟨(by decide +kernel), (by decide +kernel), (by decide +kernel)⟩ { last 0x13 with worked := 1, done := true } (by decide +kernel) (by decide +kernel)).1 (by decide +kernel)⟩,
   ⟨_, ((H (works 0x13) 5 (one 0x13 1)).2.2.2.1 ⟨(by decide +kernel), (by decide +kernel), (by decide +kernel)⟩ { one 0x13 1 with worked := 1 } (by decide +kernel) (by decide +kernel)).2 (by decide +kernel)⟩,
   ⟨_, (H prog_vec 5 (one vecOp 0)).2.2.2.2.1 ⟨(by decide +kernel), (by decide +kernel), (by decide +kernel)⟩ ⟨(by decide +kernel), (by decide +kernel), (by decide +kernel)⟩⟩, ⟨_, (H prog_update 5 (one updOp 0)).2.2.2.2.2.1 ⟨(by decide +kernel), (by decide +kernel), (by decide +kernel)⟩ ⟨(by decide +kernel), (by decide +kernel), (by decide +kernel)⟩⟩,
   ⟨_, (H (works 0x31) 5 (one 0x31 1)).2.2.2.2.2.2.1 ⟨(by decide +kernel), (by decide +kernel), (by decide +kernel)⟩⟩, ⟨_, (H (works 0x40) 5 (one 0x40 1)).2.2.2.2.2.2.2.1 ⟨(by decide +kernel), (by decide +kernel), (by decide +kernel)⟩⟩,
   ⟨_, (H (works 0x41) 5 (one 0x41 1)).2.2.2.2.2.2.2.2.1 ⟨(by decide +kernel), (by decide +kernel), (by decide +kernel)⟩⟩, ⟨_, (H (works 0x21) 5 (one 0x21 1)).2.2.2.2.2.2.2.2.2.1 ⟨(by decide +kernel), (by decide +kernel), (by decide +kernel)⟩⟩,
   ⟨_, (H (works gather) 5 (one gather 1)).2.2.2.2.2.2.2.2.2.2.1 ⟨(by decide +kernel), (by decide +kernel), (by decide +kernel)⟩ (by decide +kernel)⟩⟩
theorem test_ClassesFormResults_met_whole (H : Obligations.ClassesFormResults) :
    Runs (.dispatchSend 5) (whole 0x22) ∧ Runs (.dispatchPlan 5) (whole (0x22 + 2 ^ 136)) ∧ Runs (.dispatchPrefetch 5) (whole (0x22 + 2 ^ 137)) ∧
    Runs (.combineReturn 5) (whole 0x23) ∧ Runs (.kat 5 [(1, 2)]) (whole 0x50) :=
  ⟨⟨_, ((H (whole 0x22) 5 (last 0x22)).2.2.2.2.2.2.2.2.2.2.2 (by decide +kernel) (by decide +kernel)).1 ⟨(by decide +kernel), (by decide +kernel), (by decide +kernel)⟩ (by decide +kernel) (by decide +kernel)⟩,
   ⟨_, ((H (whole (0x22 + 2 ^ 136)) 5 (last (0x22 + 2 ^ 136))).2.2.2.2.2.2.2.2.2.2.2 (by decide +kernel) (by decide +kernel)).2.1 ⟨(by decide +kernel), (by decide +kernel), (by decide +kernel)⟩ (by decide +kernel)⟩,
   ⟨_, ((H (whole (0x22 + 2 ^ 137)) 5 (last (0x22 + 2 ^ 137))).2.2.2.2.2.2.2.2.2.2.2 (by decide +kernel) (by decide +kernel)).2.2.1 ⟨(by decide +kernel), (by decide +kernel), (by decide +kernel)⟩ (by decide +kernel)⟩,
   ⟨_, ((H (whole 0x23) 5 (last 0x23)).2.2.2.2.2.2.2.2.2.2.2 (by decide +kernel) (by decide +kernel)).2.2.2.1 ⟨(by decide +kernel), (by decide +kernel), (by decide +kernel)⟩ (by decide +kernel)⟩,
   ⟨_, ((H (whole 0x50) 5 (last 0x50)).2.2.2.2.2.2.2.2.2.2.2 (by decide +kernel) (by decide +kernel)).2.2.2.2 [(1, 2)] ⟨(by decide +kernel), (by decide +kernel), (by decide +kernel)⟩⟩⟩

theorem test_VectorWords_met_lanes (H : Obligations.VectorWords) :
    Runs (.addV 5) (word 0x10) ∧ Runs (.subV 5) (word 0x11) ∧ Runs (.mulV 5) (word 0x12) ∧ Runs (.fma 5) (word 0x13) ∧
    Runs (.maxV 5) (word 0x14) ∧ Runs (.minV 5) (word 0x15) ∧ Runs (.absV 5) (word 0x16) ∧ Runs (.adds 5) (word 0x18) ∧
    Runs (.muls 5) (word 0x19) ∧ Runs (.fmas 5) (word 0x1a) ∧ Runs (.bcast 5) (word 0x1b) :=
  ⟨⟨_, (H (word 0x10) 5 (one vecOp 1) vwork 1 [code 0x10, 0] vc (code 0x10)).1 0x10 _ (by decide +kernel) ⟨(by decide +kernel), (by decide +kernel), (by decide +kernel), (by decide +kernel)⟩⟩,
   ⟨_, (H (word 0x11) 5 (one vecOp 1) vwork 1 [code 0x11, 0] vc (code 0x11)).1 0x11 _ (by decide +kernel) ⟨(by decide +kernel), (by decide +kernel), (by decide +kernel), (by decide +kernel)⟩⟩,
   ⟨_, (H (word 0x12) 5 (one vecOp 1) vwork 1 [code 0x12, 0] vc (code 0x12)).1 0x12 _ (by decide +kernel) ⟨(by decide +kernel), (by decide +kernel), (by decide +kernel), (by decide +kernel)⟩⟩,
   ⟨_, (H (word 0x13) 5 (one vecOp 1) vwork 1 [code 0x13, 0] vc (code 0x13)).1 0x13 _ (by decide +kernel) ⟨(by decide +kernel), (by decide +kernel), (by decide +kernel), (by decide +kernel)⟩⟩,
   ⟨_, (H (word 0x14) 5 (one vecOp 1) vwork 1 [code 0x14, 0] vc (code 0x14)).1 0x14 _ (by decide +kernel) ⟨(by decide +kernel), (by decide +kernel), (by decide +kernel), (by decide +kernel)⟩⟩,
   ⟨_, (H (word 0x15) 5 (one vecOp 1) vwork 1 [code 0x15, 0] vc (code 0x15)).1 0x15 _ (by decide +kernel) ⟨(by decide +kernel), (by decide +kernel), (by decide +kernel), (by decide +kernel)⟩⟩,
   ⟨_, (H (word 0x16) 5 (one vecOp 1) vwork 1 [code 0x16, 0] vc (code 0x16)).1 0x16 _ (by decide +kernel) ⟨(by decide +kernel), (by decide +kernel), (by decide +kernel), (by decide +kernel)⟩⟩,
   ⟨_, (H (word 0x18) 5 (one vecOp 1) vwork 1 [code 0x18, 0] vc (code 0x18)).1 0x18 _ (by decide +kernel) ⟨(by decide +kernel), (by decide +kernel), (by decide +kernel), (by decide +kernel)⟩⟩,
   ⟨_, (H (word 0x19) 5 (one vecOp 1) vwork 1 [code 0x19, 0] vc (code 0x19)).1 0x19 _ (by decide +kernel) ⟨(by decide +kernel), (by decide +kernel), (by decide +kernel), (by decide +kernel)⟩⟩,
   ⟨_, (H (word 0x1a) 5 (one vecOp 1) vwork 1 [code 0x1a, 0] vc (code 0x1a)).1 0x1a _ (by decide +kernel) ⟨(by decide +kernel), (by decide +kernel), (by decide +kernel), (by decide +kernel)⟩⟩,
   ⟨_, (H (word 0x1b) 5 (one vecOp 1) vwork 1 [code 0x1b, 0] vc (code 0x1b)).1 0x1b _ (by decide +kernel) ⟨(by decide +kernel), (by decide +kernel), (by decide +kernel), (by decide +kernel)⟩⟩⟩

theorem test_VectorWords_met_sfu (H : Obligations.VectorWords) :
    Runs (.exp2 5) (word 0x20) ∧ Runs (.log2 5) (word 0x21) ∧ Runs (.rsqrt 5) (word 0x22) ∧ Runs (.rcp 5) (word 0x23) :=
  ⟨⟨_, (H (word 0x20) 5 (one vecOp 1) vwork 1 [code 0x20, 0] vc (code 0x20)).2.1 0x20 _ (by decide +kernel) ⟨(by decide +kernel), (by decide +kernel), (by decide +kernel), (by decide +kernel)⟩⟩,
   ⟨_, (H (word 0x21) 5 (one vecOp 1) vwork 1 [code 0x21, 0] vc (code 0x21)).2.1 0x21 _ (by decide +kernel) ⟨(by decide +kernel), (by decide +kernel), (by decide +kernel), (by decide +kernel)⟩⟩,
   ⟨_, (H (word 0x22) 5 (one vecOp 1) vwork 1 [code 0x22, 0] vc (code 0x22)).2.1 0x22 _ (by decide +kernel) ⟨(by decide +kernel), (by decide +kernel), (by decide +kernel), (by decide +kernel)⟩⟩,
   ⟨_, (H (word 0x23) 5 (one vecOp 1) vwork 1 [code 0x23, 0] vc (code 0x23)).2.1 0x23 _ (by decide +kernel) ⟨(by decide +kernel), (by decide +kernel), (by decide +kernel), (by decide +kernel)⟩⟩⟩

theorem test_VectorWords_met_reduce (H : Obligations.VectorWords) :
    Runs (.rsumsq 5) (uword tensor 0x28) ∧ Runs (.rsum 5) (uword tensor 0x29) ∧ Runs (.rmaxabs 5) (uword tensor 0x2a) :=
  ⟨⟨_, (H (uword tensor 0x28) 5 (one updOp 1) (uwork tensor) 1 [code 0x28, 0] vc (code 0x28)).2.2.1 ⟨(by decide +kernel), (by decide +kernel), (by decide +kernel), (by decide +kernel)⟩⟩,
   ⟨_, (H (uword tensor 0x29) 5 (one updOp 1) (uwork tensor) 1 [code 0x29, 0] vc (code 0x29)).2.2.2.1 ⟨(by decide +kernel), (by decide +kernel), (by decide +kernel), (by decide +kernel)⟩⟩,
   ⟨_, (H (uword tensor 0x2a) 5 (one updOp 1) (uwork tensor) 1 [code 0x2a, 0] vc (code 0x2a)).2.2.2.2.1 ⟨(by decide +kernel), (by decide +kernel), (by decide +kernel), (by decide +kernel)⟩⟩⟩

theorem test_VectorWords_met_load (H : Obligations.VectorWords) :
    Runs (.ldp 5) (word 0x1) ∧ Runs (.ldg 5) (word 0x2) ∧ Runs (.lds 5) (uword tensor 0x3) ∧ Runs (.ldw 5) (uword tensor 0x4) ∧
    Runs (.rstep 5) (uword embed 0x5) :=
  ⟨⟨_, (H (word 0x1) 5 (one vecOp 1) vwork 1 [code 0x1, 0] vc (code 0x1)).2.2.2.2.2.1 0x1 _ (by decide +kernel) (by decide +kernel) ⟨(by decide +kernel), (by decide +kernel), (by decide +kernel), (by decide +kernel)⟩⟩,
   ⟨_, (H (word 0x2) 5 (one vecOp 1) vwork 1 [code 0x2, 0] vc (code 0x2)).2.2.2.2.2.1 0x2 _ (by decide +kernel) (by decide +kernel) ⟨(by decide +kernel), (by decide +kernel), (by decide +kernel), (by decide +kernel)⟩⟩,
   ⟨_, (H (uword tensor 0x3) 5 (one updOp 1) (uwork tensor) 1 [code 0x3, 0] vc (code 0x3)).2.2.2.2.2.1 0x3 _ (by decide +kernel) (by decide +kernel) ⟨(by decide +kernel), (by decide +kernel), (by decide +kernel), (by decide +kernel)⟩⟩,
   ⟨_, (H (uword tensor 0x4) 5 (one updOp 1) (uwork tensor) 1 [code 0x4, 0] vc (code 0x4)).2.2.2.2.2.1 0x4 _ (by decide +kernel) (by decide +kernel) ⟨(by decide +kernel), (by decide +kernel), (by decide +kernel), (by decide +kernel)⟩⟩,
   ⟨_, (H (uword embed 0x5) 5 (one updOp 1) ework 1 [code 0x5, 0] vc (code 0x5)).2.2.2.2.2.1 0x5 _ (by decide +kernel) (by decide +kernel) ⟨(by decide +kernel), (by decide +kernel), (by decide +kernel), (by decide +kernel)⟩⟩⟩

theorem test_VectorWords_met_store (H : Obligations.VectorWords) :
    Runs (.stp 5) (word 0x8) ∧ Runs (.sts 5) (uword tensor 0x9) ∧ Runs (.stw 5) (uword tensor 0xa) :=
  ⟨⟨_, (H (word 0x8) 5 (one vecOp 1) vwork 1 [code 0x8, 0] vc (code 0x8)).2.2.2.2.2.2 0x8 _ (by decide +kernel) (by decide +kernel) ⟨(by decide +kernel), (by decide +kernel), (by decide +kernel), (by decide +kernel)⟩⟩,
   ⟨_, (H (uword tensor 0x9) 5 (one updOp 1) (uwork tensor) 1 [code 0x9, 0] vc (code 0x9)).2.2.2.2.2.2 0x9 _ (by decide +kernel) (by decide +kernel) ⟨(by decide +kernel), (by decide +kernel), (by decide +kernel), (by decide +kernel)⟩⟩,
   ⟨_, (H (uword tensor 0xa) 5 (one updOp 1) (uwork tensor) 1 [code 0xa, 0] vc (code 0xa)).2.2.2.2.2.2 0xa _ (by decide +kernel) (by decide +kernel) ⟨(by decide +kernel), (by decide +kernel), (by decide +kernel), (by decide +kernel)⟩⟩⟩

theorem test_ScalarWords_met (H : Obligations.ScalarWords) :
    Runs (.sadd 5) (word 0x30) ∧ Runs (.ssub 5) (word 0x31) ∧ Runs (.smul 5) (word 0x32) ∧ Runs (.smax 5) (word 0x33) ∧
    Runs (.smin 5) (word 0x34) ∧ Runs (.srsqrt 5) (word 0x35) ∧ Runs (.srcp 5) (word 0x36) ∧ Runs (.sexp2 5) (word 0x37) ∧
    Runs (.slog2 5) (word 0x38) ∧ Runs (.simm 5) (word 0x39) ∧ Runs (.sched 5) (uword tensor 0x3a) :=
  ⟨⟨_, (H (word 0x30) 5 (one vecOp 1) vwork 1 [code 0x30, 0] vc (code 0x30)).1 ⟨(by decide +kernel), (by decide +kernel), (by decide +kernel), (by decide +kernel)⟩⟩,
   ⟨_, (H (word 0x31) 5 (one vecOp 1) vwork 1 [code 0x31, 0] vc (code 0x31)).2.1 ⟨(by decide +kernel), (by decide +kernel), (by decide +kernel), (by decide +kernel)⟩⟩,
   ⟨_, (H (word 0x32) 5 (one vecOp 1) vwork 1 [code 0x32, 0] vc (code 0x32)).2.2.1 ⟨(by decide +kernel), (by decide +kernel), (by decide +kernel), (by decide +kernel)⟩⟩,
   ⟨_, (H (word 0x33) 5 (one vecOp 1) vwork 1 [code 0x33, 0] vc (code 0x33)).2.2.2.1 ⟨(by decide +kernel), (by decide +kernel), (by decide +kernel), (by decide +kernel)⟩⟩,
   ⟨_, (H (word 0x34) 5 (one vecOp 1) vwork 1 [code 0x34, 0] vc (code 0x34)).2.2.2.2.1 ⟨(by decide +kernel), (by decide +kernel), (by decide +kernel), (by decide +kernel)⟩⟩,
   ⟨_, (H (word 0x35) 5 (one vecOp 1) vwork 1 [code 0x35, 0] vc (code 0x35)).2.2.2.2.2.1 ⟨(by decide +kernel), (by decide +kernel), (by decide +kernel), (by decide +kernel)⟩⟩,
   ⟨_, (H (word 0x36) 5 (one vecOp 1) vwork 1 [code 0x36, 0] vc (code 0x36)).2.2.2.2.2.2.1 ⟨(by decide +kernel), (by decide +kernel), (by decide +kernel), (by decide +kernel)⟩⟩,
   ⟨_, (H (word 0x37) 5 (one vecOp 1) vwork 1 [code 0x37, 0] vc (code 0x37)).2.2.2.2.2.2.2.1 ⟨(by decide +kernel), (by decide +kernel), (by decide +kernel), (by decide +kernel)⟩⟩,
   ⟨_, (H (word 0x38) 5 (one vecOp 1) vwork 1 [code 0x38, 0] vc (code 0x38)).2.2.2.2.2.2.2.2.1 ⟨(by decide +kernel), (by decide +kernel), (by decide +kernel), (by decide +kernel)⟩⟩,
   ⟨_, (H (word 0x39) 5 (one vecOp 1) vwork 1 [code 0x39, 0] vc (code 0x39)).2.2.2.2.2.2.2.2.2.1 ⟨(by decide +kernel), (by decide +kernel), (by decide +kernel), (by decide +kernel)⟩⟩,
   ⟨_, (H (uword tensor 0x3a) 5 (one updOp 1) (uwork tensor) 1 [code 0x3a, 0] vc (code 0x3a)).2.2.2.2.2.2.2.2.2.2 ⟨(by decide +kernel), (by decide +kernel), (by decide +kernel), (by decide +kernel)⟩⟩⟩


/-- Two words, the second of them next. -/
def vc1 : VecCtx := { vc with pc := 1 }
def wide : Nat := tensor + 512 * 2 ^ 352
def vecOp2 : Nat := vecOp + 512 * 2 ^ 144
def twoV (op : Nat) : State := st fun d => program vc1 (one op 2) (runs op 2 id (prog [code 0x10] d))
def twoU (r a b : Nat) (c : VecCtx) : State := st fun d => program c (one updOp 2) (update r [a, b] d)
def mat (o : Nat) : State := st fun d => program vc (one updOp 4) (update tensor [code o] d)
def loop : Nat := 0x48 * 2 ^ 56 + 2
def vc1l : VecCtx := { vc1 with loops := 1 }

theorem test_ControlWords_met (H : Obligations.ControlWords) :
    Runs (.endProg 5) (twoV vecOp2) ∧ Runs (.passPhase 5) (twoU wide (code 0x10) (0x40 * 2 ^ 56) vc1) ∧
    Runs (.passPhase 5) (twoU tensor (code 0x10) (0x40 * 2 ^ 56) vc1) ∧ Runs (.endProg 5) (twoV vecOp) :=
  ⟨⟨_, (H (twoV vecOp2) 5 (one vecOp2 2) vwork 2 [code 0x10, 0] vc1 0).1 0 _ (by decide +kernel) ⟨(by decide +kernel), (by decide +kernel), (by decide +kernel), (by decide +kernel)⟩ (by decide +kernel) (by decide +kernel)⟩,
   ⟨_, (H (twoU wide (code 0x10) (0x40 * 2 ^ 56) vc1) 5 (one updOp 2) (uwork wide) 2 [code 0x10, 0x40 * 2 ^ 56, 0] vc1 (0x40 * 2 ^ 56)).1 0x40 _ (by decide +kernel)
     ⟨(by decide +kernel), (by decide +kernel), (by decide +kernel), (by decide +kernel)⟩ (by decide +kernel) (by decide +kernel)⟩,
   ⟨_, (H (twoU tensor (code 0x10) (0x40 * 2 ^ 56) vc1) 5 (one updOp 2) (uwork tensor) 1 [code 0x10, 0x40 * 2 ^ 56, 0] vc1 (0x40 * 2 ^ 56)).2.1
     ⟨(by decide +kernel), (by decide +kernel), (by decide +kernel), (by decide +kernel)⟩ (by decide +kernel) (by decide +kernel)⟩,
   ⟨_, (H (twoV vecOp) 5 (one vecOp 2) vwork 1 [code 0x10, 0] vc1 0).2.2.1 ⟨(by decide +kernel), (by decide +kernel), (by decide +kernel), (by decide +kernel)⟩ (by decide +kernel) (by decide +kernel)⟩⟩
theorem test_ControlWords_met_matrix (H : Obligations.ControlWords) :
    Runs (.mgram 5) (mat 0x41) ∧ Runs (.mmul 5) (mat 0x42) ∧
    Runs (.loopProg 5) (twoU tensor (0x40 * 2 ^ 56) loop vc1l) ∧ Runs (.loopProg 5) (twoU tensor (0x40 * 2 ^ 56) loop vc1) :=
  ⟨⟨_, (H (mat 0x41) 5 (one updOp 4) (uwork tensor) 1 [code 0x41, 0] vc (code 0x41)).2.2.2.1 0x41 _ (by decide +kernel) ⟨(by decide +kernel), (by decide +kernel), (by decide +kernel), (by decide +kernel)⟩⟩,
   ⟨_, (H (mat 0x42) 5 (one updOp 4) (uwork tensor) 1 [code 0x42, 0] vc (code 0x42)).2.2.2.1 0x42 _ (by decide +kernel) ⟨(by decide +kernel), (by decide +kernel), (by decide +kernel), (by decide +kernel)⟩⟩,
   ⟨_, (H (twoU tensor (0x40 * 2 ^ 56) loop vc1l) 5 (one updOp 2) (uwork tensor) 1 [0x40 * 2 ^ 56, loop, 0] vc1l loop).2.2.2.2.1 ⟨(by decide +kernel), (by decide +kernel), (by decide +kernel), (by decide +kernel)⟩ (by decide +kernel)⟩,
   ⟨_, (H (twoU tensor (0x40 * 2 ^ 56) loop vc1) 5 (one updOp 2) (uwork tensor) 1 [0x40 * 2 ^ 56, loop, 0] vc1 loop).2.2.2.2.2 0 ⟨(by decide +kernel), (by decide +kernel), (by decide +kernel), (by decide +kernel)⟩ (by decide +kernel)⟩⟩

/-- A key block stands first in the attention engine, and its step has been issued; or the engine has none. -/
def keyBlock (w : Nat) : State := st fun d => runs w 1 block d
def between (w : Nat) : State := st fun d => runs w 0 id d

theorem test_AttentionBlocks_met (H : Obligations.AttentionBlocks) :
    Runs (.attnFwd 5) (keyBlock 0x10) ∧ Runs (.attnDecode 5) (keyBlock 0x12) ∧ Runs (.attnBwd 5) (keyBlock 0x11) ∧
    Runs (.attnFwd 5) (between 0x10) ∧ Runs (.attnDecode 5) (between 0x12) ∧ Runs (.attnBwd 5) (between 0x11) :=
  ⟨⟨_, ((H (keyBlock 0x10) 5 (one 0x10 1) (by decide +kernel) (by decide +kernel)).1 _ _ _ (by decide +kernel) rfl).1 (by decide +kernel)⟩,
   ⟨_, ((H (keyBlock 0x12) 5 (one 0x12 1) (by decide +kernel) (by decide +kernel)).1 _ _ _ (by decide +kernel) rfl).2.1 (by decide +kernel)⟩,
   ⟨_, ((H (keyBlock 0x11) 5 (one 0x11 1) (by decide +kernel) (by decide +kernel)).1 _ _ _ (by decide +kernel) rfl).2.2 (by decide +kernel)⟩,
   ⟨_, ((H (between 0x10) 5 (one 0x10 0) (by decide +kernel) (by decide +kernel)).2 _ (by decide +kernel) (by decide +kernel) rfl).1 (by decide +kernel)⟩,
   ⟨_, ((H (between 0x12) 5 (one 0x12 0) (by decide +kernel) (by decide +kernel)).2 _ (by decide +kernel) (by decide +kernel) rfl).2.1 (by decide +kernel)⟩,
   ⟨_, ((H (between 0x11) 5 (one 0x11 0) (by decide +kernel) (by decide +kernel)).2 _ (by decide +kernel) (by decide +kernel) rfl).2.2 (by decide +kernel)⟩⟩


theorem test_TileWrites_met (H : Obligations.TileWrites) :
    Runs (.tileFaultClear .mgmt 383 8) (st fun d => at5 { one 0x41 0 with halted := true } (d.setWord (R.TILE_ERR 383) 8)) ∧
    Runs (.tileInjectPoisonOut .mgmt 383 2) (st test) ∧ Runs (.tileInjectShadowParity .mgmt 0 3) (st test) ∧
    Runs (.tileInjectPoisonOut .mgmt 0 2) (st fun d => { d with out := [.mgmtInt] }) ∧
    Runs (.tileInjectShadowParity .mgmt 0 2) (st fun d => { d with out := [.mgmtInt] }) ∧
    Runs (.pumpInjectAddrErr .mgmt 383 2) (st test) ∧ Runs (.pumpInjectStale .mgmt 0 1) (st test) ∧
    Runs (.attnInjectMispredict .mgmt 383 2) (st test) ∧ Runs (.attnInjectForceRecover .mgmt 0 1) (st test) ∧
    Runs (.nearCacheInv .mgmt 383 1) (st id) ∧ Runs (.nearCacheInvDone 383) (st fun d => d.set (R.CIST_NC_CTL_BUSY 383) 1) :=
  ⟨⟨_, (H _ _ 383 8 (by decide +kernel) (by decide +kernel)).1 (by decide +kernel) (by decide +kernel)⟩, ⟨_, ((H (st test) _ 383 2 (by decide +kernel) (by decide +kernel)).2.1 (by decide +kernel) (by decide +kernel)).choose_spec.2.2.2⟩,
   ⟨_, ((H (st test) _ 0 3 (by decide +kernel) (by decide +kernel)).2.2.1 (by decide +kernel) (by decide +kernel)).choose_spec.2.2.2⟩, ⟨_, ((H _ _ 0 2 (by decide +kernel) (by decide +kernel)).2.2.2.1 (by decide +kernel) (by decide +kernel)).1⟩, ⟨_, ((H _ _ 0 2 (by decide +kernel) (by decide +kernel)).2.2.2.1 (by decide +kernel) (by decide +kernel)).2⟩,
   ⟨_, ((H (st test) _ 383 2 (by decide +kernel) (by decide +kernel)).2.2.2.2.1 (by decide +kernel) (by decide +kernel)).choose_spec.2.2.2⟩, ⟨_, ((H (st test) _ 0 1 (by decide +kernel) (by decide +kernel)).2.2.2.2.2.1 (by decide +kernel) (by decide +kernel)).choose_spec.2.2.2⟩,
   ⟨_, ((H (st test) _ 383 2 (by decide +kernel) (by decide +kernel)).2.2.2.2.2.2.1 (by decide +kernel) (by decide +kernel)).1⟩, ⟨_, ((H (st test) _ 0 1 (by decide +kernel) (by decide +kernel)).2.2.2.2.2.2.1 (by decide +kernel) (by decide +kernel)).2⟩,
   ⟨_, (H _ _ 383 1 (by decide +kernel) (by decide +kernel)).2.2.2.2.2.2.2.1 (by decide +kernel) (by decide +kernel)⟩, ⟨_, (H _ .mgmt 383 0 (by decide +kernel) (by decide +kernel)).2.2.2.2.2.2.2.2⟩⟩

/-- Logical tile 319 is placed on site 5, and holds bytes; `c` of the changes that make an access wait. -/
def placed (f : TileUnit → TileUnit) (d : Dev) : Dev :=
  let d := d.setTile 5 (f TileUnit.idle)
  { d with img := { d.img with places := [⟨319, 5, 3, 0xFF, 0⟩] } }
def place319 : Place := ⟨319, 5, 3, 0xFF, 0⟩
def window : State := st (placed id)
def windowMoves : State := st fun d => let d := placed id d; { d with img := { d.img with windowsWait := true } }
def windowBusy : State := st (placed fun u => { u with busy := [(0, 0x7FF800, 0x800000)] })

theorem test_CisternWindows_met (H : Obligations.CisternWindows) :
    Runs (.cisternWindowAccess (.die 3) 319 0x7FFFFE 0 true [1, 2]) window ∧
    Runs (.cisternWindowAccess (.remote 7 3 0) 319 0 0 true [1, 2]) window ∧
    Runs (.cisternWindowAccess (.die 3) 319 0x7FFFFE 2 false []) window ∧
    Runs (.cisternWindowAccess (.die 3) 319 0 2 false []) windowMoves ∧ Runs (.cisternWindowAccess (.die 3) 319 0x7FFFFE 2 false []) windowBusy :=
  ⟨⟨_, (H window (.die 3) 319 0x7FFFFE place319 (by decide +kernel) (by decide +kernel) (by decide +kernel) (by decide +kernel)).1 0 [1, 2] (by decide +kernel) (by decide +kernel)⟩, ⟨_, (H window (.remote 7 3 0) 319 0 place319 (by decide +kernel) (by decide +kernel) (by decide +kernel) (by decide +kernel)).1 0 [1, 2] (by decide +kernel) (by decide +kernel)⟩,
   ⟨_, (H window (.die 3) 319 0x7FFFFE place319 (by decide +kernel) (by decide +kernel) (by decide +kernel) (by decide +kernel)).2.1 2 [] (by decide +kernel) (by decide +kernel) (by decide +kernel)⟩,
   ⟨_, (H windowMoves (.die 3) 319 0 place319 (by decide +kernel) (by decide +kernel) (by decide +kernel) (by decide +kernel)).2.2.2 2 false [] ((H windowMoves (.die 3) 319 0 place319 (by decide +kernel) (by decide +kernel) (by decide +kernel) (by decide +kernel)).2.2.1 2 [] (by decide +kernel))⟩,
   ⟨_, (H windowBusy (.die 3) 319 0x7FFFFE place319 (by decide +kernel) (by decide +kernel) (by decide +kernel) (by decide +kernel)).2.2.2 2 false []
     ((H windowBusy (.die 3) 319 0x7FFFFE place319 (by decide +kernel) (by decide +kernel) (by decide +kernel) (by decide +kernel)).2.2.1 2 [] (by decide +kernel))⟩⟩

/-- A stream waits for a watch; a copy's bucket is to be fetched; a piece of it is under way. -/
def watching : State := st fun d => runs copyOp 0 (streams [{ strm .mov (0x100000 + 4 * 2 ^ 76 + 2048 * 2 ^ 128) with waitWatch := true }]) (work d)
def asking : State := st fun d => runs copyOp 0 mov (work d)
def part : Piece := ⟨0, 0, 0, some 0x100000, 2048, false⟩
def coming (err : Bool) : State := st fun d => runs copyOp 0 (fun u => { u with
  streams := [{ strm .mov (0x100000 + 4 * 2 ^ 76 + 2048 * 2 ^ 128) with
    buckets := [{ idx := 0, all := [part], ready := [], sent := 1, stale := false, refetch := false, live := true, pcs := [], bytes := List.replicate 2048 0
                  poison := 0, src := [(0x100000, 2048)], kept := false }] }]
  reqs := [⟨0, [part], false, err, false⟩], nextReq := 1 }) (put 0x100000 2 0x1234 (work d))

theorem test_PumpRequests_met (H : Obligations.PumpRequests) :
    Runs (.watchGrant 5) watching ∧ Runs (.pieceIssue 5) asking ∧ Runs (.pieceArrive 5 0) (coming false) ∧ Runs (.pieceArrive 5 0) (coming true) :=
  ⟨⟨_, (H watching 5).1 0 (by decide +kernel) (by decide +kernel)⟩, ⟨_, (H asking 5).2.1 part [] 128 (by decide +kernel) (by decide +kernel) (by decide +kernel) (by decide +kernel) (by decide +kernel) (by decide +kernel)⟩,
   ⟨_, (H (coming false) 5).2.2.1 0 ⟨0, [part], false, false, false⟩ part _ _ (by decide +kernel) (by decide +kernel) (by decide +kernel) (by decide +kernel) rfl⟩,
   ⟨_, (H (coming true) 5).2.2.2.1 0 ⟨0, [part], false, true, false⟩ (by decide +kernel) (by decide +kernel) (by decide +kernel)⟩⟩

/-- A walk of page 0 of context 0, whose handle may be bound; and the frame of its page. -/
def walkDesc : Nat := 3 * 2 ^ 57 + 4 * 2 ^ 76 + 64 * 2 ^ 183
def walking (binds : List (Nat × Nat)) (l2 : Nat) : State := st fun d =>
  let d := runs 0x10 0 (streams [strm .sta walkDesc]) (kvWorld [(2, fe 64 3 0 1)] l2 d)
  { d with ops := [{ oper 0x10 none with binds := binds }] }

theorem test_PumpRequests_met_pages (H : Obligations.PumpRequests) :
    Runs (.pageTranslate 5 0 0) (walking [] 2) ∧ Runs (.pageTranslate 5 0 0) (walking [(0, 0)] 0xFFFFFFFF) ∧
    Runs (.pageTranslate 5 0 0) (walking [(0, 0)] 2) :=
  ⟨⟨_, ((H (walking [] 2) 5).2.2.2.2 0 0 (strm .sta walkDesc) (by decide +kernel) (by decide +kernel) (by decide +kernel) (by decide +kernel) (by decide +kernel) (by decide +kernel)).1 (by decide +kernel)⟩,
   ⟨_, (((H (walking [(0, 0)] 0xFFFFFFFF) 5).2.2.2.2 0 0 (strm .sta walkDesc) (by decide +kernel) (by decide +kernel) (by decide +kernel) (by decide +kernel) (by decide +kernel) (by decide +kernel)).2 0 ctx0 (by decide +kernel)).1 _ rfl⟩,
   ⟨_, (((H (walking [(0, 0)] 2) 5).2.2.2.2 0 0 (strm .sta walkDesc) (by decide +kernel) (by decide +kernel) (by decide +kernel) (by decide +kernel) (by decide +kernel) (by decide +kernel)).2 0 ctx0 (by decide +kernel)).2 _ 2 false rfl⟩⟩

/-- LOOP holds 4, and the port is in TEST. -/
def looping : State := st fun d => (linkAt 8 d).set (R.AGX_PORT_CTL_LOOP 35) 4

/-- LOOP: ended from TEST and from HELD; left 0; begun within the port and at the far end; refused; left as it is. -/
theorem test_PortWrites_met (H : Obligations.PortWrites) :
    Runs (.agxLoop .mgmt 35 0) looping ∧ Runs (.agxPortCtlWrite .mgmt 35 0) (link 6) ∧ Runs (.agxPortEnable .mgmt 35 1) (link 5) ∧
    Runs (.agxLoop .mgmt 35 2) (link 0) ∧ Runs (.agxLoop .mgmt 35 8) (link 6) ∧ Runs (.agxLoop .mgmt 35 2) (link 3) ∧ Runs (.agxLoop .mgmt 35 10) (link 0) ∧
    Runs (.agxPortCtlWrite .mgmt 35 0) (link 3) := by
  refine ⟨?_, ?_, ?_, ?_, ?_, ?_, ?_, ?_⟩
  · obtain ⟨g, h⟩ := (H looping .mgmt 35 0 (by decide +kernel) (by decide +kernel)).1
    have e := h.1 (by decide +kernel) (by decide +kernel); subst e
    exact ⟨_, ((h.2.2.2.2.2.2.2 (by decide +kernel)).2.2 (by decide +kernel)).2⟩
  · obtain ⟨g, h⟩ := (H (link 6) .mgmt 35 0 (by decide +kernel) (by decide +kernel)).1
    have e := h.2.1 (by decide +kernel) (by decide +kernel); subst e
    exact ⟨_, ((h.2.2.2.2.2.2.2 (by decide +kernel)).2.2 (by decide +kernel)).1⟩
  · obtain ⟨g, h⟩ := (H (link 5) .mgmt 35 1 (by decide +kernel) (by decide +kernel)).1
    have e := h.2.2.1 (by decide +kernel) (by decide +kernel); subst e
    exact ⟨_, (h.2.2.2.2.2.2.2 (by decide +kernel)).1 (by decide +kernel)⟩
  · obtain ⟨g, h⟩ := (H (link 0) .mgmt 35 2 (by decide +kernel) (by decide +kernel)).1
    have e := h.2.2.2.1 (by decide +kernel) (by decide +kernel) (by decide +kernel); subst e
    exact ⟨_, ((h.2.2.2.2.2.2.2 (by decide +kernel)).2.2 (by decide +kernel)).2⟩
  · obtain ⟨g, h⟩ := (H (link 6) .mgmt 35 8 (by decide +kernel) (by decide +kernel)).1
    obtain ⟨e, rfl, rfl⟩ := h.2.2.2.2.1 (by decide +kernel) (by decide +kernel)
    exact ⟨_, ((h.2.2.2.2.2.2.2 (by decide +kernel)).2.2 (by decide +kernel)).2⟩
  · obtain ⟨g, h⟩ := (H (link 3) .mgmt 35 2 (by decide +kernel) (by decide +kernel)).1
    have e := h.2.2.2.2.2.1 (by decide +kernel) (by decide +kernel); subst e
    exact ⟨_, ((h.2.2.2.2.2.2.2 (by decide +kernel)).2.2 (by decide +kernel)).2⟩
  · obtain ⟨g, h⟩ := (H (link 0) .mgmt 35 10 (by decide +kernel) (by decide +kernel)).1
    have e := h.2.2.2.2.2.1 (by decide +kernel) (by decide +kernel); subst e
    exact ⟨_, ((h.2.2.2.2.2.2.2 (by decide +kernel)).2.2 (by decide +kernel)).2⟩
  · obtain ⟨g, h⟩ := (H (link 3) .mgmt 35 0 (by decide +kernel) (by decide +kernel)).1
    have e := h.2.2.2.2.2.2.1 (by decide +kernel) (by decide +kernel) (by decide +kernel); subst e
    exact ⟨_, ((h.2.2.2.2.2.2.2 (by decide +kernel)).2.2 (by decide +kernel)).1⟩

def enabled : State := st fun d => (linkAt 3 d).set (R.AGX_PORT_CTL_ENABLE 35) 1
def testing : State := st fun d => (linkAt 3 (test d)).set (R.AGX_PORT_INJECT_LANE 35) 8

theorem test_PortWrites_met_more (H : Obligations.PortWrites) :
    Runs (.agxPortDisable .mgmt 35 0) enabled ∧ Runs (.agxPortInjectCrc .mgmt 35 0x11) testing ∧ Runs (.laneFailNow .mgmt 35 0) testing := by
  refine ⟨?_, ⟨_, (H testing .mgmt 35 0x11 (by decide +kernel) (by decide +kernel)).2.1 (by decide +kernel)⟩, ⟨_, (H testing .mgmt 35 0 (by decide +kernel) (by decide +kernel)).2.2 (by decide +kernel)⟩⟩
  obtain ⟨g, h⟩ := (H enabled .mgmt 35 0 (by decide +kernel) (by decide +kernel)).1
  have e := h.2.2.2.2.2.2.1 (by decide +kernel) (by decide +kernel) (by decide +kernel); subst e
  exact ⟨_, (h.2.2.2.2.2.2.2 (by decide +kernel)).2.1 (by decide +kernel)⟩

/-- The domain: device `n` is present; port 35's peer is device 40, port 32, where `g` is the entry. -/
def domain (n g : Nat) (d : Dev) : Dev :=
  (d.setWord (R.SEC_DOMAIN n 0) (BitVec.ofNat 64 (2 ^ 15))).setWord (R.SEC_DOMAIN 0 1) (BitVec.ofNat 64 (g * 2 ^ 48))
def peer : Nat := 2 ^ 15 + 1 * 2 ^ 12 + 40
/-- A LINK_ID of device n, port m, and the hash of zeros, stands in front. -/
def linkId (state n m : Nat) (f : Dev → Dev) : State := st fun d =>
  got 35 (.ctl 1 (leBytes 2 n ++ leBytes 1 m ++ List.replicate 48 0)) (f (linkAt state d))

theorem test_LinksTrain_met (H : Obligations.LinksTrain) :
    Runs (.trainDone 35 ⟨0x100, []⟩) (link 1) ∧ Runs (.trainDone 35 ⟨0, [0, 17, 17, 17, 17, 17]⟩) (link 1) ∧ Runs (.trainDone 35 ⟨0x3F, []⟩) (link 1) ∧
    Runs (.trainTimeout 35 1) (link 1) ∧ Runs (.downRetry 35) (link 5) ∧ Runs (.identifyTimeout 35) (link 2) ∧ Runs (.retrainDone ⟨35, 9⟩) (link 4) ∧
    Runs (.lockLost 35) (link 7) ∧ Runs (.portDrainDone 35) (st fun d => (linkAt 3 d).set (R.AGX_PORT_STATUS_PWR 35) 2) :=
  ⟨⟨_, ((H.1 (link 1) 35).1 0x100 [] (by decide +kernel) (by decide +kernel)).1 (by decide +kernel) (by decide +kernel)⟩, ⟨_, ((H.1 (link 1) 35).1 0 [0, 17, 17, 17, 17, 17] (by decide +kernel) (by decide +kernel)).2.1 (by decide +kernel) (by decide +kernel)⟩,
   ⟨_, ((H.1 (link 1) 35).1 0x3F [] (by decide +kernel) (by decide +kernel)).2.2.1 (by decide +kernel)⟩, ⟨_, ((H.1 (link 1) 35).1 1 [] (by decide +kernel) (by decide +kernel)).2.2.2⟩, ⟨_, (H.1 (link 5) 35).2.1 (by decide +kernel)⟩,
   ⟨_, (H.1 (link 2) 35).2.2.2.2.1 (by decide +kernel)⟩, ⟨_, (H.1 (link 4) 35).2.2.2.2.2.1 9 (by decide +kernel)⟩, ⟨_, (H.1 (link 7) 35).2.2.2.2.2.2.1 (by decide +kernel)⟩,
   ⟨_, (H.1 _ 35).2.2.2.2.2.2.2 (by decide +kernel)⟩⟩

theorem test_LinksTrain_met_identify (H : Obligations.LinksTrain) :
    Runs (.linkId ⟨0, 9⟩) (linkId 6 40 32 id) ∧ Runs (.linkId ⟨0, 9⟩) (linkId 2 40 32 (domain 40 peer)) ∧
    Runs (.linkId ⟨0, 9⟩) (linkId 2 40 32 fun d => (domain 40 peer d).setWord (R.SEC_DOMAIN_HASH 0) 1) ∧
    Runs (.linkId ⟨0, 9⟩) (linkId 2 40 33 (domain 40 peer)) ∧ Runs (.linkId ⟨0, 9⟩) (linkId 2 41 32 (domain 40 peer)) :=
  ⟨⟨_, (H.1 (linkId 6 40 32 id) 35).2.2.1 0 9 _ _ rfl (by decide +kernel)⟩,
   ⟨_, ((H.1 (linkId 2 40 32 (domain 40 peer)) 35).2.2.2.1 0 9 _ _ rfl (by decide +kernel)).1 (by decide +kernel) (by decide +kernel) (by decide +kernel)⟩,
   ⟨_, ((H.1 (linkId 2 40 32 fun d => (domain 40 peer d).setWord (R.SEC_DOMAIN_HASH 0) 1) 35).2.2.2.1 0 9 _ _ rfl (by decide +kernel)).2.1 (by decide +kernel) (by decide +kernel) (by decide +kernel)⟩,
   ⟨_, ((H.1 (linkId 2 40 33 (domain 40 peer)) 35).2.2.2.1 0 9 _ _ rfl (by decide +kernel)).2.2.1 (40, 32) (by decide +kernel) (by decide +kernel) (by decide +kernel)⟩,
   ⟨_, ((H.1 (linkId 2 41 32 (domain 40 peer)) 35).2.2.2.1 0 9 _ _ rfl (by decide +kernel)).2.2.2 (by decide +kernel)⟩⟩

/-- A port at width 8 whose lane 8 is the spare; LINK_ID's place holds a SPARE_REQ or SPARE_ACK of a lane; a switch of lane 2 is under way. -/
def wide8 (d : Dev) : Dev := (linkAt 3 d).mapLanes 35 8
def sparing (x : Option Sparing) (t lane : Nat) : State := st fun d =>
  let d := wide8 d
  got 35 (.ctl t (leBytes 1 lane ++ leBytes 2 0xFFF)) (d.setPort 35 { d.port 35 with sparing := x })
def lane2 : Sparing := ⟨2, 8, 64, none, false, false⟩
def counting : State := st fun d => (wide8 d).set (R.AGX_PORT_SPARE_TH_CORR_TH 35) 5

theorem test_LinksTrain_met_lanes (H : Obligations.LinksTrain) :
    Runs (.laneFail 35 8 5 0) counting ∧ Runs (.laneFail 35 8 4 1) counting ∧ Runs (.laneFail 35 0 5 0) counting ∧
    Runs (.spareReq 0) (sparing none 4 7) ∧ Runs (.spareReq 0) (sparing (some lane2) 4 7) ∧ Runs (.spareAck 0) (sparing (some lane2) 5 2) :=
  ⟨⟨_, ((H.2 counting 35 8 (by decide +kernel) (by decide +kernel)).1 5 0).1 (by decide +kernel) (by decide +kernel)⟩, ⟨_, ((H.2 counting 35 8 (by decide +kernel) (by decide +kernel)).1 4 1).2 (by decide +kernel)⟩,
   ⟨_, (H.2 counting 35 0 (by decide +kernel) (by decide +kernel)).2.1 5 0 8 (by decide +kernel) (by decide +kernel) (by decide +kernel) (by decide +kernel) (by decide +kernel) (by decide +kernel) (by decide +kernel)⟩,
   ⟨_, ((H.2 (sparing none 4 7) 35 7 (by decide +kernel) (by decide +kernel)).2.2.1 0 _ _ rfl (by decide +kernel)).1 (by decide +kernel)⟩,
   ⟨_, ((H.2 (sparing (some lane2) 4 7) 35 7 (by decide +kernel) (by decide +kernel)).2.2.1 0 _ _ rfl (by decide +kernel)).2 lane2 (by decide +kernel) (by decide +kernel)⟩,
   ⟨_, (H.2 (sparing (some lane2) 5 2) 35 2 (by decide +kernel) (by decide +kernel)).2.2.2 0 _ _ lane2 rfl (by decide +kernel)⟩⟩

/-- An empty CONTROL flit of a subtype that nothing answers, in sequence `n`, with its CRC. -/
def flit0 (n : Nat) : Flit :=
  { ftype := 4, ackV := true, ackSeq := 0, nak := false, seq := n, dest := 0, src := 7, crPool := 0, crCnt := 1, hops := 0, ind := false, mcast := false
    poison := false, len := 1, first := true, last := true, rsp := false, vl := 0, crc := 0, payload := [0x13] }
def flit (n : Nat) : Flit := { flit0 n with crc := flitCrc (flit0 n) }

/-- Port 35 is UP, and awaits flit 4095; `n` flits since its last acknowledgement. -/
def carrying (n : Nat) : State := st fun d => (linkAt 3 d).setPort 35 { PortUnit.reset with expSeq := 4095, sinceAck := n }

theorem test_LinksCarry_met_flits (H : Obligations.LinksCarry) :
    Runs (.flitReceive 35 (flit 4095)) (carrying 30) ∧ Runs (.flitReceive 35 (flit 4095)) (carrying 31) ∧
    Runs (.flitReceive 35 (flit 4094)) (carrying 0) ∧ Runs (.flitReceive 35 (flit 0)) (carrying 0) ∧ Runs (.flitReceive 35 (flit0 4095)) (carrying 0) :=
  ⟨⟨_, ((H (carrying 30) 35).1 (flit 4095) (by decide +kernel) (by decide +kernel) (by decide +kernel) (by decide +kernel) (by decide +kernel) (by decide +kernel) (by decide +kernel) (by decide +kernel)).1 (by decide +kernel) (by decide +kernel)⟩, ⟨_, ((H (carrying 31) 35).1 (flit 4095) (by decide +kernel) (by decide +kernel) (by decide +kernel) (by decide +kernel) (by decide +kernel) (by decide +kernel) (by decide +kernel) (by decide +kernel)).2.1 (by decide +kernel) (by decide +kernel)⟩,
   ⟨_, ((H (carrying 0) 35).1 (flit 4094) (by decide +kernel) (by decide +kernel) (by decide +kernel) (by decide +kernel) (by decide +kernel) (by decide +kernel) (by decide +kernel) (by decide +kernel)).2.2.1 (by decide +kernel)⟩, ⟨_, ((H (carrying 0) 35).1 (flit 0) (by decide +kernel) (by decide +kernel) (by decide +kernel) (by decide +kernel) (by decide +kernel) (by decide +kernel) (by decide +kernel) (by decide +kernel)).2.2.2 (by decide +kernel) (by decide +kernel)⟩,
   ⟨_, (H (carrying 0) 35).2.1 (flit0 4095) (by decide +kernel) (by decide +kernel) (by decide +kernel) (by decide +kernel) (by decide +kernel) (by decide +kernel)⟩⟩

/-- One flit is not acknowledged after `n` replays; and a flit is owed an acknowledgement. -/
def replaying (n : Nat) : State := st fun d => (linkAt 3 d).setPort 35 { PortUnit.reset with replay := [⟨flit0 0, 0, none, 0⟩], replays := n, sinceAck := 1 }

/-- A posted write of one flit waits on port 35 on virtual lane 1, or in the window of operation 0, in beat 0 of its chain. -/
def qpkt (vl : Nat) (plan : Option (Nat × Nat)) : QPkt :=
  { pkt := pkt vl, flits := [flit0 0], beat := 0, plan := plan, relay := none, ahead := false, tree := none, mark := 0, pools := [], sent := 0 }
def queued1 (vl : Nat) (plan : Option (Nat × Nat)) (d : Dev) : Dev :=
  ((linkAt 3 d).set (R.SEC_AGX_CAP_CAP 35) 255).setPort 35 { PortUnit.reset with txq := [qpkt vl plan], vlOrder := [vl, 2, 3] }
def arbited : State := st (queued1 1 none)
def planned : State := st fun d =>
  let d := queued1 0 (some (0, 0)) (image [(13, [(0, 4, 1), (4, 16, 2 ^ 56 + 2 ^ 64 + 2 ^ 95 + 35 * 2 ^ 106)])] (d.set R.BEAT_STATUS_LOCK_STATE 2))
  { d with ops := [{ oper 0x41 none with slotPlan := 1 }] }

theorem test_LinksCarry_met_send (H : Obligations.LinksCarry) :
    Runs (.replayTimeout 35) (replaying 7) ∧ Runs (.replayTimeout 35) (replaying 8) ∧ Runs (.acknowledgementInterval 35) (replaying 0) ∧
    Runs (.packetSend 35 ⟨1, 1⟩) planned ∧ Runs (.packetSend 35 ⟨0, 1⟩) arbited :=
  ⟨⟨_, ((H (replaying 7) 35).2.2.1 (by decide +kernel) (by decide +kernel)).1 (by decide +kernel)⟩, ⟨_, ((H (replaying 8) 35).2.2.1 (by decide +kernel) (by decide +kernel)).2 (by decide +kernel)⟩, ⟨_, (H (replaying 0) 35).2.2.2.1 (by decide +kernel) (by decide +kernel)⟩,
   ⟨_, ((H planned 35).2.2.2.2.1 1 1 (qpkt 0 (some (0, 0))) _ (by decide +kernel) (by decide +kernel) (by decide +kernel) (by decide +kernel) (by decide +kernel) rfl).1 (by decide +kernel) (by decide +kernel) (by decide +kernel)⟩,
   ⟨_, ((H arbited 35).2.2.2.2.1 0 1 (qpkt 1 none) _ (by decide +kernel) (by decide +kernel) (by decide +kernel) (by decide +kernel) (by decide +kernel) rfl).2 1 (by decide +kernel) (by decide +kernel) (by decide +kernel)⟩⟩

/-- A CONTROL flit stands in front; the round trip has been begun at tick 5; the replay buffer is full. -/
def ctl (t : Nat) (f : Dev → Dev) : State := st fun d => got 35 (.ctl t []) (f (linkAt 3 d))
def probed (d : Dev) : Dev := d.setPort 35 { PortUnit.reset with probeAt := some 5 }
def full : State := st fun d => (linkAt 3 d).setPort 35 { PortUnit.reset with replay := List.replicate 512 ⟨flit0 0, 0, none, 0⟩ }

theorem test_LinksCarry_met_control (H : Obligations.LinksCarry) :
    Runs (.rttProbeTimer 35 9) (link 3) ∧ Runs (.rttProbeTimer 35 9) full ∧ Runs (.rttProbe 0) (ctl 2 id) ∧ Runs (.rttEcho 0 (2 ^ 20 + 5)) (ctl 3 probed) ∧
    Runs (.loopReq 0) (ctl 6 test) ∧ Runs (.loopReq 0) (ctl 6 id) ∧ Runs (.loopExit 0) (ctl 7 id) ∧ Runs (.vl0SlotStart 63) planned :=
  ⟨⟨_, ((H (link 3) 35).2.2.2.2.2.1 9 (by decide +kernel)).1 (by decide +kernel)⟩, ⟨_, ((H full 35).2.2.2.2.2.1 9 (by decide +kernel)).2 (by decide +kernel)⟩, ⟨_, (H (ctl 2 id) 35).2.2.2.2.2.2.1 0 _ _ rfl⟩,
   ⟨_, (H (ctl 3 probed) 35).2.2.2.2.2.2.2.1 0 (2 ^ 20 + 5) 5 _ _ rfl (by decide +kernel)⟩, ⟨_, (H (ctl 6 test) 35).2.2.2.2.2.2.2.2.1 0 _ _ rfl (by decide +kernel)⟩,
   ⟨_, (H (ctl 6 id) 35).2.2.2.2.2.2.2.2.2.1 0 _ _ rfl (by decide +kernel)⟩, ⟨_, (H (ctl 7 id) 35).2.2.2.2.2.2.2.2.2.2.1 0 _ _ rfl⟩,
   ⟨_, (H planned 35).2.2.2.2.2.2.2.2.2.2.2 63 (by decide +kernel) (by decide +kernel) (fun q r h => by
      by_cases e : r = 35
      · subst e
        have u : (planned.dev.port 35).txq = [qpkt 0 (some (0, 0))] := (by decide +kernel)
        rw [u] at h
        obtain rfl := List.mem_singleton.1 h
        exact (by decide +kernel)
      · have u : planned.dev.ports = [(35, planned.dev.port 35)] := (by decide +kernel)
        have v : (planned.dev.port r).txq = [] := by
          show (stGet _ planned.dev.ports r).txq = []
          rw [u]
          simp [stGet, Ne.symm e, PortUnit.reset]
        rw [v] at h
        cases h)⟩⟩

/-- A request of device 40, which manages this one, stands in front on port 35 in beat 9; HBM holds the FP32 numbers 1 and 2 at 0x2000. -/
def asked (q : Pkt) (d : Dev) : Dev :=
  got 35 (.req { q with src := 40, dest := 0 }) (((put 0x2000 8 0x400000003F800000 ((d.set R.ECC_TOP_TOP (2 ^ 36)).setWord (R.SEC_DOMAIN 40 0) 0xC000)).set
    R.BEAT_STATUS_LOCK_STATE 2).set R.BEAT_NUM_NUM 9)
def home (q : Pkt) : State := st (asked q)
def readPkt : Pkt := { pkt 0 with opc := 1, addr := 0x2000, data := leBytes 16 1, beatTag := 9 }
def writePkt (opc : Nat) : Pkt := { pkt 0 with opc := opc, addr := 0x3FF8, data := leBytes 8 5 }
def ctlPkt : Pkt := { pkt 3 with opc := 2, addr := ctlBase + R.BEAT_PERIOD, data := leBytes 8 6000 }
def atomPkt (atop n : Nat) : Pkt := { pkt 2 with opc := 4, addr := 0x2000, data := leBytes n 0x3F8000003F800000, atop := atop, fetch := true, beatTag := 9 }

/-- Beat 8 is not sealed: a port of the set has sent nothing; the request is put aside, or waits there. -/
def unsealed : State := st fun d =>
  let d := (asked readPkt (up 4 d)).set (R.AGX_PORT_STATUS_PWR 4) 1
  d.setPort 4 { d.port 4 with inSet := true, came := [[(1, 7)], [(1, 7)], [(1, 7)], []], named := [[(1, 7)], [(1, 7)], [(1, 7)], [(1, 7)]] }
def putAside (q : Pkt) : State := st fun d => let d := asked q d; { d with agx := { d.agx with inbox := [], held := d.agx.inbox } }

theorem test_HomeRequests_met_held (H : Obligations.HomeRequests) :
    Runs (.sealWaitRelease ⟨0, 5⟩) (putAside readPkt) ∧ Runs (.sealWaitRelease ⟨0, 5⟩) (putAside (atomPkt 0 8)) ∧ Runs (.readReq 0) unsealed :=
  ⟨⟨_, (H.1 (putAside readPkt) 0 5 _ _ rfl rfl (by decide +kernel) (by decide +kernel) (by decide +kernel)).1 (by decide +kernel)⟩, ⟨_, (H.1 (putAside (atomPkt 0 8)) 0 5 _ _ rfl rfl (by decide +kernel) (by decide +kernel) (by decide +kernel)).2 (by decide +kernel) (by decide +kernel)⟩,
   ⟨_, (H.2 unsealed 0 _ _ _ (by decide +kernel) rfl rfl (by decide +kernel) (by decide +kernel) rfl (by decide +kernel)).2.1 (by decide +kernel) (by decide +kernel)⟩⟩
theorem test_HomeRequests_met (H : Obligations.HomeRequests) :
    Runs (.readReq 0) (home readPkt) ∧ Runs (.writeReq 0) (home (writePkt 2)) ∧ Runs (.writePosted 0) (home (writePkt 3)) ∧
    Runs (.fp32Add 0) (home (atomPkt 0 8)) ∧ Runs (.fp32Max 0) (home (atomPkt 2 8)) ∧ Runs (.int64Add 0) (home (atomPkt 1 8)) ∧
    Runs (.cas64 0) (home (atomPkt 3 16)) ∧ ∃ t, exec (.writeReq 0) (home ctlPkt) = .next t :=
  ⟨⟨_, (H.2 (home readPkt) 0 _ _ _ (by decide +kernel) rfl rfl (by decide +kernel) (by decide +kernel) rfl (by decide +kernel)).1 _ _ (by decide +kernel) (by decide +kernel) (by decide +kernel) rfl (by decide +kernel)⟩,
   ⟨_, ((H.2 (home (writePkt 2)) 0 _ _ _ (by decide +kernel) rfl rfl (by decide +kernel) (by decide +kernel) rfl (by decide +kernel)).2.2.1 0x3FF8 (by decide +kernel) (by decide +kernel) (by decide +kernel) (by decide +kernel)).1 (by decide +kernel)⟩,
   ⟨_, ((H.2 (home (writePkt 3)) 0 _ _ _ (by decide +kernel) rfl rfl (by decide +kernel) (by decide +kernel) rfl (by decide +kernel)).2.2.1 0x3FF8 (by decide +kernel) (by decide +kernel) (by decide +kernel) (by decide +kernel)).2 (by decide +kernel)⟩,
   ⟨_, ((H.2 (home (atomPkt 0 8)) 0 _ _ _ (by decide +kernel) rfl rfl (by decide +kernel) (by decide +kernel) rfl (by decide +kernel)).2.2.2.2 0x2000 8 _ _ (by decide +kernel) (by decide +kernel) (by decide +kernel) (by decide +kernel) (by decide +kernel) (by decide +kernel) (by decide +kernel) (by decide +kernel) (by decide +kernel) rfl (by decide +kernel)).1 (by decide +kernel)⟩,
   ⟨_, ((H.2 (home (atomPkt 2 8)) 0 _ _ _ (by decide +kernel) rfl rfl (by decide +kernel) (by decide +kernel) rfl (by decide +kernel)).2.2.2.2 0x2000 8 _ _ (by decide +kernel) (by decide +kernel) (by decide +kernel) (by decide +kernel) (by decide +kernel) (by decide +kernel) (by decide +kernel) (by decide +kernel) (by decide +kernel) rfl (by decide +kernel)).2.1 (by decide +kernel)⟩,
   ⟨_, ((H.2 (home (atomPkt 1 8)) 0 _ _ _ (by decide +kernel) rfl rfl (by decide +kernel) (by decide +kernel) rfl (by decide +kernel)).2.2.2.2 0x2000 8 _ _ (by decide +kernel) (by decide +kernel) (by decide +kernel) (by decide +kernel) (by decide +kernel) (by decide +kernel) (by decide +kernel) (by decide +kernel) (by decide +kernel) rfl (by decide +kernel)).2.2.1 (by decide +kernel)⟩,
   ⟨_, ((H.2 (home (atomPkt 3 16)) 0 _ _ _ (by decide +kernel) rfl rfl (by decide +kernel) (by decide +kernel) rfl (by decide +kernel)).2.2.2.2 0x2000 8 _ _ (by decide +kernel) (by decide +kernel) (by decide +kernel) (by decide +kernel) (by decide +kernel) (by decide +kernel) (by decide +kernel) (by decide +kernel) (by decide +kernel) rfl (by decide +kernel)).2.2.2 (by decide +kernel)⟩,
   ⟨_, (H.2 (home ctlPkt) 0 _ _ _ (by decide +kernel) rfl rfl (by decide +kernel) (by decide +kernel) rfl (by decide +kernel)).2.2.2.1 R.BEAT_PERIOD (by decide +kernel) (by decide +kernel) (by decide +kernel) (by decide +kernel)⟩⟩

/-- Tile 5 is logical tile 0 and reduces, `l` puts being queued at it; a REDUCE_PUT to its window stands in front. -/
def rput : RedPut := ⟨35, 40, 0x180000000000, leBytes 8 0x3F8000003F800000, List.replicate 8 false, 0, 5⟩
def reducing (l : List RedPut) (d : Dev) : Dev :=
  { d with img := { d.img with places := [⟨0, 5, 5, 0xFF, 0⟩] }, agx := { d.agx with red := l } }
def putPkt : Pkt := { pkt 0 with opc := 5, addr := 0x180000000000, data := leBytes 8 0x3F8000003F800000 }
def reduce (l : List RedPut) : State := st fun d => asked putPkt (reducing l d)
def adding : State := st (reducing [rput])

theorem test_TagsEnd_met_reduce (H : Obligations.TagsEnd) :
    Runs (.reducePut 0) (reduce (List.replicate 63 rput)) ∧ Runs (.reducePut 0) (reduce (List.replicate 64 rput)) ∧ Runs (.reducePutAdd 5) adding :=
  ⟨⟨_, ((H.1 (reduce (List.replicate 63 rput))).1 0 _ _ _ 5 (by decide +kernel) rfl rfl (by decide +kernel) (by decide +kernel) (by decide +kernel) rfl (by decide +kernel) (by decide +kernel) (by decide +kernel) (by decide +kernel) (by decide +kernel)).1 (by decide +kernel)⟩,
   ⟨_, ((H.1 (reduce (List.replicate 64 rput))).1 0 _ _ _ 5 (by decide +kernel) rfl rfl (by decide +kernel) (by decide +kernel) (by decide +kernel) rfl (by decide +kernel) (by decide +kernel) (by decide +kernel) (by decide +kernel) (by decide +kernel)).2 (by decide +kernel)⟩,
   ⟨_, (H.1 adding).2 5 rput [] _ _ _ rfl (by decide +kernel) (by decide +kernel) rfl rfl⟩⟩

/-- A tag of a READ of two sectors is held, and a response of device 40 stands in front. -/
def tag5 : TagEnt := ⟨5, readPkt, .mgr, 2⟩
def answered (opc status n : Nat) (tags : List TagEnt) : State := st fun d =>
  let d := got 35 (.rsp { pkt 1 with src := 40, dest := 0, rsp := true, opc := opc, tag := 5, status := status, data := List.replicate (64 * n) 0 }) d
  { d with agx := { d.agx with tags := tags } }
def quarantined : State := st fun d => { d with agx := { d.agx with quarantine := [5] } }

theorem test_TagsEnd_met (H : Obligations.TagsEnd) :
    Runs (.completion 0) (answered 0x10 1 0 [tag5]) ∧ Runs (.completion 0) (answered 0x10 7 0 [tag5]) ∧ Runs (.completion 0) (answered 0x10 0 0 []) ∧
    Runs (.readData 0) (answered 0x11 0 2 [tag5]) ∧ Runs (.readData 0) (answered 0x11 0 1 [tag5]) ∧ Runs (.npTimeout 5) (answered 0x10 0 0 [tag5]) ∧
    Runs (.tagQuarantineEnd 5) quarantined :=
  ⟨⟨_, ((H.2 (answered 0x10 1 0 [tag5]) 0 0).1 _ _ _ rfl).1 tag5 (by decide +kernel) (by decide +kernel)⟩, ⟨_, ((H.2 (answered 0x10 7 0 [tag5]) 0 0).1 _ _ _ rfl).2.1 tag5 (by decide +kernel) (by decide +kernel)⟩,
   ⟨_, ((H.2 (answered 0x10 0 0 []) 0 0).1 _ _ _ rfl).2.2 (by decide +kernel)⟩, ⟨_, ((H.2 (answered 0x11 0 2 [tag5]) 0 0).2.1 _ _ _ tag5 rfl (by decide +kernel)).1 (by decide +kernel)⟩,
   ⟨_, ((H.2 (answered 0x11 0 1 [tag5]) 0 0).2.1 _ _ _ tag5 rfl (by decide +kernel)).2 (by decide +kernel)⟩, ⟨_, (H.2 (answered 0x10 0 0 [tag5]) 0 5).2.2.1 tag5 (by decide +kernel)⟩,
   ⟨_, (H.2 quarantined 0 5).2.2.2 (by decide +kernel)⟩⟩

/-- Tree 255: valid, delivering at 0x10000 in a window of 64 KiB, its upstream port 35 and its branch port 4, in epoch 9; `f` changes it. -/
def tree (f : Dev → Dev) (d : Dev) : Dev :=
  let n := 255
  f ((((((((d.set R.ECC_TOP_TOP (2 ^ 36)).set (R.AGX_MC_TREE_W0_VALID n) 1).set (R.AGX_MC_TREE_W0_DELIVER n) 1).set (R.AGX_MC_TREE_W0_UP_PORT n) 35).set
    (R.AGX_MC_TREE_W0_EPOCH n) 9).set (R.AGX_MC_TREE_W0_RX_BASE n) 0x10000).set (R.AGX_MC_TREE_W1_DOWN_MASK n) 16).set (R.AGX_MC_TREE_W1_RX_SIZE_64K n) 1)
def mcPkt : Pkt :=
  { pkt 0 with dest := 255, opc := 6, mcast := true, addr := 0xFFF8, data := leBytes 8 7, mcInfo := 9 * 2 ^ 16 }
def mcast : State := st fun d => tree (fun d => got 35 (.mcast mcPkt) d) d
/-- A CONTROL flit of the tree came on port p, with payload `r`. -/
def flow (p t : Nat) (r : List Byte) (f : Dev → Dev) : State := st fun d => tree (fun d => got p (.ctl t ([255, 9] ++ r)) (f d)) d
def source (d : Dev) : Dev := (d.set (R.AGX_MC_TREE_W0_SOURCE 255) 1).set (R.AGX_MC_TREE_W2_OUT_PULLS 255) 1
def pulling (bad : Bool) : State := st (tree fun d => d.setTree 255 { d.tree 255 with pulling := true, pullBad := bad })
def lagging : State := st (tree fun d => d.set R.AGX_MC_CTL_PRUNE_BEATS 3)

theorem test_TreesCarry_met (H : Obligations.TreesCarry) :
    Runs (.multicastWrite 0) mcast ∧ Runs (.mcAck 0) (flow 4 0x20 [0, 0, 1, 0, 0] id) ∧ Runs (.mcPrune 0) (flow 35 0x21 [0, 0] id) ∧
    Runs (.mcPruned 0) (flow 4 0x22 [1, 0] id) ∧ Runs (.mcPruned 0) (flow 4 0x22 [1, 0] source) ∧ Runs (.mcPulled 0) (flow 4 0x23 [1, 0] id) ∧
    Runs (.mcPulled 0) (flow 4 0x23 [1, 0] source) ∧ Runs (.mcEnd 0) (flow 35 0x24 [0, 0, 8, 0] id) ∧ Runs (.mcPullDone 255) (pulling false) ∧
    Runs (.mcPullDone 255) (pulling true) ∧ Runs (.branchPrune 255 ⟨4, 3⟩) lagging :=
  ⟨⟨_, (H mcast 0 255).1 _ _ _ rfl rfl rfl rfl (by decide +kernel) (by decide +kernel) (by decide +kernel) (by decide +kernel) (by decide +kernel) (by decide +kernel) (fun _ => (by decide +kernel)) (by decide +kernel) (by decide +kernel) (by decide +kernel) (by decide +kernel)⟩,
   ⟨_, (H (flow 4 0x20 [0, 0, 1, 0, 0] id) 0 255).2.1 _ _ _ _ rfl (by decide +kernel) (by decide +kernel) (by decide +kernel)⟩, ⟨_, (H (flow 35 0x21 [0, 0] id) 0 255).2.2.1 _ _ _ _ rfl (by decide +kernel) (by decide +kernel) (by decide +kernel)⟩,
   ⟨_, ((H (flow 4 0x22 [1, 0] id) 0 255).2.2.2.1 _ _ _ _ rfl (by decide +kernel) (by decide +kernel)).1 (by decide +kernel)⟩, ⟨_, ((H (flow 4 0x22 [1, 0] source) 0 255).2.2.2.1 _ _ _ _ rfl (by decide +kernel) (by decide +kernel)).2 (by decide +kernel) (by decide +kernel)⟩,
   ⟨_, ((H (flow 4 0x23 [1, 0] id) 0 255).2.2.2.2.1 _ _ _ _ rfl (by decide +kernel) (by decide +kernel)).1 (by decide +kernel)⟩, ⟨_, ((H (flow 4 0x23 [1, 0] source) 0 255).2.2.2.2.1 _ _ _ _ rfl (by decide +kernel) (by decide +kernel)).2 (by decide +kernel) (by decide +kernel)⟩,
   ⟨_, (H (flow 35 0x24 [0, 0, 8, 0] id) 0 255).2.2.2.2.2.1 _ _ _ _ rfl (by decide +kernel) (by decide +kernel) (by decide +kernel)⟩, ⟨_, ((H (pulling false) 0 255).2.2.2.2.2.2.1 (by decide +kernel) (by decide +kernel) (by decide +kernel)).1 (by decide +kernel)⟩,
   ⟨_, ((H (pulling true) 0 255).2.2.2.2.2.2.1 (by decide +kernel) (by decide +kernel) (by decide +kernel)).2 (by decide +kernel)⟩,
   ⟨_, ((H lagging 0 255).2.2.2.2.2.2.2 4 3 (by decide +kernel) (by decide +kernel) (by decide +kernel) (by decide +kernel) (by decide +kernel) (by
      have e : (lagging.fresh.tree 255).branches = [] := (by decide +kernel)
      rw [e]
      intro b h
      cases h)).1⟩⟩

/-- A receiver that has pulled, and a source with a pull outstanding; what is fenced since beat 0. -/
def pulled : State := st fun d => tree (fun d => (d.set (R.AGX_MC_TREE_W3_RX_STATE 255) 2).set R.AGX_MC_CTL_AUTO_PULL 0) d
def pulls : State := st (tree source)
def waits : QPkt :=
  { pkt := pkt 1, flits := [], beat := 0, plan := none, relay := none, ahead := false, tree := none, mark := 0, pools := [], sent := 0 }
def fencing : State := st fun d =>
  let d := (d.set R.AGX_CTL_FENCE_TIMEOUT_BEATS 4).set R.BEAT_NUM_NUM 4
  { d with agx := { d.agx with fences := [(40, 0, [waits])] } }

theorem test_FabricTables_met (H : Obligations.FabricTables) :
    Runs (.mcTreeWrite .mgmt 255 0 (2 ^ 64 - 1)) (st id) ∧ Runs (.mcTreeWrite .mgmt 255 2 (2 ^ 63)) (st id) ∧ Runs (.mcTreeWrite .mgmt 255 1 5) pulled ∧
    Runs (.pullDone .mgmt 255 (2 ^ 63)) pulled ∧ Runs (.pullDrop .mgmt 255 (2 ^ 62)) pulls ∧ Runs (.agxRouteSwap .mgmt (2 ^ 63)) (st id) ∧
    Runs (.agxFenceArm .mgmt (2 ^ 48 - 1)) (st id) ∧ Runs (.routeFenceTimeout 40) fencing :=
  ⟨⟨_, (H _ _ (2 ^ 64 - 1) (by decide +kernel)).1 255 0 (by decide +kernel) (by decide +kernel) (by decide +kernel) (by decide +kernel)⟩, ⟨_, (H _ _ (2 ^ 63) (by decide +kernel)).1 255 2 (by decide +kernel) (by decide +kernel) (by decide +kernel) (by decide +kernel)⟩, ⟨_, (H pulled _ 5 (by decide +kernel)).2.1 255 (by decide +kernel) (by decide +kernel) (by decide +kernel)⟩,
   ⟨_, ((H pulled _ (2 ^ 63) (by decide +kernel)).2.2.1 255 (by decide +kernel) (by decide +kernel) (by decide +kernel)).1 (by decide +kernel) (by decide +kernel) (by decide +kernel)⟩, ⟨_, ((H pulls _ (2 ^ 62) (by decide +kernel)).2.2.1 255 (by decide +kernel) (by decide +kernel) (by decide +kernel)).2 (by decide +kernel) (by decide +kernel)⟩, ⟨_, (H _ _ (2 ^ 63) (by decide +kernel)).2.2.2.1 (by decide +kernel)⟩,
   ⟨_, ((H (st id) .mgmt (2 ^ 48 - 1) (by decide +kernel)).2.2.2.2.1 (by decide +kernel)).choose_spec.2.2.2⟩, ⟨_, (H fencing .mgmt 0 (by decide +kernel)).2.2.2.2.2 40 0 _ rfl (by decide +kernel)⟩⟩

/-- Such a command on frame 2, whose entry is e. -/
def onFrame (e w : Nat) : State := kv [(2, e)] bare w id

theorem test_FrameCommands_met_frames (H : Obligations.FrameCommands) :
    Runs (.pin 0) (onFrame (fe 64 4 0 1) (kvw 5 0 2 0)) ∧ Runs (.unpin 0) (onFrame (fe 64 4 1 1) (kvw 6 0 2 0)) ∧ Runs (.unpin 0) (onFrame (fe 64 5 1 0) (kvw 6 0 2 0)) ∧ Runs (.sealPage 0) (onFrame (fe 64 1 0 1) (kvw 7 255 2 0)) ∧ Runs (.freeFrame 0) (onFrame (fe 64 4 0 2) (kvw 4 255 2 0)) ∧ Runs (.freeFrame 0) (onFrame (fe 64 4 0 1) (kvw 4 255 2 0)) ∧ Runs (.freeFrame 0) (onFrame (fe 64 4 1 1) (kvw 4 255 2 0)) :=
  ⟨⟨_, ((H (onFrame (fe 64 4 0 1) (kvw 5 0 2 0)) 0 _ _ rfl rfl (by decide +kernel) (by decide +kernel)).1 (fe 64 4 0 1) (by decide +kernel)).1 (by decide +kernel) (by decide +kernel) (by decide +kernel)⟩,
   ⟨_, ((H (onFrame (fe 64 4 1 1) (kvw 6 0 2 0)) 0 _ _ rfl rfl (by decide +kernel) (by decide +kernel)).1 (fe 64 4 1 1) (by decide +kernel)).2.1 (by decide +kernel) (by decide +kernel) (by decide +kernel)⟩,
   ⟨_, ((H (onFrame (fe 64 5 1 0) (kvw 6 0 2 0)) 0 _ _ rfl rfl (by decide +kernel) (by decide +kernel)).1 (fe 64 5 1 0) (by decide +kernel)).2.2.1 (by decide +kernel) (by decide +kernel) (by decide +kernel)⟩,
   ⟨_, ((H (onFrame (fe 64 1 0 1) (kvw 7 255 2 0)) 0 _ _ rfl rfl (by decide +kernel) (by decide +kernel)).1 (fe 64 1 0 1) (by decide +kernel)).2.2.2.1 (by decide +kernel) (by decide +kernel) (by decide +kernel) (by decide +kernel)⟩,
   ⟨_, (((H (onFrame (fe 64 4 0 2) (kvw 4 255 2 0)) 0 _ _ rfl rfl (by decide +kernel) (by decide +kernel)).1 (fe 64 4 0 2) (by decide +kernel)).2.2.2.2 (by decide +kernel) (by decide +kernel) (by decide +kernel)).1 (by decide +kernel)⟩,
   ⟨_, (((H (onFrame (fe 64 4 0 1) (kvw 4 255 2 0)) 0 _ _ rfl rfl (by decide +kernel) (by decide +kernel)).1 (fe 64 4 0 1) (by decide +kernel)).2.2.2.2 (by decide +kernel) (by decide +kernel) (by decide +kernel)).2.1 (by decide +kernel) (by decide +kernel)⟩,
   ⟨_, (((H (onFrame (fe 64 4 1 1) (kvw 4 255 2 0)) 0 _ _ rfl rfl (by decide +kernel) (by decide +kernel)).1 (fe 64 4 1 1) (by decide +kernel)).2.2.2.2 (by decide +kernel) (by decide +kernel) (by decide +kernel)).2.2 (by decide +kernel) (by decide +kernel)⟩⟩

/-- Commands on the page. -/
def page (l2 w : Nat) (es : List (Nat × Nat)) : State := kv es l2 w id

theorem test_FrameCommands_met_pages (H : Obligations.FrameCommands) :
    Runs (.alloc 0) (page bare (kvw 1 0 0 0) []) ∧ Runs (.alloc 0) (kv [] bare (kvw 1 0 0 0) fun d => d.setFree 0 []) ∧
    Runs (.sharePage 0) (page bare (kvw 2 0 2 0) [(2, fe 64 4 0 1)]) ∧ Runs (.cow 0) (page held (kvw 3 0 0 0) [(2, fe 64 4 0 2)]) ∧
    Runs (.cow 0) (page held (kvw 3 0 0 0) [(2, fe 5 1 0 1)]) ∧ Runs (.appendKv 0) (page held (append 2 0) [(2, fe 0 1 0 1)]) ∧
    Runs (.appendKv 0) (page held (append 2 62) [(2, fe 62 1 0 1)]) ∧ Runs (.appendKv 0) (page held (append 2 0) [(2, fe 9 1 0 1)]) :=
  ⟨⟨_, ((H (page bare (kvw 1 0 0 0) []) 0 _ _ rfl rfl (by decide +kernel) (by decide +kernel)).2.1 0 ctx0 0x30001000 rfl (by decide +kernel)).1 _ _ (by decide +kernel) (by decide +kernel) (by decide +kernel) rfl⟩,
   ⟨_, ((H (kv [] bare (kvw 1 0 0 0) fun d => d.setFree 0 []) 0 _ _ rfl rfl (by decide +kernel) (by decide +kernel)).2.1 0 ctx0 0x30001000 rfl (by decide +kernel)).2.1 (by decide +kernel) (by decide +kernel) (by decide +kernel) rfl⟩,
   ⟨_, ((H (page bare (kvw 2 0 2 0) [(2, fe 64 4 0 1)]) 0 _ _ rfl rfl (by decide +kernel) (by decide +kernel)).2.1 0 ctx0 0x30001000 rfl (by decide +kernel)).2.2.1 (fe 64 4 0 1) (by decide +kernel) (by decide +kernel) (by decide +kernel) (by decide +kernel) (by decide +kernel)⟩,
   ⟨_, ((H (page held (kvw 3 0 0 0) [(2, fe 64 4 0 2)]) 0 _ _ rfl rfl (by decide +kernel) (by decide +kernel)).2.1 0 ctx0 0x30001000 rfl (by decide +kernel)).2.2.2.1 (fe 64 4 0 2) _ _ (by decide +kernel) (by decide +kernel) (by decide +kernel) (by decide +kernel) (by decide +kernel) (by decide +kernel) rfl⟩,
   ⟨_, ((H (page held (kvw 3 0 0 0) [(2, fe 5 1 0 1)]) 0 _ _ rfl rfl (by decide +kernel) (by decide +kernel)).2.1 0 ctx0 0x30001000 rfl (by decide +kernel)).2.2.2.2.1 (fe 5 1 0 1) (by decide +kernel) (by decide +kernel) (by decide +kernel) (by decide +kernel)⟩,
   ⟨_, ((H (page held (append 2 0) [(2, fe 0 1 0 1)]) 0 _ _ rfl rfl (by decide +kernel) (by decide +kernel)).2.1 0 ctx0 0x30001000 rfl (by decide +kernel)).2.2.2.2.2.1 2 (fe 0 1 0 1) (by decide +kernel) (by decide +kernel) (by decide +kernel) (by decide +kernel) (by decide +kernel) rfl (by decide +kernel) (by decide +kernel)⟩,
   ⟨_, ((H (page held (append 2 62) [(2, fe 62 1 0 1)]) 0 _ _ rfl rfl (by decide +kernel) (by decide +kernel)).2.1 0 ctx0 0x30001000 rfl (by decide +kernel)).2.2.2.2.2.1 2 (fe 62 1 0 1) (by decide +kernel) (by decide +kernel) (by decide +kernel) (by decide +kernel) (by decide +kernel) rfl (by decide +kernel) (by decide +kernel)⟩,
   ⟨_, ((H (page held (append 2 0) [(2, fe 9 1 0 1)]) 0 _ _ rfl rfl (by decide +kernel) (by decide +kernel)).2.1 0 ctx0 0x30001000 rfl (by decide +kernel)).2.2.2.2.2.2 (by decide +kernel) (by decide +kernel) (by decide +kernel) (by decide +kernel) (by decide +kernel) (by decide +kernel)⟩⟩

/-- Of the prefix index. -/
def tooWide (w : Nat) : State := kv [] bare w fun d =>
  { d.set R.KVP_CFG_FRAME_32K 0 with kv := { d.kv with ctxs := [(0, some { ctx0 with layers := 100, heads := 100 })] } }
def off (w : Nat) : State := kv [] bare w fun d => d.set R.PFX_CTL_ENABLE 0
def indexed : State := kv [(2, fe 0 6 0 1)] bare (kvw 0x22 0 2 0) fun d => { d with kv := { d.kv with pfx := [(5, some ⟨7, 2, 0⟩)] } }

theorem test_FrameCommands_met_index (H : Obligations.FrameCommands) :
    Runs (.pfxMatch 0) (page bare (kvw 0x20 0 1 0) []) ∧ Runs (.pfxMatch 0) (off (kvw 0x20 0 1 0)) ∧ Runs (.pfxInsert 0) (page held (kvw 0x21 0 1 0) [(2, fe 64 4 0 1)]) ∧
    Runs (.pfxInsert 0) (tooWide (kvw 0x21 0 1 0)) ∧ Runs (.pfxEvict 0) indexed :=
  ⟨⟨_, ((H (page bare (kvw 0x20 0 1 0) []) 0 _ _ rfl rfl (by decide +kernel) (by decide +kernel)).2.2.1 0 ctx0 rfl).1 _ 0 0 (by decide +kernel) (by decide +kernel) rfl (by decide +kernel)⟩,
   ⟨_, ((H (off (kvw 0x20 0 1 0)) 0 _ _ rfl rfl (by decide +kernel) (by decide +kernel)).2.2.1 0 ctx0 rfl).2.1 (by decide +kernel) (by decide +kernel)⟩,
   ⟨_, ((H (page held (kvw 0x21 0 1 0) [(2, fe 64 4 0 1)]) 0 _ _ rfl rfl (by decide +kernel) (by decide +kernel)).2.2.1 0 ctx0 rfl).2.2.1 _ 0 1 (by decide +kernel) (by decide +kernel) (by decide +kernel) rfl (by decide +kernel)⟩,
   ⟨_, ((H (tooWide (kvw 0x21 0 1 0)) 0 _ _ rfl rfl (by decide +kernel) (by decide +kernel)).2.2.1 0 _ rfl).2.2.2 (by decide +kernel) (by decide +kernel) (by decide +kernel)⟩,
   ⟨_, (H indexed 0 _ _ rfl rfl (by decide +kernel) (by decide +kernel)).2.2.2 5 ⟨7, 2, 0⟩ (by decide +kernel) (by decide +kernel)⟩⟩

/-- The append engine has the work `w`. -/
def engine (es : List (Nat × Nat)) (w : List KvWork) : State := st fun d =>
  let d := kvWorld es bare d
  { d with kv := { d.kv with work := w } }
def admits : State := st fun d =>
  (((work d).set (R.KVP_CMDQ_CFG_ENABLE 0) 1).set (R.IMG_CHAN_TOKENS 0) 2).set (R.KVP_CMDQ_BASE_BASE 0) 0x4000
/-- Two of four frames are free, and their lists are rebuilt. -/
def rebuilding : State := st fun d =>
  let d := kvWorld [(0, fe 0 0 0 0), (1, fe 0 0 0 0), (2, fe 64 4 0 1), (3, fe 0 1 0 1)] bare d
  { d with kv := { d.kv with rebuild := true } }
def kvst : State := st (kvWorld [(2, fe 64 4 0 1)] held)
def appends : KvApp := ⟨⟨0, append 1 0, 0, 0⟩, 0, 1, [(0, 0, 2)]⟩
def copy : KvCopy := ⟨2, 3, 9⟩
/-- Entries of E4M3 pages of 64 values. -/
def fe8 (fill state pin ref : Nat) : Nat := feMake 0xFFFFFFFF 1 1 fill state pin ref
def copying : State := engine [(2, fe8 64 4 1 1), (3, fe8 0 2 1 1)] [.copy copy]
def closing : State := engine [(2, fe8 64 3 0 1)] [.sealing 2]

theorem ends_closing (H : Obligations.FrameEngine) : Runs (.sealingDone 2) closing := by
  have h := (H closing 0 2).2.1 (fe8 64 3 0 1) [] (by decide +kernel) (by decide +kernel) (by decide +kernel)
  exact ⟨_, h⟩
theorem ends_copying (H : Obligations.FrameEngine) : Runs (.cowCopyDone 3) copying := by
  have h := (H copying 0 3).2.2.1 copy [] (fe8 0 2 1 1) (fe8 0 2 1 1) (by decide +kernel) (by decide +kernel) (by decide +kernel) (by decide +kernel) (by decide +kernel)
  exact ⟨_, h⟩

theorem test_FrameEngine_met (H : Obligations.FrameEngine) :
    Runs (.kvpCmdqAdmit 0) admits ∧ Runs (.sealingDone 2) closing ∧
    Runs (.cowCopyDone 3) copying ∧
    Runs (.appendDone 0) (engine [(2, fe 1 1 0 1)] [.append appends]) ∧ Runs .freeListRebuildDone rebuilding ∧
    Runs (.kvpFlush .mgmt (2 ^ 63)) kvst ∧ Runs (.kvpWalkInv .mgmt (2 ^ 63)) kvst ∧ Runs (.kvpFrameRd .mgmt (2 ^ 63 + 2)) kvst ∧
    Runs (.pfxClear .mgmt (2 ^ 63 + 1)) kvst :=
  ⟨⟨_, (H admits 0 0).1 (by decide +kernel) (by decide +kernel) (by decide +kernel) (by decide +kernel) (by decide +kernel) (by decide +kernel)⟩, ends_closing H,
   ends_copying H,
   ⟨_, (H (engine [(2, fe 1 1 0 1)] [.append appends]) 0 0).2.2.2.1 appends [] (by decide +kernel)⟩, ⟨_, (H rebuilding 0 0).2.2.2.2.1 (by decide +kernel)⟩,
   ⟨_, ((H kvst 0 0).2.2.2.2.2 .mgmt (2 ^ 63) (by decide +kernel)).1 (by decide +kernel)⟩, ⟨_, ((H kvst 0 0).2.2.2.2.2 .mgmt (2 ^ 63) (by decide +kernel)).2.1 0 (by decide +kernel) (by decide +kernel)⟩,
   ⟨_, ((H kvst 0 0).2.2.2.2.2 .mgmt (2 ^ 63 + 2) (by decide +kernel)).2.2.1 (fe 64 4 0 1) (by decide +kernel) (by decide +kernel)⟩,
   ⟨_, (((H kvst 0 0).2.2.2.2.2 .mgmt (2 ^ 63 + 1) (by decide +kernel)).2.2.2 (by decide +kernel)).choose_spec.2.2⟩⟩

/-- A sequence command of window 3 waits: its operation, and words; context 0 in a state, on a page or none. -/
def sq (o n l2 a0 a1 : Nat) : State := st fun d =>
  let d := kvWorld [(2, fe 64 4 0 1)] l2 d
  { d.set R.KVP_STATUS_FREE 3 with kv := { d.kv with ctxs := [(0, some { ctx0 with state := n })], seqArrivals := [⟨3, a0, a1, o, 0⟩] } }
/-- Of two layers of 256 heads in BF16. -/
def shape : Nat := 2 + 256 * 2 ^ 16
/-- Every resident context is ACTIVE; Dusk has begun; FREE is 0. -/
def dusk : State := { sq 0 1 bare 0 shape with dev := (sq 0 1 bare 0 shape).dev.set R.PWR_STATE_DEV_STATE 4 }
def short : State := { sq 4 1 held 0x30000040 0 with dev := (sq 4 1 held 0x30000040 0).dev.set R.KVP_STATUS_FREE 0 }
/-- Context 9 is SPILLED, with its record at 768 MiB. -/
def spilt : State := st fun d =>
  let d := kvWorld [] bare d
  { d with img := { d.img with regions := d.img.regions ++ [⟨0x30100000, 0x100000, 0, 0, 0, 7, 0, false, false⟩] }
           kv := { d.kv with ctxs := [(0, some ctx0), (9, some { ctx0 with state := 3 })], restores := [9] } }

theorem test_SequenceCommands_met (H : Obligations.SequenceCommands) :
    Runs (.seqAdmit 3) (sq 0 1 bare 0 shape) ∧ Runs (.seqAdmit 3) dusk ∧ Runs (.park 3) (sq 1 1 bare 0 0) ∧ Runs (.activate 3) (sq 2 2 bare 0 0) ∧
    Runs (.activate 3) (sq 2 3 bare 0 0) ∧ Runs (.seqRelease 3) (sq 3 1 held 0 0) ∧ Runs (.fork 3) (sq 4 1 bare 0x30000040 0) ∧
    Runs (.fork 3) short ∧ Runs (.contextRestore 9) spilt :=
  ⟨⟨_, ((((H (sq 0 1 bare 0 shape)).1 _ _ rfl).1 (by decide +kernel) (by decide +kernel) (by decide +kernel) (by decide +kernel) (by decide +kernel) (by decide +kernel) (by decide +kernel) (by decide +kernel))).1 _ _ rfl⟩,
   ⟨_, ((((H dusk).1 _ _ rfl).1 (by decide +kernel) (by decide +kernel) (by decide +kernel) (by decide +kernel) (by decide +kernel) (by decide +kernel) (by decide +kernel) (by decide +kernel))).2 rfl⟩, ⟨_, ((H (sq 1 1 bare 0 0)).1 _ _ rfl).2.1 ctx0 (by decide +kernel) (by decide +kernel) (by decide +kernel)⟩,
   ⟨_, ((H (sq 2 2 bare 0 0)).1 _ _ rfl).2.2.1 { ctx0 with state := 2 } (by decide +kernel) (by decide +kernel) (by decide +kernel)⟩,
   ⟨_, ((H (sq 2 3 bare 0 0)).1 _ _ rfl).2.2.2.1 { ctx0 with state := 3 } (by decide +kernel) (by decide +kernel) (by decide +kernel)⟩,
   ⟨_, ((H (sq 3 1 held 0 0)).1 _ _ rfl).2.2.2.2.1 ctx0 (by decide +kernel) (by decide +kernel) (by decide +kernel) (by decide +kernel)⟩,
   ⟨_, (((H (sq 4 1 bare 0x30000040 0)).1 _ _ rfl).2.2.2.2.2 ctx0 (by decide +kernel) (by decide +kernel) (by decide +kernel) (by decide +kernel) (by decide +kernel) (by decide +kernel) (by decide +kernel) (by decide +kernel) (by decide +kernel)).1 _ _ (by decide +kernel) (by decide +kernel) rfl⟩,
   ⟨_, (((H short).1 _ _ rfl).2.2.2.2.2 ctx0 (by decide +kernel) (by decide +kernel) (by decide +kernel) (by decide +kernel) (by decide +kernel) (by decide +kernel) (by decide +kernel) (by decide +kernel) (by decide +kernel)).2 (by decide +kernel)⟩, ⟨_, (H spilt).2 9 [] _ _ (by decide +kernel) rfl rfl (by decide +kernel)⟩⟩

/-- Entry 3 is being fetched, for travel tiles that there are none of: its copies are there, or lost. -/
def fetched (bad : Bool) : State := st fun d =>
  let d := d.set (R.EXP_RES_W0_STATE 3) 1
  { d with exp := { d.exp with fetch := [⟨3, 0, [], [], 0, bad⟩] } }
/-- The deferred queue lies at 256 MiB, with one entry in slot 5. -/
def waitingQueue (d : Dev) : Dev :=
  put (0x10000000 + 32 * 5 + 7) 1 32 { d with img := { d.img with regions := [⟨0x10000000, 0x8000, 0, 0, 0, 9, 0, false, false⟩] } }

theorem test_EntriesChange_met (H : Obligations.EntriesChange) :
    Runs (.widenFetchDone 3) (fetched false) ∧ Runs (.widenFetchDone 3) (fetched true) ∧ Runs (.expDirUpdArm .mgmt 1) (st active) ∧
    Runs (.wgqDrain .mgmt (2 ^ 63 + 1)) (st waitingQueue) :=
  ⟨⟨_, (H (fetched false)).1 3 _ rfl (by decide +kernel) (by decide +kernel)⟩, ⟨_, (H (fetched true)).2.1 3 _ rfl (by decide +kernel) (by decide +kernel)⟩, ⟨_, (H (st active)).2.2.1 .mgmt 1 (by decide +kernel) (by decide +kernel)⟩,
   ⟨_, ((H (st waitingQueue)).2.2.2 .mgmt (2 ^ 63 + 1) (by decide +kernel) (by decide +kernel) (by decide +kernel)).choose_spec.2.2.2⟩⟩

/-- The commit set is devices 0 and 40, device 0 its coordinator; a message of device 40 of the step waits, for beat 9 where it is a MIDNIGHT. -/
def msg (k f step : Nat) : CommitMsg := ⟨k, f, 40, step, 9, 16, 40⟩
def members (d : Dev) : Dev := d.setForce (R.UPD_SET 0) (BitVec.ofNat 64 (2 ^ 40 + 1))
def mail (n : Nat) (m : CommitMsg) (f : Dev → Dev) : State := st fun d =>
  let d := (members d).set R.UPD_COMMIT_STATUS_STATE n
  f { d with upd := { d.upd with box := [m] } }
/-- A vote is voting for; the member has voted. -/
def voting (f : Dev → Dev) : State := st fun d => f { members d with upd := { d.upd with voteReq := true } }
def voted : State := st fun d => ((members d).set R.UPD_COMMIT_STATUS_STATE 1).set R.BEAT_NUM_NUM 300
def late (d : Dev) : Dev := { d with upd := { d.upd with midStep := some 1 } }

theorem test_MembersVote_met (H : Obligations.MembersVote) :
    Runs .voteSend (voting waitingQueue) ∧ Runs .voteSend (voting id) ∧ Runs .midnight (mail 1 (msg 2 0 1) id) ∧ Runs .midnight (mail 1 (msg 2 0 1) late) ∧
    Runs .abortMsg (mail 1 (msg 3 0 1) id) ∧ Runs .release (mail 0 (msg 5 0 0) fun d => d.set R.UPD_RET_RET_VALID 1) ∧ Runs .decideTimeout voted :=
  ⟨⟨_, (H (voting waitingQueue)).1 (by decide +kernel) (by decide +kernel)⟩, ⟨_, (H (voting id)).2.1 (by decide +kernel) (by decide +kernel) (by decide +kernel)⟩, ⟨_, ((H (mail 1 (msg 2 0 1) id)).2.2.1 _ _ rfl (by decide +kernel) (by decide +kernel)).1 (by decide +kernel) (by decide +kernel) (by decide +kernel) (by decide +kernel) (by decide +kernel)⟩,
   ⟨_, ((H (mail 1 (msg 2 0 1) late)).2.2.1 _ _ rfl (by decide +kernel) (by decide +kernel)).2.1 (by decide +kernel) (by decide +kernel)⟩, ⟨_, ((H (mail 1 (msg 3 0 1) id)).2.2.1 _ _ rfl (by decide +kernel) (by decide +kernel)).2.2.1 (by decide +kernel) (by decide +kernel) (by decide +kernel) (by decide +kernel)⟩,
   ⟨_, ((H (mail 0 (msg 5 0 0) fun d => d.set R.UPD_RET_RET_VALID 1)).2.2.1 _ _ rfl (by decide +kernel) (by decide +kernel)).2.2.2 (by decide +kernel) (by decide +kernel)⟩, ⟨_, (H voted).2.2.2.1 (by decide +kernel) (by decide +kernel)⟩⟩

theorem test_MembersVote_met_stores (H : Obligations.MembersVote) :
    Runs (.vote .mgmt (2 ^ 63)) (st id) ∧ Runs (.revote .mgmt (2 ^ 62)) voted ∧ Runs (.flipBack .mgmt (2 ^ 63)) (st id) ∧
    Runs (.setBank .mgmt (2 ^ 62 + 2 ^ 48)) (st id) ∧ Runs (.flipBack .mgmt (3 * 2 ^ 62)) (st id) :=
  ⟨⟨_, ((H (st id)).2.2.2.2 .mgmt (2 ^ 63) (by decide +kernel)).1 (by decide +kernel) (by decide +kernel) (by decide +kernel)⟩, ⟨_, ((H voted).2.2.2.2 .mgmt (2 ^ 62) (by decide +kernel)).2.1 (by decide +kernel) (by decide +kernel) (by decide +kernel)⟩,
   ⟨_, ((H (st id)).2.2.2.2 .mgmt (2 ^ 63) (by decide +kernel)).2.2.1 (by decide +kernel) (by decide +kernel)⟩, ⟨_, ((H (st id)).2.2.2.2 .mgmt (2 ^ 62 + 2 ^ 48) (by decide +kernel)).2.2.2.1 (by decide +kernel) (by decide +kernel)⟩,
   ⟨_, ((H (st id)).2.2.2.2 .mgmt (3 * 2 ^ 62) (by decide +kernel)).2.2.2.2 (by decide +kernel) (by decide +kernel)⟩⟩

/-- The coordinator in state n of step 1, in beat 300 after its deadline, with votes of a set of devices. -/
def coord (n v : Nat) (d : Dev) : Dev :=
  (((((members d).set R.UPD_COORD_STATUS_STATE n).set R.UPD_COORD_STATUS_STEP 1).set R.BEAT_NUM_NUM 300).set (R.UPD_VOTED_BITS 0) v).set
    R.UPD_COORD_STATUS_COUNT 1
def poisonedVote (d : Dev) : Dev := { d with upd := { d.upd with poison := true } }
def overflowVote (d : Dev) : Dev := { d with upd := { d.upd with ovf := true } }
def acked (d : Dev) : Dev := let d := coord 2 1 d; { d with upd := { d.upd with members := [0, 40] } }

theorem test_CoordinatorDecides_met (H : Obligations.CoordinatorDecides) :
    Runs .staged (mail 1 (msg 1 0 1) (coord 1 1)) ∧ Runs .flipped (mail 0 (msg 4 0 1) acked) ∧ Runs .voteDeadline (st (coord 1 1)) ∧
    Runs (.abortNow .mgmt (2 ^ 63)) (st (coord 1 1)) :=
  ⟨⟨_, ((H (mail 1 (msg 1 0 1) (coord 1 1))).1 _ _ rfl (by decide +kernel) (by decide +kernel)).1 (by decide +kernel) (by decide +kernel) (by decide +kernel) (by decide +kernel)⟩, ⟨_, ((H (mail 0 (msg 4 0 1) acked)).1 _ _ rfl (by decide +kernel) (by decide +kernel)).2 (by decide +kernel) (by decide +kernel) (by decide +kernel) (by decide +kernel)⟩,
   ⟨_, ((H (st (coord 1 1))).2.2.2.1 (by decide +kernel) (by decide +kernel) ⟨40, (by decide +kernel), (by decide +kernel)⟩)⟩, ⟨_, ((H (st (coord 1 1))).2.2.2.2 .mgmt (2 ^ 63) (by decide +kernel) (by decide +kernel) (by decide +kernel))⟩⟩

/-- What the coordinator decides with every vote, and without one. -/
theorem test_CoordinatorDecides_met_votes (H : Obligations.CoordinatorDecides) :
    let c (f : Dev → Dev) : Dev := f (coord 1 (2 ^ 40 + 1) Dev.reset)
    (c poisonedVote).decide1.coordState = 0 ∧ (c overflowVote).decide1.coordState = 0 ∧ (c id).decide1.coordState = 2 ∧
    (coord 1 1 Dev.reset).decide1 = coord 1 1 Dev.reset := by
  have all (d : Dev) (h : d.commitSet.all d.voted = true) (x : Nat) (hx : x ∈ d.commitSet) : d.voted x = true := List.all_eq_true.mp h x hx
  refine ⟨?_, ?_, ?_, (H State.reset).2.2.1 _ (by decide +kernel) ⟨40, (by decide +kernel), (by decide +kernel)⟩⟩
  · rw [((H State.reset).2.1 (poisonedVote (coord 1 (2 ^ 40 + 1) Dev.reset)) (by decide +kernel) (by decide +kernel) (all _ (by decide +kernel))).1 (by decide +kernel)]; decide +kernel
  · rw [((H State.reset).2.1 (overflowVote (coord 1 (2 ^ 40 + 1) Dev.reset)) (by decide +kernel) (by decide +kernel) (all _ (by decide +kernel))).2.1 (by decide +kernel) (by decide +kernel)]; decide +kernel
  · rw [((H State.reset).2.1 (id (coord 1 (2 ^ 40 + 1) Dev.reset)) (by decide +kernel) (by decide +kernel) (all _ (by decide +kernel))).2.2 (by decide +kernel) (by decide +kernel)]; decide +kernel

/-- A step commits, the loss scale rising or not, and a step is skipped. -/
theorem test_MidnightApplies_met (H : Obligations.MidnightApplies) :
    Dev.reset.midnightApply.get R.UPD_BANK_LIVE_STEP = 1 ∧ (Dev.reset.set R.UPDATE_CFG_RAISE_AFTER 1).midnightApply.get R.UPD_SCALE_S = 17 ∧
    ({ Dev.reset with upd := { Dev.reset.upd with skip := true } } : Dev).midnightApply.get R.UPD_SCALE_S = 15 :=
  ⟨((H Dev.reset).2.1 (by decide +kernel)).2.1.trans (by decide +kernel), (((H (Dev.reset.set R.UPDATE_CFG_RAISE_AFTER 1)).2.1 (by decide +kernel)).2.2.2.2.2 (by decide +kernel)).1.trans (by decide +kernel),
   ((H { Dev.reset with upd := { Dev.reset.upd with skip := true } }).2.2 (by decide +kernel)).2.2.2.2.1.trans (by decide +kernel)⟩

/-- Stack 1 is trained, its refresh at rate n. -/
def stack (n : Nat) : State := st fun d => (d.set (R.HBM_STATUS_STATE 1) 2).set (R.HBM_CTL_REFRESH 1) n
def top (d : Dev) : Dev := d.set R.ECC_TOP_TOP (2 ^ 36)

theorem test_ControllersAct_met (H : Obligations.ControllersAct) :
    Runs (.hbmReread 0x1000 1) (st top) ∧ Runs (.hbmReread 0x1000 2) (st top) ∧ Runs (.ageCap 70) (stack 0) ∧ Runs (.hbmRefresh 70) (stack 1) ∧
    Runs (.hbmRefresh 70) (stack 0) ∧ Runs (.onDieEccStatusRead [(1, 2), (3, 4)]) (stack 0) ∧ Runs (.stackFailure 1) (stack 0) :=
  ⟨⟨_, ((H (st top) 0).1 0x1000 1 (by decide +kernel) (by decide +kernel)).1 (by decide +kernel)⟩, ⟨_, ((H (st top) 0).1 0x1000 2 (by decide +kernel) (by decide +kernel)).2 (by decide +kernel)⟩, ⟨_, ((H (stack 0) 70).2.1 (by decide +kernel)).1⟩,
   ⟨_, ((H (stack 1) 70).2.1 (by decide +kernel)).2.1 (by decide +kernel)⟩, ⟨_, ((H (stack 0) 70).2.1 (by decide +kernel)).2.2 (by decide +kernel)⟩, ⟨_, (H (stack 0) 0).2.2.1 _⟩, ⟨_, (H (stack 0) 1).2.2.2 (by decide +kernel) (by decide +kernel)⟩⟩

/-- A pass over 4 KiB from 0x10000 is asked for, or from an address that is not aligned. -/
def scrubAsk (b : Nat) : State := st fun d => ((top d).set R.ECC_SCRUB_BASE_BASE b).set R.ECC_SCRUB_LEN_LEN 4096
/-- It runs, and stands at an address; once or again and again. -/
def scrubAt (a c : Nat) : State := st fun d =>
  let d := (((((top d).set R.PWR_STATE_DEV_STATE 2).set R.ECC_SCRUB_CTL_BUSY 1).set R.ECC_SCRUB_POS_POS a).set R.ECC_SCRUB_CTL_CONTINUOUS c).set
    R.ECC_SCRUB_REC_REC 0x8000
  { d with pins := { d.pins with on := true }, hbm := { d.hbm with scrub := ⟨0x10000, 4096, 0, 0, 0, 0, 0, none, [], 0⟩ } }

theorem test_Scrubbing_met (H : Obligations.Scrubbing) :
    Runs (.scrubGo .mgmt (2 ^ 63 + 2 ^ 61 + 5 * 2 ^ 32)) (scrubAsk 0x10000) ∧ Runs (.scrubGo .mgmt (2 ^ 63)) (scrubAsk 0x10080) ∧
    Runs .scrubCodeword (scrubAt 0x10000 0) ∧ Runs .scrubCodeword (scrubAt 0x10080 0) ∧ Runs .scrubPassDone (scrubAt 0x11000 0) ∧
    Runs .scrubPassDone (scrubAt 0x11000 1) :=
  ⟨⟨_, ((H (scrubAsk 0x10000)).1 .mgmt _ (by decide +kernel) (by decide +kernel)).1 (by decide +kernel) (by decide +kernel) (by decide +kernel)⟩, ⟨_, ((H (scrubAsk 0x10080)).1 .mgmt _ (by decide +kernel) (by decide +kernel)).2 (by decide +kernel)⟩, ⟨_, ((H (scrubAt 0x10000 0)).2.1 (by decide +kernel) (by decide +kernel)).1⟩,
   ⟨_, ((H (scrubAt 0x10080 0)).2.1 (by decide +kernel) (by decide +kernel)).2 (by decide +kernel) (by decide +kernel) (by decide +kernel)⟩, ⟨_, ((H (scrubAt 0x11000 0)).2.2 (by decide +kernel) (by decide +kernel)).1 (by decide +kernel)⟩, ⟨_, ((H (scrubAt 0x11000 1)).2.2 (by decide +kernel) (by decide +kernel)).2 (by decide +kernel)⟩⟩

/-- A repair of stack 1 runs, hard or soft; the self-test runs; tile 5 is powered, with a bad row. -/
def repairing (n : Nat) : State := st fun d => (d.set (R.HBM_PPR_BUSY 1) 1).set (R.HBM_PPR_HARD 1) n
def checking : State := st fun d => d.set R.ECC_SELFTEST_BUSY 1
def badRow : State := st fun d =>
  let d := d.set (R.TILE_STATUS_PWR 5) 1
  { d with cist := { d.cist with bad := [(5 * 65536 + 9, 3)] } }

theorem test_ProtectionActs_met (H : Obligations.ProtectionActs) :
    Runs (.hbmPpr .mgmt 1 (2 ^ 63 + 5 * 2 ^ 29)) (st active) ∧ Runs (.hbmPpr .mgmt 1 (2 ^ 63 + 5 * 2 ^ 29)) (st id) ∧ Runs (.hbmPprDone 1 1) (repairing 0) ∧
    Runs (.hbmPprDone 1 0) (repairing 0) ∧ Runs (.hbmPprDone 1 0) (repairing 1) ∧ Runs (.eccSelftest .mgmt (2 ^ 63)) (st id) ∧
    Runs (.eccSelftest .mgmt (2 ^ 63)) (st active) ∧ Runs (.eccSelftestDone 2 (2 ^ 383)) checking ∧
    Runs (.hbmCorr .mgmt (2 ^ 63 + 128)) (st id) ∧ Runs (.hbmUncorr .mgmt (2 ^ 63 + 128)) (st id) ∧ Runs (.cistRow .mgmt (2 ^ 63 + 128)) (st id) ∧
    Runs (.cistGroup .mgmt (2 ^ 63 + 128)) (st id) ∧ Runs (.columnSweep 5 9 true false) badRow ∧ Runs (.columnSweep 5 9 true true) badRow ∧
    Runs (.columnSweep 5 9 false false) badRow ∧ Runs (.rowRebuildDone 5 9) badRow :=
  ⟨⟨_, ((H (st active)).1 .mgmt 1 _ (by decide +kernel) (by decide +kernel) (by decide +kernel)).1 (by decide +kernel)⟩, ⟨_, ((H (st id)).1 .mgmt 1 _ (by decide +kernel) (by decide +kernel) (by decide +kernel)).2 (by decide +kernel) (by decide +kernel)⟩, ⟨_, ((H (repairing 0)).2.1 1 (by decide +kernel) (by decide +kernel)).1⟩,
   ⟨_, ((H (repairing 0)).2.1 1 (by decide +kernel) (by decide +kernel)).2.1 (by decide +kernel)⟩, ⟨_, ((H (repairing 1)).2.1 1 (by decide +kernel) (by decide +kernel)).2.2 (by decide +kernel)⟩, ⟨_, ((H (st id)).2.2.1 .mgmt _ (by decide +kernel) (by decide +kernel)).1 (by decide +kernel)⟩,
   ⟨_, ((H (st active)).2.2.1 .mgmt _ (by decide +kernel) (by decide +kernel)).2 (by decide +kernel)⟩, ⟨_, (H checking).2.2.2.1 2 (2 ^ 383) (by decide +kernel) (by decide +kernel) (by decide +kernel)⟩,
   ⟨_, ((H (st id)).2.2.2.2.1 .mgmt _ (by decide +kernel) (by decide +kernel)).1⟩, ⟨_, ((H (st id)).2.2.2.2.1 .mgmt _ (by decide +kernel) (by decide +kernel)).2.1⟩, ⟨_, ((H (st id)).2.2.2.2.1 .mgmt _ (by decide +kernel) (by decide +kernel)).2.2.1⟩,
   ⟨_, ((H (st id)).2.2.2.2.1 .mgmt _ (by decide +kernel) (by decide +kernel)).2.2.2⟩, ⟨_, ((H badRow).2.2.2.2.2.1 5 9 (by decide +kernel) (by decide +kernel)).1⟩, ⟨_, ((H badRow).2.2.2.2.2.1 5 9 (by decide +kernel) (by decide +kernel)).2.1⟩,
   ⟨_, ((H badRow).2.2.2.2.2.1 5 9 (by decide +kernel) (by decide +kernel)).2.2⟩, ⟨_, (H badRow).2.2.2.2.2.2 5 9 (by decide +kernel) (by decide +kernel) (by decide +kernel)⟩⟩

/-- The same in boot step k; warm reset asserted; off. -/
def at_ (n k : Nat) : State := live n fun d => d.set R.PWR_STATE_BOOT_STEP k
def warmed : State := live 2 fun d => { d with pins := { d.pins with warm := true } }
def unpowered : State := st fun d => { d with pins := { d.pins with aux := true, on := false } }

theorem test_StartsRun_met (H : Obligations.StartsRun) :
    (∃ t, exec (.dawn 7 1 true) unpowered = .next t) ∧ Runs (.dawn 7 1 false) unpowered ∧ (∃ t, exec (.morning true) warmed = .next t) ∧
    Runs (.dawnReady 400 [] 0xFF) (at_ 0 11) ∧ Runs (.morningReady 400 [] 0xFF) (at_ 1 11) :=
  ⟨⟨_, ((H unpowered true).1 7 1 (by decide +kernel) (by decide +kernel) (by decide +kernel) (by decide +kernel) (by decide +kernel)).1⟩, ⟨_, ((H unpowered true).1 7 1 (by decide +kernel) (by decide +kernel) (by decide +kernel) (by decide +kernel) (by decide +kernel)).2⟩, ⟨_, (H warmed true).2.1 (by decide +kernel) (by decide +kernel)⟩,
   ⟨_, ((H (at_ 0 11) true).2.2 400 [] 0xFF (by decide +kernel) (by decide +kernel)).1 (by decide +kernel)⟩, ⟨_, ((H (at_ 1 11) true).2.2 400 [] 0xFF (by decide +kernel) (by decide +kernel)).2 (by decide +kernel)⟩⟩

theorem test_ResetsClear_met (H : Obligations.ResetsClear) :
    Runs .warmReset (live 2 active) ∧ Runs .coldReset (live 2 active) ∧ Runs .pwrOkDeassert (live 2 active) ∧ Runs .undervoltage (live 2 active) ∧
    Runs .vinAuxLoss (live 2 active) ∧ Runs (.thermalTrip 105 3) (live 2 active) ∧ Runs .vinAux3v3Rise (st fun d => { d with pins := { d.pins with aux := false } }) ∧ Runs .beatRefLoss (live 2 active) :=
  ⟨⟨_, ((H (live 2 active)).1 (by decide +kernel)).choose_spec.1⟩, ⟨_, (H (live 2 active)).2.1.1⟩, ⟨_, (H (live 2 active)).2.1.2.1⟩, ⟨_, (H (live 2 active)).2.1.2.2.1⟩,
   ⟨_, (H (live 2 active)).2.1.2.2.2.1⟩, ⟨_, (H (live 2 active)).2.1.2.2.2.2 105 3 (by decide +kernel) (by decide +kernel)⟩, ⟨_, (H (st fun d => { d with pins := { d.pins with aux := false } })).2.2.1⟩, ⟨_, (H (live 2 active)).2.2.2 (by decide +kernel)⟩⟩

/-- A mean power of 900 W over a ceiling in force of 600 W, n steps down. -/
def ceiling (n : Nat) : State := live 2 fun d =>
  let d := (d.setForce R.PWR_CEIL (BitVec.ofNat 64 600)).set R.PWR_CLK_STEPS_DOWN n
  { d with pwr := { d.pwr with samples := [900000] } }

theorem test_ClockFollows_met (H : Obligations.ClockFollows) :
    Runs (.powerSample 700000) (live 2 id) ∧ Runs .clockStepDown (ceiling 0) ∧ Runs .floorHold (ceiling 24) ∧ Runs (.thermalStep 94 3) (live 2 id) ∧
    Runs (.thermalStep 60 3) (live 2 id) ∧ Runs (.therm95 95 3) (live 2 id) :=
  ⟨⟨_, (H (live 2 id) (by decide +kernel)).1 700000⟩, ⟨_, (H (ceiling 0) (by decide +kernel)).2.1 (by decide +kernel) (by decide +kernel)⟩, ⟨_, (H (ceiling 24) (by decide +kernel)).2.2.1 (by decide +kernel) (by decide +kernel)⟩, ⟨_, ((H (live 2 id) (by decide +kernel)).2.2.2 94 3 (by decide +kernel) (by decide +kernel)).1 (by decide +kernel)⟩,
   ⟨_, ((H (live 2 id) (by decide +kernel)).2.2.2 60 3 (by decide +kernel) (by decide +kernel)).2.1 (by decide +kernel)⟩, ⟨_, ((H (live 2 id) (by decide +kernel)).2.2.2 95 3 (by decide +kernel) (by decide +kernel)).2.2 (by decide +kernel)⟩⟩

/-- In Dusk, its steps done or not; in a wake. -/
def dusking (b : Bool) : State := live 4 fun d => { d with pwr := { d.pwr with duskDone := b } }
/-- Site 5 drains; rests, with an enable held or not; rises; is ON beside an operation. -/
def site (n : Nat) : State := live 2 fun d => d.set (R.TILE_STATUS_PWR 5) n
def resting (l : List Nat) : State := live 2 fun d => { d with pwr := { d.pwr with offHold := [5], held := l } }
def rising (n k : Nat) : State := live n fun d =>
  let d := (d.set (R.TILE_STATUS_PWR 5) 1).set R.PWR_STATE_BOOT_STEP k
  { d with pwr := { d.pwr with rising := [5] } }
def besides : State := live 2 fun d => { d.set (R.TILE_STATUS_PWR 5) 1 with ops := [oper 0x41 none] }
def batched : State := live 2 fun d => d.rprAdd 1 2 5 9

theorem test_UnitsSleep_met (H : Obligations.UnitsSleep) :
    Runs (.dusk .mgmt (2 ^ 63 + 9)) (live 2 id) ∧ Runs (.wake .mgmt (2 ^ 62)) (live 5 id) ∧ Runs .nightEnter (dusking true) ∧
    Runs .duskDrainDone (dusking false) ∧ Runs .wakeDone (live 6 id) :=
  ⟨⟨_, (H (live 2 id) .mgmt _ 0 (by decide +kernel)).1 (by decide +kernel) (by decide +kernel) (by decide +kernel)⟩, ⟨_, (H (live 5 id) .mgmt (2 ^ 62) 0 (by decide +kernel)).2.1 (by decide +kernel) (by decide +kernel)⟩, ⟨_, ((H (dusking true) .mgmt 0 0 (by decide +kernel)).2.2.1 (by decide +kernel) (by decide +kernel) (by decide +kernel) (by decide +kernel)).choose_spec.1⟩,
   ⟨_, ((H (dusking false) .mgmt 0 0 (by decide +kernel)).2.2.2.1 (by decide +kernel) (by decide +kernel) (by decide +kernel) (by decide +kernel) (by decide +kernel)).choose_spec.1⟩, ⟨_, (H (live 6 id) .mgmt 0 0 (by decide +kernel)).2.2.2.2.1 (by decide +kernel) (by decide +kernel) (by decide +kernel) (by decide +kernel)⟩⟩

theorem test_UnitsSleep_met_sites (H : Obligations.UnitsSleep) :
    Runs (.drainComplete 5) (site 2) ∧ Runs (.offTimeMet 5) (resting [5]) ∧ Runs (.offTimeMet 5) (resting []) ∧ Runs (.tilePowerReady 5 true) (rising 2 12) ∧
    Runs (.tilePowerReady 5 false) (rising 2 12) ∧ Runs (.tilePowerReady 0 true) (at_ 0 6) ∧ Runs (.tileClockGate 5) besides ∧
    Runs (.pwrRprGo .mgmt (2 ^ 63 + 1)) (live 2 id) ∧ Runs (.repairRecordWrite true) batched ∧ Runs (.repairRecordWrite false) batched :=
  ⟨⟨_, (H (site 2) .mgmt 0 5 (by decide +kernel)).2.2.2.2.2.1 (by decide +kernel) (by decide +kernel) (by decide +kernel)⟩, ⟨_, ((H (resting [5]) .mgmt 0 5 (by decide +kernel)).2.2.2.2.2.2.1 (by decide +kernel)).1 (by decide +kernel)⟩,
   ⟨_, ((H (resting []) .mgmt 0 5 (by decide +kernel)).2.2.2.2.2.2.1 (by decide +kernel)).2 (by decide +kernel)⟩, ⟨_, ((H (rising 2 12) .mgmt 0 5 (by decide +kernel)).2.2.2.2.2.2.2.1 (by decide +kernel) (by decide +kernel)).1⟩,
   ⟨_, ((H (rising 2 12) .mgmt 0 5 (by decide +kernel)).2.2.2.2.2.2.2.1 (by decide +kernel) (by decide +kernel)).2⟩, ⟨_, (H (at_ 0 6) .mgmt 0 0 (by decide +kernel)).2.2.2.2.2.2.2.2.1 true (by decide +kernel) (by decide +kernel) (by decide +kernel)⟩,
   ⟨_, (H besides .mgmt 0 5 (by decide +kernel)).2.2.2.2.2.2.2.2.2.1 (by decide +kernel) (by decide +kernel) (by decide +kernel) (by decide +kernel) (by decide +kernel)⟩, ⟨_, (H (live 2 id) .mgmt _ 0 (by decide +kernel)).2.2.2.2.2.2.2.2.2.2.1 (by decide +kernel)⟩,
   ⟨_, ((H batched .mgmt 0 0 (by decide +kernel)).2.2.2.2.2.2.2.2.2.2.2 (by decide +kernel)).1⟩, ⟨_, ((H batched .mgmt 0 0 (by decide +kernel)).2.2.2.2.2.2.2.2.2.2.2 (by decide +kernel)).2⟩⟩

/-- Core 7 is in a state; the mailboxes full or empty; ring 7 holds a record. -/
def core7 (n : Nat) : State := live 2 fun d => d.set (R.MGMT_CORE_STATE 7) n
def mboxes (c m : Nat) : State := live 2 fun d => (d.set R.MGMT_MBOX_CTL_C2M_FULL c).set R.MGMT_MBOX_CTL_M2C_FULL m
def ring : State := live 2 fun d => (d.set (R.MGMT_RING_W0_INT_EN 7) 1).set (R.MGMT_RING_W1_PROD 7) 3

theorem test_CoresServe_met (H : Obligations.CoresServe) :
    Runs (.coreReset (.core 15 3) 7 (2 ^ 63)) (core7 2) ∧ Runs (.coreReset (.core 15 1) 7 (2 ^ 63)) (core7 2) ∧ Runs (.c2mFull .mgmt (2 ^ 63)) (mboxes 0 1) ∧
    Runs (.c2mFull .mgmt (2 ^ 63)) (mboxes 1 0) ∧ Runs (.m2cFull .mgmt (2 ^ 62 + 15)) (mboxes 1 0) ∧ Runs (.ringAgeInterrupt 7) ring :=
  ⟨⟨_, (H (core7 2) (.core 15 3) 7 (2 ^ 63) (by decide +kernel) (by decide +kernel)).1 (by decide +kernel) (by decide +kernel) (by decide +kernel) (by decide +kernel)⟩, ⟨_, (H (core7 2) (.core 15 1) 7 (2 ^ 63) (by decide +kernel) (by decide +kernel)).2.1 (by decide +kernel) (by decide +kernel)⟩,
   ⟨_, ((H (mboxes 0 1) .mgmt 0 (2 ^ 63) (by decide +kernel) (by decide +kernel)).2.2.1 (by decide +kernel)).1 (by decide +kernel) (by decide +kernel)⟩, ⟨_, ((H (mboxes 1 0) .mgmt 0 (2 ^ 63) (by decide +kernel) (by decide +kernel)).2.2.1 (by decide +kernel)).2.1 (by decide +kernel) (by decide +kernel)⟩,
   ⟨_, ((H (mboxes 1 0) .mgmt 0 (2 ^ 62 + 15) (by decide +kernel) (by decide +kernel)).2.2.1 (by decide +kernel)).2.2 (by decide +kernel) (by decide +kernel)⟩, ⟨_, (H ring .mgmt 7 0 (by decide +kernel) (by decide +kernel)).2.2.2 (by decide +kernel) (by decide +kernel)⟩⟩

theorem test_FusesBurn_met (H : Obligations.FusesBurn) :
    (∃ o d, exec (.svnAdvance .mgmt (2 ^ 63)) (running 2 64) = .next { running 2 64 with otp := { (running 2 64).otp with svn := o }, dev := d } ∧ o = 64) ∧
    Runs (.svnAdvance .mgmt (2 ^ 63)) (running 6 64) :=
  ⟨⟨_, _, (H (running 2 64) .mgmt (2 ^ 63) (by decide +kernel) (by decide +kernel)).1 (by decide +kernel), (by decide +kernel)⟩, ⟨_, (H (running 6 64) .mgmt (2 ^ 63) (by decide +kernel) (by decide +kernel)).2 (by decide +kernel) (by decide +kernel)⟩⟩

/-- A copy of the configuration of a body: its header with a sequence number, and the CRC. -/
def header (seq : Nat) : List Byte := cfgMagic ++ leBytes 2 1 ++ leBytes 2 0 ++ leBytes 4 seq ++ leBytes 4 0x18AC0 ++ List.replicate 40 0
def cfgCopy (seq : Nat) (b : List Byte) : List Byte := header seq ++ (leBytes 4 (crc32c (header seq ++ b)) ++ b)
/-- Both copies are in flash, A of sequence number 1 and B of n, on a device of fuses o. -/
def stored (o : Otp) (n : Nat) (b : List Byte) : State :=
  { live 2 fun d => (d.flashPut (cfgBase 0) (cfgCopy 1 b)).flashPut (cfgBase 1) (cfgCopy n b) with otp := o }

theorem crc32c_lt (bs : List Byte) : crc32c bs < 2 ^ 32 := by
  have shift (c : Nat) (h : c < 2 ^ 32) : (if c % 2 = 1 then (c >>> 1) ^^^ 0x82F63B78 else c >>> 1) < 2 ^ 32 := by
    have k : c >>> 1 < 2 ^ 32 := by rw [Nat.shiftRight_eq_div_pow]; omega
    split
    · exact Nat.xor_lt_two_pow k (by decide)
    · exact k
  have byte (c : Nat) (h : c < 2 ^ 32) (b : Byte) : crc32cByte c b < 2 ^ 32 := by
    have f (l : List Nat) (c : Nat) (h : c < 2 ^ 32) :
        l.foldl (fun c _ => if c % 2 = 1 then (c >>> 1) ^^^ 0x82F63B78 else c >>> 1) c < 2 ^ 32 := by
      induction l generalizing c with
      | nil => exact h
      | cons _ r ih => exact ih _ (shift c h)
    exact f _ _ (Nat.xor_lt_two_pow h (by omega))
  have all (c : Nat) (h : c < 2 ^ 32) : bs.foldl crc32cByte c < 2 ^ 32 := by
    induction bs generalizing c with
    | nil => exact h
    | cons b r ih => exact ih _ (byte c h b)
  exact Nat.xor_lt_two_pow (all _ (by decide)) (by decide)

theorem slice_left {h t : List Byte} {o n : Nat} (k : o + n ≤ h.length) : ((h ++ t).drop o).take n = (h.drop o).take n := by
  rw [List.drop_append_of_le_length (by omega), List.take_append_of_le_length (by simp; omega)]

/-- What the flash says of a copy that stands there. -/
theorem copy_reads (d : Dev) (a seq : Nat) (b : List Byte) (hb : b.length = 0x18AC0) (hs : seq = 1 ∨ seq = 2)
    (h : d.flashBytes a (64 + 0x18AC0) = cfgCopy seq b) :
    d.copyValid a cfgSize cfgMagic = true ∧ d.hdrSeq a = seq ∧ d.slotBody a = b := by
  have len : (header seq).length = 60 := by rcases hs with rfl | rfl <;> decide
  have head (o n : Nat) (k : o + n ≤ 60) : d.flashBytes (a + o) n = ((header seq).drop o).take n := by
    unfold Dev.flashBytes at h ⊢
    rw [stRange_sub _ _ a o n _ (show o + n ≤ 64 + 0x18AC0 by omega), h, cfgCopy, slice_left (by omega)]
  have tail (n o : Nat) (k : o + n ≤ 4 + 0x18AC0) :
      d.flashBytes (a + (60 + o)) n = ((leBytes 4 (crc32c (header seq ++ b)) ++ b).drop o).take n := by
    have e : (cfgCopy seq b).drop (60 + o) = (leBytes 4 (crc32c (header seq ++ b)) ++ b).drop o := by
      rw [cfgCopy, ← len, ← List.drop_drop, List.drop_left]
    unfold Dev.flashBytes at h ⊢
    rw [stRange_sub _ _ a (60 + o) n _ (show 60 + o + n ≤ 64 + 0x18AC0 by omega), h, e]
  have size : d.hdrLen a = 0x18AC0 := by
    rw [Dev.hdrLen, Dev.flashNat, head 0x10 4 (by omega)]; rcases hs with rfl | rfl <;> decide
  have body : d.slotBody a = b := by
    rw [Dev.slotBody, size, show a + 64 = a + (60 + 4) from rfl, tail _ 4 (by omega), List.drop_append_of_le_length (by rfl)]
    simp [leBytes, ← hb]
  refine ⟨?_, ?_, body⟩
  · have c : d.flashNat (a + 0x3C) 4 = crc32c (d.flashBytes a 60 ++ b) := by
      rw [Dev.flashNat, show a + 0x3C = a + (60 + 0) from rfl, tail 4 0 (by omega), show d.flashBytes a 60 = header seq by
        rw [show a = a + 0 from rfl, head 0 60 (by omega), List.drop_zero, List.take_of_length_le (by omega)]]
      rw [List.drop_zero, List.take_append_of_le_length (by simp), List.take_of_length_le (by simp), leNat_leBytes]
      exact Nat.mod_eq_of_lt (crc32c_lt _)
    have m : d.flashBytes a 8 = cfgMagic := by
      rw [show a = a + 0 from rfl, head 0 8 (by omega)]; rcases hs with rfl | rfl <;> decide
    have v : d.flashNat (a + 8) 2 = 1 := by
      rw [Dev.flashNat, head 8 2 (by omega)]; rcases hs with rfl | rfl <;> decide
    rw [Dev.copyValid, body, size, c, m, v]
    simp [cfgSize]
  · rw [Dev.hdrSeq, Dev.flashNat, head 0x0C 4 (by omega)]; rcases hs with rfl | rfl <;> decide

theorem stored_reads (o : Otp) (n : Nat) (b : List Byte) (hb : b.length = 0x18AC0) (hn : n = 1 ∨ n = 2) :
    let s := stored o n b
    let c := 1 - s.dev.get R.SEC_STATUS_CFG_SLOT
    s.fresh.copyValid (cfgBase c) cfgSize cfgMagic = true ∧ s.fresh.copyValid (cfgBase (1 - c)) cfgSize cfgMagic = true ∧
    s.fresh.hdrSeq (cfgBase c) = n ∧ s.fresh.hdrSeq (cfgBase (1 - c)) = 1 ∧ s.fresh.slotBody (cfgBase c) = b := by
  intro s c
  have g : s.dev.get R.SEC_STATUS_CFG_SLOT = 0 := (show _ = (live 2 id).dev.get R.SEC_STATUS_CFG_SLOT from rfl).trans (by decide +kernel)
  have hc : c = 1 := by simp only [c, g]
  have len (k : Nat) : (cfgCopy k b).length = 64 + 0x18AC0 := by simp only [cfgCopy, header, List.length_append, length_leBytes, hb]; rfl
  have f : s.fresh.flash = stPut flashDef (stPut flashDef Dev.reset.flash (cfgBase 0) (cfgCopy 1 b)) (cfgBase 1) (cfgCopy n b) := by
    simp only [s, State.fresh, stored, live, st, Dev.flashPut, Dev.set_flash]
  have b1 : s.fresh.flashBytes (cfgBase 1) (64 + 0x18AC0) = cfgCopy n b := by
    unfold Dev.flashBytes
    rw [f, ← len n, stRange_stPut]
  have b0 : s.fresh.flashBytes (cfgBase 0) (64 + 0x18AC0) = cfgCopy 1 b := by
    unfold Dev.flashBytes
    rw [f, stRange_stPut_ne _ _ _ _ _ _ (by simp [cfgBase]), ← len 1, stRange_stPut]
  obtain ⟨v1, s1, y1⟩ := copy_reads _ _ _ _ hb hn b1
  obtain ⟨v0, s0, -⟩ := copy_reads _ _ _ _ hb (.inl rfl) b0
  rw [hc]
  exact ⟨v1, v0, s1, s0, y1⟩

/-- A body of zeros: no key, and so not signed. -/
def unsigned : List Byte := List.replicate 0x18AC0 0
def busyCfg : State := live 2 fun d => { d with trust := { d.trust with pldm := some ⟨2, 0, none, []⟩ } }

/-- A modulus of 0 verifies nothing. -/
theorem rsa_zero (key m sig : List Byte) (z : leNat (key.take 384) = 0) : rsaVerify key m sig = false := by
  have p (k : Nat) : decide (2 ^ k ≤ 0) = false := decide_eq_false (Nat.not_le.mpr (Nat.two_pow_pos k))
  have h : decide (2 ^ 3071 ≤ leNat (key.take 384)) = false := z ▸ p 3071
  simp only [rsaVerify, h, Bool.and_false, Bool.false_and]

theorem unsigned_cfg : cfgSigned unsigned = false := by
  have z : leNat (((unsigned.drop 0x80).take 512).take 384) = 0 := by
    rw [unsigned, List.drop_replicate, List.take_replicate, List.take_replicate]; decide +kernel
  simp only [cfgSigned, rsa_zero _ _ _ z, Bool.false_and]

theorem test_ConfigApplies_met (H : Obligations.ConfigApplies) :
    Runs (.cfgApply .mgmt (2 ^ 62)) busyCfg ∧ Runs (.cfgApply .mgmt (2 ^ 62)) (live 2 id) :=
  ⟨⟨_, (H busyCfg .mgmt (2 ^ 62) (by decide +kernel) (by decide +kernel) (by decide +kernel)).1 ⟨_, rfl, rfl⟩⟩, ⟨_, ((H (live 2 id) .mgmt (2 ^ 62) (by decide +kernel) (by decide +kernel) (by decide +kernel)).2 (by decide +kernel)).1 (by decide +kernel)⟩⟩

/-- With a body b: one that is not newer, or not signed; and one that its key has signed, the owner's or another's. -/
theorem test_ConfigApplies_met_copies (H : Obligations.ConfigApplies) (o : Otp) (b : List Byte) (hb : b.length = 0x18AC0) :
    Runs (.cfgApply .mgmt (2 ^ 62)) (stored o 1 b) ∧ (cfgSigned b = false → Runs (.cfgApply .mgmt (2 ^ 62)) (stored o 2 b)) ∧
    (∀ k, cfgSigned b = true → o.ownerHash = some k → Runs (.cfgApply .mgmt (2 ^ 62)) (stored o 2 b)) := by
  have g (n : Nat) (hn : n = 1 ∨ n = 2) := stored_reads o n b hb hn
  have h (n : Nat) := (H (stored o n b) .mgmt (2 ^ 62) (by decide +kernel) (by decide +kernel) ⟨rfl, rfl⟩).2 rfl
  obtain ⟨v1, v0, s1, s0, y⟩ := g 1 (.inl rfl)
  obtain ⟨w1, w0, t1, t0, z⟩ := g 2 (.inr rfl)
  have h2 := ((h 2).2 w1 ((congrArg List.length z).trans hb) w0).2 (fun e => by rw [t1, t0] at e; exact absurd e (by decide))
    (by rw [t1, t0]; decide)
  refine ⟨⟨_, ((h 1).2 v1 ((congrArg List.length y).trans hb) v0).1 (s1.trans s0.symm)⟩, fun k => ⟨_, h2.1 ((congrArg cfgSigned z).trans k)⟩,
    fun k hs ho => ?_⟩
  by_cases e : cfgKeyHash b = k
  · exact ⟨_, h2.2.2 ((congrArg cfgSigned z).trans hs) (by
      rw [z]; unfold cfgOwner; rw [show (stored o 2 b).otp.ownerHash = some k from ho]; exact decide_eq_true e)⟩
  · exact ⟨_, h2.2.1 ((congrArg cfgSigned z).trans hs) (by
      rw [z]; unfold cfgOwner; rw [show (stored o 2 b).otp.ownerHash = some k from ho]; exact decide_eq_false e)⟩

/-- A body of no signature exists. -/
theorem test_ConfigApplies_met_unsigned (H : Obligations.ConfigApplies) : Runs (.cfgApply .mgmt (2 ^ 62)) (stored State.reset.otp 2 unsigned) :=
  (test_ConfigApplies_met_copies H _ unsigned List.length_replicate).2.1 unsigned_cfg

/-- A component is being sent: c, with n bytes that have come, those held back and what the check said. -/
def sending (c n : Nat) (h : List Byte) (ok : Option Bool) : State := live 2 fun d => { d with trust := { d.trust with pldm := some ⟨c, n, ok, h⟩ } }
/-- A repair record of no entries. -/
def record : List Byte := let h := rprMagic ++ List.replicate 52 0; h ++ leBytes 4 (crc32c h)

theorem test_ManagementTalks_met (H : Obligations.ManagementTalks) :
    Runs (.entdaa 9) (live 2 id) ∧ Runs (.mctpControl [0x80, 1, 0, 11]) (live 2 id) ∧ Runs (.mctpControl [0x80, 5]) (live 2 id) ∧
    Runs (.pldmType0 [0x80, 0, 1, 7]) (live 2 id) ∧ Runs (.pldmType0 [0x80, 0, 2]) (live 2 id) ∧ Runs (.pldmSensor [0x80, 2, 0x11, 36, 0]) (live 2 id) ∧
    Runs (.firmwareXfer 60 [1, 2, 3, 4, 5, 6]) (sending 1 60 [] none) ∧ Runs (.configXfer 60 [1, 2, 3, 4, 5, 6]) (sending 2 60 [] none) ∧
    Runs (.repairXfer 60 (record.drop 60)) (sending 3 60 (record.take 60) none) ∧ Runs .verifyComplete (sending 3 64 record none) ∧
    Runs .applyComplete (sending 3 64 record (some true)) ∧ Runs .applyComplete (sending 1 64 record none) :=
  let g (c : Nat) := (H (sending c 60 [] none)).2.2.2.2.2.2.1 ⟨c, 60, none, []⟩ 60 [1, 2, 3, 4, 5, 6] rfl rfl (by decide +kernel) (by decide +kernel)
  ⟨⟨_, (H (live 2 id)).1 9⟩, ⟨_, ((H (live 2 id)).2.1 [0x80, 1, 0, 11] (by decide +kernel)).choose_spec⟩, ⟨_, ((H (live 2 id)).2.2.1 [0x80, 5] (by decide +kernel)).choose_spec⟩,
   ⟨_, (H (live 2 id)).2.2.2.1 [0x80, 0, 1, 7] (by decide +kernel)⟩, ⟨_, (H (live 2 id)).2.2.2.2.1 [0x80, 0, 2] (by decide +kernel)⟩,
   ⟨_, (H (live 2 id)).2.2.2.2.2.1 [0x80, 2, 0x11, 36, 0] _ rfl⟩, ⟨_, (g 1).1 (by decide +kernel) (by decide +kernel)⟩, ⟨_, (g 2).2.1 (by decide +kernel) (by decide +kernel)⟩,
   ⟨_, ((H (sending 3 60 (record.take 60) none)).2.2.2.2.2.2.1 ⟨3, 60, none, record.take 60⟩ 60 (record.drop 60) rfl rfl (by decide +kernel) (by decide +kernel)).2.2 (by decide +kernel) (by decide +kernel)⟩,
   ⟨_, (H (sending 3 64 record none)).2.2.2.2.2.2.2.1 ⟨3, 64, none, record⟩ rfl (by decide +kernel)⟩,
   ⟨_, (H (sending 3 64 record (some true))).2.2.2.2.2.2.2.2.1 ⟨3, 64, some true, record⟩ rfl (by decide +kernel) (by decide +kernel)⟩,
   ⟨_, (H (sending 1 64 record none)).2.2.2.2.2.2.2.2.2 ⟨1, 64, none, record⟩ rfl (by decide +kernel)⟩⟩

/-- Reports are held. -/
def reports (l : List Report) : State := live 2 fun d => { d with trust := { d.trust with reports := l } }
def nonce : List Byte := List.replicate 32 7
def four : List Report := [⟨1, [], none⟩, ⟨2, [], none⟩, ⟨3, [], none⟩, ⟨4, [], none⟩]

theorem test_ReportsHeld_met (H : Obligations.ReportsHeld) :
    Runs (.getCert [0, 0, 0, 0, 0]) (live 2 id) ∧ Runs (.getReport nonce) (reports (four.take 3)) ∧ Runs (.getReport nonce) (reports four) ∧
    Runs (.getChunk [9, 1, 0, 0, 0]) (reports [⟨9, [], some [1, 2, 3]⟩]) ∧ Runs (.reportSigned 3) (reports four) ∧
    Runs (.reportHandleFree 9) (reports [⟨9, [], some [1, 2, 3]⟩]) :=
  ⟨⟨_, (H (live 2 id)).1 _⟩, ⟨_, ((H (reports (four.take 3))).2.1 nonce (by decide +kernel) (by decide +kernel)).choose_spec.choose_spec.1⟩, ⟨_, (H (reports four)).2.2.1 nonce (by decide +kernel) (by decide +kernel)⟩,
   ⟨_, (H (reports [⟨9, [], some [1, 2, 3]⟩])).2.2.2.1 [9, 1, 0, 0, 0] _ [1, 2, 3] rfl rfl (by decide +kernel) (by decide +kernel)⟩,
   ⟨_, (H (reports four)).2.2.2.2.1 3 ⟨3, [], none⟩ (by decide +kernel) rfl rfl⟩, ⟨_, (H (reports [⟨9, [], some [1, 2, 3]⟩])).2.2.2.2.2 9⟩⟩

/-- Port 1 in a state, with four good lanes; with VLAN 0 listed. -/
def eth (n : Nat) (f : Dev → Dev) : State := live 2 fun d =>
  f (((d.set (R.ETH_PORT_STATUS_STATE 1) n).set (R.ETH_PORT_STATUS_PWR 1) 1).set (R.ETH_PORT_STATUS_LANES_GOOD 1) 15)
def vlan0 (d : Dev) : Dev := d.set (R.ETH_PORT_VLAN_VALID 1 0) 1
/-- A frame to a MAC, of an EtherType; an IPv4 packet to UDP port 4791. -/
def frame (mac ety : Nat) (bs : List Byte) : List Byte := beBytes 6 mac ++ beBytes 6 9 ++ beBytes 2 ety ++ bs
def ipv4 (bs : List Byte) : List Byte :=
  [0x45, 0] ++ List.replicate 7 0 ++ [17] ++ List.replicate 10 0 ++ beBytes 2 700 ++ beBytes 2 4791 ++ beBytes 2 (8 + bs.length) ++ [0, 0] ++ bs

theorem test_EthernetPorts_met (H : Obligations.EthernetPorts) :
    Runs (.ethPortEnable .mgmt 1 1) (eth 0 id) ∧ Runs (.ethLoop .mgmt 1 2) (eth 3 id) ∧ Runs (.ethLoop .mgmt 1 2) (eth 2 id) ∧ Runs (.ethLinkUp 1) (eth 1 id) ∧
    Runs (.ethLinkDown 1) (eth 2 id) ∧ Runs (.ethLinkDown 1) (eth 1 id) ∧ Runs (.ptpStep .mgmt 1 (2 ^ 64 - 1)) (eth 2 id) :=
  ⟨⟨_, ((H (eth 0 id) 1 (by decide +kernel)).1 .mgmt 1 (by decide +kernel) (by decide +kernel)).1 (by decide +kernel) (by decide +kernel)⟩, ⟨_, ((H (eth 3 id) 1 (by decide +kernel)).1 .mgmt 2 (by decide +kernel) (by decide +kernel)).2.1 (by decide +kernel) (by decide +kernel) (by decide +kernel) (by decide +kernel)⟩,
   ⟨_, ((H (eth 2 id) 1 (by decide +kernel)).1 .mgmt 2 (by decide +kernel) (by decide +kernel)).2.2 (by decide +kernel) (by decide +kernel)⟩, ⟨_, (H (eth 1 id) 1 (by decide +kernel)).2.1 (by decide +kernel) (by decide +kernel) (by decide +kernel) (by decide +kernel)⟩, ⟨_, (H (eth 2 id) 1 (by decide +kernel)).2.2.1 (by decide +kernel)⟩,
   ⟨_, (H (eth 1 id) 1 (by decide +kernel)).2.2.2.1 (by decide +kernel)⟩, ⟨_, (H (eth 2 id) 1 (by decide +kernel)).2.2.2.2.1 .mgmt (2 ^ 64 - 1) (by decide +kernel) (by decide +kernel)⟩⟩

theorem test_EthernetPorts_met_frames (H : Obligations.EthernetPorts) :
    Runs (.ethFrame 1 (frame 0 0x8100 [0, 5]) false) (eth 2 vlan0) ∧ Runs (.ethFrame 1 (frame 0 0x800 []) false) (eth 2 id) ∧
    Runs (.ethFrame 1 (frame 2 0x800 []) false) (eth 2 vlan0) ∧ Runs (.ethFrame 1 (frame 0 0x88F7 [1]) true) (eth 2 fun d => (vlan0 d).set (R.ETH_RAW_RX_ENABLE 1) 1) ∧
    Runs (.ethFrame 1 (frame 0 0x800 (ipv4 [1, 2, 3, 4, 5])) false) (eth 2 vlan0) :=
  ⟨⟨_, ((H (eth 2 vlan0) 1 (by decide +kernel)).2.2.2.2.2 (frame 0 0x8100 [0, 5]) false (by decide +kernel) (by decide +kernel)).1 (by decide +kernel) (by decide +kernel)⟩, ⟨_, ((H (eth 2 id) 1 (by decide +kernel)).2.2.2.2.2 (frame 0 0x800 []) false (by decide +kernel) (by decide +kernel)).2.1 (by decide +kernel) (by decide +kernel)⟩,
   ⟨_, ((H (eth 2 vlan0) 1 (by decide +kernel)).2.2.2.2.2 (frame 2 0x800 []) false (by decide +kernel) (by decide +kernel)).2.2.1 (by decide +kernel) (by decide +kernel) (by decide +kernel) (by decide +kernel)⟩,
   ⟨_, ((H (eth 2 fun d => (vlan0 d).set (R.ETH_RAW_RX_ENABLE 1) 1) 1 (by decide +kernel)).2.2.2.2.2 (frame 0 0x88F7 [1]) true (by decide +kernel) (by decide +kernel)).2.2.2.1 (by decide +kernel) (by decide +kernel) (by decide +kernel) (by decide +kernel)⟩,
   ⟨_, ((H (eth 2 vlan0) 1 (by decide +kernel)).2.2.2.2.2 (frame 0 0x800 (ipv4 [1, 2, 3, 4, 5])) false (by decide +kernel) (by decide +kernel)).2.2.2.2 _ _ _ _ (by decide +kernel) (by decide +kernel) (by decide +kernel) rfl (by decide +kernel)⟩⟩

/-- Queue pair 9 on port 1, ready, with work requests. -/
def wqe (opc : Nat) : Wqe := ⟨opc, 1, 7, 0x2000, 4, 0, 0x3000, 0xFFFF, 0, 5, none, 0, none⟩
def qp (l : List Wqe) (f : Dev → Dev) : State := eth 2 fun d =>
  f ((((d.set (R.ETH_QP_W0_STATE 9) 1).set (R.ETH_QP_W0_PORT 9) 1).set R.ECC_TOP_TOP (2 ^ 36)).setQp 9 { QpUnit.reset with sq := l })
def first (w : Wqe) : State := qp [{ wqe 5 with psn := some (0, 1) }, w] id

theorem test_WorkBegins_met (H : Obligations.WorkBegins) :
    Runs (.send 9) (first (wqe 1)) ∧ Runs (.sendImm 9) (first (wqe 2)) ∧ Runs (.rdmaWrite 9) (first (wqe 3)) ∧ Runs (.writeImm 9) (first (wqe 4)) ∧
    Runs (.rdmaRead 9) (first (wqe 5)) ∧ Runs (.send 9) (first { wqe 1 with laddr := 2 ^ 36 }) :=
  ⟨⟨_, (H (first (wqe 1)) 9 1 (wqe 1) _ _ _ (by decide +kernel) (by decide +kernel) (by decide +kernel) (by decide +kernel) (by decide +kernel) (by decide +kernel) (by decide +kernel) rfl).1 (by decide +kernel)⟩, ⟨_, (H (first (wqe 2)) 9 1 (wqe 2) _ _ _ (by decide +kernel) (by decide +kernel) (by decide +kernel) (by decide +kernel) (by decide +kernel) (by decide +kernel) (by decide +kernel) rfl).2.1 (by decide +kernel)⟩,
   ⟨_, (H (first (wqe 3)) 9 1 (wqe 3) _ _ _ (by decide +kernel) (by decide +kernel) (by decide +kernel) (by decide +kernel) (by decide +kernel) (by decide +kernel) (by decide +kernel) rfl).2.2.1 (by decide +kernel)⟩, ⟨_, (H (first (wqe 4)) 9 1 (wqe 4) _ _ _ (by decide +kernel) (by decide +kernel) (by decide +kernel) (by decide +kernel) (by decide +kernel) (by decide +kernel) (by decide +kernel) rfl).2.2.2.1 (by decide +kernel)⟩,
   ⟨_, (H (first (wqe 5)) 9 1 (wqe 5) _ _ _ (by decide +kernel) (by decide +kernel) (by decide +kernel) (by decide +kernel) (by decide +kernel) (by decide +kernel) (by decide +kernel) rfl).2.2.2.2 (by decide +kernel)⟩,
   ⟨_, (H (first { wqe 1 with laddr := 2 ^ 36 }) 9 1 { wqe 1 with laddr := 2 ^ 36 } _ _ _ (by decide +kernel) (by decide +kernel) (by decide +kernel) (by decide +kernel) (by decide +kernel) (by decide +kernel) (by decide +kernel) rfl).1 (by decide +kernel)⟩⟩

/-- List 3 of port 1 has a request and a token for it. -/
def listed : State := eth 2 fun d =>
  let d := image [(5, [(0, 4, 1), (4, 16, 0x7001 * 2 ^ 48)])] d
  (((((d.set (R.IMG_CHAN_TOKENS 0) 1).set (R.ETH_XFER_W0_ENABLE 3) 1).set (R.ETH_XFER_W0_PORT 3) 1).set (R.ETH_XFER_W1_COUNT 3) 4).set
    (R.ETH_XFER_W0_BASE 3) 0x8000)
def done (n : Nat) : State := qp [{ wqe 1 with done := some 0, flags := n }] id
def unacked (n : Nat) : State := qp [] fun d => (d.setQp 9 { QpUnit.reset with nextPsn := 4 }).set (R.ETH_QP_W6_RETRY_MAX 9) n
/-- A packet of queue pair 9 or 8 has arrived, of an opcode; windows wait. -/
def came (op q : Nat) (w : Bool) : State := qp [] fun d =>
  { d with eth := { d.eth with inbox := [(1, bth op 0 1 q 0 ++ reth 0x180000000000 0 4 ++ [1, 2, 3, 4], false)] }, img := { d.img with windowsWait := w } }

theorem test_QueuesServe_met (H : Obligations.QueuesServe) :
    Runs (.xferRelease 3) listed ∧ Runs (.wrComplete 9) (done 1) ∧ Runs (.wrComplete 9) (done 0) ∧ Runs (.roceRetransmitTimeout 9) (unacked 1) ∧
    Runs (.roceRetransmitTimeout 9) (unacked 0) ∧ Runs (.rocePacket 0 true false 40) (came 4 9 false) ∧ Runs (.rocePacket 0 true false 40) (came 4 8 false) ∧
    Runs (.rocePacket 0 true false 40) (came 0x0A 9 true) ∧ Runs (.cnp 0) (came 0x81 9 false) ∧ Runs .ccInterval (qp [] id) ∧
    Runs .baseRttReset (qp [] id) :=
  ⟨⟨_, (H listed 3 0).1 (by decide +kernel) (by decide +kernel) (by decide +kernel) (by decide +kernel) (by decide +kernel) (by decide +kernel) (by decide +kernel) _ _ rfl⟩, ⟨_, ((H (done 1) 0 9).2.1 _ _ 0 rfl rfl (by decide +kernel)).1 (by decide +kernel)⟩, ⟨_, ((H (done 0) 0 9).2.1 _ _ 0 rfl rfl (by decide +kernel)).2 (by decide +kernel)⟩,
   ⟨_, ((H (unacked 1) 0 9).2.2.1 (by decide +kernel) (by decide +kernel) (by decide +kernel)).1 (by decide +kernel)⟩, ⟨_, ((H (unacked 0) 0 9).2.2.1 (by decide +kernel) (by decide +kernel) (by decide +kernel)).2 (by decide +kernel)⟩,
   ⟨_, ((H (came 4 9 false) 0 9).2.2.2.1 _ _ _ rfl (by decide +kernel) (by decide +kernel)).1 true 40 (by decide +kernel) (by decide +kernel) (by decide +kernel) (by decide +kernel) (by decide +kernel)⟩, ⟨_, ((H (came 4 8 false) 0 8).2.2.2.1 _ _ _ rfl (by decide +kernel) (by decide +kernel)).2.1 true false 40 (by decide +kernel) (by decide +kernel) (by decide +kernel)⟩,
   ⟨_, ((H (came 0x0A 9 true) 0 9).2.2.2.1 _ _ _ rfl (by decide +kernel) (by decide +kernel)).2.2.1 true false 40 (by decide +kernel) (by decide +kernel)⟩, ⟨_, ((H (came 0x81 9 false) 0 9).2.2.2.1 _ _ _ rfl (by decide +kernel) (by decide +kernel)).2.2.2 (by decide +kernel) (by decide +kernel) (by decide +kernel)⟩,
   ⟨_, (H (qp [] id) 0 0).2.2.2.2.1⟩, ⟨_, (H (qp [] id) 0 0).2.2.2.2.2.1⟩⟩

/-- The bounds of a rate, at their edges. -/
theorem test_QueuesServe_met_rate (H : Obligations.QueuesServe) : (ccRate 100 0 0 100 400000 100 1 0 true 0).1 = 100 :=
  Nat.le_antisymm (((H State.reset 0 0).2.2.2.2.2.2 100 0 0 100 400000 100 1 0 true 0 (by decide +kernel) (by decide +kernel) (by decide +kernel)).2.2 rfl)
    ((H State.reset 0 0).2.2.2.2.2.2 100 0 0 100 400000 100 1 0 true 0 (by decide +kernel) (by decide +kernel) (by decide +kernel)).1

theorem test_TestPort_met (H : Obligations.TestPort) :
    Runs (.bypass 1) (st id) ∧ Runs .idcode (st id) ∧ Runs (.samplePreload 5) (st id) ∧ Runs (.extest 5) (st id) ∧ Runs (.extestPulse 5) (st id) ∧
    Runs (.extestTrain 5) (st id) ∧ Runs (.scanDebug 1) (st id) ∧ Runs (.coreDebug 1) (st id) ∧ Runs (.ieee1500Access 7 1) (st id) ∧
    exec (.scanDebug 1) (st test) = .refused .testPort :=
  let x := (H (st id) 5 0).2.2.1.choose_spec.choose_spec
  ⟨⟨_, (H (st id) 1 0).1⟩, ⟨_, (H (st id) 1 0).2.1⟩, ⟨_, x.1⟩, ⟨_, x.2.1⟩, ⟨_, x.2.2.1⟩, ⟨_, x.2.2.2⟩, ⟨_, ((H (st id) 1 0).2.2.2.1 (by decide +kernel)).1⟩,
   ⟨_, ((H (st id) 1 0).2.2.2.1 (by decide +kernel)).2.1⟩, ⟨_, ((H (st id) 1 7).2.2.2.1 (by decide +kernel)).2.2⟩, ((H (st test) 1 0).2.2.2.2 (by decide +kernel)).1⟩

/-- Device 40 manages this one, and device 41 does not. -/
def managed : State := live 2 fun d => d.set (R.SEC_DOMAIN_ENTRY 40 0) (2 ^ 64 - 1)

theorem test_RegisterStores_met (H : Obligations.RegisterStores) :
    Runs (.registerWrite .mgmt (R.MGMT_RING_W0 7) 8 (leBytes 8 80)) (live 2 id) ∧ Runs (.registerWrite .mgmt 0xFFFFF8 8 (leBytes 8 80)) (live 2 id) ∧
    Runs (.registerWrite .mgmt 0xFF000000 8 (leBytes 8 80)) (live 2 id) ∧ Runs (.registerWrite (.core 15 0) R.SEC_CTL 8 (leBytes 8 80)) (live 2 id) ∧
    Runs (.registerWrite (.remote 41 35 3) R.BEAT_CTL 8 (leBytes 8 80)) managed ∧ Runs (.registerWrite (.remote 40 35 1) R.BEAT_CTL 8 (leBytes 8 80)) managed :=
  ⟨⟨_, (H (live 2 id) (R.MGMT_RING_W0 7) 80 (by decide +kernel) (by decide +kernel)).1 .mgmt _ _ (by decide +kernel) rfl (by decide +kernel)⟩, ⟨_, (H (live 2 id) 0xFFFFF8 80 (by decide +kernel) (by decide +kernel)).2.1 .mgmt _ (by decide +kernel) rfl rfl⟩,
   ⟨_, (H (live 2 id) 0xFF000000 80 (by decide +kernel) (by decide +kernel)).2.2.1 .mgmt (by decide +kernel) rfl⟩, ⟨_, (H (live 2 id) R.SEC_CTL 80 (by decide +kernel) (by decide +kernel)).2.2.2.1 15 (by decide +kernel) (by decide +kernel)⟩,
   ⟨_, (H managed R.BEAT_CTL 80 (by decide +kernel) (by decide +kernel)).2.2.2.2 41 35 3 (by decide +kernel) (by decide +kernel)⟩, ⟨_, (H managed R.BEAT_CTL 80 (by decide +kernel) (by decide +kernel)).2.2.2.2 40 35 1 (by decide +kernel) (by decide +kernel)⟩⟩

/-- Stores to fields of each access type, with no image active and with one. -/
theorem test_AccessTypes_met (H : Obligations.AccessTypes) :
    (∃ e : Dev, e.get (R.MGMT_RING_W0_SIZE_LOG2 7) = (R.MGMT_RING_W0_SIZE_LOG2 7).of (9 * 2 ^ 45)) ∧ (∃ e : Dev, e.get R.KVP_CFG_FRAME_32K = 0) ∧
    (∃ e : Dev, e.get R.KVP_CFG_FRAME_32K = 1 ∧ e.get R.GLB_ACC_ERR_RWI_REJECT = 1) ∧ (∃ e : Dev, e.get R.IMG_LOAD_GO = 0) ∧
    (∃ e : Dev, e.get R.ECC_ERR_FATAL = 0) :=
  ⟨⟨_, (H Dev.reset .mgmt (R.MGMT_RING_W0 7) (9 * 2 ^ 45) _ _ ⟨R.MGMT_RING_W0_SIZE_LOG2 0, .rw, 6⟩ rfl (by decide +kernel) (by decide +kernel)).1 (.inl (by decide +kernel))⟩,
   ⟨_, ((H Dev.reset .mgmt R.KVP_CFG 0 _ _ ⟨R.KVP_CFG_FRAME_32K, .rwi, 1⟩ rfl (by decide +kernel) (by decide +kernel)).2.1 (by decide +kernel) (by decide +kernel)).trans (by decide +kernel)⟩,
   ⟨_, ((H (active Dev.reset) .mgmt R.KVP_CFG 0 _ _ ⟨R.KVP_CFG_FRAME_32K, .rwi, 1⟩ rfl (by decide +kernel) (by decide +kernel)).2.2.1 (by decide +kernel) (by decide +kernel)).trans (by decide +kernel),
     (H (active Dev.reset) .mgmt R.KVP_CFG 0 _ _ ⟨R.KVP_CFG_FRAME_32K, .rwi, 1⟩ rfl (by decide +kernel) (by decide +kernel)).2.2.2.2.2.2 (by decide +kernel)⟩,
   ⟨_, ((H Dev.reset .mgmt R.IMG_LOAD (2 ^ 63) _ _ ⟨R.IMG_LOAD_GO, .wo, 0⟩ rfl (by decide +kernel) (by decide +kernel)).2.2.2.1 (by decide +kernel) (.inr (by decide +kernel))).trans (by decide +kernel)⟩,
   ⟨_, ((H (Dev.reset.set R.ECC_ERR_FATAL 1) .mgmt R.ECC_ERR 16 _ _ ⟨R.ECC_ERR_FATAL, .w1c, 0⟩ rfl (by decide +kernel) (by decide +kernel)).2.2.2.2.1 (by decide +kernel) (by decide +kernel)).trans (by decide +kernel)⟩⟩

/-- A poisoned byte at the end of a codeword whose next codeword has wrong symbols and is poisoned, and a whole codeword without poison. -/
def worn : Dev := { Dev.reset with hbm := { Dev.reset.hbm with cells := [(126, 5), (129, 6)], poison := [(1, true)], bad := [(1, 1)] } }

theorem test_MemoryStores_met (H : Obligations.MemoryStores) :
    (worn.hbmStore 127 [7, 8] (fun i => i = 0)).1.hbmByte 127 = 7 ∧ (worn.hbmStore 127 [7, 8] (fun i => i = 0)).1.hbmByte 126 = 5 ∧
    Memory.wf (worn.hbmStore 127 [7, 8] (fun i => i = 0)).1.hbm.cells = true ∧
    stGet (fun _ => false) (worn.hbmStore 127 [7, 8] (fun i => i = 0)).1.hbm.poison 1 = true ∧
    (stGet (fun _ => false) (worn.hbmStore 128 (List.replicate 128 7) (fun i => i = 9)).1.hbm.poison 1 = true) :=
  ⟨(H worn 127 [7, 8] _).2.1 0 (by decide +kernel), ((H worn 127 [7, 8] _).2.2.1 126 (by decide +kernel) (by decide +kernel)).trans (by decide +kernel), (H worn 127 [7, 8] _).1 (by decide +kernel),
   (H worn 127 [7, 8] _).2.2.2.2 1 (by decide +kernel) (by decide +kernel) (by decide +kernel) (by decide +kernel) (by decide +kernel), ((H worn 128 (List.replicate 128 7) _).2.2.2.1 1 (by decide +kernel) (by decide +kernel)).mpr ⟨9, (by decide +kernel), (by decide +kernel)⟩⟩

/-- Two bytes of one granule share its storage, on stacks 3 and 20. -/
theorem test_GranulesApart_met (H : Obligations.GranulesApart) : 4096 / 2048 = 6143 / 2048 :=
  H [3, 20] 100 [⟨0, 4096, 0, 0, 0, 1, 0, false, false⟩] 4096 6143 (by decide +kernel) (by decide +kernel) (fun _ h => (List.mem_singleton.mp h) ▸ rfl) (by decide +kernel)

/-- Ring 7, enabled, with n records unread, at an address. -/
def ringed (n a : Nat) : Dev :=
  ((((Dev.reset.set (R.MGMT_RING_W0_ENABLE 7) 1).set (R.MGMT_RING_W1_PROD 7) n).set (R.MGMT_RING_W0_BASE 7) a).set R.ECC_TOP_TOP (2 ^ 36))
def body (_ : Nat) : List Byte := List.replicate 64 9

theorem test_RecordsRing_met (H : Obligations.RecordsRing) :
    (Dev.reset.ringPut 7 body).get R.MGMT_ERR_RING_DISABLED = 1 ∧ ((ringed 64 0).ringPut 7 body).get (R.MGMT_RING_W2_OVERFLOW 7) = 1 ∧
    ((ringed 1 (2 ^ 36)).ringPut 7 body).get R.MGMT_ERR_RING_FAULT = 1 ∧ ((ringed 63 0).ringPut 7 body).get (R.MGMT_RING_W1_PROD 7) = 64 :=
  have l (p : Nat) : (body p).length = 64 := rfl
  ⟨((H Dev.reset 7 body (by decide +kernel) l).1 (by decide +kernel)).2.2, ((H (ringed 64 0) 7 body (by decide +kernel) l).2.1 (by decide +kernel) (by decide +kernel)).2.2, ((H (ringed 1 (2 ^ 36)) 7 body (by decide +kernel) l).2.2.1 (by decide +kernel) (by decide +kernel) (by decide +kernel)).2.2.1,
   ((H (ringed 63 0) 7 body (by decide +kernel) l).2.2.2 (by decide +kernel) (by decide +kernel) (by decide +kernel)).1.trans (by decide +kernel)⟩

/-- 17 / 16 in E2M3, whose codes of exponent 1 are eighths apart: the tie goes to the even code of 1. -/
theorem test_RoundsToNearest_met (H : Obligations.RoundsToNearest) : (fpEnc fmtE2m3 .rne true (.fin false 17 (-4))).code % 2 = 0 := by
  obtain ⟨nm, ne, hd, h⟩ := H fmtE2m3 (by decide +kernel) false true 17 (-4) (by decide +kernel)
  have e : fpDec fmtE2m3 (fpEnc fmtE2m3 .rne true (.fin false 17 (-4))).code = .fin false 8 (-3) := (by decide +kernel)
  rw [e] at hd
  obtain ⟨rfl, rfl⟩ : 8 = nm ∧ (-3 : Int) = ne := by injection hd with _ a b; exact ⟨a, b⟩
  exact (h 9 false 9 (-3) (by decide +kernel) (by decide +kernel) (-4) (by decide +kernel) (by decide +kernel) (by decide +kernel)).2 (by decide +kernel) (by decide +kernel)

/-- The rules of one step, of the stop and of the fuses. -/
theorem test_StepRunsFront_met (H : Obligations.StepRunsFront) :
    step { State.reset with pending := [.bypass 1, .idcode] } = exec (.bypass 1) { State.reset with pending := [.idcode] } ∧ step State.reset = .next State.reset :=
  ⟨H.1 (.bypass 1) [.idcode] _ rfl, H.2 State.reset rfl⟩
theorem test_FusesOneWay_met (H : Obligations.FusesOneWay) : (running 2 64).otp.le { State.reset.otp with svn := 64 } := by
  have h := H { running 2 64 with pending := [.svnAdvance .mgmt (2 ^ 63)] } _ ⟨(by decide +kernel), (by decide +kernel)⟩ rfl
  exact h.2
theorem test_ResetValues_met (H : Obligations.ResetValues) : State.reset.dev.get ⟨R.KVP_CFG, 0, 0⟩ = 1 :=
  H.1 R.KVP_CFG _ _ ⟨R.KVP_CFG_FRAME_32K, .rwi, 1⟩ rfl (by decide +kernel)

end Sys2Proof.Tests
end

section
/-!
SUPPORT. The tables of the registers: a listed register's row stands in one, its fields share no bit, and its reset word
holds each field's reset value.
-/

namespace Sys2Proof.Machine

/-- The tables of the blocks (Table 19.1). -/
def regTables : List (List RegRow) :=
  [rowsGlb, rowsBeat, rowsImg, rowsKvp, rowsPfx, rowsSeq, rowsExp, rowsUpd, rowsAgx, rowsAgxPort, rowsEth, rowsEthPort, rowsHbm, rowsEcc,
   rowsPwr, rowsSec, rowsTel, rowsMgmt, rowsTile]

theorem mem_of_ite_some {α : Type} {c : Prop} [Decidable c] {a : α} {e : Option α} {l : List α} (ha : a ∈ l)
    (he : ∀ x ∈ e, x ∈ l) : ∀ x ∈ (if c then some a else e), x ∈ l := by
  split
  · rintro x ⟨⟩; exact ha
  · exact he

theorem blockRows_mem_regTables (o : Nat) : ∀ rows ∈ blockRows o, rows ∈ regTables := by
  unfold blockRows
  iterate 18 refine mem_of_ite_some (by simp only [regTables, List.mem_cons, true_or, or_true]) ?_
  split
  · simp
  · exact mem_of_ite_some (by simp only [regTables, List.mem_cons, true_or, or_true]) (by simp)

/-- A listed register's row stands in the table of its block. -/
theorem exists_table_of_findRow {o : Nat} {row : RegRow} {ix : List Nat} (h : findRow o = some (row, ix)) :
    ∃ rows ∈ regTables, row ∈ rows := by
  obtain ⟨rows, hb, hr⟩ := Option.bind_eq_some_iff.mp h
  obtain ⟨r, hmem, hm⟩ := List.exists_of_findSome?_eq_some hr
  obtain ⟨_, _, he⟩ := Option.map_eq_some_iff.mp hm
  obtain ⟨rfl, _⟩ := Prod.mk.inj he
  exact ⟨rows, blockRows_mem_regTables o rows hb, hmem⟩

/-- What every row of the tables satisfies, a listed register's row does. -/
theorem of_findRow {p : RegRow → Bool} (hp : (regTables.all fun rows => rows.all p) = true) {o : Nat} {row : RegRow} {ix : List Nat}
    (h : findRow o = some (row, ix)) : p row = true := by
  obtain ⟨rows, ht, hr⟩ := exists_table_of_findRow h
  exact List.all_eq_true.mp (List.all_eq_true.mp hp rows ht) row hr

/-- The fields of a row lie in the register word, and two that differ share no bit. -/
def RegRow.fieldsApart (row : RegRow) : Bool :=
  row.fields.all fun F => F.f.ok && row.fields.all fun G => F == G || decide (F.f.hi < G.f.lo) || decide (G.f.hi < F.f.lo)

/-- Each field of a row reads its reset value from the row's reset word. -/
def RegRow.resetReads (row : RegRow) : Bool := row.fields.all fun F => wordGet (rowReset row) F.f == F.rst

theorem regTables_fieldsApart : (regTables.all fun rows => rows.all RegRow.fieldsApart) = true := by decide +kernel

theorem regTables_resetReads : (regTables.all fun rows => rows.all RegRow.resetReads) = true := by decide +kernel

section
variable {o : Nat} {row : RegRow} {ix : List Nat} {F G : FldRow}

theorem wordGet_rowReset (h : findRow o = some (row, ix)) (hF : F ∈ row.fields) : wordGet (rowReset row) F.f = F.rst :=
  eq_of_beq (List.all_eq_true.mp (of_findRow regTables_resetReads h) F hF)

/-- The word that a listed register holds after cold reset is its row's. -/
theorem resetWord_of_findRow (h : findRow o = some (row, ix)) : resetWord o = rowReset row := by rw [resetWord, h]

theorem RegRow.ok_of_fieldsApart (h : row.fieldsApart = true) (hF : F ∈ row.fields) : F.f.ok = true :=
  (Bool.and_eq_true_iff.mp (List.all_eq_true.mp h F hF)).1

theorem RegRow.apart_of_fieldsApart (h : row.fieldsApart = true) (hF : F ∈ row.fields) (hG : G ∈ row.fields) (hne : F ≠ G) :
    F.f.hi < G.f.lo ∨ G.f.hi < F.f.lo := by
  have := List.all_eq_true.mp (Bool.and_eq_true_iff.mp (List.all_eq_true.mp h F hF)).2 G hG
  simpa [hne] using this

end

/-! ### Masks of the fields of a row by access type -/

theorem testBit_rowMask (row : RegRow) (p : Acc → Bool) (i : Nat) :
    (rowMask row p).testBit i = row.fields.any fun F => p F.acc && F.f.mask.testBit i := by
  have fold (l : List FldRow) (a : Nat) :
      (l.foldl (fun a f => if p f.acc then a ||| f.f.mask else a) a).testBit i = (a.testBit i || l.any fun F => p F.acc && F.f.mask.testBit i) := by
    induction l generalizing a with
    | nil => simp
    | cons F r ih => cases hp : p F.acc <;> simp [ih, hp, Bool.or_assoc]
  rw [rowMask, fold, Nat.zero_testBit, Bool.false_or]

/-- The mask of some access types covers a field of one of them. -/
theorem rowMask_and_mask {row : RegRow} {p : Acc → Bool} {F : FldRow} (hF : F ∈ row.fields) (hp : p F.acc = true) :
    rowMask row p &&& F.f.mask = F.f.mask := by
  apply Nat.eq_of_testBit_eq; intro i
  rw [Nat.testBit_and, testBit_rowMask]
  cases hm : F.f.mask.testBit i
  · simp
  · simpa using ⟨F, hF, hp, hm⟩

/-- It misses a field of another. -/
theorem rowMask_and_mask_zero {row : RegRow} {p : Acc → Bool} {F : FldRow} (h : row.fieldsApart = true) (hF : F ∈ row.fields)
    (hp : p F.acc = false) : rowMask row p &&& F.f.mask = 0 := by
  apply Nat.eq_of_testBit_eq; intro i
  rw [Nat.testBit_and, testBit_rowMask, Nat.zero_testBit, Bool.and_eq_false_iff, List.any_eq_false]
  by_cases hm : F.f.mask.testBit i = true
  · refine .inl fun G hG hGi => ?_
    obtain ⟨hGp, hGm⟩ := Bool.and_eq_true_iff.mp hGi
    have hne : F ≠ G := by rintro rfl; simp [hp] at hGp
    have hFok := RegRow.ok_of_fieldsApart h hF
    have hGok := RegRow.ok_of_fieldsApart h hG
    have := RegRow.apart_of_fieldsApart h hF hG hne
    simp only [testBit_mask, Bool.and_eq_true, decide_eq_true_eq, Fld.ok] at hm hGm hFok hGok
    omega
  · exact .inr (by simpa using hm)

end Sys2Proof.Machine
end

section
/-!
SUPPORT. What a plain store does to the registers, whether or not it is refused for an RWI field (R7).
-/

namespace Sys2Proof.Machine

/-- The bits of a word less those that another has in common with it. -/
theorem testBit_sub_and {a : Nat} (b i : Nat) (ha : a < 2 ^ 64) : (a - (a &&& b)).testBit i = (a.testBit i && !b.testBit i) := by
  by_cases hi : i < 64
  · have h := congrArg (·.getLsbD i) (ofNat_takeBits (BitVec.ofNat 64 a) 0 0 b)
    simpa only [BitVec.toNat_ofNat, Nat.mod_eq_of_lt ha, Nat.zero_or, Nat.zero_and, Nat.and_zero, Nat.add_zero, BitVec.getLsbD_ofNat,
      BitVec.getLsbD_or, BitVec.getLsbD_and, BitVec.getLsbD_not, hi, decide_true, Bool.true_and, Nat.zero_testBit, Bool.and_false, Bool.or_false] using h
  · have hp : 2 ^ 64 ≤ 2 ^ i := Nat.pow_le_pow_right (by decide) (by omega)
    rw [Nat.testBit_lt_two_pow (by omega : a < 2 ^ i), Nat.testBit_lt_two_pow (by omega : a - (a &&& b) < 2 ^ i), Bool.false_and]

/-- A field whose write-1-to-clear mask covers it keeps the bits that the value has 0. -/
theorem wordGet_cleared (old : W64) (v : Nat) {k c : Nat} {f : Fld} (hf : f.ok = true) (hk : k &&& f.mask = 0) (hc : c &&& f.mask = f.mask) :
    wordGet ((old &&& ~~~ BitVec.ofNat 64 (k ||| (c &&& v))) ||| (BitVec.ofNat 64 v &&& BitVec.ofNat 64 k)) f =
      wordGet old f - (wordGet old f &&& f.of v) := by
  simp only [Fld.ok, Bool.and_eq_true, decide_eq_true_eq] at hf
  have hlt : wordGet old f < 2 ^ 64 := (wordGet_lt old f).trans_le (Nat.pow_le_pow_right (by decide) (by omega))
  apply Nat.eq_of_testBit_eq; intro i
  rw [testBit_sub_and _ _ hlt, wordGet, wordGet, Fld.of, testBit_bits, testBit_bits, testBit_bits]
  by_cases hi : i < f.hi + 1 - f.lo
  · have h64 : f.lo + i < 64 := by omega
    have hm : f.mask.testBit (f.lo + i) = true := by rw [testBit_mask]; simp; omega
    have hki : k.testBit (f.lo + i) = false := by simpa [hm] using congrArg (·.testBit (f.lo + i)) hk
    have hci : c.testBit (f.lo + i) = true := by simpa [hm] using congrArg (·.testBit (f.lo + i)) hc
    rw [← BitVec.getLsbD]
    simp only [hi, decide_true, Bool.true_and, BitVec.getLsbD_or, BitVec.getLsbD_and, BitVec.getLsbD_not, BitVec.getLsbD_ofNat, h64,
      Nat.testBit_or, Nat.testBit_and, hki, hci, Bool.false_or, Bool.and_false, Bool.or_false, BitVec.testBit_toNat]
  · simp [hi]

variable (d : Dev) (w : Who) (row : RegRow) (v : Nat)

/-- The word that a plain store leaves in its register, refused for an RWI field or not. -/
theorem Dev.plainStore_reg_same (o : Nat) : (d.plainStore w row o v).reg o =
    ((d.reg o &&& ~~~ BitVec.ofNat 64 (takeMask row d.imageActive ||| ((rowMask row fun a => a = .w1c) &&& v))) |||
      (BitVec.ofNat 64 v &&& BitVec.ofNat 64 (takeMask row d.imageActive))) := by
  rw [← ofNat_takeBits, Dev.plainStore, Dev.reg_setWord_same]; rfl

theorem rowMask_or (p q : Acc → Bool) : rowMask row p ||| rowMask row q = rowMask row fun a => p a || q a := by
  apply Nat.eq_of_testBit_eq; intro i
  rw [Nat.testBit_or, testBit_rowMask, testBit_rowMask, testBit_rowMask]
  induction row.fields with
  | nil => rfl
  | cons F r ih => rw [List.any_cons, List.any_cons, List.any_cons, ← ih, Bool.and_or_distrib_right]; ac_rfl

/-- The access types whose fields a store takes. -/
def Acc.takes (act : Bool) (a : Acc) : Bool := a = .rw || a = .rws || (!act && a = .rwi)

theorem takeMask_eq_rowMask (act : Bool) : takeMask row act = rowMask row (Acc.takes act) := by
  cases act
  · rw [takeMask, if_neg Bool.false_ne_true, rowMask_or]
    exact congrArg (rowMask row) (funext fun a => by cases a <;> rfl)
  · rw [takeMask, if_pos rfl, Nat.or_zero]
    exact congrArg (rowMask row) (funext fun a => by cases a <;> rfl)

theorem Dev.accErr_get_same (o : Nat) (wr : Bool) : (d.accErr R.GLB_ACC_ERR_RWI_REJECT w o wr).get R.GLB_ACC_ERR_RWI_REJECT = 1 := by
  unfold Dev.accErr
  dsimp only
  split <;> simp (disch := decide) only [Dev.bump, Dev.get_set_ne, Dev.get_set_same] <;> rfl

section
variable {o : Nat} {row : RegRow} {ix : List Nat} {F : FldRow} (h : findRow o = some (row, ix)) (hF : F ∈ row.fields)
include h hF

/-- A field whose access type takes stores takes the value. -/
theorem Dev.plainStore_get_takes (ht : F.acc.takes d.imageActive = true) :
    (d.plainStore w row o v).get ⟨o, F.f.hi, F.f.lo⟩ = F.f.of v := by
  have hok := RegRow.ok_of_fieldsApart (of_findRow regTables_fieldsApart h) hF
  rw [Dev.get, Dev.plainStore_reg_same, takeMask_eq_rowMask]
  exact (wordGet_masked _ _ _ _ F.f hok).1 (rowMask_and_mask hF ht)

/-- A field whose access type neither takes nor clears stays. -/
theorem Dev.plainStore_get_stays (ht : F.acc.takes d.imageActive = false) (hc : F.acc ≠ .w1c) :
    (d.plainStore w row o v).get ⟨o, F.f.hi, F.f.lo⟩ = d.get ⟨o, F.f.hi, F.f.lo⟩ := by
  have ha := of_findRow regTables_fieldsApart h
  have hm : (rowMask row fun a => a = .w1c) &&& F.f.mask = 0 := rowMask_and_mask_zero ha hF (by simpa using hc)
  rw [Dev.get, Dev.plainStore_reg_same, takeMask_eq_rowMask]
  refine (wordGet_masked _ _ _ _ F.f (RegRow.ok_of_fieldsApart ha hF)).2 (rowMask_and_mask_zero ha hF ht) ?_
  rw [Nat.and_right_comm, hm, Nat.zero_and]

/-- A W1C field keeps the bits that the value has 0. -/
theorem Dev.plainStore_get_w1c (hc : F.acc = .w1c) : (d.plainStore w row o v).get ⟨o, F.f.hi, F.f.lo⟩ =
    d.get ⟨o, F.f.hi, F.f.lo⟩ - (d.get ⟨o, F.f.hi, F.f.lo⟩ &&& F.f.of v) := by
  have ha := of_findRow regTables_fieldsApart h
  have ht : F.acc.takes d.imageActive = false := by simp [Acc.takes, hc]
  rw [Dev.get, Dev.plainStore_reg_same, takeMask_eq_rowMask]
  exact wordGet_cleared _ v (RegRow.ok_of_fieldsApart ha hF) (rowMask_and_mask_zero ha hF ht) (rowMask_and_mask hF (by simp [hc]))

end

/-- GLB_ACC_ERR has no RWI field. -/
theorem ne_GLB_ACC_ERR_of_rwi {o : Nat} {row : RegRow} {ix : List Nat} (h : findRow o = some (row, ix))
    (hm : (rowMask row fun a => a = .rwi) ≠ 0) : o ≠ R.GLB_ACC_ERR := by
  rintro rfl
  have hn : ∀ x ∈ findRow R.GLB_ACC_ERR, (rowMask x.1 fun a => a = .rwi) = 0 := by decide +kernel
  exact hm (hn _ h)

/-- A store that would change an RWI field while an image is active sets RWI_REJECT. -/
theorem Dev.plainStore_get_reject {o : Nat} {row : RegRow} {ix : List Nat} (h : findRow o = some (row, ix)) (ha : d.imageActive = true)
    (hx : (v ^^^ (d.reg o).toNat) &&& (rowMask row fun a => a = .rwi) ≠ 0) :
    (d.plainStore w row o v).get R.GLB_ACC_ERR_RWI_REJECT = 1 := by
  have hm : (rowMask row fun a => a = .rwi) ≠ 0 := fun h0 => hx (by rw [h0, Nat.and_zero])
  have hne : R.GLB_ACC_ERR_RWI_REJECT.reg ≠ o := (ne_GLB_ACC_ERR_of_rwi h hm).symm
  simp only [Dev.plainStore, ha, hx, ne_eq, not_false_eq_true, decide_true, Bool.and_true, if_true]
  rw [Dev.get, Dev.reg_setWord_ne _ _ hne]
  exact Dev.accErr_get_same d w o true

end Sys2Proof.Machine
end

section
/-!
SUPPORT. BEAT_CTL and BEAT_PERIOD: what a store to each makes of the device (R26, R28).
-/

namespace Sys2Proof.Machine

/-- The row of BEAT_CTL. -/
abbrev beatCtlRow : RegRow := rowsBeat[0]

/-- The row of BEAT_PERIOD. -/
abbrev beatPeriodRow : RegRow := rowsBeat[1]

theorem findRow_BEAT_CTL : findRow R.BEAT_CTL = some (beatCtlRow, []) := rfl

theorem findRow_BEAT_PERIOD : findRow R.BEAT_PERIOD = some (beatPeriodRow, []) := rfl

section
variable (d : Dev) (w : Who) (v : Nat)

theorem Dev.store_BEAT_CTL : d.store w beatCtlRow [] R.BEAT_CTL v = d.beatCtlWrite w beatCtlRow v := rfl

theorem Dev.store_BEAT_PERIOD : d.store w beatPeriodRow [] R.BEAT_PERIOD v = d.beatPeriodWrite w v := rfl

/-- While no image is active every field of BEAT_CTL takes the value. -/
theorem Dev.plainStore_BEAT_CTL_get (hi : d.imageActive = false) {f : Fld} (hf : f ∈ beatCtlRow.fields.map FldRow.f) :
    (d.plainStore w beatCtlRow R.BEAT_CTL v).get f = f.of v := by
  have all : ∀ F ∈ beatCtlRow.fields, F.acc.takes false = true ∧ F.f = ⟨R.BEAT_CTL, F.f.hi, F.f.lo⟩ := by decide
  obtain ⟨F, hF, rfl⟩ := List.mem_map.mp hf
  obtain ⟨ht, he⟩ := all F hF
  rw [he]
  exact d.plainStore_get_takes w v findRow_BEAT_CTL hF (by rw [hi]; exact ht)

theorem Dev.plainStore_storedAt {row : RegRow} {o : Nat} (hi : d.imageActive = false) : d.storedAt o (d.plainStore w row o v) := by
  rw [Dev.storedAt, Dev.plainStore_reg_same]
  exact d.plainStore_eq w row o v (.inl hi)

theorem Dev.plainStore_BEAT_CTL_lockState (hi : d.imageActive = false) :
    (d.plainStore w beatCtlRow R.BEAT_CTL v).lockState = d.lockState := by
  rw [Dev.lockState, Dev.get, d.plainStore_reg_ne w beatCtlRow R.BEAT_CTL v (.inl hi) (by decide)]; rfl

/-- ENABLE written 1: the register is stored, and the lock machine is enabled. -/
theorem Dev.beatCtlWrite_enable (hi : d.imageActive = false) (h1 : R.BEAT_CTL_ENABLE.of v = 1) :
    d.beatCtlWrite w beatCtlRow v = (d.plainStore w beatCtlRow R.BEAT_CTL v).beatEnable := by
  have hg := d.plainStore_BEAT_CTL_get w v hi (f := R.BEAT_CTL_ENABLE) (by decide)
  exact if_pos ⟨h1, decide_eq_true (hg.trans h1)⟩

/-- ENABLE written 0: the register is stored, and the lock machine is disabled. -/
theorem Dev.beatCtlWrite_disable (hi : d.imageActive = false) (h0 : R.BEAT_CTL_ENABLE.of v = 0) :
    d.beatCtlWrite w beatCtlRow v = (d.plainStore w beatCtlRow R.BEAT_CTL v).beatDisable := by
  have hg := d.plainStore_BEAT_CTL_get w v hi (f := R.BEAT_CTL_ENABLE) (by decide)
  simp [Dev.beatCtlWrite, Dev.flag, hg, h0]

theorem Dev.beatPeriodWrite_inactive (hi : d.imageActive = false) : d.beatPeriodWrite w v = d.periodWrite v :=
  if_pos (by rw [hi]; rfl)

theorem Dev.beatPeriodWrite_active (hi : d.imageActive = true) : d.beatPeriodWrite w v =
    let e := if bits v 20 0 = d.period then d else d.accErr R.GLB_ACC_ERR_RWI_REJECT w R.BEAT_PERIOD true
    if periodOk v then e else e.raise1 R.BEAT_ERR_PERIOD_RANGE 0 :=
  if_neg (by rw [hi]; exact Bool.false_ne_true)

theorem periodOk_of_range (h1 : 5000 ≤ bits v 20 0) (h2 : bits v 20 0 ≤ 1250000) : periodOk v = true := by simp [periodOk, h1, h2]

theorem not_periodOk_of_outside (h : bits v 20 0 < 5000 ∨ 1250000 < bits v 20 0) : ¬ periodOk v = true := by
  simp only [periodOk, Bool.and_eq_true, decide_eq_true_eq]; omega

end

section
variable {s : State} {w : Who} {v : Nat}

theorem exec_beatEnable (ht : s.takes w R.BEAT_CTL) (hv : v < 2 ^ 64) :
    exec (.beatEnable w v) s = .next { s with dev := s.fresh.beatCtlWrite w beatCtlRow (R.BEAT_CTL_ENABLE.on v) } := by
  rw [← Dev.store_BEAT_CTL]
  exact regWrite8_takes ht findRow_BEAT_CTL (by decide) (by decide) (Fld.on_lt _ v (by decide) hv)

theorem exec_beatDisable (ht : s.takes w R.BEAT_CTL) (hv : v < 2 ^ 64) :
    exec (.beatDisable w v) s = .next { s with dev := s.fresh.beatCtlWrite w beatCtlRow (R.BEAT_CTL_ENABLE.off v) } := by
  rw [← Dev.store_BEAT_CTL]
  exact regWrite8_takes ht findRow_BEAT_CTL (by decide) (by decide) (Fld.off_lt _ v hv)

theorem exec_beatPeriodWrite (ht : s.takes w R.BEAT_PERIOD) (hv : v < 2 ^ 64) :
    exec (.beatPeriodWrite w v) s = .next { s with dev := s.fresh.beatPeriodWrite w v } := by
  rw [← Dev.store_BEAT_PERIOD]
  exact regWrite8_takes ht findRow_BEAT_PERIOD (by decide) (by decide) hv

end

end Sys2Proof.Machine
end

section
/-!
PROOF. The statements about registers at reset, access types and the beat's control registers.
-/

namespace Sys2Proof.Machine

/-- Settles O4: a register that nothing has set reads its row's reset word. -/
theorem resetValues : Obligations.ResetValues := by
  refine ⟨fun o row ix F h hF => ?_, rfl, rfl, ⟨Nat.zero_le _, Nat.zero_le _⟩, rfl, rfl⟩
  have hr : State.reset.dev.reg o = rowReset row := resetWord_of_findRow h
  rw [Dev.get, hr]
  exact wordGet_rowReset h hF

/-- Settles O56: the clauses of `Dev.plainStore`, one for each access type. -/
theorem accessTypes : Obligations.AccessTypes := by
  intro d w o v row ix F h hF _
  refine ⟨fun ha => ?rw, fun ha hi => ?rwiTaken, fun ha hi => ?rwiStays, fun _ ha => ?stays, fun _ ha => ?w1c,
    fun hk x hx => ?others, fun hk => ?rejects⟩
  case rw => exact d.plainStore_get_takes w v h hF (by rcases ha with ha | ha <;> simp [Acc.takes, ha])
  case rwiTaken => exact d.plainStore_get_takes w v h hF (by simp [Acc.takes, ha, hi])
  case rwiStays => exact d.plainStore_get_stays w v h hF (by simp [Acc.takes, ha, hi]) (by simp [ha])
  case stays => rcases ha with ha | ha <;> exact d.plainStore_get_stays w v h hF (by simp [Acc.takes, ha]) (by simp [ha])
  case w1c => exact d.plainStore_get_w1c w v h hF ha
  case others =>
    refine d.plainStore_reg_ne w row o v ?_ hx
    rcases Bool.eq_false_or_eq_true d.imageActive with hi | hi
    · exact .inr (hk hi)
    · exact .inl hi
  case rejects =>
    obtain ⟨hi, hx⟩ := Classical.not_imp.mp hk
    exact d.plainStore_get_reject w v h hi hx

/-- Settles O6: BEAT_CTL is stored plainly and drives the lock machine; BEAT_PERIOD by the cases of its range and of an image. -/
theorem beatControl : Obligations.BeatControl := by
  intro s w v hv
  refine ⟨fun hi => ?inactive, fun hi ht => ?active⟩
  case inactive =>
    have hi : s.fresh.imageActive = false := hi
    have get (u : Nat) {f : Fld} (hf : f ∈ beatCtlRow.fields.map FldRow.f) := s.fresh.plainStore_BEAT_CTL_get w u hi hf
    refine ⟨fun ht hl => ?enable, fun ht hl => ?disable, fun ht h1 h2 => ?inRange, fun ht h => ?outside⟩
    case enable =>
      have h1 : R.BEAT_CTL_ENABLE.of (R.BEAT_CTL_ENABLE.on v) = 1 := Fld.of_on _ v rfl
      refine ⟨s.fresh.plainStore w beatCtlRow R.BEAT_CTL (R.BEAT_CTL_ENABLE.on v), s.fresh.plainStore_storedAt w _ hi, ?_, ?_, ?_, ?_, ?_⟩
      · exact decide_eq_true ((get _ (by decide)).trans h1)
      · exact (get _ (by decide)).trans (bits_on _ v 1 0 (by decide) (by decide) (by decide))
      · exact (get _ (by decide)).trans (bits_on _ v 2 2 (by decide) (by decide) (by decide))
      · exact (get _ (by decide)).trans (bits_on _ v 39 16 (by decide) (by decide) (by decide))
      · have hl := (s.fresh.plainStore_BEAT_CTL_lockState w (R.BEAT_CTL_ENABLE.on v) hi).trans hl
        rw [exec_beatEnable ht hv, Dev.beatCtlWrite_enable _ w _ hi h1, Dev.beatEnable, if_neg (not_not_intro hl)]
    case disable =>
      have h0 : R.BEAT_CTL_ENABLE.of (R.BEAT_CTL_ENABLE.off v) = 0 := Fld.of_off _ v hv
      refine ⟨s.fresh.plainStore w beatCtlRow R.BEAT_CTL (R.BEAT_CTL_ENABLE.off v), s.fresh.plainStore_storedAt w _ hi, ?_, ?_, ?_⟩
      · exact decide_eq_false (by rw [get _ (by decide), h0]; decide)
      · exact (get _ (by decide)).trans (bits_off _ v 1 0 hv (by decide) (by decide) (by decide))
      · have hl := (s.fresh.plainStore_BEAT_CTL_lockState w (R.BEAT_CTL_ENABLE.off v) hi).trans_ne hl
        rw [exec_beatDisable ht hv, Dev.beatCtlWrite_disable _ w _ hi h0, Dev.beatDisable, if_neg hl]
        rfl
    case inRange =>
      rw [exec_beatPeriodWrite ht hv, Dev.beatPeriodWrite_inactive _ w v hi, Dev.periodWrite, if_pos (periodOk_of_range v h1 h2)]
    case outside =>
      rw [exec_beatPeriodWrite ht hv, Dev.beatPeriodWrite_inactive _ w v hi, Dev.periodWrite, if_neg (not_periodOk_of_outside v h)]
  case active =>
    rw [exec_beatPeriodWrite ht hv, s.fresh.beatPeriodWrite_active w v hi]
    refine ⟨fun h1 h2 => ?inRange, fun h => ?outside⟩
    case inRange => rw [if_pos (periodOk_of_range v h1 h2)]; rfl
    case outside => rw [if_neg (not_periodOk_of_outside v h)]; rfl

end Sys2Proof.Machine
end

section
/-!
SUPPORT. REGISTER_WRITE of one word: what the gates and the lists of registers make of it (R24, R329, R389, R390).
-/

namespace Sys2Proof.Machine

theorem padTo_length (l : List Byte) : padTo l.length l = l := by simp [padTo]

/-- A store command of a requester that runs: what `ctlWrite` makes of the fuses and the device. -/
theorem regWrite_of_runs {s : State} {w : Who} (hr : s.runs w = true) (o : Nat) (bs : List Byte) :
    regWrite w o bs s = .next { s with otp := (ctlWrite s.otp s.fresh w o bs).1.1, dev := (ctlWrite s.otp s.fresh w o bs).1.2 } := by
  have hn : Dev.get { s.dev with out := [] } R.PWR_STATE_DEV_STATE = s.dev.get R.PWR_STATE_DEV_STATE := rfl
  unfold regWrite
  cases w <;> simp only [State.runs, Bool.and_eq_true, decide_eq_true_eq] at hr <;> simp [hr, hn, State.fresh]

section
variable {otp : Otp} {d : Dev} {w : Who} {o v : Nat}

theorem ctlWrite_uacc (hg : d.gate w o true = .uacc) (bs : List Byte) :
    ctlWrite otp d w o bs = ((otp, (d.raise1 R.MGMT_ERR_UACC_DENIED o).coreFault w true), false) := by
  simp only [ctlWrite, hg]

theorem ctlWrite_addrErr (hg : d.gate w o true = .addrErr) (bs : List Byte) :
    ctlWrite otp d w o bs = ((otp, d.ctlError w o true), false) := by
  simp only [ctlWrite, hg]

/-- An aligned word past the gates: outside the blocks it is an address error, inside it is one word stored. -/
theorem ctlWrite_word_pass (hg : d.gate w o true = .pass) (h8 : o % 8 = 0) (hv : v < 2 ^ 64) :
    ctlWrite otp d w o (leBytes 8 v) =
      if (blockRows o).isNone then ((otp, (d.accErr R.GLB_ACC_ERR_UNDEFINED w o true).ctlError w o true), false)
      else (storeWord (otp, d) w o v, true) := by
  have hv' : v % 18446744073709551616 = v := Nat.mod_eq_of_lt hv
  have ht : (leBytes 8 v).take 8 = leBytes 8 v := List.take_of_length_le (by simp)
  cases hb : (blockRows o).isNone <;> simp [ctlWrite, hg, widthOk_word w o h8, hb, ht, leNat_leBytes, hv', List.range_succ]

theorem storeWord_listed {row : RegRow} {ix : List Nat} (hf : findRow o = some (row, ix)) (hs : o ≠ R.SEC_CTL) :
    storeWord (otp, d) w o v = (otp, d.store w row ix o v) := by
  simp only [storeWord, hf, if_neg hs]

theorem storeWord_reserved (hf : findRow o = none) :
    storeWord (otp, d) w o v = (otp, d.accErr R.GLB_ACC_ERR_RESERVED_OFFSET w o true) := by
  simp only [storeWord, hf]

end

/-! ### The gates (R24, R329) -/

theorem Dev.gate_user_protected (d : Dev) (c : Nat) {o : Nat} (h : o / 0x1000000 = 0x0B ∨ o / 0x1000000 = 0x0C ∨ o / 0x1000000 = 0x0E) :
    d.gate (.core c 0) o true = .uacc := by
  rcases h with h | h | h <;> simp [Dev.gate, h]

theorem Dev.gate_remote_refused (d : Dev) {dev vl : Nat} (p o : Nat) (h : vl ≠ 3 ∨ d.mgmtCapable dev = false) :
    d.gate (.remote dev p vl) o true = .addrErr := by
  rcases h with h | h <;> simp [Dev.gate, h]

/-- A stored word that leaves the fuses: the command answers the device that `ctlWrite` leaves. -/
theorem does_registerWrite {s : State} {w : Who} {o v : Nat} {d : Dev} {ok : Bool} (hr : s.runs w = true)
    (h : ctlWrite s.otp s.fresh w o (leBytes 8 v) = ((s.otp, d), ok)) : Does (.registerWrite w o 8 (leBytes 8 v)) s d := by
  have he : exec (.registerWrite w o 8 (leBytes 8 v)) s = regWrite w o (padTo (leBytes 8 v).length (leBytes 8 v)) s := rfl
  rw [Does, he, padTo_length, regWrite_of_runs hr, h]

end Sys2Proof.Machine
end

section
/-!
SUPPORT. The window of a placed logical tile names its cistern, and an access to it is served there or waits (R22, R23, R62, R87, R121, R123).
-/

namespace Sys2Proof.Machine

section
variable {d : Dev} {l o n : Nat} {p : Place}

theorem windowOff_eq (hl : l < 320) (ho : o < 0x800000) : windowOff l o = 0x180000000000 + l * 0x800000 + o := by
  rw [windowOff, Nat.mod_eq_of_lt hl, Nat.mod_eq_of_lt ho]

section
variable (hl : l < 320) (ho : o < 0x800000)
include hl ho

theorem windowOff_ge : 0x180000000000 ≤ windowOff l o := by rw [windowOff_eq hl ho]; omega

theorem windowOff_lt : windowOff l o < 0x1800A0000000 := by rw [windowOff_eq hl ho]; omega

theorem windowOff_tile : (windowOff l o - 0x180000000000) / 0x800000 = l := by rw [windowOff_eq hl ho]; omega

theorem windowOff_byte : (windowOff l o - 0x180000000000) % 0x800000 = o := by rw [windowOff_eq hl ho]; omega

end

/-- A window of a placed tile that is not SPARE is its site's cistern. -/
theorem Dev.locate_windowOff (hl : l < 320) (ho : o < 0x800000) (hp : d.place l = some p) (hr : p.role ≠ 0) (hn : o + n ≤ 0x800000) :
    d.locate (windowOff l o) n = .cist p.phys o := by
  simp only [Dev.locate, if_neg (Nat.not_lt.mpr (windowOff_ge hl ho)), if_pos (windowOff_lt hl ho), windowOff_tile hl ho, windowOff_byte hl ho, hp]
  exact if_pos ⟨hr, hn⟩

/-- While a placement changes every access to a window waits. -/
theorem Dev.windowWaits_of_windowsWait (hl : l < 320) (ho : o < 0x800000) (hw : d.img.windowsWait = true) :
    d.windowWaits (windowOff l o) n = true := by
  rw [Dev.windowWaits, decide_eq_true (windowOff_ge hl ho), decide_eq_true (windowOff_lt hl ho), hw, Bool.true_or]
  rfl

/-- While a step holds a bucket of the cistern that an access touches, the access waits. -/
theorem Dev.windowWaits_of_holds (hl : l < 320) (ho : o < 0x800000) (hp : d.place l = some p) (hr : p.role ≠ 0) (hn : o + n ≤ 0x800000)
    (hh : (d.tile p.phys).holds o n = true) : d.windowWaits (windowOff l o) n = true := by
  have hc := Dev.locate_windowOff hl ho hp hr hn
  rw [Dev.windowWaits, decide_eq_true (windowOff_ge hl ho), decide_eq_true (windowOff_lt hl ho), hc]
  simp only [hh, Bool.or_true, Bool.and_true]

theorem Dev.memWrite_cist {i off t : Nat} {bs : List Byte} {pz : Nat → Bool} (h : d.locate off bs.length = .cist t o) :
    d.memWrite i off bs pz = (if peerIngress i then d.cistStore t o bs pz else (d.cistStore t o bs pz).markStale off bs.length, true) := by
  simp only [Dev.memWrite, h]

theorem Dev.memRead_cist {i off t : Nat} (h : d.locate off n = .cist t o) :
    d.memRead i off n = ((d.cistRead t o n).1, some (d.cistRead t o n).2) := by
  simp only [Dev.memRead, h]

/-- The count of an access to a placed tile's window. -/
theorem Dev.windowCount_placed (hl : l < 320) (hp : d.place l = some p) (hr : p.role ≠ 0) :
    ((d.place (l % 320)).elim d fun p => if p.role = 0 then d else d.count (R.CIST_WINDOW_ACCESSES p.phys) 1) =
    d.count (R.CIST_WINDOW_ACCESSES p.phys) 1 := by
  rw [Nat.mod_eq_of_lt hl, hp]
  exact if_neg hr

section
variable (hl : l < 320) (ho : o < 0x800000) (hp : d.place l = some p) (hr : p.role ≠ 0)
include hl ho hp hr

/-- A store served is a store to the cistern; one of a peer marks nothing stale. -/
theorem Dev.windowServe_store (w : Who) {bs : List Byte} (hn : o + bs.length ≤ 0x800000) : d.windowServe w l o n true bs =
    let e := (d.count (R.CIST_WINDOW_ACCESSES p.phys) 1).cistStore p.phys o bs fun _ => false
    if peerIngress (ingressOf w) then e else e.markStale (windowOff l o) bs.length := by
  have hc : (d.count (R.CIST_WINDOW_ACCESSES p.phys) 1).locate (windowOff l o) bs.length = .cist p.phys o :=
    Dev.locate_windowOff hl ho hp hr hn
  rw [Dev.windowServe, Dev.windowCount_placed hl hp hr, if_pos rfl, Dev.memWrite_cist hc]
  rfl

/-- A load served delivers the cistern's bytes, if none is poisoned. -/
theorem Dev.windowServe_load (w : Who) (bs : List Byte) (hn : o + n ≤ 0x800000)
    (hz : ((d.count (R.CIST_WINDOW_ACCESSES p.phys) 1).cistRead p.phys o n).2.anyPoison = false) : d.windowServe w l o n false bs =
    let x := (d.count (R.CIST_WINDOW_ACCESSES p.phys) 1).cistRead p.phys o n
    x.1.emit (.loadData (ingressOf w) x.2.bytes) := by
  have hc : (d.count (R.CIST_WINDOW_ACCESSES p.phys) 1).locate (windowOff l o) n = .cist p.phys o :=
    Dev.locate_windowOff hl ho hp hr hn
  rw [Dev.windowServe, Dev.windowCount_placed hl hp hr, if_neg Bool.false_ne_true, Dev.memRead_cist hc]
  simp only [hz, Bool.false_and]
  rfl

end
end

section
variable {s : State} {w : Who} {l o n : Nat} {wr : Bool} {bs : List Byte}

theorem exec_cisternWindowAccess : exec (.cisternWindowAccess w l o n wr bs) s = run s fun d =>
    if d.windowWaits (windowOff l o) (max n bs.length) then
      { d with img := { d.img with waiting := d.img.waiting ++ [.cisternWindowAccess w l o n wr bs] } }
    else d.windowServe w l o n wr bs := rfl

theorem does_cisternWindowAccess_waits (h : s.fresh.windowWaits (windowOff l o) (max n bs.length) = true) :
    Does (.cisternWindowAccess w l o n wr bs) s
      { s.fresh with img := { s.dev.img with waiting := s.dev.img.waiting ++ [.cisternWindowAccess w l o n wr bs] } } :=
  does_run exec_cisternWindowAccess (if_pos h)

theorem does_cisternWindowAccess_serves (h : s.fresh.windowWaits (windowOff l o) (max n bs.length) = false) :
    Does (.cisternWindowAccess w l o n wr bs) s (s.fresh.windowServe w l o n wr bs) :=
  does_run exec_cisternWindowAccess (if_neg (ne_true_of_eq_false h))

end

end Sys2Proof.Machine
end

section
/-!
SUPPORT. Big-endian fields of a frame, and its group-address bit.
-/

namespace Sys2Proof.Machine

theorem leNat_append (a b : List Byte) : leNat (a ++ b) = leNat a + 256 ^ a.length * leNat b := by
  induction a with
  | nil => simp [leNat]
  | cons x r ih => rw [List.cons_append, leNat, leNat, ih, List.length_cons, Nat.pow_succ]; ring

theorem leNat_lt (a : List Byte) : leNat a < 256 ^ a.length := by
  induction a with
  | nil => exact Nat.one_pos
  | cons x r ih =>
    have hx : x.toNat < 256 := x.isLt
    rw [leNat, List.length_cons, Nat.pow_succ]; omega

/-- A big-endian field begins with its highest byte. -/
theorem beAt_zero_div (f : List Byte) (n : Nat) (h : n < f.length) : beAt f 0 (n + 1) / 256 ^ n = beAt f 0 1 := by
  cases f with
  | nil => simp at h
  | cons a r =>
    have hl : (r.take n).reverse.length = n := by simp at h ⊢; omega
    have hlt := leNat_lt (r.take n).reverse
    rw [hl] at hlt
    simp only [beAt, List.drop_zero, List.take_succ_cons, List.take_zero, List.reverse_cons, leNat_append, hl, List.reverse_nil,
      List.nil_append]
    rw [Nat.add_mul_div_left _ _ (Nat.pow_pos (by decide)), Nat.div_eq_of_lt hlt, Nat.zero_add]

theorem bitAt_eq_testBit (w i : Nat) : bitAt w i = w.testBit i := by
  have hi : i + 1 - i = 1 := by omega
  rw [bitAt, bits, hi, Nat.pow_one, Nat.testBit_eq_decide_div_mod_eq, Nat.shiftRight_eq_div_pow]

/-- A destination address is a group's where the last bit of its first byte is 1. -/
theorem beAt_group {f : List Byte} (h : 6 ≤ f.length) : (beAt f 0 6 / 2 ^ 40).testBit 0 = bitAt (beAt f 0 1) 0 := by
  rw [bitAt_eq_testBit, ← beAt_zero_div f 5 h, show (256 : Nat) ^ 5 = 2 ^ 40 by rfl]

theorem testBit_zero_of_bits {v : Nat} (h : bits v 0 0 = 1) : v.testBit 0 = true := by
  rw [← bitAt_eq_testBit, bitAt, h]; rfl

end Sys2Proof.Machine
end

section
/-!
SUPPORT. ETH_PORT_CTL and ETH_PTP_STEP: what a store to each makes of the device (R321, R345, R346).
-/

namespace Sys2Proof.Machine

/-- The row of ETH_PORT_CTL. -/
abbrev ethPortCtlRow : RegRow := rowsEthPort[0]

theorem findRow_ethPortCtl {p : Nat} (hp : p < 2) : findRow (R.ETH_PORT_CTL p) = some (ethPortCtlRow, [p]) := by
  rw [findRow_ETH_PORT_CTL p hp]; rfl

theorem Dev.store_ethPortCtl (d : Dev) (w : Who) (p v : Nat) :
    d.store w ethPortCtlRow [p] (R.ETH_PORT_CTL p) v = d.ethCtlWrite p v := rfl

/-- The row of ETH_PTP_STEP. -/
abbrev ethPtpStepRow : RegRow := rowsEthPort[8]

theorem findRow_ethPtpStep {p : Nat} (hp : p < 2) : findRow (R.ETH_PTP_STEP p) = some (ethPtpStepRow, [p]) := by
  rw [findRow_ETH_PTP_STEP p hp]; rfl

theorem Dev.store_ethPtpStep (d : Dev) (w : Who) (p v : Nat) :
    d.store w ethPtpStepRow [p] (R.ETH_PTP_STEP p) v = d.ptpStepWrite p v := rfl

/-! ### An Ethernet port as a power unit (Table 15.10) -/

theorem unitPwr_ethUnit (p : Nat) : unitPwr (ethUnit p) = R.ETH_PORT_STATUS_PWR p := by
  rw [unitPwr, ethUnit, if_neg (by omega), if_neg (by omega), Nat.add_sub_cancel_left]

theorem Dev.setPwr_ethUnit (d : Dev) (p v : Nat) : d.setPwr (ethUnit p) v = d.set (R.ETH_PORT_STATUS_PWR p) v := by
  rw [Dev.setPwr, unitPwr_ethUnit, if_neg (by rw [ethUnit]; omega)]

section
variable (d : Dev) {p o : Nat} (hs : o ≠ R.ETH_PORT_STATUS p) (hl : logReg o = false)
include hs hl

/-- A port that powers up changes its status register and records events. -/
theorem Dev.powerUp_ethUnit_reg : (d.powerUp (ethUnit p)).reg o = d.reg o := by
  have h1 : ¬ ethUnit p < 384 := by rw [ethUnit]; omega
  have h2 : ¬ ethUnit p < 420 := by rw [ethUnit]; omega
  have h3 : ethUnit p - 420 = p := Nat.add_sub_cancel_left ..
  simp only [Dev.powerUp, Dev.powerEvent, Dev.setPwr_ethUnit, if_neg h1, if_neg h2, h3]
  rw [(LogOnly.event _ _ _ _ _).reg o hl, (LogOnly.event _ _ _ _ _).reg o hl, Dev.reg_set_ne _ _ _ hs, Dev.reg_set_ne _ _ _ hs]

/-- So does one that is enabled, whatever its state. -/
theorem Dev.enableUnit_ethUnit_reg : (d.enableUnit (ethUnit p)).reg o = d.reg o := by
  unfold Dev.enableUnit
  split
  · split
    · rfl
    · exact d.powerUp_ethUnit_reg hs hl
  · rw [unitPwr_ethUnit]
    exact Dev.reg_set_ne d (R.ETH_PORT_STATUS_PWR p) 3 hs
  · rfl

end

/-! ### The store (R321, R345) -/

section
variable (d : Dev) (p : Nat)

/-- PRBS and ENABLE as a store to ETH_PORT_CTL sets them first. -/
def Dev.ethCtlSet (prbs en : Nat) : Dev := (d.set (R.ETH_PORT_CTL_PRBS p) prbs).set (R.ETH_PORT_CTL_ENABLE p) en

theorem ethPortCtl_ne_status : R.ETH_PORT_CTL p ≠ R.ETH_PORT_STATUS p := by rw [R.ETH_PORT_CTL, R.ETH_PORT_STATUS]; omega

theorem Dev.ethCtlSet_get_loop (prbs en : Nat) : (d.ethCtlSet p prbs en).get (R.ETH_PORT_CTL_LOOP p) = d.get (R.ETH_PORT_CTL_LOOP p) := by
  rw [Dev.ethCtlSet, Dev.get_set_ne _ _ _ _ (by simp [Fld.apart, R.ETH_PORT_CTL_ENABLE, R.ETH_PORT_CTL_LOOP]) rfl rfl,
    Dev.get_set_ne _ _ _ _ (by simp [Fld.apart, R.ETH_PORT_CTL_PRBS, R.ETH_PORT_CTL_LOOP]) rfl rfl]

theorem Dev.ethCtlSet_get_state (prbs en : Nat) : (d.ethCtlSet p prbs en).get (R.ETH_PORT_STATUS_STATE p) = d.get (R.ETH_PORT_STATUS_STATE p) := by
  have h := (ethPortCtl_ne_status p).symm
  rw [Dev.get, Dev.ethCtlSet, Dev.reg_set_ne _ _ _ h, Dev.reg_set_ne _ _ _ h]; rfl

theorem Dev.set_prbs_get_enable (prbs : Nat) : (d.set (R.ETH_PORT_CTL_PRBS p) prbs).get (R.ETH_PORT_CTL_ENABLE p) = d.get (R.ETH_PORT_CTL_ENABLE p) :=
  Dev.get_set_ne _ _ _ _ (by simp [Fld.apart, R.ETH_PORT_CTL_PRBS, R.ETH_PORT_CTL_ENABLE]) rfl rfl

theorem logReg_ethPortCtl {p : Nat} (hp : p < 2) : logReg (R.ETH_PORT_CTL p) = false := by
  interval_cases p <;> rfl

/-- What a store to ETH_PORT_CTL does before it looks at LOOP: a change of ENABLE enables or disables the port. -/
def Dev.ethCtlPower (v : Nat) : Dev :=
  let e := d.ethCtlSet p (bits v 5 4) (bits v 0 0)
  if d.get (R.ETH_PORT_CTL_ENABLE p) = bits v 0 0 then e
  else if v.testBit 0 then e.enableUnit (ethUnit p) else e.disableUnit (ethUnit p)

/-- What it does with the value of LOOP. -/
def Dev.ethCtlLoop (l : Nat) : Dev :=
  let st := d.get (R.ETH_PORT_STATUS_STATE p)
  if l = d.get (R.ETH_PORT_CTL_LOOP p) ∨ (st ≠ 0 ∧ st ≠ 3 ∧ st ≠ 4) then d
  else
    let e := d.set (R.ETH_PORT_CTL_LOOP p) l
    if l ≠ 0 then (if st = 4 then e else e.ethTo p 4)
    else if e.get (R.ETH_PORT_STATUS_PWR p) = 1 then e.ethTo p 1 else e.ethTo p 0

theorem Dev.ethCtlWrite_eq (v : Nat) : d.ethCtlWrite p v = (d.ethCtlPower p v).ethCtlLoop p (bits v 3 1) := by
  rw [Dev.ethCtlPower, ← d.set_prbs_get_enable p (bits v 5 4)]
  rfl

variable {d p} {v : Nat}

theorem Dev.ethCtlPower_same (he : d.get (R.ETH_PORT_CTL_ENABLE p) = bits v 0 0) :
    d.ethCtlPower p v = d.ethCtlSet p (bits v 5 4) (bits v 0 0) := if_pos he

theorem Dev.ethCtlPower_enable (he : d.get (R.ETH_PORT_CTL_ENABLE p) = 0) (h1 : bits v 0 0 = 1) :
    d.ethCtlPower p v = (d.ethCtlSet p (bits v 5 4) 1).enableUnit (ethUnit p) := by
  rw [Dev.ethCtlPower, he, h1, if_neg Nat.zero_ne_one, if_pos (testBit_zero_of_bits h1)]

/-- ENABLE written 1 in a disabled port, LOOP as it was: the port is enabled. -/
theorem Dev.ethCtlWrite_enable (hp : p < 2) (he : d.get (R.ETH_PORT_CTL_ENABLE p) = 0) (h1 : bits v 0 0 = 1)
    (hl : bits v 3 1 = d.get (R.ETH_PORT_CTL_LOOP p)) :
    d.ethCtlWrite p v = (d.ethCtlSet p (bits v 5 4) 1).enableUnit (ethUnit p) := by
  have hg : ((d.ethCtlSet p (bits v 5 4) 1).enableUnit (ethUnit p)).get (R.ETH_PORT_CTL_LOOP p) = bits v 3 1 := by
    have hr := (d.ethCtlSet p (bits v 5 4) 1).enableUnit_ethUnit_reg (ethPortCtl_ne_status p) (logReg_ethPortCtl hp)
    rw [hl, ← d.ethCtlSet_get_loop p (bits v 5 4) 1]
    exact congrArg (wordGet · (R.ETH_PORT_CTL_LOOP p)) hr
  rw [Dev.ethCtlWrite_eq, Dev.ethCtlPower_enable he h1]
  exact if_pos (.inl hg.symm)

/-- ENABLE as it was, a loop-back asked for where the port is OFF or DOWN: the port goes to TEST. -/
theorem Dev.ethCtlWrite_loop (he : d.get (R.ETH_PORT_CTL_ENABLE p) = bits v 0 0) (hl : bits v 3 1 ≠ d.get (R.ETH_PORT_CTL_LOOP p))
    (h0 : bits v 3 1 ≠ 0) (hs : d.get (R.ETH_PORT_STATUS_STATE p) = 0 ∨ d.get (R.ETH_PORT_STATUS_STATE p) = 3) :
    d.ethCtlWrite p v = ((d.ethCtlSet p (bits v 5 4) (bits v 0 0)).set (R.ETH_PORT_CTL_LOOP p) (bits v 3 1)).ethTo p 4 := by
  rw [Dev.ethCtlWrite_eq, Dev.ethCtlPower_same he, Dev.ethCtlLoop]
  simp only [Dev.ethCtlSet_get_loop, Dev.ethCtlSet_get_state]
  rw [if_neg (by omega), if_pos h0, if_neg (by omega)]

/-- ENABLE as it was, in a port that is UP: LOOP stays. -/
theorem Dev.ethCtlWrite_up (he : d.get (R.ETH_PORT_CTL_ENABLE p) = bits v 0 0) (hs : d.get (R.ETH_PORT_STATUS_STATE p) = 2) :
    d.ethCtlWrite p v = d.ethCtlSet p (bits v 5 4) (bits v 0 0) := by
  rw [Dev.ethCtlWrite_eq, Dev.ethCtlPower_same he, Dev.ethCtlLoop]
  simp only [Dev.ethCtlSet_get_loop, Dev.ethCtlSet_get_state]
  exact if_pos (by omega)

end

/-! ### The commands -/

section
variable {s : State} {w : Who} {p v : Nat} {d : Dev}

/-- A store to ETH_PORT_CTL by a command. -/
theorem does_ethCtlWrite {c : Instr} (h : exec c s = regWrite8 w (R.ETH_PORT_CTL (p % 2)) v s) (hp : p < 2) (hv : v < 2 ^ 64)
    (ht : s.takes w (R.ETH_PORT_CTL p)) (hd : s.fresh.ethCtlWrite p v = d) : Does c s d := by
  rw [Nat.mod_eq_of_lt hp] at h
  refine does_write h ht (findRow_ethPortCtl hp) ?_ ?_ hv ((s.fresh.store_ethPortCtl w p v).trans hd)
  · rw [R.ETH_PORT_CTL]; omega
  · rw [R.ETH_PORT_CTL, R.SEC_CTL]; omega

theorem does_ptpStep (hp : p < 2) (hv : v < 2 ^ 64) (ht : s.takes w (R.ETH_PTP_STEP p)) :
    Does (.ptpStep w p v) s (s.fresh.ptpStepWrite p v) := by
  have h : exec (.ptpStep w p v) s = regWrite8 w (R.ETH_PTP_STEP (p % 2)) v s := rfl
  rw [Nat.mod_eq_of_lt hp] at h
  refine does_write h ht (findRow_ethPtpStep hp) ?_ ?_ hv (s.fresh.store_ethPtpStep w p v)
  · rw [R.ETH_PTP_STEP]; omega
  · rw [R.ETH_PTP_STEP, R.SEC_CTL]; omega

end

end Sys2Proof.Machine
end

section
/-!
SUPPORT. The Ethernet ports' links, and frames received (R25, R344–R346).
-/

namespace Sys2Proof.Machine

section
variable {s : State} {p : Nat}

/-- All lanes of a powered port have trained: the port is UP. -/
theorem does_ethLinkUp (hp : p < 2) (hs : s.dev.get (R.ETH_PORT_STATUS_STATE p) = 1 ∨ s.dev.get (R.ETH_PORT_STATUS_STATE p) = 3)
    (hw : s.dev.get (R.ETH_PORT_STATUS_PWR p) = 1) (hl : s.dev.get (R.ETH_PORT_STATUS_LANES_GOOD p) = 15) (ha : s.dev.alive = true) :
    Does (.ethLinkUp p) s (s.fresh.ethTo p 2) := by
  have he : exec (.ethLinkUp p) s = execEthLinkUp p s := rfl
  refine does_run (he.trans (by unfold execEthLinkUp; rfl)) ?_
  exact if_pos ⟨hp, hs, hw, hl, ha⟩

theorem does_ethLinkDown_up (hs : s.dev.get (R.ETH_PORT_STATUS_STATE p) = 2) :
    Does (.ethLinkDown p) s ((s.fresh.set (R.ETH_PORT_STATUS_STATE p) 3).raise1 (R.ETH_PORT_ERR_LINK_DOWN p) p) := by
  have he : exec (.ethLinkDown p) s = execEthLinkDown p s := rfl
  refine does_run (he.trans (by unfold execEthLinkDown; rfl)) ?_
  simp only [State.fresh_get, hs]

theorem does_ethLinkDown_train (hs : s.dev.get (R.ETH_PORT_STATUS_STATE p) = 1) :
    Does (.ethLinkDown p) s (s.fresh.ethTo p 3) := by
  have he : exec (.ethLinkDown p) s = execEthLinkDown p s := rfl
  refine does_run (he.trans (by unfold execEthLinkDown; rfl)) ?_
  simp only [State.fresh_get, hs]

end

section
variable {o : Otp} {d : Dev} {p : Nat} {f : List Byte} (full : Bool) (hp : p < 2) (hu : d.ethUp p = true) (hf : 14 ≤ f.length)
include hp hu hf

theorem ethFrame_arrives : ¬ (2 ≤ p ∨ (!d.ethUp p) = true ∨ f.length < 14) := by
  rw [hu, Bool.not_true]
  simp only [Bool.false_eq_true, false_or]
  omega

/-- A frame of a tagged VLAN that the port does not list is dropped and reported. -/
theorem ethFrameIn_unlisted_tagged (ht : beAt f 12 2 = 0x8100)
    (hv : (d.count (R.ETH_PORT_FRAMES_RX p) 1).vlanListed p (beAt f 14 2 % 4096) = false) :
    ethFrameIn o d p f full = ((d.count (R.ETH_PORT_FRAMES_RX p) 1).count (R.ETH_PORT_LIMIT_VLAN_DROP p) 1).raise1
      (R.ETH_PORT_ERR_LIMIT_VLAN p) (beAt f 14 2 % 4096) := by
  simp only [ethFrameIn, if_neg (ethFrame_arrives hp hu hf), ht, if_true, hv, Bool.not_false]

section
variable (ht : beAt f 12 2 ≠ 0x8100)
include ht

/-- An untagged frame is one of VLAN 0. -/
theorem ethFrameIn_unlisted_untagged (hv : (d.count (R.ETH_PORT_FRAMES_RX p) 1).vlanListed p 0 = false) :
    ethFrameIn o d p f full = ((d.count (R.ETH_PORT_FRAMES_RX p) 1).count (R.ETH_PORT_LIMIT_VLAN_DROP p) 1).raise1
      (R.ETH_PORT_ERR_LIMIT_VLAN p) 0 := by
  simp only [ethFrameIn, if_neg (ethFrame_arrives hp hu hf), ht, if_false, hv, Bool.not_false, if_true]

variable (hv : (d.count (R.ETH_PORT_FRAMES_RX p) 1).vlanListed p 0 = true)
include hv

/-- A frame for another MAC that is no group's is counted and reported. -/
theorem ethFrameIn_otherMac (hm : beAt f 0 6 ≠ (d.count (R.ETH_PORT_FRAMES_RX p) 1).get (R.ETH_PORT_MAC_MAC p))
    (hg : bitAt (beAt f 0 1) 0 = false) :
    ethFrameIn o d p f full = ((d.count (R.ETH_PORT_FRAMES_RX p) 1).count (R.ETH_PORT_LIMIT_MAC_DROP p) 1).raise1
      (R.ETH_PORT_ERR_LIMIT_MAC p) p := by
  have hd : beAt f 0 6 ≠ (d.count (R.ETH_PORT_FRAMES_RX p) 1).get (R.ETH_PORT_MAC_MAC p) ∧ (!(beAt f 0 6 / 2 ^ 40).testBit 0) = true :=
    ⟨hm, by rw [beAt_group (by omega), hg]; rfl⟩
  simp only [ethFrameIn, if_neg (ethFrame_arrives hp hu hf), ht, if_false, hv, Bool.not_true, Bool.false_eq_true]
  exact if_pos hd

variable (hm : beAt f 0 6 = (d.count (R.ETH_PORT_FRAMES_RX p) 1).get (R.ETH_PORT_MAC_MAC p))
include hm

/-- A frame to the port that carries no UDP goes to the raw ring. -/
theorem ethFrameIn_raw (h : udpOf (beAt f 12 2) (f.drop 14) = none) : ethFrameIn o d p f full =
    (d.count (R.ETH_PORT_FRAMES_RX p) 1).rawRx p f (beAt f 12 2 = 0x88F7) full := by
  simp only [ethFrameIn, if_neg (ethFrame_arrives hp hu hf), ht, if_false, hv, Bool.not_true, Bool.false_eq_true, hm, ne_eq, not_true_eq_false,
    false_and, h]

/-- A RoCEv2 packet to the port, without a congestion mark, waits for its queue pair. -/
theorem ethFrameIn_roce {sp ip ecn : Nat} {m : List Byte} (h : udpOf (beAt f 12 2) (f.drop 14) = some (sp, 4791, m, ip, ecn)) (hc : ecn ≠ 3) :
    ethFrameIn o d p f full =
      let e := d.count (R.ETH_PORT_FRAMES_RX p) 1
      { e with eth := { e.eth with inbox := e.eth.inbox ++ [(p, m.take (m.length - 4), false)] } } := by
  simp only [ethFrameIn, if_neg (ethFrame_arrives hp hu hf), ht, if_false, hv, Bool.not_true, Bool.false_eq_true, hm, ne_eq, not_true_eq_false,
    false_and, h, if_true, if_neg hc, decide_eq_false hc]

end
end

theorem does_ethFrame {s : State} {p : Nat} {f : List Byte} {full : Bool} {d : Dev} (h : ethFrameIn s.otp s.fresh p f full = d) :
    Does (.ethFrame p f full) s d := by
  have he : exec (.ethFrame p f full) s = .next { s with dev := ethFrameIn s.otp s.fresh p f full } := rfl
  rw [Does, he, h]

end Sys2Proof.Machine
end

section
/-!
PROOF. The statements about cistern windows, Ethernet ports and stores to control space.
-/

namespace Sys2Proof.Machine

/-- Settles O23: by whether the access waits, and by its direction where it is served. -/
theorem cisternWindows : Obligations.CisternWindows := by
  intro s w l o p hl ho hp hr
  dsimp only
  rw [← windowOff_eq hl ho]
  have hp : s.fresh.place l = some p := hp
  refine ⟨fun n bs hw hn => ?store, fun n bs hw hn hz => ?load, fun n bs h => ?mustWait, fun n wr bs hw => ?waits⟩
  case store =>
    have h := does_cisternWindowAccess_serves (w := w) (wr := true) hw
    rwa [Dev.windowServe_store hl ho hp hr w hn] at h
  case load =>
    have h := does_cisternWindowAccess_serves (w := w) (wr := false) hw
    rwa [Dev.windowServe_load hl ho hp hr w bs hn hz] at h
  case mustWait =>
    rcases h with h | ⟨hh, hn⟩
    · exact Dev.windowWaits_of_windowsWait hl ho h
    · exact Dev.windowWaits_of_holds hl ho hp hr hn hh
  case waits => exact does_cisternWindowAccess_waits hw

/-- Settles O51: the stores to a port's registers, its link, and a frame by VLAN, address and what it carries. -/
theorem ethernetPorts : Obligations.EthernetPorts := by
  intro s p hp
  refine ⟨fun w v hv ht => ⟨fun he hl => ?enable, fun he hl h0 hs => ?loop, fun he hs => ?keepsLoop⟩, fun hs hw hl ha => ?linkUp, fun hs => ?linkDown,
    fun hs => ?trainFails, fun w v hv ht => ?ptp, fun f full hu hf => ⟨fun ht hv => ?unlistedTagged, fun ht hv => ?unlisted,
      fun ht hv hm hg => ?otherMac, fun ht hv hm h => ?raw, fun sp m ip ecn ht hv hm h hc => ?roce⟩⟩
  case enable =>
    have h1 : bits ((R.ETH_PORT_CTL_ENABLE 0).on v) 0 0 = 1 := Fld.of_on (R.ETH_PORT_CTL_ENABLE 0) v rfl
    have h31 : bits ((R.ETH_PORT_CTL_ENABLE 0).on v) 3 1 = bits v 3 1 := bits_on _ v 3 1 (by decide) (by decide) (by decide)
    have h54 : bits ((R.ETH_PORT_CTL_ENABLE 0).on v) 5 4 = bits v 5 4 := bits_on _ v 5 4 (by decide) (by decide) (by decide)
    have hd := Dev.ethCtlWrite_enable (d := s.fresh) hp he h1 (h31.trans hl)
    rw [h54] at hd
    exact does_ethCtlWrite rfl hp (Fld.on_lt _ v rfl hv) ht hd
  case loop => exact does_ethCtlWrite rfl hp hv ht (Dev.ethCtlWrite_loop he hl h0 hs)
  case keepsLoop => exact does_ethCtlWrite rfl hp hv ht (Dev.ethCtlWrite_up he hs)
  case linkUp => exact does_ethLinkUp hp hs hw hl ha
  case linkDown => exact does_ethLinkDown_up hs
  case trainFails => exact does_ethLinkDown_train hs
  case ptp => exact does_ptpStep hp hv ht
  case unlistedTagged => exact does_ethFrame (ethFrameIn_unlisted_tagged full hp hu hf ht hv)
  case unlisted => exact does_ethFrame (ethFrameIn_unlisted_untagged full hp hu hf ht hv)
  case otherMac => exact does_ethFrame (ethFrameIn_otherMac full hp hu hf ht hv hm hg)
  case raw => exact does_ethFrame (ethFrameIn_raw full hp hu hf ht hv hm h)
  case roce => exact does_ethFrame (ethFrameIn_roce full hp hu hf ht hv hm h hc)

/-- Settles O55: a word past the gates by the lists of its block, and the two gates that refuse. -/
theorem registerStores : Obligations.RegisterStores := by
  intro s o v hv h8
  refine ⟨fun w row ix ht hf hs => ?listed, fun w rows ht hf hb => ?reserved, fun w ht hb => ?undefined, fun c hr hp => ?user,
    fun dev p vl hr h => ?remote⟩
  case listed =>
    obtain ⟨hr, hg⟩ := ht
    refine does_registerWrite hr (ok := true) ?_
    rw [ctlWrite_word_pass hg h8 hv, blockRows_of_findRow hf, if_neg Bool.false_ne_true, storeWord_listed hf hs]
  case reserved =>
    obtain ⟨hr, hg⟩ := ht
    refine does_registerWrite hr (ok := true) ?_
    rw [ctlWrite_word_pass hg h8 hv, hb, Option.isNone_some, if_neg Bool.false_ne_true, storeWord_reserved hf]
  case undefined =>
    obtain ⟨hr, hg⟩ := ht
    refine does_registerWrite hr (ok := false) ?_
    rw [ctlWrite_word_pass hg h8 hv, hb, Option.isNone_none, if_pos rfl]
  case user => exact does_registerWrite hr (ctlWrite_uacc (s.fresh.gate_user_protected c hp) _)
  case remote => exact does_registerWrite hr (ctlWrite_addrErr (s.fresh.gate_remote_refused p o h) _)

end Sys2Proof.Machine
end

section
/-!
SUPPORT. A mark of the beat by the lock state and the window in which it comes (R27–R29, Table 2.1).
-/

namespace Sys2Proof.Machine

@[simp] theorem State.fresh_beat (s : State) : s.fresh.beat = s.dev.beat := rfl
@[simp] theorem State.fresh_lockState (s : State) : s.fresh.lockState = s.dev.lockState := rfl
@[simp] theorem State.fresh_period (s : State) : s.fresh.period = s.dev.period := rfl
@[simp] theorem State.fresh_master (s : State) : s.fresh.master = s.dev.master := rfl
@[simp] theorem State.fresh_fabric (s : State) : s.fresh.fabric = s.dev.fabric := rfl
@[simp] theorem State.fresh_pins (s : State) : s.fresh.pins = s.dev.pins := rfl

theorem inMarkWindow_of {t q : Nat} (h1 : t ≤ q + 64) (h2 : q ≤ t + 64) : inMarkWindow t q = true :=
  Bool.and_eq_true_iff.mpr ⟨decide_eq_true h1, decide_eq_true h2⟩

theorem inMarkWindow_outside {t q : Nat} (h : q + 64 < t ∨ t + 64 < q) : inMarkWindow t q = false := by
  simp only [inMarkWindow, Bool.and_eq_false_iff, decide_eq_false_iff_not]
  omega

section
variable {d : Dev} {t tod q n : Nat} {flit : Option Nat}

theorem Dev.mark_acquire (hl : d.lockState = 1) : d.mark t tod flit = d.acquireMark t tod flit false := by
  simp only [Dev.mark, hl]

theorem Dev.mark_locked (hl : d.lockState = 2) (hp : d.beat.prev = some q) : d.mark t tod flit =
    if inMarkWindow t (q + d.period) then ({ d with beat := { d.beat with prev := some t, missed := 0 } } : Dev).boundary tod
    else d.markOut t := by
  simp only [Dev.mark, hl, hp, Option.any_some]

/-- A mark outside its window is late in the half period after the prediction, and else early. -/
theorem Dev.markOut_eq (hp : d.beat.prev = some q) :
    let late : Bool := 2 * ((t - q) % max 1 d.period) < d.period
    d.markOut t = d.raise1 (if late then R.BEAT_ERR_MARK_LATE else R.BEAT_ERR_MARK_EARLY) 0 := by
  simp only [Dev.markOut, hp, Option.getD_some, decide_eq_true_eq]

/-- A learned number follows each mark of ACQUIRE (log entry 51). -/
theorem Dev.learn_learned (hn : d.beat.learned = some n) :
    d.learn tod flit = { d with beat := { d.beat with learned := some (beatAdd n 1) } } := by
  simp only [Dev.learn, hn]

theorem Dev.lockIfReady_ready (hn : d.beat.learned = some n) (hw : 8 ≤ d.beat.inWin) : d.lockIfReady = d.lockOn n := by
  simp only [Dev.lockIfReady, hn, if_pos hw]

/-- A mark of ACQUIRE in the window of the one before it, the eighth in a row, with the number learned. -/
theorem Dev.acquireMark_eighth (hp : d.beat.prev = some q) (hq : inMarkWindow t (q + d.period) = true) (hn : d.beat.learned = some n)
    (hw : 7 ≤ d.beat.inWin) : d.acquireMark t tod flit false =
      ({ d with beat := { d.beat with prev := some t, heard := [], inWin := d.beat.inWin + 1, learned := some (beatAdd n 1) } } : Dev).lockOn
        (beatAdd n 1) := by
  simp only [Dev.acquireMark, hp, Option.any_some, hq, Option.isSome_some, Bool.not_true, Bool.or_true, Bool.and_false, Bool.false_eq_true,
    if_false, if_true]
  refine (congrArg Dev.lockIfReady (Dev.learn_learned ?_)).trans (Dev.lockIfReady_ready rfl (Nat.succ_le_succ hw))
  exact hn

end

/-! ### The commands -/

section
variable {s : State} {k t tod beat depth q : Nat} {a : Arrival} {d : Dev}

/-- A mark of the pin is sampled in MARK mode, while power and the reference are there. -/
theorem does_beatMark (hf : s.dev.fabric = false) (ho : s.dev.pins.on = true) (hr : s.dev.pins.refLost = false)
    (hd : s.fresh.mark t tod none = d) : Does (.beatMark t tod) s d := by
  have he : exec (.beatMark t tod) s = execBeatMark t tod s := rfl
  have sampled : ¬ (s.fresh.fabric = true ∨ (!s.fresh.pins.on) = true ∨ s.fresh.pins.refLost = true) := by simp [hf, ho, hr]
  refine does_run (he.trans (by unfold execBeatMark; rfl)) ?_
  exact (if_neg sampled).trans hd

/-- A mark flit of the uplink is taken by a FABRIC device that is no master, forwarded one deeper, and corrected by half the round trip. -/
theorem does_markFlit (ha : s.dev.agx.inbox[k]? = some a) (ht : s.fresh.takeIn k = some (a, d)) (hi : a.item = .mark beat depth)
    (hf : d.fabric = true) (hm : d.master = false) (hu : a.ingress = d.uplink) (hd : depth ≤ 4) :
    let e := (d.set R.BEAT_STATUS_UPLINK_USED a.ingress).sendMarks beat (depth + 1)
    Does (.markFlit k t tod) s (e.mark (t - e.get (R.AGX_PORT_RTT_TICKS a.ingress) / 2) tod (some beat)) := by
  have he : exec (.markFlit k t tod) s = execMarkFlit k t tod s := rfl
  refine does_run (he.trans (by unfold execMarkFlit; rfl)) ?_
  have ha : s.fresh.agx.inbox[k]? = some a := ha
  have taken : ¬ ((!d.fabric) = true ∨ d.master = true ∨ a.ingress ≠ d.uplink ∨ 4 < depth) := by simp [hf, hm, hu, hd]
  simp only [ha, ht, hi]
  exact if_neg taken

/-- A window closes with no mark in it: a boundary, and HOLDOVER after the third in a row. -/
theorem does_markMissing (hl : s.dev.lockState = 2) (hm : s.dev.master = false) :
    let beat := { s.dev.beat with prev := s.dev.beat.prev.map (· + s.dev.period), missed := s.dev.beat.missed + 1 }
    let d := (({ s.fresh with beat := beat } : Dev).raise1 R.BEAT_ERR_MARK_MISSING 0).boundary tod
    let e := (d.set R.BEAT_STATUS_HOLDOVER_BEATS 0).set R.BEAT_STATUS_LOCK_STATE 3
    let g : Dev := { e with beat := { e.beat with inWin := 0, matched := none, holdover := true } }
    (s.dev.beat.missed < 2 → Does (.markMissing tod) s d) ∧
      (2 ≤ s.dev.beat.missed → Does (.markMissing tod) s (g.raise1 R.BEAT_ERR_HOLDOVER_ENTERED 0)) := by
  have he : exec (.markMissing tod) s = execMarkMissing tod s := rfl
  have misses : ¬ (s.fresh.lockState ≠ 2 ∨ s.fresh.master = true) := by simp [hl, hm]
  refine ⟨fun hn => does_run (he.trans (by unfold execMarkMissing; rfl)) ?_, fun hn => does_run (he.trans (by unfold execMarkMissing; rfl)) ?_⟩
  · simp only [if_neg misses, State.fresh_beat, State.fresh_period]
    exact if_pos (by omega)
  · simp only [if_neg misses, State.fresh_beat, State.fresh_period]
    -- what the boundary makes of the device is taken as it stands
    generalize Dev.boundary _ _ = b
    exact if_neg (by omega)

/-- A boundary of HOLDOVER, made by the timebase and counted. -/
theorem does_beatBoundary_holdover (hl : s.dev.lockState = 3) (hp : s.dev.beat.prev = some q)
    (hb : s.dev.get R.BEAT_STATUS_HOLDOVER_BEATS < s.dev.get R.BEAT_CTL_HOLDOVER_MAX) :
    Does (.beatBoundary tod) s ((({ s.fresh with beat := { s.dev.beat with prev := some (q + s.dev.period) } } : Dev).set
      R.BEAT_STATUS_HOLDOVER_BEATS (s.dev.get R.BEAT_STATUS_HOLDOVER_BEATS + 1)).boundary tod) := by
  have he : exec (.beatBoundary tod) s = execBeatBoundary tod s := rfl
  refine does_run (he.trans (by unfold execBeatBoundary; rfl)) ?_
  simp only [State.fresh_lockState, State.fresh_beat, State.fresh_period, hl, hp, Option.elim_some]
  exact if_neg (Nat.not_le.mpr hb)

/-- A boundary of a locked master, which sends the mark. -/
theorem does_beatBoundary_master (hl : s.dev.lockState = 2) (hm : s.dev.master = true) (hp : s.dev.beat.prev = some q) :
    let d := ({ s.fresh with beat := { s.dev.beat with prev := some (q + s.dev.period) } } : Dev).boundary tod
    Does (.beatBoundary tod) s (d.sendMarks d.beatNow 0) := by
  have he : exec (.beatBoundary tod) s = execBeatBoundary tod s := rfl
  refine does_run (he.trans (by unfold execBeatBoundary; rfl)) ?_
  simp only [State.fresh_lockState, State.fresh_master, State.fresh_beat, State.fresh_period, hl, hm, hp, Option.elim_some, Bool.not_true,
    Bool.false_eq_true, if_false]

/-- The end of HOLDOVER: the beat is lost, and the seals of its last boundary still leave. -/
theorem does_holdoverMaxReached (hl : s.dev.lockState = 3)
    (hb : s.dev.get R.BEAT_CTL_HOLDOVER_MAX ≤ s.dev.get R.BEAT_STATUS_HOLDOVER_BEATS) :
    let d := s.fresh.beatDisable
    Does .holdoverMaxReached s (({ d with beat := { d.beat with lastSeals := true } } : Dev).raise1 R.BEAT_ERR_LOST 0) := by
  have he : exec .holdoverMaxReached s = execHoldoverMaxReached s := rfl
  refine does_run (he.trans (by unfold execHoldoverMaxReached; rfl)) ?_
  have ends : s.fresh.lockState = 3 ∧ s.fresh.get R.BEAT_CTL_HOLDOVER_MAX ≤ s.fresh.get R.BEAT_STATUS_HOLDOVER_BEATS := ⟨hl, hb⟩
  simp only [if_pos ends]

end

end Sys2Proof.Machine
end

section
/-!
PROOF. The statements about the comparison of beat numbers and about marks.
-/

namespace Sys2Proof.Machine

/-- Settles O5: the model reduces both numbers first and subtracts without going below 0. -/
theorem beatCompare : Obligations.BeatCompare := by
  intro a b
  have ge : beatGe a b = true ↔ ((a : Int) - b) % 2 ^ 48 < 2 ^ 47 := by
    rw [beatGe, decide_eq_true_eq]
    omega
  have differ : a % 2 ^ 48 ≠ b % 2 ^ 48 ↔ ((a : Int) - b) % 2 ^ 48 ≠ 0 := by omega
  refine ⟨ge, ?_, rfl⟩
  rw [beatGt, Bool.and_eq_true_iff, ge, decide_eq_true_eq, differ]

/-- Settles O7: a mark by the lock state and its window, and the boundaries that the device makes itself. -/
theorem beatMarks : Obligations.BeatMarks := by
  intro s t tod
  refine ⟨fun q hf ho hr hl hp h1 h2 => ?inWindow, fun q hf ho hr hl hp h => ?outOfWindow, fun q n hf ho hr hl hp h1 h2 hn hw => ?eighth,
    fun k a d beat depth ha ht hi hf hm hu hd => does_markFlit ha ht hi hf hm hu hd, fun hl hm => does_markMissing hl hm,
    fun q hl hp hb => does_beatBoundary_holdover hl hp hb, fun q hl hm hp => does_beatBoundary_master hl hm hp,
    fun hl hb => does_holdoverMaxReached hl hb⟩
  case inWindow =>
    exact does_beatMark hf ho hr ((Dev.mark_locked (d := s.fresh) hl hp).trans (if_pos (inMarkWindow_of h1 h2)))
  case outOfWindow =>
    have hw := ne_true_of_eq_false (inMarkWindow_outside h)
    exact does_beatMark hf ho hr ((Dev.mark_locked (d := s.fresh) hl hp).trans ((if_neg hw).trans (Dev.markOut_eq (d := s.fresh) hp)))
  case eighth =>
    exact does_beatMark hf ho hr ((Dev.mark_acquire (d := s.fresh) hl).trans (Dev.acquireMark_eighth (d := s.fresh) hp (inMarkWindow_of h1 h2) hn hw))

end Sys2Proof.Machine
end

section
/-!
SUPPORT. The beat table and the page registers: what a store to each makes of the device (R32, R35).
-/

namespace Sys2Proof.Machine

/-- The row of BEAT_PAGE_SWAP. -/
abbrev beatPageSwapRow : RegRow := rowsBeat[8]

/-- The row of BEAT_PAGE_n. -/
abbrev beatPageRow : RegRow := rowsBeat[9]

/-- The row of a beat-table entry's words. -/
abbrev beatEntryRow : RegRow := rowsBeat[15]

theorem findRow_BEAT_PAGE_SWAP : findRow R.BEAT_PAGE_SWAP = some (beatPageSwapRow, []) := rfl

theorem findRow_beatPage {n : Nat} (hn : n < 8) : findRow (R.BEAT_PAGE n) = some (beatPageRow, [n]) := by
  rw [findRow_BEAT_PAGE n hn]; rfl

theorem findRow_beatEntry {e k : Nat} (he : e < 8192) (hk : k < 4) : findRow (R.BEAT_ENTRY e k) = some (beatEntryRow, [e, k]) := by
  rw [findRow_BEAT_ENTRY e k he hk]; rfl

section
variable (d : Dev) (w : Who) (v : Nat)

theorem Dev.store_BEAT_PAGE_SWAP : d.store w beatPageSwapRow [] R.BEAT_PAGE_SWAP v = d.pageSwapWrite v := rfl

theorem Dev.store_beatPage (n : Nat) : d.store w beatPageRow [n] (R.BEAT_PAGE n) v = d.pageBaseWrite n v := rfl

theorem Dev.store_beatEntry (e k : Nat) : d.store w beatEntryRow [e, k] (R.BEAT_ENTRY e k) v = d.entryWrite e k v := rfl

/-- The fields of BEAT_PAGE_SWAP as a store sets them. -/
def Dev.pageSwapSet (arm : Nat) : Dev :=
  (((d.set R.BEAT_PAGE_SWAP_OUT_VALID (bits v 7 7)).set R.BEAT_PAGE_SWAP_OUT (bits v 6 4)).set R.BEAT_PAGE_SWAP_IN (bits v 2 0)).set
    R.BEAT_PAGE_SWAP_ARM arm

/-- They are no page's register. -/
theorem Dev.pageSwapSet_pageState (arm p : Nat) : (d.pageSwapSet v arm).pageState p = d.pageState p := by
  have hr : R.BEAT_PAGE p ≠ R.BEAT_PAGE_SWAP := by simp only [R.BEAT_PAGE, R.BEAT_PAGE_SWAP]; omega
  have he (f : Fld) (x : Nat) (e : Dev) (hf : f.reg = R.BEAT_PAGE_SWAP) : (e.set f x).reg (R.BEAT_PAGE p) = e.reg (R.BEAT_PAGE p) :=
    e.reg_set_ne f x (hf ▸ hr)
  refine congrArg (wordGet · (R.BEAT_PAGE_STATE p)) ?_
  exact (he _ _ _ rfl).trans ((he _ _ _ rfl).trans ((he _ _ _ rfl).trans (he _ _ _ rfl)))

variable {d v}

/-- What a device keeps of beats takes no part in its registers. -/
theorem Dev.set_withBeat (b : BeatUnit) (f : Fld) (x : Nat) : ({ d with beat := b } : Dev).set f x = { d.set f x with beat := b } := rfl

/-- A store to BEAT_PAGE_SWAP, on a device whose staged page is free again. -/
theorem Dev.pageSwapWrite_eq : d.pageSwapWrite v =
    let c := d.beat.staged.elim d fun p => if d.pageState p = 1 then d.set (R.BEAT_PAGE_STATE p) 0 else d
    let e : Dev := { c.pageSwapSet v (bits v 63 63) with beat := { c.beat with staged := none } }
    if v.testBit 63 ∧ (c.pageSwapSet v (bits v 63 63)).pageState (bits v 2 0) = 0 then
      { e.set (R.BEAT_PAGE_STATE (bits v 2 0)) 1 with beat := { c.beat with staged := some (bits v 2 0) } }
    else e := by
  simp only [Dev.pageSwapWrite, Dev.set_withBeat, Dev.pageSwapSet]
  rfl

/-- ARM written 1 with no page staged: the page swapped in is staged, where it is IDLE. -/
theorem Dev.pageSwapWrite_arm (hs : d.beat.staged = none) (hp : d.pageState (bits v 2 0) = 0) (ha : bits v 63 63 = 1) :
    d.pageSwapWrite v = { (d.pageSwapSet v 1).set (R.BEAT_PAGE_STATE (bits v 2 0)) 1 with
      beat := { d.beat with staged := some (bits v 2 0) } } := by
  have h63 : v.testBit 63 = true := by rw [← bitAt_eq_testBit, bitAt, ha]; rfl
  have stages : v.testBit 63 = true ∧ (d.pageSwapSet v 1).pageState (bits v 2 0) = 0 := ⟨h63, (d.pageSwapSet_pageState v 1 _).trans hp⟩
  simp only [Dev.pageSwapWrite_eq, hs, Option.elim_none, ha, if_pos stages, Dev.set_withBeat]

/-- ARM written 0: the page that was staged is IDLE again. -/
theorem Dev.pageSwapWrite_withdraw {p : Nat} (hs : d.beat.staged = some p) (hp : d.pageState p = 1) (ha : bits v 63 63 = 0) :
    d.pageSwapWrite v = { (d.set (R.BEAT_PAGE_STATE p) 0).pageSwapSet v 0 with beat := { d.beat with staged := none } } := by
  have h63 : v.testBit 63 = false := by rw [← bitAt_eq_testBit, bitAt, ha]; rfl
  simp only [Dev.pageSwapWrite_eq, hs, Option.elim_some, hp, if_true, ha, h63, Bool.false_eq_true, false_and, if_false, Dev.set_beat]

end
/-! ### The commands -/

section
variable {s : State} {w : Who} {v : Nat} {d : Dev}

theorem does_beatEntryWrite {e k : Nat} (he : e < 8192) (hk : k < 4) (hv : v < 2 ^ 64) (ht : s.takes w (R.BEAT_ENTRY e k))
    (hd : s.fresh.entryWrite e k v = d) : Does (.beatEntryWrite w e k v) s d := by
  have h : exec (.beatEntryWrite w e k v) s = regWrite8 w (R.BEAT_ENTRY (e % 8192) (k % 4)) v s := rfl
  rw [Nat.mod_eq_of_lt he, Nat.mod_eq_of_lt hk] at h
  refine does_write h ht (findRow_beatEntry he hk) ?_ ?_ hv ((s.fresh.store_beatEntry w v e k).trans hd)
  · rw [R.BEAT_ENTRY]; omega
  · rw [R.BEAT_ENTRY, R.SEC_CTL]; omega

theorem does_beatPageBaseWrite {n : Nat} (hn : n < 8) (hv : v < 2 ^ 64) (ht : s.takes w (R.BEAT_PAGE n))
    (hd : s.fresh.pageBaseWrite n v = d) : Does (.beatPageBaseWrite w n v) s d := by
  have h : exec (.beatPageBaseWrite w n v) s = regWrite8 w (R.BEAT_PAGE (n % 8)) v s := rfl
  rw [Nat.mod_eq_of_lt hn] at h
  refine does_write h ht (findRow_beatPage hn) ?_ ?_ hv ((s.fresh.store_beatPage w v n).trans hd)
  · rw [R.BEAT_PAGE]; omega
  · rw [R.BEAT_PAGE, R.SEC_CTL]; omega

/-- A store to BEAT_PAGE_SWAP by a command. -/
theorem does_pageSwapWrite {c : Instr} (h : exec c s = regWrite8 w R.BEAT_PAGE_SWAP v s) (hv : v < 2 ^ 64)
    (ht : s.takes w R.BEAT_PAGE_SWAP) (hd : s.fresh.pageSwapWrite v = d) : Does c s d :=
  does_write h ht findRow_BEAT_PAGE_SWAP (by decide) (by decide) hv ((s.fresh.store_BEAT_PAGE_SWAP w v).trans hd)

theorem Dev.pageSwapSet_on (d : Dev) (arm : Nat) : d.pageSwapSet (R.BEAT_PAGE_SWAP_ARM.on v) arm = d.pageSwapSet v arm := by
  simp (disch := decide) only [Dev.pageSwapSet, bits_on]

theorem Dev.pageSwapSet_off (d : Dev) (arm : Nat) (hv : v < 2 ^ 64) :
    d.pageSwapSet (R.BEAT_PAGE_SWAP_ARM.off v) arm = d.pageSwapSet v arm := by
  have h (hi lo : Nat) (h1 : R.BEAT_PAGE_SWAP_ARM.hi < lo ∨ hi < R.BEAT_PAGE_SWAP_ARM.lo) (h2 : lo ≤ hi) :=
    bits_off R.BEAT_PAGE_SWAP_ARM v hi lo hv h1 (by decide) h2
  simp (disch := decide) only [Dev.pageSwapSet, h]

end

end Sys2Proof.Machine
end

section
/-!
PROOF. The statement about stores to the beat table and the page registers.
-/

namespace Sys2Proof.Machine

/-- Settles O8: by the state of the page that a store meets. -/
theorem beatTableWrites : Obligations.BeatTableWrites := by
  intro s w v hv
  refine ⟨fun e k he hk ht hp => ?entryTaken, fun e k he hk ht hp => ?entryRefused, fun n hn ht hp => ?baseTaken,
    fun n hn ht hp => ?baseRefused, fun ht hs hp => ?arm, fun p ht hs hp => ?withdraw⟩
  case entryTaken => exact does_beatEntryWrite he hk hv ht (if_neg (not_not_intro hp))
  case entryRefused => exact does_beatEntryWrite he hk hv ht (if_pos hp)
  case baseTaken => exact does_beatPageBaseWrite hn hv ht (if_neg (not_not_intro hp))
  case baseRefused => exact does_beatPageBaseWrite hn hv ht (if_pos hp)
  case arm =>
    have hi : bits (R.BEAT_PAGE_SWAP_ARM.on v) 2 0 = bits v 2 0 := bits_on _ v 2 0 (by decide) (by decide) (by decide)
    have h1 : bits (R.BEAT_PAGE_SWAP_ARM.on v) 63 63 = 1 := Fld.of_on R.BEAT_PAGE_SWAP_ARM v rfl
    have hd := Dev.pageSwapWrite_arm (d := s.fresh) (v := R.BEAT_PAGE_SWAP_ARM.on v) hs (hi.symm ▸ hp) h1
    rw [Dev.pageSwapSet_on, hi] at hd
    exact does_pageSwapWrite rfl (Fld.on_lt _ v rfl hv) ht hd
  case withdraw =>
    have h0 : bits (R.BEAT_PAGE_SWAP_ARM.off v) 63 63 = 0 := Fld.of_off R.BEAT_PAGE_SWAP_ARM v hv
    have hd := Dev.pageSwapWrite_withdraw (d := s.fresh) hs hp h0
    rw [Dev.pageSwapSet_off _ _ hv] at hd
    exact does_pageSwapWrite rfl (Fld.off_lt _ v hv) ht hd

end Sys2Proof.Machine
end

section
/-!
SUPPORT. Entries that start, and streams primed for them (R33, R34, R36, R117).
-/

namespace Sys2Proof.Machine

section
variable {d : Dev} {e : Nat}

/-- A main-lane entry that does not defer its product starts: its waits and its slip are counted, its tokens taken. -/
theorem Dev.entryStart_starts (fill urg full sealw : Nat)
    (hp : deferring (d.checkDue.entry e) (d.checkDue.opDesc (entOp (d.checkDue.entry e))) = false) (hs : d.checkDue.mainStartable e = true) :
    let c := ((((d.checkDue.entryWait e 2 (fill + urg)).entryWait e 3 sealw).count R.BEAT_FILL_FILL_DELAY_CYCLES fill).count
      R.WGQ_WAIT_URGENT_WAIT_CYCLES urg).count R.WGQ_WAIT_FULL_CYCLES 0
    d.entryStart e fill urg full sealw = (((c.countSlip e).takeEntry e).startOp (c.opOfEntry e false)).refreshWaiting := by
  simp only [Dev.entryStart, hp, hs, Bool.false_and, Bool.not_true, Bool.not_false, Bool.false_eq_true, if_false, if_true]

/-- A filler-lane entry starts, unless a slice of the queue goes first. -/
theorem Dev.fillerStart_starts {left : Nat} (sealw : Nat) (hs : d.checkDue.fillerStartable e left = true)
    (hq : d.checkDue.get R.WGQ_CTL_PRIORITY = 0 → d.checkDue.sliceWants (entGroup (d.checkDue.entry e)) left = false) :
    d.fillerStart e left sealw =
      ((((d.checkDue.entryWait e 3 sealw).countSlip e).takeEntry e).startOp (d.checkDue.opOfEntry e true)).refreshWaiting := by
  have first : ¬ (d.checkDue.get R.WGQ_CTL_PRIORITY = 0 ∧ d.checkDue.sliceWants (entGroup (d.checkDue.entry e)) left = true) :=
    fun ⟨h0, hw⟩ => Bool.noConfusion ((hq h0).symm.trans hw)
  simp only [Dev.fillerStart, hs, Bool.not_true, Bool.false_eq_true, if_false, if_neg first]

/-- The entry that alone is due opens its EARLY streams on a tile of its group that holds none. -/
theorem Dev.streamPrime_opens {t : Nat} (hd : d.isDue e = true) (hr : d.entryInRange (d.entry e) = true)
    (ht : (d.groupSites (entGroup (d.entry e))).contains t = true) (ha : d.alive = true) (hy : d.tileReady t = true)
    (hf : ∀ f, f ∈ d.dueEntries → f = e) (hq : deferring (d.entry e) (d.opDesc (entOp (d.entry e))) = false)
    (hn : d.descFault t (d.opDesc (entOp (d.entry e)))
      (d.rankOf (d.groupSites (entGroup (d.entry e))) (d.opDesc (entOp (d.entry e))) t) (d.groupSites (entGroup (d.entry e))) = none)
    (hs : (d.tile t).streams = []) :
    let tiles := d.groupSites (entGroup (d.entry e))
    let desc := d.opDesc (entOp (d.entry e))
    let c := (d.openings t desc (d.rankOf tiles desc t)).foldl (fun (d : Dev) o =>
      if o.ordered || !sdEarly (d.streamDesc o.strm) || sdOut (d.streamDesc o.strm) ||
        (d.tile t).streams.any (fun x => x.primed && x.op = e && decide (x.role = o.role)) then d else d.openStream t e true o) d
    d.streamPrime t e = (c.prepare t).refreshPump t := by
  have first : (d.dueEntries.all fun f => f = e || entLane (d.entry f) ≠ entLane (d.entry e) ||
      !(d.groupSites (entGroup (d.entry f))).contains t || !d.before f e) = true :=
    List.all_eq_true.mpr fun f hm => by simp [hf f hm]
  simp only [Dev.streamPrime, first, hd, hr, ht, ha, hy, hq, hn, hs, Option.isSome_none, List.any_nil, Bool.and_true, Bool.not_true, Bool.or_false,
    Bool.false_eq_true, if_false]

end

theorem does_entryStart {s : State} {e fill urg full sealw : Nat} {d : Dev} (h : s.fresh.entryStart e fill urg full sealw = d) :
    Does (.entryStart e fill urg full sealw) s d :=
  does_run (f := fun d => d.entryStart e fill urg full sealw) rfl h

theorem does_fillerStart {s : State} {e left sealw : Nat} {d : Dev} (h : s.fresh.fillerStart e left sealw = d) :
    Does (.fillerStart e left sealw) s d :=
  does_run (f := fun d => d.fillerStart e left sealw) rfl h

theorem does_streamPrime {s : State} {t e : Nat} {d : Dev} (h : s.fresh.streamPrime t e = d) : Does (.streamPrime t e) s d :=
  does_run (f := fun d => d.streamPrime t e) rfl h

end Sys2Proof.Machine
end

section
/-!
PROOF. The statement about entries that start.
-/

namespace Sys2Proof.Machine

/-- Settles O9: each command starts what its gates let through. -/
theorem entriesStart : Obligations.EntriesStart := by
  intro s e
  refine ⟨fun fill urg full sealw => ?main, fun left sealw => ?filler, fun t => ?prime⟩
  case main => exact fun hp hs => does_entryStart (Dev.entryStart_starts fill urg full sealw hp hs)
  case filler => exact fun hs hq => does_fillerStart (Dev.fillerStart_starts sealw hs hq)
  case prime =>
    exact fun hd hr ht ha hy hf hq hn hs => does_streamPrime (Dev.streamPrime_opens hd hr ht ha hy hf hq hn hs)

end Sys2Proof.Machine
end

section
/-!
SUPPORT. Seals that leave and seals that come, silence of a port and a fence note (R29, R39, R151, R167, R169).
-/

namespace Sys2Proof.Machine

@[simp] theorem State.fresh_beatNow (s : State) : s.fresh.beatNow = s.dev.beatNow := rfl

/-! ### Seals that leave (R151) -/

/-- The beat whose stage-h seal a port sends next, where the stage before it has come so far. -/
def PortUnit.nextSeal (u : PortUnit) (h : Nat) : Option Nat :=
  match u.sent.getD h none, u.sent.getD (h - 1) none with
  | some b, some c => if beatGe c (beatAdd b 1) then some (beatAdd b 1) else none
  | none, some c => some c
  | _, none => none

/-- The other ports of the set have sealed the stage before of beat k, and what came before that has gone on. -/
def Dev.stageReady (d : Dev) (p h k : Nat) : Bool :=
  (d.sealSet.filter fun q => decide (q ≠ p)).all fun q => d.sealCameBy q (h - 1) k && !d.sealHeldBy p q (h - 1) k

/-- The stage and the beat that a port seals next, if any. -/
def Dev.dueStage (d : Dev) (p : Nat) : Option (Nat × Nat) :=
  [1, 2, 3].findSome? fun h => ((d.port p).nextSeal h).bind fun k => if d.stageReady p h k then some (h, k) else none

section
variable {s : State} {p : Nat}

theorem exec_sealStageSend : exec (.sealStageSend p) s = run s fun d =>
    match d.dueStage p with
    | some (h, k) => if d.sealPort p then d.sealOut p h k else d
    | none => d := rfl

theorem PortUnit.nextSeal_due {u : PortUnit} {h b c : Nat} (hb : u.sent.getD h none = some b) (hc : u.sent.getD (h - 1) none = some c)
    (hg : beatGe c (beatAdd b 1) = true) : u.nextSeal h = some (beatAdd b 1) := by
  simp only [PortUnit.nextSeal, hb, hc, hg, if_true]

theorem PortUnit.nextSeal_behind {u : PortUnit} {h b c : Nat} (hb : u.sent.getD h none = some b) (hc : u.sent.getD (h - 1) none = some c)
    (hg : beatGe c (beatAdd b 1) = false) : u.nextSeal h = none := by
  simp only [PortUnit.nextSeal, hb, hc, hg, Bool.false_eq_true, if_false]

/-- The lowest stage that has a beat to seal is the one that is due. -/
theorem Dev.dueStage_eq {d : Dev} {h k : Nat} (h1 : 1 ≤ h) (h3 : h ≤ 3) (hn : (d.port p).nextSeal h = some k) (hr : d.stageReady p h k = true)
    (hl : ∀ g, 1 ≤ g → g < h → (d.port p).nextSeal g = none) : d.dueStage p = some (h, k) := by
  have here : (((d.port p).nextSeal h).bind fun k => if d.stageReady p h k then some (h, k) else none) = some (h, k) := by
    rw [hn, Option.bind_some, if_pos hr]
  have lower (g : Nat) (hg : 1 ≤ g) (hgh : g < h) :
      (((d.port p).nextSeal g).bind fun k => if d.stageReady p g k then some (g, k) else none) = none := by
    rw [hl g hg hgh, Option.bind_none]
  obtain rfl | rfl | rfl : h = 1 ∨ h = 2 ∨ h = 3 := by omega
  · simp only [Dev.dueStage, List.findSome?_cons, here]
  · simp only [Dev.dueStage, List.findSome?_cons, lower 1 (by decide) (by decide), here]
  · simp only [Dev.dueStage, List.findSome?_cons, lower 1 (by decide) (by decide), lower 2 (by decide) (by decide), here]

theorem does_sealStageSend {h k : Nat} (hd : s.fresh.dueStage p = some (h, k)) (hp : s.fresh.sealPort p = true) :
    Does (.sealStageSend p) s (s.fresh.sealOut p h k) := by
  refine does_run exec_sealStageSend ?_
  simp only [hd]
  exact if_pos hp

/-- Stage 0 leaves once what this device queued before the beat's end has left. -/
theorem does_sealSend {b : Nat} (hb : (s.dev.port p).sent.getD 0 none = some b) (hp : s.fresh.sealPort p = true)
    (hn : beatGt s.dev.beatNow (beatAdd b 1) = true)
    (hq : ∀ q, q ∈ (s.dev.port p).txq → q.relay.isSome = true ∨ beatGe (beatAdd b 1) q.beat = false) :
    Does (.sealSend p) s (s.fresh.sealOut p 0 (beatAdd b 1)) := by
  have he : exec (.sealSend p) s = execSealSend p s := rfl
  have drained : ((s.dev.port p).txq.all fun q => q.relay.isSome || !beatGe (beatAdd b 1) q.beat) = true :=
    List.all_eq_true.mpr fun q hm => by simpa using hq q hm
  refine does_run (he.trans (by unfold execSealSend; rfl)) ?_
  simp only [State.fresh_port, State.fresh_beatNow, hb, Option.elim_some, hp, hn, drained, Bool.and_true, if_true]

end

/-! ### Seals that come (R29, R39) -/

/-- A seal counts for its port as the seal of the beat it names. -/
def Dev.sealTaken (d : Dev) (u : PortUnit) (p beat stage : Nat) : Dev :=
  d.setPort p { d.port p with seals := u.seals.set stage (some beat), named := u.named.set stage (nameBeat (u.named.getD stage []) beat) }

/-- A seal continues its series in a beat of its own. -/
def Dev.sealExpected (d : Dev) (p beat stage : Nat) : Bool :=
  beatGt d.beatNow beat && ((d.port p).seals.getD stage none).all fun b => decide (beat = beatAdd b 1)

section
variable {d e : Dev} {k beat stage : Nat} {holdover : Bool} {a : Arrival}

theorem Dev.beatSeal_eq (ha : d.agx.inbox[k]? = some a) (ht : d.takeIn k = some (a, e)) (hi : a.item = .seal beat stage holdover)
    (hm : d.sealMayPass k a.ingress = true) : d.beatSeal k =
      let m := if e.beating && !e.sealExpected a.ingress beat stage then e.raise1 R.BEAT_ERR_SEAL_MISMATCH a.ingress else e
      let g := m.sealTaken (e.port a.ingress) a.ingress beat stage
      (if stage = 3 ∧ g.lockState = 1 then g.hearSeal a.ingress beat else g).refreshSeals := by
  simp only [Dev.beatSeal, ha, ht, hi, hm, Bool.not_true, Bool.false_eq_true, if_false]
  rfl

theorem Dev.sealTaken_lockState (d : Dev) (u : PortUnit) (p beat stage : Nat) : (d.sealTaken u p beat stage).lockState = d.lockState := rfl

theorem Dev.raise1_mismatch_lockState (d : Dev) (p : Nat) : (d.raise1 R.BEAT_ERR_SEAL_MISMATCH p).lockState = d.lockState :=
  d.raise1_get_ne _ _ p (by decide) (by decide) (by decide) (by decide)

theorem Dev.lockState_ne_one_of_beating (h : d.beating = true) : d.lockState ≠ 1 := by
  have h2 : 2 ≤ d.lockState := of_decide_eq_true h
  omega

theorem Dev.beating_of_acquire (h : d.lockState = 1) : d.beating = false :=
  decide_eq_false (by rw [show d.get R.BEAT_STATUS_LOCK_STATE = 1 from h]; decide)

section
variable {s : State} (ha : s.dev.agx.inbox[k]? = some a) (ht : s.fresh.takeIn k = some (a, e)) (hi : a.item = .seal beat stage holdover)
  (hm : s.fresh.sealMayPass k a.ingress = true)
include ha ht hi hm

/-- While beats run, a seal that continues its series is taken. -/
theorem does_beatSeal_expected (hb : e.beating = true) (hx : e.sealExpected a.ingress beat stage = true) :
    Does (.beatSeal k) s (e.sealTaken (e.port a.ingress) a.ingress beat stage).refreshSeals := by
  refine does_run (f := fun d => d.beatSeal k) rfl ((Dev.beatSeal_eq (d := s.fresh) ha ht hi hm).trans ?_)
  simp only [hb, hx, Bool.not_true, Bool.and_false, Bool.false_eq_true, if_false, Dev.sealTaken_lockState, Dev.lockState_ne_one_of_beating hb,
    and_false]

/-- One that does not is taken and reported. -/
theorem does_beatSeal_mismatch (hb : e.beating = true) (hx : e.sealExpected a.ingress beat stage = false) :
    Does (.beatSeal k) s
      ((e.raise1 R.BEAT_ERR_SEAL_MISMATCH a.ingress).sealTaken (e.port a.ingress) a.ingress beat stage).refreshSeals := by
  refine does_run (f := fun d => d.beatSeal k) rfl ((Dev.beatSeal_eq (d := s.fresh) ha ht hi hm).trans ?_)
  simp only [hb, hx, Bool.not_false, Bool.and_true, if_true, Dev.sealTaken_lockState, Dev.raise1_mismatch_lockState,
    Dev.lockState_ne_one_of_beating hb, and_false, if_false]

/-- In ACQUIRE a seal of the last stage is heard. -/
theorem does_beatSeal_acquire (hl : e.lockState = 1) (h3 : stage = 3) :
    Does (.beatSeal k) s ((e.sealTaken (e.port a.ingress) a.ingress beat stage).hearSeal a.ingress beat).refreshSeals := by
  refine does_run (f := fun d => d.beatSeal k) rfl ((Dev.beatSeal_eq (d := s.fresh) ha ht hi hm).trans ?_)
  simp only [Dev.beating_of_acquire hl, Bool.false_and, Bool.false_eq_true, if_false, Dev.sealTaken_lockState, hl, h3, and_self, if_true]

end

end

/-! ### Silence and fences (R167, R169) -/

section
variable {s : State}

/-- A port silent at SILENT_BEATS boundaries leaves the set; the event names its peer. -/
theorem does_portSilent {p : Nat} (hp : p < 36) (hn : s.dev.get R.AGX_HB_CTL_SILENT_BEATS ≠ 0)
    (hr : s.dev.get R.AGX_HB_CTL_SILENT_BEATS ≤ (s.dev.port p).silentRun) (hi : s.fresh.inSet p = true) :
    let d := s.fresh.setPort p { s.dev.port p with inSet := false, joinReady := false, silentRun := 0 }
    Does (.portSilent p) s (((d.set R.AGX_SILENT_PORTS (s.dev.get R.AGX_SILENT_PORTS ||| 2 ^ p)).event R.AGX_SILENT_PORTS
      (s.dev.get (R.AGX_PORT_STATUS_PEER_ID p)) noArg noArg).refreshSeals) := by
  have he : exec (.portSilent p) s = execPortSilent p s := rfl
  have silent : ¬ (36 ≤ p ∨ s.dev.get R.AGX_HB_CTL_SILENT_BEATS = 0 ∨ (s.dev.port p).silentRun < s.dev.get R.AGX_HB_CTL_SILENT_BEATS ∨
      (!s.fresh.inSet p) = true) := by
    rw [hi]
    simp only [Bool.not_true, Bool.false_eq_true, or_false]
    omega
  have peer (d : Dev) (v : Nat) : (d.set R.AGX_SILENT_PORTS v).get (R.AGX_PORT_STATUS_PEER_ID p) = d.get (R.AGX_PORT_STATUS_PEER_ID p) := by
    have hne : R.AGX_PORT_STATUS p ≠ R.AGX_SILENT_PORTS.reg := by
      simp only [R.AGX_PORT_STATUS, R.AGX_SILENT_PORTS, R.AGX_SILENT]; omega
    exact congrArg (wordGet · (R.AGX_PORT_STATUS_PEER_ID p)) (d.reg_set_ne _ v hne)
  refine does_run (he.trans (by unfold execPortSilent; rfl)) ?_
  simp only [State.fresh_get, State.fresh_port, if_neg silent, peer]
  rfl

/-- A fence note that names this device puts it in the FENCED state. -/
theorem does_fenceNote {k q : Nat} {pl : List Byte} {d : Dev} (ht : s.fresh.takeCtl k 0x25 = some (q, pl, d)) (hd : recNat pl 0 2 = d.id)
    (hf : d.agx.fenced = false) :
    Does (.fenceNote k) s (({ d with agx := { d.agx with fenced := true } } : Dev).fencedDrop.raise1 R.AGX_VER_2_FENCED_SELF (recNat pl 2 6)) := by
  have he : exec (.fenceNote k) s = execFenceNote k s := rfl
  refine does_run (he.trans (by unfold execFenceNote; rfl)) ?_
  simp only [ht]
  exact if_pos ⟨hd, by rw [hf]; rfl⟩

end

end Sys2Proof.Machine
end

section
/-!
PROOF. The statement about seals, silence and fences.
-/

namespace Sys2Proof.Machine

/-- Settles O13: the beat that a port seals next, and what a seal that comes is judged to be. -/
theorem seals : Obligations.Seals := by
  intro s p
  refine ⟨fun b hb hp hn hq => does_sealSend hb hp hn hq, fun h b c h1 h3 hb hc hg hl hr hp => ?stage,
    fun k a d beat stage holdover ha ht hi hm => ⟨fun hb hx => ?expected, fun hb hx => ?mismatch, fun hl h3 => ?acquire⟩,
    fun hp hn hr hi => does_portSilent hp hn hr hi, fun k q pl d ht hd hf => does_fenceNote ht hd hf⟩
  case stage =>
    have ready : s.fresh.stageReady p h (beatAdd b 1) = true := by
      refine List.all_eq_true.mpr fun q hq => ?_
      obtain ⟨hs, hne⟩ := List.mem_filter.mp hq
      obtain ⟨came, held⟩ := hr q hs (of_decide_eq_true hne)
      rw [came, held]; rfl
    have lower (g : Nat) (h1g : 1 ≤ g) (hgh : g < h) : (s.fresh.port p).nextSeal g = none := by
      obtain ⟨x, y, hx, hy, hxy⟩ := hl g h1g hgh
      exact PortUnit.nextSeal_behind hx hy hxy
    exact does_sealStageSend (Dev.dueStage_eq h1 h3 (PortUnit.nextSeal_due hb hc hg) ready lower) hp
  case expected => exact does_beatSeal_expected ha ht hi hm hb hx
  case mismatch => exact does_beatSeal_mismatch ha ht hi hm hb hx
  case acquire => exact does_beatSeal_acquire ha ht hi hm hl h3

end Sys2Proof.Machine
end

section
/-!
SUPPORT. Requests at their home: the turn of a request, and what serving it makes of the device (R40, R43, R143, R144, R147, R150).
-/

namespace Sys2Proof.Machine

/-! ### The turn of a request -/

section
variable {d e : Dev} {k : Nat} {a : Arrival} {q : Pkt} {want : Pkt → Bool}

theorem Dev.homeReq_some (hl : d.alive = true) (ha : d.agx.inbox[k]? = some a) (hi : a.item = .req q) (ht : d.homeTurn k a q = true)
    (hw : d.windowHeld q = false) (h : want q = true) : d.homeReq k want = some (a, q) := by
  simp only [Dev.homeReq, hl, ha, hi, ht, hw, h, Bool.not_true, Bool.not_false, Bool.and_self, Bool.false_eq_true, if_false, if_true]

variable (go : Dev → Nat → Pkt → Dev) (h : d.homeReq k want = some (a, q))
include h

/-- A beat-tagged request whose seals are not in is put aside. -/
theorem Dev.taggedIn_waits (hr : d.tagReady q = false) : d.taggedIn k want go = d.holdReq k a := by
  simp only [Dev.taggedIn, h, hr, Bool.not_false, if_true]

/-- One whose seals are in is served in its turn. -/
theorem Dev.taggedIn_ready (hr : d.tagReady q = true)
    (ht : q.opc = 4 → d.atomicTurn (d.agx.held ++ d.agx.inbox.take k) = true) (hk : d.takeIn k = some (a, e)) :
    d.taggedIn k want go = go e a.ingress q := by
  have turn : (decide (q.opc = 4) && !d.atomicTurn (d.agx.held ++ d.agx.inbox.take k)) = false := by
    by_cases h4 : q.opc = 4
    · rw [ht h4]; simp
    · rw [decide_eq_false h4, Bool.false_and]
  simp only [Dev.taggedIn, h, hr, turn, hk, Bool.not_true, Bool.false_eq_true, if_false]

end

/-! ### Serving a request -/

section
variable {d e : Dev} {i : Nat} {q : Pkt} (hl : laneOk q = true)
include hl

/-- A READ delivers its runs of sectors. -/
theorem Dev.serveRead_runs {rs : List (Nat × Got)} (ha : q.addr % 8192 = 0)
    (hr : d.readRuns i q (sectorRuns (recNat q.data 0 16)) = (e, some rs)) (hn : rs ≠ []) :
    d.serveRead i q = rs.foldl (fun (d : Dev) x => d.respond q 0x11 0 x.1 x.2.bytes x.2.poison) e := by
  obtain ⟨x, r, rfl⟩ := List.exists_cons_of_ne_nil hn
  simp only [Dev.serveRead, hl, ha, hr, Bool.not_true, Bool.false_eq_true, if_false, ne_eq, not_true_eq_false]

section
variable (hp : 0 < q.data.length) (hg : q.addr % 8192 + q.data.length ≤ 8192)
include hp hg

/-- A write of HBM, outside the mailboxes. -/
theorem serveWrite_hbm (o : Otp) {x : Nat} (hx : d.locate q.addr q.data.length = .hbm x) (hm : d.inMailbox x q.data.length = false) :
    serveWrite o d i q = (o, (d.memWrite i q.addr q.data q.poisonAt).1.complete q (if (d.memWrite i q.addr q.data q.poisonAt).2 then 0 else 1)) := by
  simp only [serveWrite, hl, if_neg hp.ne', if_neg (Nat.not_lt.mpr hg), hx, hm, Bool.not_true, Bool.false_eq_true, if_false]

/-- A write of control space. -/
theorem serveWrite_ctl (otp : Otp) {o : Nat} (hx : d.locate q.addr q.data.length = .ctl o) :
    let r := ctlWrite otp d (q.who i) o q.data
    serveWrite otp d i q = (r.1.1, r.1.2.complete q (if r.2 then 0 else 1)) := by
  simp only [serveWrite, hl, if_neg hp.ne', if_neg (Nat.not_lt.mpr hg), hx, Bool.not_true, Bool.false_eq_true, if_false]

end

/-- An atomic on bytes of HBM that are not poisoned: it writes where its operation does, and answers the old bytes where they are asked for. -/
theorem Dev.serveAtomic_hbm {x : Nat} {g : Got} (ha : q.addr < ctlBase) (hs : atomicShape q = true)
    (hx : d.locate q.addr (atomicLen q) = .hbm x) (hm : d.inMailbox x (atomicLen q) = false) (hd : d.writeDenied x (atomicLen q) = none)
    (hr : d.memRead i q.addr (atomicLen q) = (e, some g)) (hz : g.anyPoison = false) :
    d.serveAtomic i q =
      let f := if atomicWrites q g.bytes then
          (e.memWrite i q.addr (atomicNew q g.bytes) fun j => q.poisonAt (if q.atop = 3 then 8 + j else j)).1
        else e
      if q.fetch || q.atop = 3 then f.respond q 0x10 0 0 g.bytes [] else f.complete q 0 := by
  simp only [Dev.serveAtomic, hl, if_neg (Nat.not_le.mpr ha), hs, hx, hm, hd, hr, hz, Option.isSome_none, Bool.not_true, Bool.false_eq_true,
    if_false]

end

/-! ### The commands -/

section
variable {s : State} {k : Nat} {a : Arrival} {q : Pkt} {d : Dev}

/-- A held request whose seals are in is served, after its cycles of SEAL_WAIT; its receive space goes back. -/
theorem does_sealWaitRelease {cycles : Nat} {d' : Dev} (ha : s.dev.agx.held[k]? = some a) (hi : a.item = .req q) (hl : s.dev.alive = true)
    (hr : s.fresh.tagReady q = true) (hw : s.fresh.windowHeld q = false)
    (ht : q.opc = 4 → s.fresh.atomicTurn (s.dev.agx.held.take k) = true)
    (hd : let d := ({ s.fresh with agx := { s.dev.agx with held := s.dev.agx.held.eraseIdx k
                                                           sealWait := s.dev.agx.sealWait + cycles } } : Dev).giveBack a.ingress a.pools
      (if q.opc = 1 then d.serveRead a.ingress q else d.serveAtomic a.ingress q) = d') :
    Does (.sealWaitRelease ⟨k, cycles⟩) s d' := by
  have he : exec (.sealWaitRelease ⟨k, cycles⟩) s = execSealWaitRelease ⟨k, cycles⟩ s := rfl
  have ha : s.fresh.agx.held[k]? = some a := ha
  have hl : s.fresh.alive = true := hl
  have turn : (decide (q.opc = 4) && !s.fresh.atomicTurn (s.fresh.agx.held.take k)) = false := by
    by_cases h4 : q.opc = 4
    · rw [show s.fresh.atomicTurn (s.fresh.agx.held.take k) = true from ht h4]; simp
    · rw [decide_eq_false h4, Bool.false_and]
  refine does_run (he.trans (by unfold execSealWaitRelease; rfl)) ?_
  simp only [ha, hi, hl, hr, hw, turn, Bool.not_true, Bool.or_self, Bool.false_eq_true, if_false]
  exact hd

section
variable (hl : s.dev.alive = true) (ha : s.dev.agx.inbox[k]? = some a) (hi : a.item = .req q) (ht : s.fresh.homeTurn k a q = true)
  (hw : s.fresh.windowHeld q = false)
include hl ha hi ht hw

/-- A READ whose seals are not in is put aside. -/
theorem does_readReq_waits (ho : q.opc = 1) (hr : s.fresh.tagReady q = false) : Does (.readReq k) s (s.fresh.holdReq k a) := by
  have h := Dev.homeReq_some (d := s.fresh) (want := fun p => p.opc = 1) hl ha hi ht hw (decide_eq_true ho)
  have he : exec (.readReq k) s = execReadReq k s := rfl
  exact does_run (f := fun d => d.taggedIn k (fun p => p.opc = 1) Dev.serveRead) he (Dev.taggedIn_waits _ h hr)

variable (hk : s.fresh.takeIn k = some (a, d))
include hk

/-- One whose seals are in is served. -/
theorem does_readReq_serves (ho : q.opc = 1) (hr : s.fresh.tagReady q = true) : Does (.readReq k) s (d.serveRead a.ingress q) := by
  have h := Dev.homeReq_some (d := s.fresh) (want := fun p => p.opc = 1) hl ha hi ht hw (decide_eq_true ho)
  have he : exec (.readReq k) s = execReadReq k s := rfl
  refine does_run (f := fun d => d.taggedIn k (fun p => p.opc = 1) Dev.serveRead) he (Dev.taggedIn_ready _ h hr (fun h4 => ?_) hk)
  exact absurd (ho.symm.trans h4) (by decide)

/-- A WRITE or WRITE_POSTED is applied in its turn. -/
theorem writeIn_serves {opc : Nat} (ho : q.opc = opc) :
    writeIn opc k s = .next { s with otp := (serveWrite s.otp d a.ingress q).1, dev := (serveWrite s.otp d a.ingress q).2 } := by
  have h := Dev.homeReq_some (d := s.fresh) (want := fun p => p.opc = opc) hl ha hi ht hw (decide_eq_true ho)
  unfold State.fresh at h hk
  simp only [writeIn, h, hk]

theorem does_writeIn {opc : Nat} {c : Instr} {e : Dev} (hc : exec c s = writeIn opc k s) (ho : q.opc = opc)
    (hs : serveWrite s.otp d a.ingress q = (s.otp, e)) : Does c s e := by
  rw [Does, hc, writeIn_serves hl ha hi ht hw hk ho, hs]

/-- An atomic is performed in its turn among the atomics. -/
theorem does_atomicIn {c : Instr} {e : Dev} {want : Nat → Bool} (hc : exec c s = atomicIn want k s) (ho : q.opc = 4)
    (hq : want q.atop = true) (hr : s.fresh.tagReady q = true)
    (hturn : s.fresh.atomicTurn (s.dev.agx.held ++ s.dev.agx.inbox.take k) = true) (hs : d.serveAtomic a.ingress q = e) : Does c s e := by
  have hwant : (decide (q.opc = 4) && want q.atop) = true := by rw [decide_eq_true ho, hq]; rfl
  have h := Dev.homeReq_some (d := s.fresh) (want := fun p => decide (p.opc = 4) && want p.atop) hl ha hi ht hw hwant
  refine does_run (f := fun d => d.taggedIn k (fun p => decide (p.opc = 4) && want p.atop) Dev.serveAtomic) hc ?_
  exact (Dev.taggedIn_ready _ h hr (fun _ => hturn) hk).trans hs

end

end

/-! ### What an atomic leaves, by its operation (R147) -/

section
variable {q : Pkt} {old : List Byte}

theorem atomicWrites_of_ne_cas (h : q.atop ≠ 3) : atomicWrites q old = true := by
  rw [atomicWrites, decide_eq_true h, Bool.true_or]

theorem atomicWrites_cas (h : q.atop = 3) : atomicWrites q old = decide (leNat old = recNat q.data 0 8) := by
  rw [atomicWrites, decide_eq_false (not_not_intro h), Bool.false_or]

theorem atomicNew_add (h : q.atop = 0) : atomicNew q old = f32Each f32Add old q.data := by simp only [atomicNew, h]

theorem atomicNew_int (h : q.atop = 1) : atomicNew q old = leBytes 8 ((leNat old + leNat q.data) % 2 ^ 64) := by simp only [atomicNew, h]

theorem atomicNew_max (h : q.atop = 2) : atomicNew q old = f32Each f32Max old q.data := by simp only [atomicNew, h]

theorem atomicNew_cas (h : q.atop = 3) (he : leNat old = recNat q.data 0 8) : atomicNew q old = q.data.drop 8 := by
  simp only [atomicNew, h, if_pos he]

variable {d e : Dev} {i x : Nat} {g : Got} (hl : laneOk q = true) (ha : q.addr < ctlBase) (hs : atomicShape q = true)
  (hx : d.locate q.addr (atomicLen q) = .hbm x) (hm : d.inMailbox x (atomicLen q) = false) (hd : d.writeDenied x (atomicLen q) = none)
  (hr : d.memRead i q.addr (atomicLen q) = (e, some g)) (hz : g.anyPoison = false)
include hl ha hs hx hm hd hr hz

/-- An atomic that is no CAS64 writes what it makes of the old bytes, and answers them where they are asked for. -/
theorem Dev.serveAtomic_update {new : List Byte} (h3 : q.atop ≠ 3) (hn : atomicNew q g.bytes = new) :
    let f := (e.memWrite i q.addr new fun j => q.poisonAt (0 + j)).1
    d.serveAtomic i q = if q.fetch then f.respond q 0x10 0 0 g.bytes [] else f.complete q 0 := by
  simp only [Dev.serveAtomic_hbm hl ha hs hx hm hd hr hz, atomicWrites_of_ne_cas h3, hn, if_neg h3, Nat.zero_add, decide_eq_false h3, Bool.or_false,
    if_true]

/-- CAS64 writes where the bytes equal the compare value, and answers the old ones. -/
theorem Dev.serveAtomic_cas (h3 : q.atop = 3) :
    d.serveAtomic i q = (if leNat g.bytes = recNat q.data 0 8 then (e.memWrite i q.addr (q.data.drop 8) fun j => q.poisonAt (8 + j)).1
      else e).respond q 0x10 0 0 g.bytes [] := by
  by_cases hc : leNat g.bytes = recNat q.data 0 8
  · simp only [Dev.serveAtomic_hbm hl ha hs hx hm hd hr hz, atomicWrites_cas h3, atomicNew_cas h3 hc, hc, h3, decide_true, Bool.or_true, if_true]
  · simp only [Dev.serveAtomic_hbm hl ha hs hx hm hd hr hz, atomicWrites_cas h3, hc, h3, decide_false, decide_true, Bool.or_true,
      Bool.false_eq_true, if_false, if_true]

end

end Sys2Proof.Machine
end

section
/-!
PROOF. The statement about requests at their home.
-/

namespace Sys2Proof.Machine

/-- Settles O28: a request that is served, by its opcode, and one that is put aside. -/
theorem homeRequests : Obligations.HomeRequests := by
  refine ⟨fun s k cycles a q ha hi hl hr hw => ⟨fun ho => ?heldRead, fun ho ht => ?heldAtomic⟩, fun s k a q d hl ha hi ht hw hk hv =>
    ⟨fun e rs ho hr h0 hs hn => ?read, fun ho hr => ?readWaits, fun x hp hg hx hm => ⟨fun ho => ?write, fun ho => ?posted⟩,
      fun o ho hp hg hx => ?control, fun x n e g ho hr hturn hb hs hlen hx hm hd hg hz => ?atomic⟩⟩
  case heldRead => exact does_sealWaitRelease ha hi hl hr hw (fun h4 => absurd (ho.symm.trans h4) (by decide)) (if_pos ho)
  case heldAtomic => exact does_sealWaitRelease ha hi hl hr hw (fun _ => ht) (if_neg (by rw [ho]; decide))
  case read =>
    have h := does_readReq_serves hl ha hi ht hw hk ho hr
    rwa [Dev.serveRead_runs hv h0 hs hn] at h
  case readWaits => exact does_readReq_waits hl ha hi ht hw ho hr
  case write => exact does_writeIn hl ha hi ht hw hk rfl ho (serveWrite_hbm hv hp hg s.otp hx hm)
  case posted => exact does_writeIn hl ha hi ht hw hk rfl ho (serveWrite_hbm hv hp hg s.otp hx hm)
  case control =>
    have h : exec (.writeReq k) s = _ := writeIn_serves hl ha hi ht hw hk ho
    rw [serveWrite_ctl hv hp hg s.otp hx] at h
    exact h
  case atomic =>
    subst hlen
    have update {new : List Byte} (h3 : q.atop ≠ 3) (hn : atomicNew q g.bytes = new) :=
      Dev.serveAtomic_update hv hb hs hx hm hd hg hz h3 hn
    refine ⟨fun h0 => ?add, fun h2 => ?max, fun h1 => ?int, fun h3 => ?cas⟩
    case add =>
      have hc : exec (.fp32Add k) s = atomicIn (fun a => decide (a = 0 ∨ 3 < a)) k s := rfl
      exact does_atomicIn hl ha hi ht hw hk hc ho (by rw [h0]; decide) hr hturn (update (by rw [h0]; decide) (atomicNew_add h0))
    case max =>
      have hc : exec (.fp32Max k) s = atomicIn (fun a => decide (a = 2)) k s := rfl
      exact does_atomicIn hl ha hi ht hw hk hc ho (by rw [h2]; decide) hr hturn (update (by rw [h2]; decide) (atomicNew_max h2))
    case int =>
      have hc : exec (.int64Add k) s = atomicIn (fun a => decide (a = 1)) k s := rfl
      exact does_atomicIn hl ha hi ht hw hk hc ho (by rw [h1]; decide) hr hturn (update (by rw [h1]; decide) (atomicNew_int h1))
    case cas =>
      have hc : exec (.cas64 k) s = atomicIn (fun a => decide (a = 3)) k s := rfl
      exact does_atomicIn hl ha hi ht hw hk hc ho (by rw [h3]; decide) hr hturn (Dev.serveAtomic_cas hv hb hs hx hm hd hg hz h3)

end Sys2Proof.Machine
end

section
/-!
SUPPORT. The image registers: the values that the commands store, and what a store to each register makes of the device
(R55, R59, R61, R63, R66).
-/

namespace Sys2Proof.Machine

/-! ### Values with a bit set or cleared -/

/-- `u` is `v` but for its two top bits: what a command that sets or clears GO, ARM, RESTAGE or UNLOAD stores. -/
structure Topped (v : Nat) (b63 b62 : Bool) (u : Nat) : Prop where
  lt : u < 2 ^ 64
  bit63 : u.testBit 63 = b63
  bit62 : u.testBit 62 = b62
  low : ∀ hi lo, hi < 62 → lo ≤ hi → bits u hi lo = bits v hi lo

/-- The field is the bit at `i`. -/
structure Fld.IsBit (f : Fld) (i : Nat) : Prop where
  hi : f.hi = i
  lo : f.lo = i

section
variable {f : Fld} {i : Nat} (h : f.IsBit i)
include h

theorem Fld.IsBit.testBit_mask (j : Nat) : f.mask.testBit j = decide (j = i) := by
  rw [Machine.testBit_mask, h.hi, h.lo, ← Bool.decide_and]
  exact decide_eq_decide.mpr (by omega)

theorem Fld.IsBit.testBit_on (v j : Nat) : (f.on v).testBit j = (v.testBit j || decide (j = i)) := by
  rw [Machine.testBit_on, h.testBit_mask]

theorem Fld.IsBit.testBit_off {v : Nat} (hv : v < 2 ^ 64) (j : Nat) : (f.off v).testBit j = (v.testBit j && !decide (j = i)) := by
  rw [Machine.testBit_off _ _ _ hv, h.testBit_mask]

theorem Fld.IsBit.on_lt {v : Nat} (hv : v < 2 ^ 64) (hi : i < 64) : f.on v < 2 ^ 64 := by
  refine Fld.on_lt f v ?_ hv
  rw [Fld.ok, h.hi, h.lo, decide_eq_true (Nat.le_refl i), decide_eq_true hi]; rfl

/-- A range below the bit reads as before. -/
theorem Fld.IsBit.bits_on (v : Nat) {hi lo : Nat} (hi' : hi < i) (hl : lo ≤ hi) : bits (f.on v) hi lo = bits v hi lo :=
  Machine.bits_on f v hi lo (.inr (h.lo ▸ hi')) (by rw [h.hi, h.lo]) hl

theorem Fld.IsBit.bits_off {v : Nat} (hv : v < 2 ^ 64) {hi lo : Nat} (hi' : hi < i) (hl : lo ≤ hi) : bits (f.off v) hi lo = bits v hi lo :=
  Machine.bits_off f v hi lo hv (.inr (h.lo ▸ hi')) (by rw [h.hi, h.lo]) hl

end

section
variable {f : Fld} {v u : Nat} {b63 b62 : Bool}

theorem topped_on63 (h : f.IsBit 63) (hv : v < 2 ^ 64) : Topped v true (v.testBit 62) (f.on v) where
  lt := h.on_lt hv (by decide)
  bit63 := by rw [h.testBit_on]; exact Bool.or_true _
  bit62 := by rw [h.testBit_on]; exact Bool.or_false _
  low _ _ hi hl := h.bits_on v (by omega) hl

theorem topped_off63 (h : f.IsBit 63) (hv : v < 2 ^ 64) : Topped v false (v.testBit 62) (f.off v) where
  lt := f.off_lt v hv
  bit63 := by rw [h.testBit_off hv]; exact Bool.and_false _
  bit62 := by rw [h.testBit_off hv]; exact Bool.and_true _
  low _ _ hi hl := h.bits_off hv (by omega) hl

theorem Topped.on62 (t : Topped v b63 b62 u) (h : f.IsBit 62) : Topped v b63 true (f.on u) where
  lt := h.on_lt t.lt (by decide)
  bit63 := by rw [h.testBit_on, t.bit63]; exact Bool.or_false _
  bit62 := by rw [h.testBit_on]; exact Bool.or_true _
  low _ _ hi hl := (h.bits_on u hi hl).trans (t.low _ _ hi hl)

theorem Topped.off62 (t : Topped v b63 b62 u) (h : f.IsBit 62) : Topped v b63 false (f.off u) where
  lt := f.off_lt u t.lt
  bit63 := by rw [h.testBit_off t.lt, t.bit63]; exact Bool.and_true _
  bit62 := by rw [h.testBit_off t.lt]; exact Bool.and_false _
  low _ _ hi hl := (h.bits_off t.lt hi hl).trans (t.low _ _ hi hl)

theorem Topped.mod_two (t : Topped v b63 b62 u) : u % 2 = v % 2 := t.low 0 0 (by decide) (by decide)

theorem Topped.mod_beat (t : Topped v b63 b62 u) : u % 2 ^ 48 = v % 2 ^ 48 := t.low 47 0 (by decide) (by decide)

end

theorem bits_self_eq_b2n (v i : Nat) : bits v i i = b2n (v.testBit i) := by
  have h2 : bits v i i < 2 := by rw [bits, Nat.add_sub_cancel_left]; exact Nat.mod_lt _ (by decide)
  rw [← bitAt_eq_testBit, bitAt]
  obtain h | h : bits v i i = 0 ∨ bits v i i = 1 := by omega
  all_goals rw [h]; rfl

/-! ### Registers that a field of another register leaves -/

section
variable (d : Dev) {f : Fld} (x : Nat)

theorem Dev.get_set_otherReg {g : Fld} (h : g.reg ≠ f.reg) : (d.set f x).get g = d.get g :=
  congrArg (wordGet · g) (d.reg_set_ne f x h)

section
variable (hs : R.IMG_STATUS ≠ f.reg)
include hs

theorem Dev.imageActive_set : (d.set f x).imageActive = d.imageActive := by
  simp only [Dev.imageActive, d.get_set_otherReg x (g := R.IMG_STATUS_IMAGE_STATE) hs]

theorem Dev.retileAllowed_set (target spare : Nat) : (d.set f x).retileAllowed target spare = d.retileAllowed target spare := by
  have hp (l : Nat) : (d.set f x).place l = d.place l := rfl
  simp only [Dev.retileAllowed, hp, d.imageActive_set x hs]

section
variable (hb : R.UPD_BANK ≠ f.reg)
include hb

/-- What the device reads in place depends on the image and the live bank alone. -/
theorem Dev.peek_set (a n : Nat) : (d.set f x).peek a n = d.peek a n := by
  have hl : (d.set f x).flag R.UPD_BANK_LIVE_BANK = d.flag R.UPD_BANK_LIVE_BANK :=
    congrArg (fun k => decide (k = 1)) (d.get_set_otherReg x hb)
  simp only [Dev.peek, Dev.bankAddr, d.imageActive_set x hs, hl]
  rfl

theorem Dev.libCounts_set (b : Nat) : (d.set f x).libCounts b = d.libCounts b := by
  simp only [Dev.libCounts, Dev.section?, Dev.sections, Dev.peekNat, d.peek_set x hs hb]

end

theorem Dev.activeBase_set (h : R.IMG_SLOT_BASE ≠ f.reg) : (d.set f x).activeBase = d.activeBase := by
  simp only [Dev.activeBase, Dev.slotBase, d.get_set_otherReg x (g := R.IMG_SLOT_BASE_SLOT_A) h,
    d.get_set_otherReg x (g := R.IMG_STATUS_ACTIVE_SLOT) hs]

end
end

/-! ### IMG_LOAD and IMG_SLOT_FREE (R59, R61) -/

section
variable {d : Dev} {slot : Nat} (r : Bool)

/-- The loader refuses a slot while it works. -/
theorem Dev.loadGo_busy (hb : d.get R.IMG_STATUS_LOAD_BUSY = 1) : d.loadGo slot r = d.loadResult 1 0 := by
  simp only [Dev.loadGo, Dev.flag, hb, decide_true, Bool.true_or, if_true]

/-- An EMPTY or RETIRED slot begins to load; a restage is one of a RETIRED slot. -/
theorem Dev.loadGo_free (hb : d.get R.IMG_STATUS_LOAD_BUSY = 0) (hp : d.get R.IMG_STATUS_SWAP_PHASE = 0)
    (hs : d.slotState slot = 0 ∨ d.slotState slot = 4) : d.loadGo slot r =
      let e : Dev := { d with img := { d.img with loading := some (slot, r && decide (d.slotState slot = 4)) } }
      (((e.set (slotField slot) 1).set R.IMG_STATUS_LOAD_BUSY 1).set R.IMG_LOAD_STATUS_CODE 0xFF).set R.IMG_LOAD_STATUS_DETAIL 0 := by
  have free : [1, 2, 3].contains (d.slotState slot) = false := by
    rcases hs with hs | hs <;> rw [hs] <;> rfl
  have loads : ¬ (d.flag R.IMG_STATUS_LOAD_BUSY || decide (d.get R.IMG_STATUS_SWAP_PHASE ≠ 0) ||
      [1, 2, 3].contains (d.slotState slot)) = true := by
    rw [Dev.flag, hb, hp, free]; decide
  exact if_neg loads

variable {v : Nat}

theorem Dev.imgLoadWrite_go (h : v.testBit 63 = true) : d.imgLoadWrite v = d.loadGo (v % 2) (v.testBit 62) := if_pos h

section
variable (hg : v.testBit 63 = true) (hv : v % 2 = slot)
include hg hv

/-- A slot that neither loads nor is active, nor is to become so, is made EMPTY. -/
theorem Dev.imgSlotFreeWrite_free (h1 : d.slotState slot ≠ 1) (h3 : d.slotState slot ≠ 3) (ha : d.img.activating ≠ some slot) :
    d.imgSlotFreeWrite v = { (d.set (slotField slot) 0) with
      img := { d.img with stagedPlaces := d.img.stagedPlaces.filter fun x => x.1 ≠ slot } } := by
  simp only [Dev.imgSlotFreeWrite, hg, hv, Bool.not_true, Bool.false_eq_true, if_false, h1, h3, ha, or_self]

theorem Dev.imgSlotFreeWrite_active (h3 : d.slotState slot = 3) :
    d.imgSlotFreeWrite v = d.raise1 R.IMG_ERR_SLOT_FREE_REJECT slot := by
  simp only [Dev.imgSlotFreeWrite, hg, hv, Bool.not_true, Bool.false_eq_true, if_false, h3, true_or, or_true, if_true]

end

/-! ### IMG_PAGE_COPY and IMG_RETILE (R55, R66) -/

/-- A library page of the active image goes into an IDLE page. -/
theorem Dev.imgPageCopyWrite_idle {page lib : Nat} (hg : v.testBit 63 = true) (hv : bits v 18 16 = page) (hw : bits v 9 0 = lib)
    (hi : d.imageActive = true) (hb : d.get R.IMG_PAGE_COPY_BUSY = 0) (hp : d.pageState page = 0)
    (hl : lib < (d.libCounts d.activeBase).1 + (d.libCounts d.activeBase).2) :
    d.imgPageCopyWrite v =
      let e := (d.set R.IMG_PAGE_COPY_HW_PAGE page).set R.IMG_PAGE_COPY_LIB_PAGE lib
      { (e.set R.IMG_PAGE_COPY_BUSY 1) with img := { d.img with copying := some (lib, page) } } := by
  have state (e : Dev) {f : Fld} (x : Nat) (hf : f.reg = R.IMG_PAGE_COPY) : (e.set f x).pageState page = e.pageState page := by
    have hne : R.BEAT_PAGE page ≠ f.reg := by
      have h8 : page < 8 := hv ▸ Nat.mod_lt _ (by decide)
      rw [hf, R.BEAT_PAGE, R.IMG_PAGE_COPY]; omega
    exact e.get_set_otherReg x (g := R.BEAT_PAGE_STATE page) hne
  have idle : ¬ (d.flag R.IMG_PAGE_COPY_BUSY || decide (d.pageState page ≠ 0) ||
      decide ((d.libCounts d.activeBase).1 + (d.libCounts d.activeBase).2 ≤ lib)) = true := by
    rw [Dev.flag, hb, hp]; simpa using hl
  simp (disch := decide) only [Dev.imgPageCopyWrite, hg, Bool.not_true, Bool.false_eq_true, if_false, hv, hw, state, Dev.imageActive_set, hi, if_true,
    Dev.libCounts_set, Dev.activeBase_set, if_neg idle]
  rfl

theorem Dev.imgRetileWrite_arm {target spare : Nat} (hg : v.testBit 63 = true) (ht : bits v 8 0 = target) (hs : bits v 24 16 = spare) :
    d.imgRetileWrite v =
      let e := (d.set R.IMG_RETILE_SPARE spare).set R.IMG_RETILE_TARGET target
      if d.retileAllowed target spare then e.set R.IMG_RETILE_ARM 1
      else (e.set R.IMG_RETILE_ARM 0).raise1 R.IMG_ERR_RETILE_REJECT target := by
  simp (disch := decide) only [Dev.imgRetileWrite, hg, ht, hs, Bool.not_true, Bool.false_eq_true, if_false, Dev.retileAllowed_set]

end

/-! ### IMG_SWAP (R63) -/

section
variable (d : Dev)

/-- The fields of IMG_SWAP, and the phase, as a store to IMG_SWAP sets them. -/
def Dev.imgSwapSet (arm unload beat : Nat) : Dev :=
  (((d.set R.IMG_SWAP_ARM arm).set R.IMG_SWAP_UNLOAD unload).set R.IMG_SWAP_AT_BEAT beat).set R.IMG_STATUS_SWAP_PHASE arm

/-- The event that tells of them keeps every register that is neither theirs nor of the log. -/
theorem Dev.imgSwapSet_event_get (arm unload beat : Nat) {g : Fld} (hl : logReg g.reg = false) (hw : g.reg ≠ R.IMG_SWAP)
    (hs : g.reg ≠ R.IMG_STATUS) : ((d.imgSwapSet arm unload beat).event R.IMG_STATUS_SWAP_PHASE 0 noArg noArg).get g = d.get g :=
  calc _ = (d.imgSwapSet arm unload beat).get g := (LogOnly.event _ _ _ _ _).get g hl
    _ = (((d.set R.IMG_SWAP_ARM arm).set R.IMG_SWAP_UNLOAD unload).set R.IMG_SWAP_AT_BEAT beat).get g := Dev.get_set_otherReg _ _ hs
    _ = ((d.set R.IMG_SWAP_ARM arm).set R.IMG_SWAP_UNLOAD unload).get g := Dev.get_set_otherReg _ _ hw
    _ = (d.set R.IMG_SWAP_ARM arm).get g := Dev.get_set_otherReg _ _ hw
    _ = d.get g := Dev.get_set_otherReg _ _ hw

variable {d} {v beat : Nat} {arm unload : Bool}

/-- A swap is refused where no slot is STAGED. -/
theorem Dev.imgSwapWrite_unstaged (ha : v.testBit 63 = true) (hu : v.testBit 62 = false) (hs : d.stagedSlot = none) :
    d.imgSwapWrite v = d.raise1 R.IMG_ERR_SWAP_REJECT 0 :=
  if_pos (.inr ⟨ha, by rw [hu]; exact Bool.false_ne_true, hs⟩)

/-- While no swap is past its armed phase, a store that arms or withdraws, and is not refused, sets the fields and
tells of it; before AT_BEAT it is not late. -/
theorem Dev.imgSwapWrite_taken (ha : v.testBit 63 = arm) (hu : v.testBit 62 = unload) (hb : v % 2 ^ 48 = beat)
    (hp : d.get R.IMG_STATUS_SWAP_PHASE < 2) (hl : (d.beating && beatGe d.beatNow beat) = false)
    (hc : arm = true ∨ d.get R.IMG_STATUS_SWAP_PHASE = 1) (hs : arm = true → unload = true ∨ d.stagedSlot ≠ none) :
    d.imgSwapWrite v = (d.imgSwapSet (b2n arm) (b2n unload) beat).event R.IMG_STATUS_SWAP_PHASE 0 noArg noArg := by
  subst ha hu hb
  have taken : ¬ (2 ≤ d.get R.IMG_STATUS_SWAP_PHASE ∨ (v.testBit 63 = true ∧ ¬ v.testBit 62 = true ∧ d.stagedSlot = none)) := by
    rintro (h2 | ⟨h63, h62, hn⟩)
    · omega
    · exact (hs h63).elim h62 (· hn)
  let e := (d.imgSwapSet (b2n (v.testBit 63)) (b2n (v.testBit 62)) (v % 2 ^ 48)).event R.IMG_STATUS_SWAP_PHASE 0 noArg noArg
  have beating : e.beating = d.beating :=
    congrArg (fun n => decide (2 ≤ n)) (d.imgSwapSet_event_get _ _ _ (g := R.BEAT_STATUS_LOCK_STATE) rfl (by decide) (by decide))
  have beatNow : e.beatNow = d.beatNow := d.imgSwapSet_event_get _ _ _ (g := R.BEAT_NUM_NUM) rfl (by decide) (by decide)
  have early : ¬ (v.testBit 63 && e.beating && beatGe e.beatNow (v % 2 ^ 48)) = true := by
    rw [beating, beatNow, Bool.and_assoc, hl, Bool.and_false]; exact Bool.false_ne_true
  simp only [Dev.imgSwapWrite, if_neg taken, if_pos hc]
  exact if_neg early

end

/-! ### The commands -/

section
variable {s : State} {c : Instr} {w : Who} {v : Nat} {d : Dev}

theorem does_imgLoadWrite {u : Nat} {restage : Bool} (h : exec c s = regWrite8 w R.IMG_LOAD u s) (t : Topped v true restage u)
    (ht : s.takes w R.IMG_LOAD) (hd : s.fresh.loadGo (v % 2) restage = d) : Does c s d := by
  refine does_write (row := rowsImg[2]) (ix := []) h ht rfl (by decide) (by decide) t.lt (show s.fresh.imgLoadWrite u = d from ?_)
  rw [Dev.imgLoadWrite_go t.bit63, t.bit62, t.mod_two, hd]

/-- IMG_LOAD_GO is a GO with RESTAGE 0. -/
theorem does_imgLoadGo (hv : v < 2 ^ 64) (ht : s.takes w R.IMG_LOAD) (hd : s.fresh.loadGo (v % 2) false = d) :
    Does (.imgLoadGo w v) s d :=
  does_imgLoadWrite rfl ((topped_on63 ⟨rfl, rfl⟩ hv).off62 ⟨rfl, rfl⟩) ht hd

/-- IMG_LOAD_RESTAGE is a GO with RESTAGE 1. -/
theorem does_imgLoadRestage (hv : v < 2 ^ 64) (ht : s.takes w R.IMG_LOAD) (hd : s.fresh.loadGo (v % 2) true = d) :
    Does (.imgLoadRestage w v) s d :=
  does_imgLoadWrite rfl ((topped_on63 ⟨rfl, rfl⟩ hv).on62 ⟨rfl, rfl⟩) ht hd

theorem does_imgSlotFree (hv : v < 2 ^ 64) (ht : s.takes w R.IMG_SLOT_FREE)
    (hd : s.fresh.imgSlotFreeWrite (R.IMG_SLOT_FREE_GO.on v) = d) : Does (.imgSlotFree w v) s d :=
  does_write (row := rowsImg[6]) (ix := []) rfl ht rfl (by decide) (by decide) (Fld.on_lt _ v rfl hv) hd

theorem does_imgPageCopy (hv : v < 2 ^ 64) (ht : s.takes w R.IMG_PAGE_COPY)
    (hd : s.fresh.imgPageCopyWrite (R.IMG_PAGE_COPY_GO.on v) = d) : Does (.imgPageCopy w v) s d :=
  does_write (row := rowsImg[7]) (ix := []) rfl ht rfl (by decide) (by decide) (Fld.on_lt _ v rfl hv) hd

theorem does_imgRetile (hv : v < 2 ^ 64) (ht : s.takes w R.IMG_RETILE)
    (hd : s.fresh.imgRetileWrite (R.IMG_RETILE_ARM.on v) = d) : Does (.imgRetile w v) s d :=
  does_write (row := rowsImg[8]) (ix := []) rfl ht rfl (by decide) (by decide) (Fld.on_lt _ v rfl hv) hd

theorem does_imgSwapWrite {u : Nat} (h : exec c s = regWrite8 w R.IMG_SWAP u s) (hu : u < 2 ^ 64) (ht : s.takes w R.IMG_SWAP)
    (hd : s.fresh.imgSwapWrite u = d) : Does c s d :=
  does_write (row := rowsImg[4]) (ix := []) h ht rfl (by decide) (by decide) hu hd

/-- A store to IMG_SWAP that arms or withdraws, and is not refused. -/
theorem does_imgSwapWrite_taken {u : Nat} {arm unload : Bool} (h : exec c s = regWrite8 w R.IMG_SWAP u s) (t : Topped v arm unload u)
    (ht : s.takes w R.IMG_SWAP) (hp : s.dev.get R.IMG_STATUS_SWAP_PHASE < 2)
    (hl : (s.dev.beating && beatGe s.dev.beatNow (v % 2 ^ 48)) = false)
    (hc : arm = true ∨ s.dev.get R.IMG_STATUS_SWAP_PHASE = 1) (hs : arm = true → unload = true ∨ s.dev.stagedSlot ≠ none) :
    Does c s ((s.fresh.imgSwapSet (b2n arm) (b2n unload) (v % 2 ^ 48)).event R.IMG_STATUS_SWAP_PHASE 0 noArg noArg) :=
  does_imgSwapWrite h t.lt ht (Dev.imgSwapWrite_taken t.bit63 t.bit62 t.mod_beat hp hl hc hs)

end

end Sys2Proof.Machine
end

section
/-!
PROOF. The statements about stores to the image registers.
-/

namespace Sys2Proof.Machine

/-- Settles O14: the bits that each command stores, and what its register makes of them. -/
theorem imageWrites : Obligations.ImageWrites := by
  intro s w v hv
  have free := topped_on63 (f := R.IMG_SLOT_FREE_GO) ⟨rfl, rfl⟩ hv
  have copy := topped_on63 (f := R.IMG_PAGE_COPY_GO) ⟨rfl, rfl⟩ hv
  have arm := topped_on63 (f := R.IMG_RETILE_ARM) ⟨rfl, rfl⟩ hv
  have retile := Dev.imgRetileWrite_arm (d := s.fresh) arm.bit63 (arm.low 8 0 (by decide) (by decide)) (arm.low 24 16 (by decide) (by decide))
  refine ⟨fun ht hb hp hs => ⟨?load, ?restage⟩, fun ht hb => ?busy, fun ht h1 h3 ha => ?free, fun ht h3 => ?active,
    fun ht hi hb hp hl => ?copy, fun ht hr => ?retile, fun ht hr => ?retileRefused⟩
  case load => exact does_imgLoadGo hv ht (Dev.loadGo_free false hb hp hs)
  case restage => exact does_imgLoadRestage hv ht (Dev.loadGo_free true hb hp hs)
  case busy => exact does_imgLoadGo hv ht (Dev.loadGo_busy false hb)
  case free => exact does_imgSlotFree hv ht (Dev.imgSlotFreeWrite_free free.bit63 free.mod_two h1 h3 ha)
  case active => exact does_imgSlotFree hv ht (Dev.imgSlotFreeWrite_active free.bit63 free.mod_two h3)
  case copy =>
    have h := Dev.imgPageCopyWrite_idle (d := s.fresh) copy.bit63 (copy.low 18 16 (by decide) (by decide))
      (copy.low 9 0 (by decide) (by decide)) hi hb hp hl
    exact does_imgPageCopy hv ht h
  case retile => exact does_imgRetile hv ht (retile.trans (if_pos hr))
  case retileRefused => exact does_imgRetile hv ht (retile.trans (if_neg (ne_true_of_eq_false hr)))

/-- Settles O15: by the bits ARM and UNLOAD that each command stores. -/
theorem swapWrites : Obligations.SwapWrites := by
  intro s w v hv ht hp hl
  have armed := topped_on63 (f := R.IMG_SWAP_ARM) ⟨rfl, rfl⟩ hv
  have swap := armed.off62 (f := R.IMG_SWAP_UNLOAD) ⟨rfl, rfl⟩
  refine ⟨fun hs => ?arm, ?unload, fun h1 => ?withdraw, fun hs => ?unstaged⟩
  case arm => exact does_imgSwapWrite_taken (arm := true) (unload := false) rfl swap ht hp hl (.inl rfl) fun _ => .inr hs
  case unload =>
    exact does_imgSwapWrite_taken (arm := true) (unload := true) rfl (armed.on62 ⟨rfl, rfl⟩) ht hp hl (.inl rfl) fun _ => .inl rfl
  case withdraw =>
    have h := does_imgSwapWrite_taken (c := .imgSwapWithdraw w v) rfl (topped_off63 (f := R.IMG_SWAP_ARM) ⟨rfl, rfl⟩ hv) ht hp hl (.inr h1) nofun
    rwa [← bits_self_eq_b2n] at h
  case unstaged => exact does_imgSwapWrite rfl swap.lt ht (Dev.imgSwapWrite_unstaged swap.bit63 swap.bit62 hs)

end Sys2Proof.Machine
end

section
/-!
SUPPORT. What loading, activation, swaps and page copies do when a phase ends (R55, R57, R59, R62, R63).
-/

namespace Sys2Proof.Machine

@[simp] theorem State.fresh_activeBase (s : State) : s.fresh.activeBase = s.dev.activeBase := rfl
@[simp] theorem State.fresh_libPageAt (s : State) (b i : Nat) : s.fresh.libPageAt b i = s.dev.libPageAt b i := rfl

section
variable {d : Dev} {slot : Nat} {r : Bool}

/-! ### The loader (R59, Table 3.10) -/

/-- A load that fails a check leaves its slot EMPTY and gives the check's code. -/
theorem Dev.loadDone_fails {f : LoadFail} (hl : d.img.loading = some (slot, r)) (hc : (d.img? slot).check r = .inl f) :
    d.loadDone = ((({ d with img := { d.img with loading := none } } : Dev).set R.IMG_STATUS_LOAD_BUSY 0).set (slotField slot) 0).loadResult
      f.code f.detail := by
  simp only [Dev.loadDone, hl, hc]

/-- A load that passes leaves its slot STAGED, with its placement. -/
theorem Dev.loadDone_passes {ps : List Place} (hl : d.img.loading = some (slot, r)) (hc : (d.img? slot).check r = .inr ps) :
    d.loadDone =
      let e := (({ d with img := { d.img with loading := none } } : Dev).set R.IMG_STATUS_LOAD_BUSY 0).set (slotField slot) 2
      ({ e with img := { e.img with stagedPlaces := (slot, ps) :: e.img.stagedPlaces.filter fun x => x.1 ≠ slot } } : Dev).loadResult 0 0 := by
  simp only [Dev.loadDone, hl, hc]

/-! ### Activation (R62) -/

/-- The STAGED image becomes active at the strength in force: its sites are powered, and HBM stays as it is. -/
theorem Dev.activationStart_keepsHbm (hs : d.stagedSlot = some slot) (hd : d.img.actDue = true) (hi : d.imageActive = false)
    (ha : d.img.activating = none) (hb : d.beating = true) (hk : (d.img? slot).strength = d.strength) :
    d.activationStart =
      let img := { d.img with
        activating := some slot, regionsDone := false, reformat := false, actDue := false, keep := [], windowsWait := true }
      ({ d with img := img, pwr := { d.pwr with wave := poweredSites (d.placesOf slot) } } : Dev).nextWave := by
  have starts : (d.img.actDue && !d.imageActive && d.img.activating.isNone && d.beating) = true := by rw [hd, hi, ha, hb]; rfl
  have same : decide ((d.img? slot).strength ≠ d.strength) = false := decide_eq_false (not_not_intro hk)
  simp only [Dev.activationStart, hs, if_pos starts, same, Bool.false_eq_true, if_false]

/-- Once the sites are powered, HBM is formatted again with the image in slot A, and the sites that only held the image are disabled. -/
theorem Dev.strengthReformat_eq (ha : d.img.activating = some slot) (hr : d.img.reformat = true) (hp : d.powerSettled = true) :
    d.strengthReformat =
      let m := d.img? slot
      let ps := d.placesOf slot
      let e := ({ d with hbm := { d.hbm with cells := [], poison := [], bad := [] } } : Dev).setStrength m.strength
      let f := (({ e with hbm := { e.hbm with cells := stPut (fun _ => 0) e.hbm.cells (e.slotBase 0) (d.peek m.b m.size) } } : Dev).set
        (slotField 0) 2).set (slotField 1) 0
      let img := { f.img with reformat := false, activating := some 0, stagedPlaces := [(0, ps)], lastActive := none }
      ((d.formatSites slot (poweredSites ps)).drop (poweredSites ps).length).foldl Dev.disableUnit { f with img := img } := by
  have due : (d.img.reformat && d.powerSettled) = true := by rw [hr, hp]; rfl
  simp only [Dev.strengthReformat, ha, if_pos due]

/-- The regions of the image that is to be active are initialised, once its sites are powered where none is active. -/
theorem Dev.regionInit_eq (ha : d.img.activating = some slot) (hd : d.img.regionsDone = false) (hr : d.img.reformat = false)
    (hp : d.imageActive = true ∨ d.powerSettled = true) :
    d.regionInit =
      let m := d.img? slot
      let e := m.regions.foldl (fun (x : Dev) r => x.initRegion m m.regions r) d
      ({ e with img := { e.img with regionsDone := true } } : Dev).reconfigDone := by
  have due : ¬ (d.img.regionsDone || d.img.reformat || (!d.imageActive && !d.powerSettled)) = true := by
    rw [hd, hr]; rcases hp with hp | hp <;> simp [hp]
  simp only [Dev.regionInit, ha, if_neg due]

/-! ### Unloading (R63) -/

theorem poweredSites_nil : poweredSites [] = [] := by decide +kernel

/-- An unload is reconfigured once no operation runs: every powered site is disabled and none is powered. -/
theorem Dev.swapReconfig_unload (hp : d.get R.IMG_STATUS_SWAP_PHASE = 2) (ho : d.ops = []) (hu : d.flag R.IMG_SWAP_UNLOAD = true) :
    d.swapReconfig =
      let e := (poweredSites d.img.places).foldl Dev.disableUnit (d.set R.IMG_SWAP_ARM 0)
      let img := { e.img with activating := none, unload := true, keep := [], windowsWait := true, regionsDone := true, reformat := false }
      ((({ e with img := img, pwr := { e.pwr with wave := [] } } : Dev).setPhase 3).nextWave).reconfigDone := by
  have due : d.get R.IMG_STATUS_SWAP_PHASE = 2 ∧ d.ops.isEmpty = true := ⟨hp, by rw [ho]; rfl⟩
  simp only [Dev.swapReconfig, if_pos due, hu, if_true, Option.elim_none, Option.isNone_none, poweredSites_nil, List.contains_nil, Bool.not_false,
    List.filter_true, List.filter_nil, Bool.false_eq_true, if_false]

/-! ### Library pages (R55) -/

/-- The device with no page copy running. -/
def Dev.copyEnded (d : Dev) : Dev := { (d.set R.IMG_PAGE_COPY_BUSY 0) with img := { d.img with copying := none } }

theorem Dev.copyEnded_eq (d : Dev) : d.copyEnded =
    let e := d.set R.IMG_PAGE_COPY_BUSY 0
    { e with img := { e.img with copying := none } } := rfl

theorem Dev.pageCopyDone_copying {lib page : Nat} (hc : d.img.copying = some (lib, page)) : d.pageCopyDone =
    (if d.imageActive then d.loadPage page (d.libPageAt d.activeBase lib) else d).copyEnded := by
  rw [Dev.pageCopyDone, hc]
  rfl

end

end Sys2Proof.Machine
end

section
/-!
PROOF. The statement about the phases of images.
-/

namespace Sys2Proof.Machine

/-- Settles O16: each command ends the phase that is due. -/
theorem imagePhases : Obligations.ImagePhases := by
  intro s
  refine ⟨fun slot r hl => ⟨fun f hc => ?fails, fun ps hc => ?passes⟩, fun slot hs hd hi ha hb hk => ?activation,
    fun slot ha hr hp => ?reformat, fun hp ho hu => ?unload, fun slot ha hd hr hp => ?regions, fun lib page hc hi => ?copied⟩
  case fails => exact does_run (f := Dev.loadDone) rfl (Dev.loadDone_fails (d := s.fresh) hl hc)
  case passes => exact does_run (f := Dev.loadDone) rfl (Dev.loadDone_passes (d := s.fresh) hl hc)
  case activation => exact does_run (f := Dev.activationStart) rfl (Dev.activationStart_keepsHbm (d := s.fresh) hs hd hi ha hb hk)
  case reformat => exact does_run (f := Dev.strengthReformat) rfl (Dev.strengthReformat_eq (d := s.fresh) ha hr hp)
  case unload => exact does_run (f := Dev.swapReconfig) rfl (Dev.swapReconfig_unload (d := s.fresh) hp ho hu)
  case regions => exact does_run (f := Dev.regionInit) rfl (Dev.regionInit_eq (d := s.fresh) ha hd hr hp)
  case copied =>
    have h := Dev.pageCopyDone_copying (d := s.fresh) hc
    rw [State.fresh_imageActive, if_pos hi, State.fresh_activeBase, State.fresh_libPageAt, Dev.copyEnded_eq] at h
    exact does_run (f := Dev.pageCopyDone) rfl h

end Sys2Proof.Machine
end

section
/-!
SUPPORT. The error, injection and near-cache registers of a tile: what a store to each makes of the device (R85, R88, R126, R129, R201).
-/

namespace Sys2Proof.Machine

/-- The row of TILE_ERR. -/
abbrev tileErrRow : RegRow := rowsTile[3]

/-- The row of TILE_INJECT. -/
abbrev tileInjectRow : RegRow := rowsTile[4]

/-- The row of PUMP_INJECT. -/
abbrev pumpInjectRow : RegRow := rowsTile[12]

/-- The row of CIST_NC_CTL. -/
abbrev cistNcCtlRow : RegRow := rowsTile[24]

/-- The row of ATTN_INJECT. -/
abbrev attnInjectRow : RegRow := rowsTile[32]

section
variable {t : Nat} (ht : t < 384)
include ht

theorem findRow_tileErr : findRow (R.TILE_ERR t) = some (tileErrRow, [t]) := by rw [findRow_TILE_ERR t ht]; rfl

theorem findRow_tileInject : findRow (R.TILE_INJECT t) = some (tileInjectRow, [t]) := by rw [findRow_TILE_INJECT t ht]; rfl

theorem findRow_pumpInject : findRow (R.PUMP_INJECT t) = some (pumpInjectRow, [t]) := by rw [findRow_PUMP_INJECT t ht]; rfl

theorem findRow_cistNcCtl : findRow (R.CIST_NC_CTL t) = some (cistNcCtlRow, [t]) := by rw [findRow_CIST_NC_CTL t ht]; rfl

theorem findRow_attnInject : findRow (R.ATTN_INJECT t) = some (attnInjectRow, [t]) := by rw [findRow_ATTN_INJECT t ht]; rfl

end

section
variable (d : Dev) (w : Who) (t v : Nat)

theorem Dev.store_tileErr : d.store w tileErrRow [t] (R.TILE_ERR t) v = d.tileErrWrite w tileErrRow t v := rfl

theorem Dev.store_tileInject : d.store w tileInjectRow [t] (R.TILE_INJECT t) v =
    if d.testEnable then d.plainStore w tileInjectRow (R.TILE_INJECT t) v else d := rfl

theorem Dev.store_pumpInject : d.store w pumpInjectRow [t] (R.PUMP_INJECT t) v =
    if d.testEnable then d.plainStore w pumpInjectRow (R.PUMP_INJECT t) v else d := rfl

theorem Dev.store_cistNcCtl : d.store w cistNcCtlRow [t] (R.CIST_NC_CTL t) v = d.ncCtlWrite t v := rfl

theorem Dev.store_attnInject : d.store w attnInjectRow [t] (R.ATTN_INJECT t) v = d.attnInjectWrite t v := rfl

end

/-! ### Registers with no RWI field -/

/-- A plain store to such a register changes it alone, image or not. -/
theorem Dev.plainStore_storedAt_of_noRwi (d : Dev) (w : Who) {row : RegRow} (o v : Nat) (h : (rowMask row fun a => a = .rwi) = 0) :
    d.storedAt o (d.plainStore w row o v) := by
  rw [Dev.storedAt, Dev.plainStore_reg_same]
  exact d.plainStore_eq w row o v (.inr (by rw [h, Nat.and_zero]))

theorem takeMask_tileErr (act : Bool) : takeMask tileErrRow act = 0 := by cases act <;> rfl

/-- TILE_ERR holds six bits that a 1 clears. -/
theorem Dev.plainStore_tileErr (d : Dev) (w : Who) (o v : Nat) :
    d.plainStore w tileErrRow o v = d.setWord o (d.reg o &&& ~~~ BitVec.ofNat 64 (v &&& 0x3F)) := by
  have noRwi : (rowMask tileErrRow fun a => a = .rwi) = 0 := rfl
  have w1c : (rowMask tileErrRow fun a => a = .w1c) = 0x3F := rfl
  rw [d.plainStore_eq w tileErrRow o v (.inr (by rw [noRwi, Nat.and_zero])), takeMask_tileErr, w1c, Nat.zero_or, Nat.and_comm 0x3F v]
  exact congrArg (d.setWord o) ((congrArg _ BitVec.and_zero).trans BitVec.or_zero)

/-- A fault bit written 1 that was set: the halt ends (R85). -/
theorem Dev.tileErrWrite_faultClears {d : Dev} (w : Who) {t v : Nat} (h : (d.reg (R.TILE_ERR t)).toNat &&& v &&& 0xF ≠ 0) :
    d.tileErrWrite w tileErrRow t v =
      (d.setWord (R.TILE_ERR t) (d.reg (R.TILE_ERR t) &&& ~~~ BitVec.ofNat 64 (v &&& 0x3F))).clearHalt t := by
  rw [← d.plainStore_tileErr w]
  exact if_pos h

/-! ### Injection -/

/-- Registers of two RW bits are stored whole: bit 1 and bit 0 of the value (TILE_INJECT, PUMP_INJECT). -/
theorem Dev.plainStore_twoBits (d : Dev) (w : Who) {row : RegRow} {ix : List Nat} {o r x y : Nat} (v : Nat) (hf : findRow o = some (row, ix))
    (hr : row.fields = [⟨⟨r, 1, 1⟩, .rw, x⟩, ⟨⟨r, 0, 0⟩, .rw, y⟩]) :
    let e := d.plainStore w row o v
    d.storedAt o e ∧ e.get ⟨o, 1, 1⟩ = bits v 1 1 ∧ e.get ⟨o, 0, 0⟩ = bits v 0 0 := by
  refine ⟨d.plainStore_storedAt_of_noRwi w o v (by rw [rowMask, hr]; rfl), ?_, ?_⟩
  · exact d.plainStore_get_takes w v hf (F := ⟨⟨r, 1, 1⟩, .rw, x⟩) (by rw [hr]; exact List.mem_cons_self) rfl
  · exact d.plainStore_get_takes w v hf (F := ⟨⟨r, 0, 0⟩, .rw, y⟩) (by rw [hr]; exact List.mem_cons_of_mem _ List.mem_cons_self) rfl

section
variable {f : Fld} (v : Nat)

/-- Bits 1 and 0 of a value with bit 1 set. -/
theorem Fld.IsBit.lowBits_on_one (h : f.IsBit 1) : bits (f.on v) 1 1 = 1 ∧ bits (f.on v) 0 0 = bits v 0 0 := by
  obtain ⟨hhi, hlo⟩ := h
  have set := Fld.of_on f v (hhi.trans hlo.symm)
  rw [Fld.of, hhi, hlo] at set
  exact ⟨set, Machine.bits_on f v 0 0 (by omega) (by omega) (Nat.le_refl 0)⟩

/-- Bits 1 and 0 of a value with bit 0 set. -/
theorem Fld.IsBit.lowBits_on_zero (h : f.IsBit 0) : bits (f.on v) 1 1 = bits v 1 1 ∧ bits (f.on v) 0 0 = 1 := by
  obtain ⟨hhi, hlo⟩ := h
  have set := Fld.of_on f v (hhi.trans hlo.symm)
  rw [Fld.of, hhi, hlo] at set
  exact ⟨Machine.bits_on f v 1 1 (by omega) (by omega) (Nat.le_refl 1), set⟩

end

theorem Dev.attnInjectWrite_armed {d : Dev} (ht : d.testEnable = true) (t v : Nat) :
    d.attnInjectWrite t v = (d.set (R.ATTN_INJECT_MISPREDICT t) (bits v 1 1)).set (R.ATTN_INJECT_FORCE_RECOVER t) (bits v 0 0) := by
  have h1 : v / 2 % 2 = bits v 1 1 := (congrArg (· % 2) (Nat.shiftRight_eq_div_pow v 1)).symm
  have h0 : v % 2 = bits v 0 0 := rfl
  rw [Dev.attnInjectWrite, if_pos ht, h1, h0]

/-! ### The near cache (R126) -/

/-- INV in an idle near cache starts an invalidation. -/
theorem Dev.ncCtlWrite_starts {d : Dev} {t v : Nat} (hv : v.testBit 63 = true) (hb : d.flag (R.CIST_NC_CTL_BUSY t) = false) :
    d.ncCtlWrite t v = (d.ncClear t).set (R.CIST_NC_CTL_BUSY t) 1 :=
  if_pos ⟨hv, by rw [hb]; rfl⟩

/-! ### The commands -/

section
variable {s : State} {c : Instr} {w : Who} {t u : Nat} {d : Dev}

/-- A store to a register of a tile's site by a command; `o` gives the register's offset by site. -/
theorem does_tileWrite {o : Nat → Nat} {row : RegRow} (h : exec c s = regWrite8 w (o (t % 384)) u s) (ht : t < 384)
    (ho : ∀ t, o t = o 0 + t * 0x100000) (h8 : o 0 % 8 = 0) (hs : R.SEC_CTL < o 0) (hu : u < 2 ^ 64) (hk : s.takes w (o t))
    (hf : findRow (o t) = some (row, [t])) (hd : s.fresh.store w row [t] (o t) u = d) : Does c s d := by
  rw [Nat.mod_eq_of_lt ht] at h
  have hot := ho t
  exact does_write h hk hf (by omega) (by omega) hu hd

theorem does_tileErrWrite (h : exec c s = regWrite8 w (R.TILE_ERR (t % 384)) u s) (ht : t < 384) (hu : u < 2 ^ 64)
    (hk : s.takes w (R.TILE_ERR t)) (hd : s.fresh.tileErrWrite w tileErrRow t u = d) : Does c s d :=
  does_tileWrite h ht (fun t => by unfold R.TILE_ERR; omega) (by decide) (by decide) hu hk (findRow_tileErr ht)
    ((s.fresh.store_tileErr w t u).trans hd)

theorem does_tileInjectWrite (h : exec c s = regWrite8 w (R.TILE_INJECT (t % 384)) u s) (ht : t < 384) (hu : u < 2 ^ 64)
    (hk : s.takes w (R.TILE_INJECT t))
    (hd : (if s.dev.testEnable then s.fresh.plainStore w tileInjectRow (R.TILE_INJECT t) u else s.fresh) = d) : Does c s d :=
  does_tileWrite h ht (fun t => by unfold R.TILE_INJECT; omega) (by decide) (by decide) hu hk (findRow_tileInject ht)
    ((s.fresh.store_tileInject w t u).trans hd)

theorem does_pumpInjectWrite (h : exec c s = regWrite8 w (R.PUMP_INJECT (t % 384)) u s) (ht : t < 384) (hu : u < 2 ^ 64)
    (hk : s.takes w (R.PUMP_INJECT t))
    (hd : (if s.dev.testEnable then s.fresh.plainStore w pumpInjectRow (R.PUMP_INJECT t) u else s.fresh) = d) : Does c s d :=
  does_tileWrite h ht (fun t => by unfold R.PUMP_INJECT; omega) (by decide) (by decide) hu hk (findRow_pumpInject ht)
    ((s.fresh.store_pumpInject w t u).trans hd)

section
variable {a b : Nat} (h1 : bits u 1 1 = a) (h0 : bits u 0 0 = b) (ht : t < 384) (hu : u < 2 ^ 64) (he : s.dev.testEnable = true)
include h1 h0 ht hu he

/-- An injection into TILE_INJECT while TEST_ENABLE is 1 arms the bits of the value. -/
theorem tileInject_arms (h : exec c s = regWrite8 w (R.TILE_INJECT (t % 384)) u s) (hk : s.takes w (R.TILE_INJECT t)) :
    ∃ d, s.fresh.storedAt (R.TILE_INJECT t) d ∧ d.get (R.TILE_INJECT_POISON_OUT t) = a ∧ d.get (R.TILE_INJECT_SHADOW_PARITY t) = b ∧
      Does c s d := by
  obtain ⟨stored, bit1, bit0⟩ := s.fresh.plainStore_twoBits w u (findRow_tileInject ht) rfl
  exact ⟨_, stored, bit1.trans h1, bit0.trans h0, does_tileInjectWrite h ht hu hk (if_pos he)⟩

/-- One into PUMP_INJECT. -/
theorem pumpInject_arms (h : exec c s = regWrite8 w (R.PUMP_INJECT (t % 384)) u s) (hk : s.takes w (R.PUMP_INJECT t)) :
    ∃ d, s.fresh.storedAt (R.PUMP_INJECT t) d ∧ d.get (R.PUMP_INJECT_ADDR_ERR_NEXT t) = a ∧ d.get (R.PUMP_INJECT_STALE_NEXT t) = b ∧
      Does c s d := by
  obtain ⟨stored, bit1, bit0⟩ := s.fresh.plainStore_twoBits w u (findRow_pumpInject ht) rfl
  exact ⟨_, stored, bit1.trans h1, bit0.trans h0, does_pumpInjectWrite h ht hu hk (if_pos he)⟩

/-- One into ATTN_INJECT. -/
theorem does_attnInjectWrite (h : exec c s = regWrite8 w (R.ATTN_INJECT (t % 384)) u s) (hk : s.takes w (R.ATTN_INJECT t)) :
    Does c s ((s.fresh.set (R.ATTN_INJECT_MISPREDICT t) a).set (R.ATTN_INJECT_FORCE_RECOVER t) b) := by
  subst h1 h0
  exact does_tileWrite h ht (fun t => by unfold R.ATTN_INJECT; omega) (by decide) (by decide) hu hk (findRow_attnInject ht)
    ((s.fresh.store_attnInject w t u).trans (Dev.attnInjectWrite_armed (d := s.fresh) he t u))

end

theorem does_nearCacheInv {v : Nat} (ht : t < 384) (hv : v < 2 ^ 64) (hk : s.takes w (R.CIST_NC_CTL t))
    (hb : s.dev.flag (R.CIST_NC_CTL_BUSY t) = false) :
    Does (.nearCacheInv w t v) s ((s.fresh.ncClear t).set (R.CIST_NC_CTL_BUSY t) 1) := by
  have inv : ((R.CIST_NC_CTL_INV 0).on v).testBit 63 = true := (topped_on63 ⟨rfl, rfl⟩ hv).bit63
  exact does_tileWrite rfl ht (fun t => by unfold R.CIST_NC_CTL; omega) (by decide) (by decide)
    (Fld.IsBit.on_lt ⟨rfl, rfl⟩ hv (by decide)) hk (findRow_cistNcCtl ht) ((s.fresh.store_cistNcCtl w t _).trans (Dev.ncCtlWrite_starts inv hb))

theorem does_nearCacheInvDone (ht : t < 384) : Does (.nearCacheInvDone t) s (s.fresh.set (R.CIST_NC_CTL_BUSY t) 0) :=
  does_run (f := fun d => if t < 384 then d.set (R.CIST_NC_CTL_BUSY t) 0 else d) rfl (if_pos ht)

end

end Sys2Proof.Machine
end

section
/-!
PROOF. The statement about stores to a tile's error, injection and near-cache registers.
-/

namespace Sys2Proof.Machine

/-- Settles O22: each command's bit in the value that it stores, and what its register makes of it. -/
theorem tileWrites : Obligations.TileWrites := by
  intro s w t v hv ht
  have lt1 {f : Fld} (h : f.IsBit 1) : f.on v < 2 ^ 64 := h.on_lt hv (by decide)
  have lt0 {f : Fld} (h : f.IsBit 0) : f.on v < 2 ^ 64 := h.on_lt hv (by decide)
  refine ⟨fun hk hf => ?faultClear, fun hk he => ?poisonOut, fun hk he => ?shadowParity, fun hk he => ⟨?noPoisonOut, ?noShadowParity⟩,
    fun hk he => ?addrErr, fun hk he => ?stale, fun hk he => ⟨?mispredict, ?forceRecover⟩, fun hk hb => does_nearCacheInv ht hv hk hb,
    does_nearCacheInvDone ht⟩
  case faultClear => exact does_tileErrWrite rfl ht hv hk (Dev.tileErrWrite_faultClears w hf)
  case poisonOut =>
    obtain ⟨set, kept⟩ := Fld.IsBit.lowBits_on_one (f := R.TILE_INJECT_POISON_OUT 0) v ⟨rfl, rfl⟩
    exact tileInject_arms set kept ht (lt1 ⟨rfl, rfl⟩) he rfl hk
  case shadowParity =>
    obtain ⟨kept, set⟩ := Fld.IsBit.lowBits_on_zero (f := R.TILE_INJECT_SHADOW_PARITY 0) v ⟨rfl, rfl⟩
    exact tileInject_arms kept set ht (lt0 ⟨rfl, rfl⟩) he rfl hk
  case noPoisonOut => exact does_tileInjectWrite rfl ht (lt1 ⟨rfl, rfl⟩) hk (if_neg (ne_true_of_eq_false he))
  case noShadowParity => exact does_tileInjectWrite rfl ht (lt0 ⟨rfl, rfl⟩) hk (if_neg (ne_true_of_eq_false he))
  case addrErr =>
    obtain ⟨set, kept⟩ := Fld.IsBit.lowBits_on_one (f := R.PUMP_INJECT_ADDR_ERR_NEXT 0) v ⟨rfl, rfl⟩
    exact pumpInject_arms set kept ht (lt1 ⟨rfl, rfl⟩) he rfl hk
  case stale =>
    obtain ⟨kept, set⟩ := Fld.IsBit.lowBits_on_zero (f := R.PUMP_INJECT_STALE_NEXT 0) v ⟨rfl, rfl⟩
    exact pumpInject_arms kept set ht (lt0 ⟨rfl, rfl⟩) he rfl hk
  case mispredict =>
    obtain ⟨set, kept⟩ := Fld.IsBit.lowBits_on_one (f := R.ATTN_INJECT_MISPREDICT 0) v ⟨rfl, rfl⟩
    exact does_attnInjectWrite set kept ht (lt1 ⟨rfl, rfl⟩) he rfl hk
  case forceRecover =>
    obtain ⟨kept, set⟩ := Fld.IsBit.lowBits_on_zero (f := R.ATTN_INJECT_FORCE_RECOVER 0) v ⟨rfl, rfl⟩
    exact does_attnInjectWrite kept set ht (lt0 ⟨rfl, rfl⟩) he rfl hk

end Sys2Proof.Machine
end

section
/-!
SUPPORT. Completion of an operation, of the schedule or of the deferred queue (R74, R255).
-/

namespace Sys2Proof.Machine

@[simp] theorem State.fresh_opOf (s : State) (i : Nat) : s.fresh.opOf i = s.dev.opOf i := rfl

section
variable {d : Dev} {o : Op} (hr : o.report = false)

/-- What every completion does: the tiles are free, the operation is gone, its signals are posted. -/
def Dev.endOp (d : Dev) (o : Op) : Dev :=
  let f := d.freeTiles o
  ((({ f with ops := f.ops.filter fun y => y.id ≠ o.id } : Dev).copiesRead o.id).postSig o.sig0).postSig o.sig1

include hr

/-- An entry's operation without report or deadline may drain its page, and its tiles no longer wait. -/
theorem Dev.finishOp_entry {e : Nat} (hw : o.wgq = none) (he : o.entry = some e) (hl : o.deadline = none) :
    d.finishOp o = ((d.endOp o).pageDrained (e / 1024)).refreshWaiting := by
  simp only [Dev.finishOp, hw, he, hl, hr, Bool.false_eq_true, if_false]
  rfl

/-- A deferred product leaves its slot free, and is counted. -/
theorem Dev.finishOp_deferred {n : Nat} (hw : o.wgq = some n) :
    d.finishOp o =
      let e := d.endOp o
      let g : Dev := { e with wgq := { e.wgq with masks := e.wgq.masks.filter fun m => m.slot ≠ n } }
      (g.setWgq n 0).count R.WGQ_POST_COMPLETED 1 := by
  simp only [Dev.finishOp, hw, hr, Bool.false_eq_true, if_false]
  rfl

end

section
variable {d : Dev} {o : Op} (hd : d.opDone o = true)
include hd

theorem Dev.opComplete_done {i : Nat} (ho : d.opOf i = some o) (hw : o.wgq = none) : d.opComplete i = d.finishOp o := by
  simp only [Dev.opComplete, ho, hw, hd, Option.isNone_none, Bool.and_self, if_true]

theorem Dev.wgqComplete_done {n : Nat} (ho : (d.ops.find? fun o => o.wgq = some n) = some o) : d.wgqComplete n = d.finishOp o := by
  simp only [Dev.wgqComplete, ho, hd, if_true]

end

end Sys2Proof.Machine
end

section
/-!
PROOF. The statement about completion.
-/

namespace Sys2Proof.Machine

/-- Settles O11: an operation of an entry, and one of the deferred queue. -/
theorem operationsComplete : Obligations.OperationsComplete := by
  intro s o
  refine ⟨fun i e ho hw he hd hr hl => ?entry, fun n ho hd hr => ?deferred⟩
  case entry =>
    have h := (Dev.opComplete_done hd ho hw).trans (Dev.finishOp_entry hr hw he hl)
    exact does_run (c := .opComplete i) (f := fun d => d.opComplete i) rfl h
  case deferred =>
    have hw : o.wgq = some n := of_decide_eq_true (List.find?_some (p := fun o : Op => decide (o.wgq = some n)) ho)
    have h := (Dev.wgqComplete_done (d := s.fresh) hd ho).trans (Dev.finishOp_deferred hr hw)
    exact does_run (c := .wgqComplete n) (f := fun d => d.wgqComplete n) rfl h

end Sys2Proof.Machine
end

section
/-!
SUPPORT. STEP_ISSUE by its stages: what is counted first, what a throttle takes, and whether the step issues or waits (R72, R73, R324).
-/

namespace Sys2Proof.Machine

/-- The cycles that STEP_ISSUE counts change no tile. -/
theorem Dev.tile_stepCycles (d : Dev) (t n bank window m : Nat) : ((d.pumpCycles t n).cistCycles t bank window).tile m = d.tile m := by
  have pump : (d.pumpCycles t n).tiles = d.tiles := by
    unfold Dev.pumpCycles
    split <;> rfl
  exact congrArg (fun ts => stGet (fun _ => TileUnit.idle) ts m) pump

section
variable (d : Dev) (t n : Nat) (x : Exec)

/-- The device with the cycles that STEP_ISSUE brings counted. -/
def Dev.stepCounted (bank window : Nat) : Dev := ((d.pumpCycles t n).cistCycles t bank window).busyCycles t x n

/-- The pumps of a step's tiles have gone as far as they can; an UPDATE has opened the streams of its gradients. -/
def Dev.stepPrepared (ts : List Nat) : Dev :=
  ts.foldl (fun (d : Dev) m => (d.prepare m).refreshPump m) (if odClass x.desc = 0x30 then d.openGradients t x else d)

end

section
variable {d : Dev} {t n stall array exposed : Nat} {span : StepSpan} {x : Exec}

/-- On a tile that runs an operation with steps left, alive and not halted: what a throttle holds comes first, then the class decides. -/
theorem Dev.stepIssue_runs (hx : (d.tile t).exec = some x) (hd : x.done = false)
    (ha : (d.stepCounted t n x span.bank span.window).alive = true)
    (hg : (d.stepCounted t n x span.bank span.window).gangMember t x.desc = false)
    (hh : ∀ m ∈ (d.stepCounted t n x span.bank span.window).stepTiles t x.desc,
      ((d.stepCounted t n x span.bank span.window).tile m).exec.elim true (·.halted) = false) :
    d.stepIssue t stall n array exposed span =
      let b := d.stepCounted t n x span.bank span.window
      let ts := b.stepTiles t x.desc
      let z := b.throttle ts stall
      if z.2.2 then z.1
      else
        let e := z.1.stepPrepared t x ts
        if isAttn (odClass x.desc) then e.attnIssue t x z.2.1 array exposed else e.classIssue t x z.2.1 array exposed span.left := by
  have hx' : (((d.pumpCycles t n).cistCycles t span.bank span.window).tile t).exec = some x := by rw [d.tile_stepCycles]; exact hx
  have noneHalted := List.any_eq_false.mpr fun m hm => ne_true_of_eq_false (hh m hm)
  let b := d.stepCounted t n x span.bank span.window
  have runs : ¬ (x.done = true ∨ (!b.alive) = true ∨ b.gangMember t x.desc = true ∨
      ((b.stepTiles t x.desc).any fun m => (b.tile m).exec.elim true (·.halted)) = true) := by
    simp only [b, hd, ha, hg, noneHalted, Bool.not_true, Bool.false_eq_true, or_self, not_false_eq_true]
  simp only [Dev.stepIssue, hx']
  exact if_neg runs

section
variable (hc : x.step < (d.stepsOf t x).count)
include hc

/-- A step of another class, when the operation has steps left. -/
theorem Dev.classIssue_left : d.classIssue t x stall array exposed n =
    if d.updateHeld x then (d.stepWait t none 1 stall).count R.UPD_WAIT_RET_WAIT_CYCLES stall
    else if d.stepShort t x.desc (d.stepsOf t x) x.step then d.ringHalt t x.desc
    else if (d.stepTiles t x.desc).any fun m => (d.tile m).exec.elim true fun y => (d.waitsFor m y (d.stepsOf t x) x.step).isSome
      then d.stepWaits t x (d.stepsOf t x) stall
    else if (d.sliceGate t n x).2 then (d.sliceGate t n x).1.stepGo t x (d.stepsOf t x) array exposed
    else (d.sliceGate t n x).1 := by
  rw [Dev.classIssue, if_neg fun h => absurd h.2.2 hc.ne, if_neg (Nat.not_le.mpr hc)]

theorem Dev.classIssue_held (hu : d.updateHeld x = true) :
    d.classIssue t x stall array exposed n = (d.stepWait t none 1 stall).count R.UPD_WAIT_RET_WAIT_CYCLES stall := by
  rw [Dev.classIssue_left hc, if_pos hu]

section
variable (hu : d.updateHeld x = false)
include hu

/-- A step that needs more of a ring than it has halts its tile. -/
theorem Dev.classIssue_short (hs : d.stepShort t x.desc (d.stepsOf t x) x.step = true) :
    d.classIssue t x stall array exposed n = d.ringHalt t x.desc := by
  rw [Dev.classIssue_left hc, if_neg (ne_true_of_eq_false hu), if_pos hs]

variable (hs : d.stepShort t x.desc (d.stepsOf t x) x.step = false)
include hs

/-- It waits where a stream of one of its tiles does. -/
theorem Dev.classIssue_waits {m : Nat} {y : Exec} (hm : m ∈ d.stepTiles t x.desc) (hy : (d.tile m).exec = some y)
    (hw : (d.waitsFor m y (d.stepsOf t x) x.step).isSome = true) :
    d.classIssue t x stall array exposed n = d.stepWaits t x (d.stepsOf t x) stall := by
  rw [Dev.classIssue_left hc, if_neg (ne_true_of_eq_false hu), if_neg (ne_true_of_eq_false hs), if_pos]
  exact List.any_eq_true.mpr ⟨m, hm, by rw [hy]; exact hw⟩

/-- It issues where none does and the slice gate lets it. -/
theorem Dev.classIssue_goes (hr : ∀ m ∈ d.stepTiles t x.desc, ∃ y, (d.tile m).exec = some y ∧ d.waitsFor m y (d.stepsOf t x) x.step = none)
    (hg : (d.sliceGate t n x).2 = true) :
    d.classIssue t x stall array exposed n = (d.sliceGate t n x).1.stepGo t x (d.stepsOf t x) array exposed := by
  have noneWaits : ¬ (d.stepTiles t x.desc).any (fun m => (d.tile m).exec.elim true fun y => (d.waitsFor m y (d.stepsOf t x) x.step).isSome) := by
    rw [List.any_eq_true]
    rintro ⟨m, hm, waits⟩
    obtain ⟨y, hy, ready⟩ := hr m hm
    rw [hy, Option.elim_some, ready] at waits
    cases waits
  rw [Dev.classIssue_left hc, if_neg (ne_true_of_eq_false hu), if_neg (ne_true_of_eq_false hs), if_neg noneWaits, if_pos hg]

end
end

/-- A step of attention that its engine has planned, and whose rings are long enough, issues or waits. -/
theorem Dev.attnIssue_planned {h : Dev} (hr : x.step ≤ (d.tile t).attn.ran) (hp : (d.attnPlan t x 70000).2 = none)
    (hh : ((d.attnPlan t x 70000).1.prepare t).refreshPump t = h) (hf : (h.tile t).attn.fin = false) (hs : h.attnShort t x = false) :
    (h.attnWaits t x = none → d.attnIssue t x stall array exposed = h.attnGo t x array exposed) ∧
      ((h.attnWaits t x).isSome = true → d.attnIssue t x stall array exposed = h.stepWait t (h.attnWaits t x) 0 stall) := by
  rw [Dev.attnIssue, if_neg (Nat.not_lt.mpr hr)]
  generalize d.attnPlan t x 70000 = plan at hp hh ⊢
  obtain ⟨e, stop⟩ := plan
  obtain rfl : stop = none := hp
  dsimp only at hh
  simp only [hh, hf, hs, Bool.false_eq_true, if_false]
  refine ⟨fun hw => by rw [hw], fun hw => ?_⟩
  obtain ⟨w, hw⟩ := Option.isSome_iff_exists.mp hw
  rw [hw]

end

end Sys2Proof.Machine
end

section
/-!
PROOF. The statement about STEP_ISSUE.
-/

namespace Sys2Proof.Machine

theorem does_stepIssue {s : State} {t stall n array exposed : Nat} {span : StepSpan} {d : Dev}
    (h : s.fresh.stepIssue t stall n array exposed span = d) : Does (.stepIssue t stall n array exposed span) s d :=
  does_run (f := fun d => d.stepIssue t stall n array exposed span) rfl h

/-- Settles O10: by whether issue is held, by the class, and by what the step's streams answer. -/
theorem stepsIssue : Obligations.StepsIssue := by
  intro s t stall n array exposed left bank window x hx b ts does hd ha hg hh z e rest held d p
  have runs := Dev.stepIssue_runs (d := s.fresh) (stall := stall) (array := array) (exposed := exposed) (span := ⟨left, bank, window⟩)
    hx hd ha hg hh
  have heldIssue (h : held = true) : does e := does_stepIssue (runs.trans (if_pos h))
  have byClass {r : Dev} (h : held = false) (hc : isAttn (odClass x.desc) = false) (hr : d.classIssue t x rest array exposed left = r) : does r :=
    does_stepIssue (runs.trans ((if_neg (ne_true_of_eq_false h)).trans ((if_neg (ne_true_of_eq_false hc)).trans hr)))
  have byEngine {r : Dev} (h : held = false) (hc : isAttn (odClass x.desc) = true) (hr : d.attnIssue t x rest array exposed = r) : does r :=
    does_stepIssue (runs.trans ((if_neg (ne_true_of_eq_false h)).trans ((if_pos hc).trans hr)))
  refine ⟨heldIssue, fun h hc hl hu => ⟨fun hs => ?short, fun hs => ⟨fun hr hgate => ?goes, fun m y hm hy hw => ?waits⟩⟩,
    fun h hu hl => ?update, fun h hc hr hp hf hs => ⟨fun hw => ?engineGoes, fun hw => ?engineWaits⟩⟩
  case short => exact byClass h hc (Dev.classIssue_short hl hu hs)
  case goes => exact byClass h hc (Dev.classIssue_goes hl hu hs hr hgate)
  case waits => exact byClass h hc (Dev.classIssue_waits hl hu hs hm hy hw)
  case update =>
    have isUpdate : odClass x.desc = 0x30 := of_decide_eq_true (Bool.and_eq_true_iff.mp hu).1
    exact byClass h (by rw [isUpdate]; rfl) (Dev.classIssue_held hl hu)
  case engineGoes => exact byEngine h hc ((Dev.attnIssue_planned hr hp rfl hf hs).1 hw)
  case engineWaits => exact byEngine h hc ((Dev.attnIssue_planned hr hp rfl hf hs).2 hw)

end Sys2Proof.Machine
end

section
/-!
SUPPORT. The commands of the operation classes: the steps issued end, their results formed by the class's function (R75, R87).
-/

namespace Sys2Proof.Machine

section
variable {d : Dev} {t cls : Nat} {x : Exec} (h : d.works t cls x)
include h

theorem Dev.works.runs : ¬ (odClass x.desc ≠ cls ∨ x.done = true) := by
  obtain ⟨_, hc, hd⟩ := h
  rw [hc, hd]; simp

/-- A class's command on a tile that runs it ends the steps issued. -/
theorem Dev.classRun_works (plan : Dev → Exec → Steps) (f : Dev → Exec → Nat → Dev) :
    d.classRun t cls plan f = d.stepsEnd t x (fun e => plan e x) fun e i => f e x i := by
  simp only [Dev.classRun, h.1, if_neg h.runs]
  rfl

theorem Dev.progRun_works (hr : (d.runAll t x).works t cls x) : d.progRun t cls =
    (d.runAll t x).stepsEnd t x (fun e => if cls = 0x20 then vecSteps x.desc else (e.updateSteps t x).1) fun e _ => e := by
  simp only [Dev.progRun, h.1, if_neg h.runs]
  exact Dev.classRun_works hr _ _

section
variable (hp : x.planned = true) (hs : x.step = x.steps)
include hp hs

/-- A class whose results are formed at once, with its last step. -/
theorem Dev.classRow_works (plan : Dev → Exec → Steps) (f : Dev → TileUnit → Exec → Dev) : d.classRow t cls plan f =
    d.stepsEnd t x (fun e => plan e x) fun e i => if i + 1 = x.steps then f e (e.tile t) x else e := by
  have last : ((d.tile t).exec.elim false fun x => x.planned && x.step = x.steps) = true := by
    rw [h.1, Option.elim_some, hp, hs, Bool.true_and, decide_eq_true rfl]
  rw [Dev.classRow, if_pos last, Dev.classRun_works h]

theorem Dev.modeRow_works {ok : Nat → Bool} (ho : ok x.desc = true) (plan : Nat → Steps) (f : Dev → Nat → TileUnit → Exec → Dev) :
    d.modeRow t cls ok plan f =
      d.stepsEnd t x (fun _ => plan x.desc) fun e i => if i + 1 = x.steps then f e t (e.tile t) x else e := by
  have inMode : ((d.tile t).exec.elim false fun x => ok x.desc) = true := by rw [h.1]; exact ho
  rw [Dev.modeRow, if_pos inMode, Dev.classRow_works h hp hs]

end
end

section
variable {d : Dev} {t : Nat} {x : Exec}

/-- COMBINE in GATHER mode; the deferred rows follow the last token. -/
theorem Dev.gatherRun_works (h : d.works t 0x23 x) (hg : cbGather x.desc = true) : d.gatherRun t =
    d.stepsEnd t x (fun _ => combineSteps x.desc) fun e i =>
      if x.rank = 0 ∧ cbDeferAdd x.desc = true ∧ i + 1 = cbRows x.desc then (e.gatherStep t x i).deferAdd t x.desc
      else e.gatherStep t x i := by
  have gathers : ((d.tile t).exec.elim false fun x => cbGather x.desc) = true := by rw [h.1]; exact hg
  rw [Dev.gatherRun, if_pos gathers, Dev.classRun_works h]
  simp only [Bool.and_eq_true, decide_eq_true_eq, and_assoc]

/-- ATTN_MERGE: its phase is 0 once the operation has formed its results. -/
theorem Dev.mergeRun_works (h : d.works t 0x13 x) : d.mergeRun t =
    let e := d.stepsEnd t x (fun _ => mergeSteps x.desc) fun e i => e.mergeBlock t x i
    if (e.tile t).exec.elim false fun y => odClass y.desc = 0x13 && y.done then e.set (R.ATTN_STATUS_PHASE t) 0 else e := by
  rw [Dev.mergeRun, Dev.classRun_works h]

end

section
variable {s : State} {c : Instr} {t cls : Nat} {x : Exec} (h : s.fresh.works t cls x)
include h

theorem does_matRun (hc : exec c s = run s fun d => d.matRun t cls) :
    Does c s (s.fresh.stepsEnd t x (fun e => e.matSteps t x) fun e i => e.matStep t x i) :=
  does_run hc (Dev.classRun_works h (fun d x => d.matSteps t x) fun d x i => d.matStep t x i)

theorem does_localRun {f : Dev → Nat → Exec → Nat → Dev} (hc : exec c s = run s fun d => d.localRun t cls f) :
    Does c s (s.fresh.stepsEnd t x (fun _ => localSteps x.desc) fun e i => f e t x i) :=
  does_run hc (Dev.classRun_works h (fun _ x => localSteps x.desc) fun d x i => f d t x i)

theorem does_modeRow {ok : Nat → Bool} {plan : Nat → Steps} {f : Dev → Nat → TileUnit → Exec → Dev}
    (hc : exec c s = run s fun d => d.modeRow t cls ok plan f) (hp : x.planned = true) (hs : x.step = x.steps) (ho : ok x.desc = true) :
    Does c s (s.fresh.stepsEnd t x (fun _ => plan x.desc) fun e i => if i + 1 = x.steps then f e t (e.tile t) x else e) :=
  does_run hc (Dev.modeRow_works h hp hs ho plan f)

end

end Sys2Proof.Machine
end

section
/-!
PROOF. The statement about the operation classes.
-/

namespace Sys2Proof.Machine

/-- Settles O17: every class but attention's three by what its command runs. -/
theorem classesFormResults : Obligations.ClassesFormResults := by
  intro s t x
  refine ⟨fun h => does_matRun h rfl, fun h => does_matRun h rfl, fun h => does_matRun h rfl,
    fun h y hy hc => ⟨fun hd => ?merged, fun hd => ?merging⟩, fun h hr => ?program, fun h hr => ?update, fun h => does_localRun h rfl,
    fun h => does_localRun h rfl, fun h => does_localRun h rfl, fun h => ?route, fun h hg => ?gather,
    fun hp hs => ⟨fun h hm hr => ?send, fun h hm => ?plan, fun h hm => ?prefetch, fun h hg => ?ret, fun ms h => ?kat⟩⟩
  case merged =>
    refine does_run (f := fun d => d.mergeRun t) rfl ((Dev.mergeRun_works h).trans (if_pos ?_))
    rw [hy, Option.elim_some, hc, hd]; rfl
  case merging =>
    refine does_run (f := fun d => d.mergeRun t) rfl ((Dev.mergeRun_works h).trans (if_neg ?_))
    rw [hy, Option.elim_some, hd, Bool.and_false]; exact Bool.false_ne_true
  case program => exact does_run (f := fun d => d.progRun t 0x20) rfl (Dev.progRun_works h hr)
  case update => exact does_run (f := fun d => d.progRun t 0x30) rfl (Dev.progRun_works h hr)
  case route =>
    exact does_run (f := fun d => d.classRun t 0x21 (fun _ x => routeSteps x.desc) fun d x i => d.routeStep t x i) rfl
      (Dev.classRun_works h _ _)
  case gather => exact does_run (f := fun d => d.gatherRun t) rfl (Dev.gatherRun_works h hg)
  case send =>
    refine does_run (f := fun d => if d.sendReady t then d.modeRow t 0x22 (fun w => dpMode w = 0) dispatchSteps Dev.runSend else d) rfl ?_
    exact (if_pos hr).trans (Dev.modeRow_works h hp hs (decide_eq_true hm) dispatchSteps Dev.runSend)
  case plan => exact does_modeRow h rfl hp hs (decide_eq_true hm)
  case prefetch => exact does_modeRow h rfl hp hs (decide_eq_true hm)
  case ret => exact does_modeRow h rfl hp hs (congrArg not hg)
  case kat =>
    exact does_run (f := fun d => d.classRow t 0x50 (fun _ x => katSteps x.desc) fun d u x => d.runKat t u x ms) rfl
      (Dev.classRow_works h hp hs _ _)

end Sys2Proof.Machine
end

section
/-!
SUPPORT. The values of elements as rationals: comparison and alignment of m × 2^e, and a value rounded to a whole number of
units, the even one of two that are as near.
-/

namespace Sys2Proof.Machine

/-- The number m × 2^e. -/
def dyadic (m : Nat) (e : Int) : ℚ := m * 2 ^ e

/-- The number (−1)^neg × m × 2^e. -/
def signedDyadic (neg : Bool) (m : Nat) (e : Int) : ℚ := if neg then -dyadic m e else dyadic m e

theorem two_zpow_pos (e : Int) : (0 : ℚ) < 2 ^ e := zpow_pos two_pos e

theorem dyadic_nonneg (m : Nat) (e : Int) : 0 ≤ dyadic m e := mul_nonneg (Nat.cast_nonneg m) (two_zpow_pos e).le

/-- The same number at an exponent lower by k. -/
theorem dyadic_shift (m k : Nat) (e : Int) : dyadic (m <<< k) e = dyadic m (e + k) := by
  rw [dyadic, dyadic, Nat.shiftLeft_eq, zpow_add₀ two_ne_zero, zpow_natCast]
  push_cast; ring

theorem dyadic_two_pow (k : Nat) (e : Int) : dyadic (2 ^ k) e = 2 ^ (e + k) := by
  rw [dyadic, Nat.cast_pow, Nat.cast_ofNat, ← zpow_natCast, ← zpow_add₀ two_ne_zero, Int.add_comm]

theorem dyadic_le_dyadic {m m' : Nat} (h : m ≤ m') (e : Int) : dyadic m e ≤ dyadic m' e :=
  mul_le_mul_of_nonneg_right (Nat.cast_le.mpr h) (two_zpow_pos e).le

theorem dyadic_lt_dyadic {m m' : Nat} (h : m < m') (e : Int) : dyadic m e < dyadic m' e :=
  mul_lt_mul_of_pos_right (Nat.cast_lt.mpr h) (two_zpow_pos e)

theorem signedDyadic_le (neg : Bool) (m : Nat) (e : Int) : signedDyadic neg m e ≤ dyadic m e := by
  have := dyadic_nonneg m e
  rw [signedDyadic]
  split <;> linarith

/-- A number as a whole number of units no larger than its own. -/
theorem dyadic_eq_shiftLeft {e e0 : Int} (h : e0 ≤ e) (m : Nat) : dyadic m e = (m <<< (e - e0).toNat : Nat) * 2 ^ e0 := by
  have h' : e0 + ((e - e0).toNat : Int) = e := by omega
  rw [← dyadic, dyadic_shift, h']

theorem dyGe_iff (m : Nat) (e : Int) (m' : Nat) (e' : Int) : dyGe m e m' e' = true ↔ dyadic m' e' ≤ dyadic m e := by
  unfold dyGe
  split
  · next h => rw [decide_eq_true_iff, dyadic_eq_shiftLeft h, dyadic, mul_le_mul_iff_left₀ (two_zpow_pos e'), Nat.cast_le]
  · next h =>
    rw [decide_eq_true_iff, dyadic_eq_shiftLeft (not_le.mp h).le, dyadic, mul_le_mul_iff_left₀ (two_zpow_pos e), Nat.cast_le]

/-- The signed mantissa that `alignTo` forms counts units of 2^e0. -/
theorem alignTo_mul {e e0 : Int} (h : e0 ≤ e) (neg : Bool) (m : Nat) : (alignTo neg m e e0 : ℚ) * 2 ^ e0 = signedDyadic neg m e := by
  rw [alignTo, signedDyadic, dyadic_eq_shiftLeft h]
  cases neg
  · rw [if_neg Bool.false_ne_true, if_neg Bool.false_ne_true, Int.cast_natCast]
  · rw [if_pos rfl, if_pos rfl, Int.cast_neg, Int.cast_natCast, neg_mul]

/-! ### Rounding to whole units -/

/-- n units of u are x rounded to nearest, to even where two are as near. -/
def RoundedTo (x u : ℚ) (n : Nat) : Prop := 2 * |x - n * u| ≤ u ∧ (2 * |x - n * u| = u → n % 2 = 0)

theorem roundedTo_exact {u : ℚ} (hu : 0 < u) (n : Nat) : RoundedTo (n * u) u n := by
  rw [RoundedTo, sub_self, abs_zero, mul_zero]
  exact ⟨hu.le, fun h => absurd h hu.ne⟩

/-- What lies below half a unit above n units rounds down to them, and a half does where n is even. -/
theorem roundedTo_down {u r : ℚ} {n : Nat} (h0 : 0 ≤ r) (h : 2 * r ≤ u) (he : 2 * r = u → n % 2 = 0) :
    RoundedTo (n * u + r) u n := by
  rw [RoundedTo, add_sub_cancel_left, abs_of_nonneg h0]
  exact ⟨h, he⟩

/-- What lies above half a unit rounds up to the next one, and a half does where that is even. -/
theorem roundedTo_up {u r : ℚ} {n : Nat} (h0 : r ≤ u) (h : u ≤ 2 * r) (he : 2 * r = u → (n + 1) % 2 = 0) :
    RoundedTo (n * u + r) u (n + 1) := by
  have hd : |(n * u + r : ℚ) - (n + 1 : Nat) * u| = u - r := by
    rw [← abs_of_nonneg (sub_nonneg.mpr h0), ← abs_neg]; congr 1; push_cast; ring
  rw [RoundedTo, hd]
  exact ⟨by linarith, fun h' => he (by linarith)⟩

/-- Cutting k bits off rounds to whole units of 2^k. -/
theorem roundShift_rne (m k : Nat) : RoundedTo m ((2 ^ k : Nat) : ℚ) (roundShift .rne m k) := by
  have hm : (m : ℚ) = (m / 2 ^ k : Nat) * (2 ^ k : Nat) + (m % 2 ^ k : Nat) := by exact_mod_cast (Nat.div_add_mod' m (2 ^ k)).symm
  have hlt : m % 2 ^ k < 2 ^ k := Nat.mod_lt m (Nat.two_pow_pos k)
  simp only [roundShift, Nat.shiftRight_eq_div_pow]
  rw [hm]
  generalize 2 ^ k = u at hlt
  split_ifs with habove hhalf
  · exact roundedTo_up (by exact_mod_cast hlt.le) (by exact_mod_cast habove.le) fun h => absurd (by exact_mod_cast h) habove.ne'
  · obtain h | h := Nat.mod_two_eq_zero_or_one (m / u)
    · rw [h]; exact roundedTo_down (Nat.cast_nonneg _) (by exact_mod_cast hhalf.le) fun _ => h
    · rw [h]; exact roundedTo_up (by exact_mod_cast hlt.le) (by exact_mod_cast hhalf.ge) fun _ => by omega
  · exact roundedTo_down (Nat.cast_nonneg _) (by exact_mod_cast not_lt.mp habove) fun h => absurd (by exact_mod_cast h) hhalf

theorem RoundedTo.mul {x u : ℚ} {n : Nat} (h : RoundedTo x u n) {c : ℚ} (hc : 0 < c) : RoundedTo (x * c) (u * c) n := by
  have hd : 2 * |x * c - n * (u * c)| = 2 * |x - n * u| * c := by
    rw [show x * c - n * (u * c) = (x - n * u) * c by ring, abs_mul, abs_of_pos hc, mul_assoc]
  rw [RoundedTo, hd]
  exact ⟨mul_le_mul_of_nonneg_right h.1 hc.le, fun he => h.2 (mul_right_cancel₀ hc.ne' he)⟩

section
variable {x u : ℚ} {n : Nat} (h : RoundedTo x u n)
include h

/-- No whole number of units is nearer, and n is even where another is as near. -/
theorem RoundedTo.nearest (hu : 0 < u) (k : Int) : |x - n * u| ≤ |x - k * u| ∧ (|x - n * u| = |x - k * u| → k * u ≠ n * u → n % 2 = 0) := by
  obtain ⟨hle, heven⟩ := h
  obtain rfl | hk := eq_or_ne k n
  · exact ⟨le_rfl, fun _ hne => absurd rfl hne⟩
  · have hone : (1 : ℚ) ≤ |(k : ℚ) - n| := by exact_mod_cast Int.one_le_abs (sub_ne_zero.mpr hk)
    have hgap : u ≤ |x - n * u| + |x - k * u| :=
      calc u ≤ |(k : ℚ) - n| * |u| := by rw [abs_of_pos hu]; exact le_mul_of_one_le_left hu.le hone
        _ = |(x - n * u) - (x - k * u)| := by rw [← abs_mul]; congr 1; ring
        _ ≤ |x - n * u| + |x - k * u| := abs_sub _ _
    exact ⟨by linarith, fun he _ => heven (by linarith)⟩

/-- The units rounded to stand within half a unit. -/
theorem RoundedTo.within : x - u / 2 ≤ n * u ∧ n * u ≤ x + u / 2 := by
  have := abs_le.mp (show |x - n * u| ≤ u / 2 by linarith [h.1])
  exact ⟨by linarith, by linarith⟩

theorem RoundedTo.le_of_lt {k : Nat} (hu : 0 < u) (hx : x < k * u) : n ≤ k := by
  have hlt : (n : ℚ) * u < (k + 1 : Nat) * u := by push_cast; linarith [h.within.2]
  exact Nat.lt_succ_iff.mp (Nat.cast_lt.mp (lt_of_mul_lt_mul_right hlt hu.le))

theorem RoundedTo.ge_of_ge {k : Nat} (hu : 0 < u) (hx : k * u ≤ x) : k ≤ n := by
  have hlt : (k : ℚ) * u < (n + 1 : Nat) * u := by push_cast; linarith [h.within.1]
  exact Nat.lt_succ_iff.mp (Nat.cast_lt.mp (lt_of_mul_lt_mul_right hlt hu.le))

end

end Sys2Proof.Machine
end

section
/-!
SUPPORT. The codes of a format (Table 5.1): the significand and exponent that a magnitude code stands for, how the code is
composed of them, and what the decoder makes of a code with its sign.
-/

namespace Sys2Proof.Machine

variable {f : FpFmt}

/-- The format has normal values and a fraction, as every row of Table 5.1 has. -/
def FpFmt.proper (f : FpFmt) : Bool := decide (2 ≤ f.eb) && decide (1 ≤ f.mb)

/-- The exponent of one unit in the last place of a subnormal. -/
def FpFmt.subExp (f : FpFmt) : Int := 1 - (f.bias : Int) - f.mb

/-- The significand of a magnitude code. -/
def FpFmt.sig (f : FpFmt) (c : Nat) : Nat := if c / 2 ^ f.mb = 0 then c % 2 ^ f.mb else 2 ^ f.mb + c % 2 ^ f.mb

/-- The exponent of one unit in its last place. -/
def FpFmt.unitExp (f : FpFmt) (c : Nat) : Int := f.subExp + (c / 2 ^ f.mb - 1 : Nat)

theorem FpFmt.sig_lt (c : Nat) : f.sig c < 2 ^ (f.mb + 1) := by
  have := Nat.mod_lt c (Nat.two_pow_pos f.mb)
  rw [FpFmt.sig, Nat.pow_succ]
  split <;> omega

/-- A magnitude code is j steps of the exponent above the subnormals and a significand. -/
theorem FpFmt.code_eq (c : Nat) : c = (c / 2 ^ f.mb - 1) * 2 ^ f.mb + f.sig c := by
  have := Nat.div_add_mod' c (2 ^ f.mb)
  rw [FpFmt.sig]
  split
  · next h => rw [h] at this ⊢; omega
  · next h =>
    obtain ⟨j, hj⟩ := Nat.exists_eq_add_one_of_ne_zero h
    rw [hj, Nat.add_mul] at this
    rw [hj, Nat.add_sub_cancel]; omega

theorem FpFmt.sig_ge {c : Nat} (h : c / 2 ^ f.mb ≠ 0) : 2 ^ f.mb ≤ f.sig c := by
  rw [FpFmt.sig, if_neg h]; omega

section
variable {i r : Nat} (hr : r < 2 ^ f.mb)
include hr

theorem FpFmt.exponent_mul_add : (i * 2 ^ f.mb + r) / 2 ^ f.mb = i := by
  rw [Nat.add_comm, Nat.add_mul_div_right _ _ (Nat.two_pow_pos _), Nat.div_eq_of_lt hr, Nat.zero_add]

theorem FpFmt.sig_mul_add : f.sig (i * 2 ^ f.mb + r) = if i = 0 then r else 2 ^ f.mb + r := by
  rw [FpFmt.sig, FpFmt.exponent_mul_add hr, Nat.mul_add_mod_self_right, Nat.mod_eq_of_lt hr]

theorem FpFmt.unitExp_mul_add : f.unitExp (i * 2 ^ f.mb + r) = f.subExp + (i - 1 : Nat) := by
  rw [FpFmt.unitExp, FpFmt.exponent_mul_add hr]

end

/-- The value of the code composed of j and n; with n = 2^(mb+1) the code is of the next exponent's first value. -/
theorem FpFmt.dyadic_sig {j n : Nat} (hn : n ≤ 2 ^ (f.mb + 1)) (hj : j = 0 ∨ 2 ^ f.mb ≤ n) :
    dyadic (f.sig (j * 2 ^ f.mb + n)) (f.unitExp (j * 2 ^ f.mb + n)) = dyadic n (f.subExp + j) := by
  rw [Nat.pow_succ] at hn
  obtain hlt | hge := Nat.lt_or_ge n (2 ^ f.mb)
  · obtain rfl : j = 0 := by omega
    rw [FpFmt.sig_mul_add hlt, FpFmt.unitExp_mul_add hlt, if_pos rfl]
  · obtain ⟨r, rfl⟩ := Nat.exists_eq_add_of_le hge
    obtain hr | hr := Nat.lt_or_ge r (2 ^ f.mb)
    · rw [show j * 2 ^ f.mb + (2 ^ f.mb + r) = (j + 1) * 2 ^ f.mb + r by ring, FpFmt.sig_mul_add hr, FpFmt.unitExp_mul_add hr,
        if_neg (Nat.succ_ne_zero j), Nat.add_sub_cancel]
    · obtain rfl : r = 2 ^ f.mb := by omega
      have h0 : 0 < 2 ^ f.mb := Nat.two_pow_pos _
      rw [show j * 2 ^ f.mb + (2 ^ f.mb + 2 ^ f.mb) = (j + 2) * 2 ^ f.mb + 0 by ring, FpFmt.sig_mul_add h0, FpFmt.unitExp_mul_add h0,
        if_neg (Nat.succ_ne_zero _), Nat.add_zero, show j + 2 - 1 = j + 1 from rfl, Nat.cast_succ, ← Int.add_assoc, ← Nat.cast_one,
        ← dyadic_shift, Nat.shiftLeft_eq]
      congr 1; ring

/-! ### The decoder -/

theorem fpMaxCode_lt : fpMaxCode f < 2 ^ (f.eb + f.mb) := by
  have h0 := Nat.two_pow_pos (f.eb + f.mb)
  have hle : (2 ^ f.eb - 1) * 2 ^ f.mb ≤ 2 ^ (f.eb + f.mb) := by rw [Nat.pow_add]; exact Nat.mul_le_mul_right _ (Nat.sub_le _ _)
  unfold fpMaxCode
  split
  · rw [Nat.shiftLeft_eq]; omega
  · omega
  · omega

theorem fpMaxCode_normal (hf : f.proper = true) : fpMaxCode f / 2 ^ f.mb ≠ 0 := by
  obtain ⟨heb, hmb⟩ : 2 ≤ f.eb ∧ 1 ≤ f.mb := by simpa [FpFmt.proper] using hf
  have hA : 2 ^ 2 ≤ 2 ^ f.eb := Nat.pow_le_pow_right (by decide) heb
  have hB : 2 ^ 1 ≤ 2 ^ f.mb := Nat.pow_le_pow_right (by decide) hmb
  have hAB : 3 * 2 ^ f.mb ≤ (2 ^ f.eb - 1) * 2 ^ f.mb := Nat.mul_le_mul_right _ (by omega)
  have hAB' : 4 * 2 ^ f.mb ≤ 2 ^ f.eb * 2 ^ f.mb := Nat.mul_le_mul_right _ hA
  refine (Nat.div_pos ?_ (Nat.two_pow_pos _)).ne'
  unfold fpMaxCode
  split
  · rw [Nat.shiftLeft_eq]; omega
  · rw [Nat.pow_add]; omega
  · rw [Nat.pow_add]; omega

/-- No code up to the largest finite one is an infinity or a NaN. -/
theorem finite_of_le_fpMaxCode {c : Nat} (hf : f.proper = true) (hc : c ≤ fpMaxCode f) :
    ¬ (f.kind = .ieee ∧ c / 2 ^ f.mb = 2 ^ f.eb - 1) ∧
    ¬ (f.kind = .nanOnly ∧ c / 2 ^ f.mb = 2 ^ f.eb - 1 ∧ c % 2 ^ f.mb = 2 ^ f.mb - 1) := by
  obtain ⟨heb, -⟩ : 2 ≤ f.eb ∧ 1 ≤ f.mb := by simpa [FpFmt.proper] using hf
  have hA : 2 ^ 2 ≤ 2 ^ f.eb := Nat.pow_le_pow_right (by decide) heb
  have hB := Nat.two_pow_pos f.mb
  have hdiv := Nat.div_add_mod' c (2 ^ f.mb)
  constructor
  · rintro ⟨hk, he⟩
    have hpos : 0 < (2 ^ f.eb - 1) * 2 ^ f.mb := Nat.mul_pos (by omega) hB
    rw [fpMaxCode, hk, Nat.shiftLeft_eq] at hc
    rw [he] at hdiv
    dsimp only at hc
    omega
  · rintro ⟨hk, he, hm⟩
    have hAB : (2 ^ f.eb - 1) * 2 ^ f.mb + 2 ^ f.mb = 2 ^ (f.eb + f.mb) := by
      rw [Nat.pow_add, ← Nat.succ_mul, Nat.succ_eq_add_one, Nat.sub_add_cancel (by omega)]
    rw [fpMaxCode, hk] at hc
    rw [he, hm] at hdiv
    have hmul := Nat.mul_le_mul (show 1 ≤ 2 ^ f.eb - 1 by omega) hB
    dsimp only at hc
    omega

theorem fpSign_eq (neg : Bool) : fpSign f neg = neg.toNat * 2 ^ (f.eb + f.mb) := by
  cases neg
  · exact (Nat.zero_mul _).symm
  · exact (Nat.one_mul _).symm

/-- The fields of a magnitude code with its sign. -/
theorem fields_fpSign_add {c : Nat} (hc : c < 2 ^ (f.eb + f.mb)) (neg : Bool) :
    (fpSign f neg + c) / 2 ^ (f.eb + f.mb) % 2 = neg.toNat ∧ (fpSign f neg + c) / 2 ^ f.mb % 2 ^ f.eb = c / 2 ^ f.mb ∧
    (fpSign f neg + c) % 2 ^ f.mb = c % 2 ^ f.mb := by
  have hex : c / 2 ^ f.mb < 2 ^ f.eb := by rwa [Nat.div_lt_iff_lt_mul (Nat.two_pow_pos _), ← Nat.pow_add]
  have hassoc : neg.toNat * 2 ^ (f.eb + f.mb) = neg.toNat * 2 ^ f.eb * 2 ^ f.mb := by rw [Nat.pow_add, Nat.mul_assoc]
  rw [fpSign_eq]
  refine ⟨?_, ?_, ?_⟩
  · rw [Nat.add_comm, Nat.add_mul_div_right _ _ (Nat.two_pow_pos _), Nat.div_eq_of_lt hc, Nat.zero_add,
      Nat.mod_eq_of_lt (Bool.toNat_lt neg)]
  · rw [hassoc, Nat.add_comm, Nat.add_mul_div_right _ _ (Nat.two_pow_pos _), Nat.add_mul_mod_self_right, Nat.mod_eq_of_lt hex]
  · rw [hassoc, Nat.mul_add_mod_self_right]

/-- A code of a finite value, with its sign, decodes to its significand and exponent. -/
theorem fpDec_fpSign_add {c : Nat} (hf : f.proper = true) (hc : c ≤ fpMaxCode f) (neg : Bool) :
    fpDec f (fpSign f neg + c) = .fin neg (f.sig c) (f.unitExp c) := by
  obtain ⟨hs, he, hm⟩ := fields_fpSign_add (hc.trans_lt fpMaxCode_lt) neg
  obtain ⟨hieee, hnan⟩ := finite_of_le_fpMaxCode hf hc
  simp only [fpDec, Nat.shiftRight_eq_div_pow, hs, he, hm, if_neg hieee, if_neg hnan]
  have hneg : decide (neg.toNat = 1) = neg := by cases neg <;> rfl
  rw [hneg, FpFmt.sig, FpFmt.unitExp, FpFmt.subExp]
  split
  · next h => rw [h]; congr 1; omega
  · next h => congr 1; omega

/-- Whatever decodes to a finite value has a significand of the format's width, at an exponent no lower than the subnormals'. -/
theorem fpDec_fin {c m : Nat} {neg : Bool} {e : Int} (h : fpDec f c = .fin neg m e) : m < 2 ^ (f.mb + 1) ∧ f.subExp ≤ e := by
  have hm := Nat.mod_lt c (Nat.two_pow_pos f.mb)
  unfold fpDec at h
  rw [Nat.pow_succ, FpFmt.subExp]
  dsimp only at h
  split_ifs at h with _ _ _ h0
  · obtain ⟨-, rfl, rfl⟩ := Fp.fin.inj h; omega
  · obtain ⟨-, rfl, rfl⟩ := Fp.fin.inj h; omega

end Sys2Proof.Machine
end

section
/-!
SUPPORT. What round-to-nearest-even gives in a format: the unit that a value is rounded to, the code formed, the bound that
keeps it from overflowing, and that no finite value of the format is nearer.
-/

namespace Sys2Proof.Machine

variable {f : FpFmt}

/-- x rounds in the format to n units in the j-th exponent above the subnormals' own. -/
structure FpFmt.Rounds (f : FpFmt) (x : ℚ) (j n : Nat) : Prop where
  near : RoundedTo x (2 ^ (f.subExp + j)) n
  lt : x < dyadic (2 ^ (f.mb + 1)) (f.subExp + j)
  normal : j = 0 ∨ dyadic (2 ^ f.mb) (f.subExp + j) ≤ x

section
variable {x : ℚ} {j n : Nat} (h : f.Rounds x j n)
include h

theorem FpFmt.Rounds.le : n ≤ 2 ^ (f.mb + 1) := h.near.le_of_lt (two_zpow_pos _) h.lt

theorem FpFmt.Rounds.ge : j = 0 ∨ 2 ^ f.mb ≤ n := h.normal.imp_right (h.near.ge_of_ge (two_zpow_pos _))

/-- No finite value of the format is nearer than the one rounded to, and its significand is even where another is as near:
values at this unit or above are whole units, and those below the unit are below every normal value, as x is not. -/
theorem FpFmt.Rounds.nearest {c m : Nat} {neg : Bool} {e : Int} (hc : fpDec f c = .fin neg m e) (neg' : Bool) :
    let r := dyadic n (f.subExp + j)
    let y := signedDyadic neg' m e
    |x - r| ≤ |x - y| ∧ (|x - r| = |x - y| → y ≠ r → n % 2 = 0) := by
  obtain ⟨hm, he⟩ := fpDec_fin hc
  have hnear := h.near.nearest (two_zpow_pos _)
  dsimp only
  obtain hge | hlt := le_or_gt (f.subExp + j) e
  · rw [← alignTo_mul hge]
    exact hnear _
  · have hx : dyadic (2 ^ f.mb) (f.subExp + j) ≤ x := h.normal.resolve_left (by rintro rfl; omega)
    have hy : signedDyadic neg' m e < dyadic (2 ^ f.mb) (f.subExp + j) :=
      calc signedDyadic neg' m e ≤ dyadic m e := signedDyadic_le neg' m e
        _ < dyadic (2 ^ (f.mb + 1)) e := dyadic_lt_dyadic hm e
        _ ≤ dyadic (2 ^ f.mb) (f.subExp + j) := by
          rw [dyadic_two_pow, dyadic_two_pow]; exact zpow_le_zpow_right₀ one_le_two (by push_cast; omega)
    have hgap : |x - n * 2 ^ (f.subExp + j)| < |x - signedDyadic neg' m e| :=
      calc |x - n * 2 ^ (f.subExp + j)| ≤ |x - dyadic (2 ^ f.mb) (f.subExp + j)| := (hnear (2 ^ f.mb : Nat)).1
        _ < |x - signedDyadic neg' m e| := by
          rw [abs_of_nonneg (sub_nonneg.mpr hx), abs_of_nonneg (sub_nonneg.mpr (hy.le.trans hx))]; linarith
    exact ⟨hgap.le, fun heq => absurd heq hgap.ne⟩

/-- A value below the largest finite one and half a unit rounds to a code no larger than that one's. -/
theorem FpFmt.Rounds.code_le (hf : f.proper = true)
    (hx : x < dyadic (2 * f.sig (fpMaxCode f) + 1) (f.unitExp (fpMaxCode f) - 1)) : j * 2 ^ f.mb + n ≤ fpMaxCode f := by
  have hcode := f.code_eq (fpMaxCode f)
  have hsig := f.sig_lt (fpMaxCode f)
  have hge := FpFmt.sig_ge (fpMaxCode_normal hf)
  have hle := h.le
  rw [FpFmt.unitExp] at hx
  rw [Nat.pow_succ] at hsig hle
  by_contra! hgt
  generalize fpMaxCode f / 2 ^ f.mb - 1 = jm at hx hcode
  generalize f.sig (fpMaxCode f) = mm at hx hcode hsig hge
  obtain hj | rfl | hj := lt_trichotomy j jm
  · have := Nat.mul_le_mul_right (2 ^ f.mb) (Nat.succ_le_of_lt hj)
    rw [Nat.succ_mul] at this; omega
  · have hn : (mm : ℚ) + 1 ≤ n := by exact_mod_cast (show mm + 1 ≤ n by omega)
    have hu := mul_le_mul_of_nonneg_right hn (two_zpow_pos (f.subExp + j)).le
    rw [dyadic, zpow_sub_one₀ two_ne_zero] at hx
    push_cast at hx
    linarith [h.near.within.2]
  · have hxj := h.normal.resolve_left (by omega)
    have hmax : dyadic (2 * mm + 1) (f.subExp + jm - 1) ≤ dyadic (2 ^ f.mb) (f.subExp + j) :=
      calc dyadic (2 * mm + 1) (f.subExp + jm - 1) ≤ dyadic (2 ^ (f.mb + 2)) (f.subExp + jm - 1) :=
            dyadic_le_dyadic (by rw [Nat.pow_add]; omega) _
        _ ≤ dyadic (2 ^ f.mb) (f.subExp + j) := by
          rw [dyadic_two_pow, dyadic_two_pow]; exact zpow_le_zpow_right₀ one_le_two (by push_cast; omega)
    exact absurd (hmax.trans hxj) (not_le.mpr hx)

end

/-! ### The conversion -/

/-- The exponent of the unit that m × 2^e is rounded to. -/
def FpFmt.roundExp (f : FpFmt) (m : Nat) (e : Int) : Int := max ((Nat.log2 m : Int) + e) (1 - (f.bias : Int)) - f.mb

/-- The number of those units. -/
def FpFmt.roundSig (f : FpFmt) (m : Nat) (e : Int) : Nat :=
  if f.roundExp m e ≤ e then m <<< (e - f.roundExp m e).toNat else roundShift .rne m (f.roundExp m e - e).toNat

/-- How far that exponent is above the subnormals' own. -/
def FpFmt.roundStep (f : FpFmt) (m : Nat) (e : Int) : Nat := (f.roundExp m e - f.subExp).toNat

theorem FpFmt.roundExp_eq (m : Nat) (e : Int) : f.roundExp m e = f.subExp + f.roundStep m e := by
  rw [FpFmt.roundStep, FpFmt.roundExp, FpFmt.subExp]; omega

theorem FpFmt.roundedTo_roundSig (m : Nat) (e : Int) : RoundedTo (dyadic m e) (2 ^ f.roundExp m e) (f.roundSig m e) := by
  rw [FpFmt.roundSig]
  split
  · next h => rw [dyadic_eq_shiftLeft h]; exact roundedTo_exact (two_zpow_pos _) _
  · next h =>
    have hq : (2 : ℚ) ^ f.roundExp m e = ((2 ^ (f.roundExp m e - e).toNat : Nat) : ℚ) * 2 ^ e := by
      rw [Nat.cast_pow, Nat.cast_ofNat, ← zpow_natCast, ← zpow_add₀ two_ne_zero]; congr 1; omega
    rw [hq]
    exact (roundShift_rne m _).mul (two_zpow_pos e)

/-- A number that is not 0 lies between two powers of two. -/
theorem dyadic_log2 {m : Nat} (hm : m ≠ 0) (e : Int) :
    (2 : ℚ) ^ ((Nat.log2 m : Int) + e) ≤ dyadic m e ∧ dyadic m e < 2 ^ ((Nat.log2 m : Int) + e + 1) := by
  constructor
  · rw [Int.add_comm, ← dyadic_two_pow]; exact dyadic_le_dyadic (Nat.log2_self_le hm) e
  · rw [Int.add_comm _ e, Int.add_assoc, ← Nat.cast_succ, ← dyadic_two_pow]; exact dyadic_lt_dyadic Nat.lt_log2_self e

/-- The unit is such that a value that is not 0 takes the format's significand. -/
theorem FpFmt.rounds_roundSig {m : Nat} (hm : m ≠ 0) (e : Int) : f.Rounds (dyadic m e) (f.roundStep m e) (f.roundSig m e) := by
  obtain ⟨hle, hlt⟩ := dyadic_log2 hm e
  have hq := f.roundExp_eq m e
  have hd : f.roundExp m e = max ((Nat.log2 m : Int) + e) (1 - (f.bias : Int)) - f.mb := rfl
  have hs : f.subExp = 1 - (f.bias : Int) - f.mb := rfl
  refine ⟨hq ▸ f.roundedTo_roundSig m e, ?_, ?_⟩
  · rw [dyadic_two_pow]
    exact hlt.trans_le (zpow_le_zpow_right₀ one_le_two (by push_cast; omega))
  · rw [or_iff_not_imp_left, dyadic_two_pow]
    exact fun hj => (zpow_le_zpow_right₀ one_le_two (by omega)).trans hle

theorem fpMag_code {m : Nat} (hm : m ≠ 0) (e : Int) : (fpMag f .rne m e).code = f.roundStep m e * 2 ^ f.mb + f.roundSig m e := by
  have hr := FpFmt.rounds_roundSig (f := f) hm e
  have hq := f.roundExp_eq m e
  have hle := hr.le
  have hge := hr.ge
  have hd : f.roundSig m e = if f.roundExp m e ≤ e then m <<< (e - f.roundExp m e).toNat
    else roundShift .rne m (f.roundExp m e - e).toNat := rfl
  have hE : max ((Nat.log2 m : Int) + e) (1 - (f.bias : Int)) - f.mb = f.roundExp m e := rfl
  have hfield : (f.roundExp m e + f.mb + f.bias).toNat = f.roundStep m e + 1 ∧
      (f.roundExp m e + 1 + f.mb + f.bias).toNat = f.roundStep m e + 2 := by rw [hq, FpFmt.subExp]; omega
  rw [Nat.pow_succ] at hle
  simp only [fpMag, if_neg hm, hE, ← hd]
  rw [Nat.pow_succ, Nat.shiftLeft_eq]
  by_cases htop : f.roundSig m e = 2 ^ f.mb * 2
  · simp only [if_pos htop, lt_irrefl, if_false, hfield.2, Nat.add_mul]
    omega
  · simp only [if_neg htop, hfield.1, Nat.add_mul]
    split
    · next hsub => rw [hge.resolve_right (not_le.mpr hsub), Nat.zero_mul, Nat.zero_add]
    · omega

/-- The bound of R98 is that of the largest finite value. -/
theorem fpMag_ovf {m : Nat} (hf : f.proper = true) (hm : m ≠ 0) (e : Int) :
    (fpMag f .rne m e).ovf = dyGe m e (2 * f.sig (fpMaxCode f) + 1) (f.unitExp (fpMaxCode f) - 1) := by
  have hmax : fpDec f (fpMaxCode f) = .fin false (f.sig (fpMaxCode f)) (f.unitExp (fpMaxCode f)) := by
    simpa [fpSign] using fpDec_fpSign_add hf le_rfl false
  simp only [fpMag, if_neg hm, hmax]

theorem FpFmt.rounds_zero (e : Int) : f.Rounds (dyadic 0 e) 0 0 := by
  have h0 : dyadic 0 e = (0 : Nat) * 2 ^ (f.subExp + (0 : Nat)) := by simp [dyadic]
  refine ⟨h0 ▸ roundedTo_exact (two_zpow_pos _) 0, ?_, .inl rfl⟩
  rw [h0, dyadic_two_pow, Nat.cast_zero, zero_mul]
  exact two_zpow_pos _

/-- A value that does not overflow: the code formed is finite, and it is what the value rounds to. -/
theorem exists_rounds_of_fpMag {m : Nat} {e : Int} (hf : f.proper = true) (ho : (fpMag f .rne m e).ovf = false) :
    ∃ j n, (fpMag f .rne m e).code = j * 2 ^ f.mb + n ∧ j * 2 ^ f.mb + n ≤ fpMaxCode f ∧ f.Rounds (dyadic m e) j n := by
  obtain rfl | hm := eq_or_ne m 0
  · exact ⟨0, 0, by simp [fpMag], by simp, FpFmt.rounds_zero e⟩
  · have hr := FpFmt.rounds_roundSig (f := f) hm e
    rw [fpMag_ovf hf hm, ← Bool.not_eq_true, dyGe_iff, not_le] at ho
    exact ⟨_, _, fpMag_code hm e, hr.code_le hf ho, hr⟩

theorem fpEnc_code {m : Nat} {e : Int} (ho : (fpMag f .rne m e).ovf = false) (neg sat : Bool) :
    (fpEnc f .rne sat (.fin neg m e)).code = fpSign f neg + (fpMag f .rne m e).code := by
  simp [fpEnc, ho]

end Sys2Proof.Machine
end

section
/-!
PROOF. The statement about conversions: what R96 and R98 make of a finite value that does not overflow.
-/

namespace Sys2Proof.Machine

/-- Two signed numbers stand as far apart as the first without its sign and the second with its sign relative to that. -/
theorem abs_signedDyadic_sub (neg neg' : Bool) (m m' : Nat) (e e' : Int) :
    |signedDyadic neg m e - signedDyadic neg' m' e'| = |dyadic m e - signedDyadic (neg ^^ neg') m' e'| := by
  cases neg
  · rw [Bool.false_xor]; rfl
  · have hflip : signedDyadic true m e - signedDyadic neg' m' e' = -(dyadic m e - signedDyadic (true ^^ neg') m' e') := by
      cases neg'
      · simp [signedDyadic]; ring
      · simp [signedDyadic]; ring
    rw [hflip, abs_neg]

/-- The distance of two aligned mantissas, in units of the common exponent. -/
theorem natAbs_alignTo_sub {e e' e0 : Int} (h : e0 ≤ e) (h' : e0 ≤ e') (neg neg' : Bool) (m m' : Nat) :
    ((alignTo neg m e e0 - alignTo neg' m' e' e0).natAbs : ℚ) * 2 ^ e0 = |dyadic m e - signedDyadic (neg ^^ neg') m' e'| := by
  rw [← abs_signedDyadic_sub, ← alignTo_mul h, ← alignTo_mul h', ← sub_mul, abs_mul, abs_of_pos (two_zpow_pos e0), Nat.cast_natAbs,
    Int.cast_abs, Int.cast_sub]

/-- A code is even where its significand is. -/
theorem code_mod_two {f : FpFmt} (hf : f.proper = true) (neg : Bool) (j n : Nat) : (fpSign f neg + (j * 2 ^ f.mb + n)) % 2 = n % 2 := by
  obtain ⟨-, hmb⟩ : 2 ≤ f.eb ∧ 1 ≤ f.mb := by simpa [FpFmt.proper] using hf
  have hB : 2 ∣ 2 ^ f.mb := dvd_pow_self 2 (by omega)
  have hAB : 2 ∣ 2 ^ (f.eb + f.mb) := dvd_pow_self 2 (by omega)
  have hs : 2 ∣ fpSign f neg := by rw [fpSign_eq]; exact hAB.mul_left _
  have hj : 2 ∣ j * 2 ^ f.mb := hB.mul_left _
  omega

/-- A format of Table 5.1 converts to nearest even. -/
theorem roundsToNearest_of_proper {f : FpFmt} (hf : f.proper = true) (neg sat : Bool) (m : Nat) (e : Int)
    (ho : (fpMag f .rne m e).ovf = false) :
      ∃ nm ne, fpDec f (fpEnc f .rne sat (.fin neg m e)).code = .fin neg nm ne ∧
        ∀ c yn ym ye, c < 2 ^ f.width → fpDec f c = .fin yn ym ye → ∀ e0 : Int, e0 ≤ e → e0 ≤ ne → e0 ≤ ye →
          let x := alignTo neg m e e0
          let r := alignTo neg nm ne e0
          let y := alignTo yn ym ye e0
          (x - r).natAbs ≤ (x - y).natAbs ∧
            ((x - r).natAbs = (x - y).natAbs → r ≠ y → (fpEnc f .rne sat (.fin neg m e)).code % 2 = 0) := by
  obtain ⟨j, n, hcode, hmax, hr⟩ := exists_rounds_of_fpMag hf ho
  rw [fpEnc_code ho, hcode, code_mod_two hf]
  refine ⟨_, _, fpDec_fpSign_add hf hmax neg, fun c yn ym ye _ hc e0 he hne hye => ?_⟩
  have hxr := natAbs_alignTo_sub he hne neg neg m (f.sig (j * 2 ^ f.mb + n))
  have hxy := natAbs_alignTo_sub he hye neg yn m ym
  have hry := natAbs_alignTo_sub hne hye neg yn (f.sig (j * 2 ^ f.mb + n)) ym
  have hnear := hr.nearest hc (neg ^^ yn)
  rw [Bool.xor_self, signedDyadic, if_neg Bool.false_ne_true] at hxr
  rw [← FpFmt.dyadic_sig hr.le hr.ge] at hnear
  obtain ⟨hle, heven⟩ := hnear
  rw [← hxr, ← hxy] at hle heven
  refine ⟨Nat.cast_le.mp (le_of_mul_le_mul_right hle (two_zpow_pos e0)), fun heq hne => heven (by rw [heq]) fun hy => hne ?_⟩
  rw [hy, sub_self, abs_zero, mul_eq_zero_iff_right (two_zpow_pos e0).ne', Nat.cast_eq_zero, Int.natAbs_eq_zero] at hry
  exact sub_eq_zero.mp hry

/-- Settles O60: a value that does not overflow rounds to whole units of its exponent, and no finite value of the format is nearer. -/
theorem roundsToNearest : Obligations.RoundsToNearest := by
  intro f hf neg sat m e ho
  have hp : ∀ f ∈ [fmtFp32, fmtBf16, fmtE4m3, fmtE5m2, fmtE2m3, fmtE3m2, fmtE2m1], f.proper = true := by decide
  exact roundsToNearest_of_proper (hp f hf) neg sat m e ho

end Sys2Proof.Machine
end

section
/-!
SUPPORT. A device whose image lists more channels than there are token registers (R52 allows 4,096): the done token of its
member is posted on a channel whose token register would stand on UPD_BANK.
-/

namespace Sys2Proof.Machine

/-- The channel whose token register would stand on UPD_BANK. -/
def bankChannel : Nat := 8380418

theorem IMG_CHAN_bankChannel : R.IMG_CHAN bankChannel = R.UPD_BANK := rfl

/-- An image at 0 with one section: CHANNELS at 0x1000, of 2^23 entries, all 0 but that of `bankChannel`, a DATA channel that the
commit unit produces. -/
def strayCells : List Host.Cell :=
  let put (st : List Host.Cell) (a : Nat) (bs : List Byte) : List Host.Cell := stPut (fun _ => 0) st a bs
  put (put (put (put [] 0xA [1]) 0x100 (leBytes 8 (5 + 0x1000 * 2 ^ 32))) 0x1000 (leBytes 4 (2 ^ 23))) (0x1004 + 16 * bankChannel)
    (leBytes 16 (1 + 0x5000 * 2 ^ 32))

theorem stRange_strayCells {a : Nat} (h : 0x1004 ≤ a) (h' : a + 16 ≤ 0x1004 + 16 * bankChannel) :
    stRange (fun _ => (0 : Byte)) strayCells a 16 = List.replicate 16 0 := by
  rw [strayCells, stRange_stPut_ne _ _ _ _ _ _ (.inl h'), stRange_stPut_ne _ _ _ _ _ _ (.inr (by rw [length_leBytes]; omega)),
    stRange_stPut_ne _ _ _ _ _ _ (.inr (by rw [length_leBytes]; omega)), stRange_stPut_ne _ _ _ _ _ _ (.inr (by rw [List.length_singleton]; omega))]
  simp only [stRange, stGet, List.replicate]

section
variable {d : Dev} (hc : d.hbm.cells = strayCells) (hr : d.img.regions = []) (hs : d.sec 5 = some 0x1000)
include hc hr

/-- Without regions no window moves what the device reads in place. -/
theorem Dev.peekNat_stray (a n : Nat) : d.peekNat a n = leNat (stRange (fun _ => (0 : Byte)) strayCells a n) := by
  have ht : d.tagged 1 = none := by rw [Dev.tagged, hr]; rfl
  have ha : d.bankAddr a = a := by simp only [Dev.bankAddr, ht]
  rw [Dev.peekNat, Dev.peek, Dev.hbmBytes, ha, hc]

include hs

theorem Dev.chan_stray (c : Nat) : d.chan c = leNat (stRange (fun _ => (0 : Byte)) strayCells (0x1004 + 16 * c) 16) := by
  rw [Dev.chan, Dev.secEntry, hs, Option.elim_some, Dev.peekNat_stray hc hr]

/-- Every channel before it has no producer. -/
theorem Dev.chan_stray_lt {c : Nat} (h : c < bankChannel) : d.chan c = 0 := by
  rw [Dev.chan_stray hc hr hs, stRange_strayCells (by omega) (by omega)]
  rfl

theorem Dev.secCount_stray : d.secCount 5 = 2 ^ 23 := by
  rw [Dev.secCount, hs, Option.elim_some, Dev.peekNat_stray hc hr]
  decide +kernel

theorem Dev.chanFrom_stray : d.chanFrom 5 = some bankChannel := by
  have hlast : bits (chanProducer (d.chan bankChannel)) 15 12 = 5 := by
    rw [Dev.chan_stray hc hr hs]; decide +kernel
  rw [Dev.chanFrom, List.find?_range_eq_some, Dev.secCount_stray hc hr hs]
  refine ⟨decide_eq_true hlast, List.mem_range.mpr (by decide), fun c hlt => ?_⟩
  rw [Dev.chan_stray_lt hc hr hs hlt]
  rfl

end

/-- What a skipped step does before its done token. -/
def Dev.midnightSkip (d : Dev) : Dev :=
  let e := (((d.scaleMidnight true).clearWatch).stepEnded d.nextStep 2).set R.UPD_COMMIT_STATUS_OUTCOME 2
  let e := e.set R.UPD_COMMIT_STATUS_STATE 0
  (e.set R.AGX_VER_5_LAST_MIDNIGHT e.beatNow).count R.UPD_OUTCOMES_SKIPS 1

theorem Dev.midnightApply_skip {d : Dev} (h : d.upd.skip = true) : d.midnightApply = d.midnightSkip.doneToken := by
  rw [Dev.midnightApply, h]; rfl

/-- Such a device at live step 5, whose step is to be skipped. -/
def strayDev : Dev :=
  let d := (Dev.reset.set R.IMG_STATUS_IMAGE_STATE 1).set R.UPD_BANK_LIVE_STEP 5
  { d with hbm := { d.hbm with cells := strayCells }, upd := { d.upd with skip := true } }

theorem strayDev_midnightApply : strayDev.midnightApply = strayDev.midnightSkip.post bankChannel 1 := by
  have hf : strayDev.midnightSkip.chanFrom 5 = some bankChannel :=
    Dev.chanFrom_stray (by decide +kernel) (by decide +kernel) (by decide +kernel)
  rw [Dev.midnightApply_skip (by decide +kernel), Dev.doneToken, hf, Option.elim_some]

end Sys2Proof.Machine
end

section
/-!
PROOF. The statement about what a MIDNIGHT applies fails.
-/

namespace Sys2Proof.Machine

/-- Refutes O38: where the image lists a channel number beyond the 4,096 that R52 allows, the done token's channel register can be
UPD_BANK itself, and the post of a skipped step changes LIVE_STEP from 5 to 0. -/
theorem not_midnightApplies : ¬ Obligations.MidnightApplies := by
  intro h
  obtain ⟨-, -, hskip⟩ := h strayDev
  obtain ⟨-, hstep, -⟩ := hskip (by decide +kernel)
  have h5 : strayDev.get R.UPD_BANK_LIVE_STEP = 5 := by decide +kernel
  have h0 : (strayDev.midnightSkip.post bankChannel 1).get R.UPD_BANK_LIVE_STEP = 0 := by decide +kernel
  rw [strayDev_midnightApply, h0, h5] at hstep
  exact absurd hstep (by decide)

end Sys2Proof.Machine
end

section
/-!
SUPPORT. The member of a commit (Table 13.7): its vote, the messages it takes, and the stores to UPD_COMMIT_CTL and UPD_BANK_CTL.
-/

namespace Sys2Proof.Machine

/-! ### The vote (R256, R278) -/

section
variable {d : Dev} (hv : d.voteWaiting = true)
include hv

/-- A vote that is due waits for the deferred queue, which becomes urgent. -/
theorem Dev.tryVote_queue (hq : d.wgqUsed ≠ []) : d.tryVote = d.urgentAll := by
  have hne : d.wgqUsed.isEmpty = false := List.isEmpty_eq_false_iff.mpr hq
  simp only [Dev.tryVote, hv, hne, Bool.not_true, Bool.false_eq_true, if_false, Bool.not_false, if_true]

/-- With the queue empty a vote that a store asked for is sent. -/
theorem Dev.tryVote_send (hq : d.wgqUsed = []) (hr : d.upd.voteReq = true) : d.tryVote =
    let e := ({ d with upd := { d.upd with voteReq := false } } : Dev).set R.UPD_COMMIT_STATUS_STATE 1
    ({ e with upd := { e.upd with midStep := none, abortStep := none } } : Dev).sendVote := by
  simp only [Dev.tryVote, hv, hq, hr, List.isEmpty_nil, Bool.not_true, Bool.false_eq_true, if_false, if_true]
  rfl

end

/-! ### Messages (R277, R280, R282) -/

/-- The first message, from a device of the set and with this device's scale, is handed to its row. -/
theorem Dev.takeMsg_head {d : Dev} {m : CommitMsg} {rest : List CommitMsg} (hb : d.upd.box = m :: rest)
    (hs : d.commitSet.contains m.sender = true) (hc : m.scale = d.get R.UPD_SCALE_S) (f : Dev → CommitMsg → Dev) :
    d.takeMsg m.kind f = f { d with upd := { d.upd with box := rest } } m := by
  have hs' : ({ d with upd := { d.upd with box := rest } } : Dev).commitSet.contains m.sender = true := hs
  have hc' : m.scale = ({ d with upd := { d.upd with box := rest } } : Dev).get R.UPD_SCALE_S := hc
  simp only [Dev.takeMsg, hb, ne_eq, not_true_eq_false, if_false, hs', Bool.not_true, Bool.false_eq_true, ← hc', if_true]

theorem does_takeMsg {s : State} {c : Instr} {m : CommitMsg} {rest : List CommitMsg} {kind : Nat} {f : Dev → CommitMsg → Dev} {e : Dev}
    (h : exec c s = run s fun d => d.takeMsg kind f) (hb : s.dev.upd.box = m :: rest) (hs : s.fresh.commitSet.contains m.sender = true)
    (hc : m.scale = s.dev.get R.UPD_SCALE_S) (hk : m.kind = kind) (he : f { s.fresh with upd := { s.dev.upd with box := rest } } m = e) :
    Does c s e := by
  subst hk
  exact does_run h ((Dev.takeMsg_head (d := s.fresh) hb hs hc f).trans he)

section
variable {d : Dev} {m : CommitMsg}

theorem Dev.onMidnight_decided (h : d.decided m.step = true) : d.onMidnight m = d.count R.UPD_ABORTS_DISCARDED 1 := if_pos h

/-- The MIDNIGHT of the step voted for, before its beat: the member is SCHEDULED and passes the message on. -/
theorem Dev.onMidnight_taken (h : d.decided m.step = false) (hs : d.commitState = 1) (hn : m.step = d.nextStep)
    (hl : beatGe d.beatNow m.beat = false) : d.onMidnight m =
      let e := (d.set R.UPD_COMMIT_STATUS_STATE 2).set R.UPD_COMMIT_STATUS_M_BEAT m.beat
      let e : Dev := { e with upd := { e.upd with skip := m.flags.testBit 0, late := false, midStep := some m.step } }
      (e.commitSet.filter fun x => x ≠ e.id).foldl (fun (d : Dev) x => d.sendCommit x 2 m.flags m.step m.beat m.scale) e := by
  have hok : ¬ (d.commitState ≠ 1 ∨ m.step ≠ d.nextStep) := by rintro (h1 | h2); exacts [h1 hs, h2 hn]
  simp only [Dev.onMidnight, h, if_neg hok, hl, Bool.false_eq_true, if_false]

/-- An ABORT of the step: the member is IDLE and the step has ended. -/
theorem Dev.onAbort_taken (h : d.decided m.step = false) (hs : d.commitState = 1 ∨ d.commitState = 0 ∧ m.src = d.coord)
    (hn : m.step = d.nextStep) : d.onAbort m =
      let e := (d.clearWatch.set R.UPD_COMMIT_STATUS_STATE 0).set R.UPD_COMMIT_STATUS_OUTCOME 3
      let e : Dev := { e with upd := { e.upd with abortStep := some m.step } }
      ((e.stepEnded m.step 3).count R.UPD_ABORTS_ABORTS 1).doneToken := by
  rw [Dev.onAbort, if_neg (ne_true_of_eq_false h), if_pos ⟨hs, hn⟩]

theorem Dev.onRelease_taken (h : m.step = d.get R.UPD_BANK_LIVE_STEP) : d.onRelease m = d.set R.UPD_RET_RET_VALID 0 := if_pos h

end

/-! ### Stores (R276, R278) -/

/-- A value with its second bit from the top set. -/
theorem topped_on62 {f : Fld} {v : Nat} (h : f.IsBit 62) (hv : v < 2 ^ 64) : Topped v (v.testBit 63) true (f.on v) where
  lt := h.on_lt hv (by decide)
  bit63 := by rw [h.testBit_on]; exact Bool.or_false _
  bit62 := by rw [h.testBit_on]; exact Bool.or_true _
  low _ _ hi hl := h.bits_on v hi hl

section
variable {d : Dev} {v : Nat}

/-- VOTE alone with the queue empty: a vote is asked for. -/
theorem Dev.commitCtlWrite_vote (h63 : v.testBit 63 = true) (h62 : v.testBit 62 = false) (hq : d.wgqUsed = []) :
    d.commitCtlWrite v = { d with upd := { d.upd with voteReq := true } } := by
  have hq' : ({ d with upd := { d.upd with voteReq := true } } : Dev).wgqUsed = [] := hq
  simp [Dev.commitCtlWrite, h63, h62, hq']

/-- REVOTE alone after the vote: it is sent again. -/
theorem Dev.commitCtlWrite_revote (h63 : v.testBit 63 = false) (h62 : v.testBit 62 = true) (hs : d.get R.UPD_COMMIT_STATUS_STATE = 1) :
    d.commitCtlWrite v = d.sendVote := by
  simp [Dev.commitCtlWrite, Dev.commitState, h63, h62, hs]

/-- FLIP_BACK with SET is refused. -/
theorem Dev.bankCtlWrite_both (h63 : v.testBit 63 = true) (h62 : v.testBit 62 = true) :
    d.bankCtlWrite v = d.raise1 R.UPD_ERR_BANK_REJECT 0 := if_pos ⟨h63, h62⟩

/-- One of them alone waits for the boundary. -/
theorem Dev.bankCtlWrite_one (h : v.testBit 63 = !v.testBit 62) :
    d.bankCtlWrite v = { d with upd := { d.upd with bankCtl := some v } } := by
  cases h62 : v.testBit 62
  · have h63 : v.testBit 63 = true := by rw [h, h62]; rfl
    rw [Dev.bankCtlWrite, if_neg fun h' => Bool.false_ne_true (h62.symm.trans h'.2), if_pos (.inl h63)]
  · have h63 : v.testBit 63 = false := by rw [h, h62]; rfl
    rw [Dev.bankCtlWrite, if_neg fun h' => Bool.false_ne_true (h63.symm.trans h'.1), if_pos (.inr h62)]

end

section
variable {s : State} {c : Instr} {w : Who} {u : Nat} {d : Dev} (hu : u < 2 ^ 64)
include hu

theorem does_commitCtlWrite (h : exec c s = regWrite8 w R.UPD_COMMIT_CTL u s) (ht : s.takes w R.UPD_COMMIT_CTL)
    (hd : s.fresh.commitCtlWrite u = d) : Does c s d :=
  does_write (row := rowsUpd[6]) (ix := []) h ht rfl (by decide) (by decide) hu hd

theorem does_bankCtlWrite (h : exec c s = regWrite8 w R.UPD_BANK_CTL u s) (ht : s.takes w R.UPD_BANK_CTL)
    (hd : s.fresh.bankCtlWrite u = d) : Does c s d :=
  does_write (row := rowsUpd[4]) (ix := []) h ht rfl (by decide) (by decide) hu hd

end

end Sys2Proof.Machine
end

section
/-!
PROOF. The statement about the member of a commit.
-/

namespace Sys2Proof.Machine

/-- Settles O36: each message and each store by what the member does in its state. -/
theorem membersVote : Obligations.MembersVote := by
  intro s
  refine ⟨fun hv hq => does_run (f := Dev.tryVote) rfl (Dev.tryVote_queue hv hq),
    fun hv hq hr => does_run (f := Dev.tryVote) rfl (Dev.tryVote_send hv hq hr),
    fun m rest hb hs hc => ⟨fun hk hd h1 hn hl => ?midnight, fun hk hd => ?again, fun hk hd hst hn => ?abort, fun hk hn => ?release⟩,
    fun h1 ht => ?timeout,
    fun w v hv => ⟨fun ht hq h62 => ?vote, fun ht h63 h1 => ?revote, fun ht h62 => ?flipBack, fun ht h63 => ?setBank, fun ht h62 => ?both⟩⟩
  case midnight => exact does_takeMsg rfl hb hs hc hk (Dev.onMidnight_taken hd h1 hn hl)
  case again => exact does_takeMsg rfl hb hs hc hk (Dev.onMidnight_decided hd)
  case abort => exact does_takeMsg rfl hb hs hc hk (Dev.onAbort_taken hd hst hn)
  case release => exact does_takeMsg rfl hb hs hc hk (Dev.onRelease_taken hn)
  case timeout => exact does_run rfl (if_pos ⟨h1, ht⟩)
  case vote =>
    have t := topped_on63 (f := R.UPD_COMMIT_CTL_VOTE) ⟨rfl, rfl⟩ hv
    rw [bitAt_eq_testBit] at h62
    exact does_commitCtlWrite t.lt rfl ht (Dev.commitCtlWrite_vote t.bit63 (t.bit62.trans h62) hq)
  case revote =>
    have t := topped_on62 (f := R.UPD_COMMIT_CTL_REVOTE) ⟨rfl, rfl⟩ hv
    rw [bitAt_eq_testBit] at h63
    exact does_commitCtlWrite t.lt rfl ht (Dev.commitCtlWrite_revote (t.bit63.trans h63) t.bit62 h1)
  case flipBack =>
    have t := topped_on63 (f := R.UPD_BANK_CTL_FLIP_BACK) ⟨rfl, rfl⟩ hv
    rw [bitAt_eq_testBit] at h62
    exact does_bankCtlWrite t.lt rfl ht (Dev.bankCtlWrite_one (by rw [t.bit63, t.bit62, h62]; rfl))
  case setBank =>
    have t := topped_on62 (f := R.UPD_BANK_CTL_SET) ⟨rfl, rfl⟩ hv
    rw [bitAt_eq_testBit] at h63
    exact does_bankCtlWrite t.lt rfl ht (Dev.bankCtlWrite_one (by rw [t.bit63, t.bit62, h63]; rfl))
  case both =>
    have t := topped_on63 (f := R.UPD_BANK_CTL_FLIP_BACK) ⟨rfl, rfl⟩ hv
    rw [bitAt_eq_testBit] at h62
    exact does_bankCtlWrite t.lt rfl ht (Dev.bankCtlWrite_both t.bit63 (t.bit62.trans h62))

end Sys2Proof.Machine
end

section
/-!
SUPPORT. What the pump makes of a watch that is freed, of the pieces of one window, of the data of a local request and of a page of
a walk (R115, R120, R122, R206, R220).
-/

namespace Sys2Proof.Machine

variable {d : Dev} {t : Nat}

/-! ### Watches and requests -/

/-- A free watch goes to the first stream that waits. -/
theorem Dev.watchGrant_claims {c : Nat}
    (hc : ((d.tile t).served.find? fun c => (d.tile t).streams.any fun m => m.ctx = c ∧ m.waitWatch) = some c)
    (hf : (d.tile t).freeWatch.isSome = true) : d.watchGrant t = (d.setTile t ((d.tile t).claim c)).refreshPump t := by
  simp only [Dev.watchGrant, hc, hf, if_true]

/-- The unit after the pieces gathered have left as one request: its contexts go behind the others. -/
def Pick.sent (k : Pick) (id : Nat) : TileUnit :=
  let grants := (k.pieces.map (·.ctx)).eraseDups
  { k.u with reqs := k.u.reqs ++ [⟨id, k.pieces, false, false, false⟩], nextReq := id + 1,
             order := k.u.order.filter (fun c => !grants.contains c) ++ grants }

/-- Pieces gathered in a window of this device leave as one request, which asks nothing of Agxis. -/
theorem Dev.pieceIssue_local {e : Dev} {k : Pick} {p : Piece} {ps : List Piece} {win : Nat} (hr : d.tileReady t = true)
    (ha : d.alive = true) (he : d.prepare t = e) (hk : e.picks (e.tile t) = k) (hp : k.pieces = p :: ps) (hw : k.win = some win)
    (hd : win * 8192 / 2 ^ 45 = e.id) (hi : (e.flag (R.PUMP_INJECT_ADDR_ERR_NEXT t) && e.testEnable) = false) :
    d.pieceIssue t = (((e.setTile t (k.sent (e.tile t).nextReq)).count (R.PUMP_REQ_REQUESTS t) 1).count (R.PUMP_REQ_MERGED t)
      ps.length).refreshPump t := by
  simp only [Dev.pieceIssue, Pick.sent, hr, ha, he, hk, hp, hw, hd, hi, List.length_cons, Nat.add_sub_cancel, ne_eq, not_true_eq_false,
    decide_false, Bool.not_true, Bool.or_self, Bool.false_eq_true, if_false]

section
variable {r : Nat} {q : PumpReq} (hq : ((d.tile t).reqs.find? fun x => x.id = r) = some q) (hl : q.remote = false)
include hq hl

/-- The data of one piece is read in place and fills its bucket. -/
theorem Dev.pieceArrive_one {p : Piece} {e : Dev} {g : Got} (he : q.err = false) (hp : q.pieces = [p])
    (hr : d.memRead (tileIngress t) (p.addr.getD 0 % 2 ^ 45) p.len = (e, some g)) :
    d.pieceArrive t r = ((e.poisonIn t g p.ctx).setTile t ((e.tile t).fill p.ctx p.bucket p.at_ g)).requestDone t q := by
  simp only [Dev.pieceArrive, hq, hl, he, hp, List.foldl_cons, List.foldl_nil, hr, Bool.not_true, Bool.false_eq_true, if_false, if_true]

/-- A request that was given an address error ends with it. -/
theorem Dev.pieceArrive_err (he : q.err = true) : d.pieceArrive t r = d.requestError t q (R.PUMP_ERR_ADDR t) := by
  simp only [Dev.pieceArrive, hq, hl, he, Bool.false_eq_true, if_false, if_true]

end

/-! ### Pages of a walk -/

section
variable {c pg : Nat} {m : Stream} (hm : ((d.tile t).streams.find? fun m => m.ctx = c) = some m) (hk : sdKind m.desc = 3)
  (hf : m.fault = false) (hw : m.waitWatch = false) (hp : (walkPages m).contains pg = true)
  (ht : (m.trans.any fun x => x.1 = pg) = false)
include hm hk hf hw hp ht

/-- A page of a context that is not bound. -/
theorem Dev.pageTranslate_unbound (hc : d.walkCtx m = none) :
    d.pageTranslate t c pg = (d.raise1 R.KVP_ERR_NO_CTX (bits m.desc 134 128)).formFault t m (.fault 0) := by
  simp only [Dev.pageTranslate, hm, hk, hf, hw, hp, ht, hc, ne_eq, not_true_eq_false, Bool.not_true, Bool.false_eq_true, or_self, if_false]

variable {h : Nat} {x : SeqRec} (hc : d.walkCtx m = some (h, x))
include hc

/-- A page without a frame. -/
theorem Dev.pageTranslate_hole {e : Dev}
    (hx : d.translate t (m.looks.contains pg) h (bits m.desc 142 135) (bits m.desc 150 143) pg = .hole e) :
    d.pageTranslate t c pg = (e.raise1 R.KVP_ERR_WALK_HOLE (bits m.desc 134 128)).formFault t m (.fault 0) := by
  simp only [Dev.pageTranslate, hm, hk, hf, hw, hp, ht, hc, hx, ne_eq, not_true_eq_false, Bool.not_true, Bool.false_eq_true, or_self,
    if_false]

/-- A page with a frame is the stream's; the first that may change claims a watch. -/
theorem Dev.pageTranslate_frame {e : Dev} {f : Nat} {isSealed : Bool}
    (hx : d.translate t (m.looks.contains pg) h (bits m.desc 142 135) (bits m.desc 150 143) pg = .ok e f isSealed) :
    d.pageTranslate t c pg =
      let e := e.setTile t { e.tile t with streams := (e.tile t).streams.map fun y =>
        if y.ctx = c then { y with trans := y.trans ++ [(pg, f, isSealed)], looks := y.looks.filter (· ≠ pg) } else y }
      (if isSealed || sdImm m.desc || m.watch.isSome then e else e.setTile t ((e.tile t).claim c)).refreshPump t := by
  simp only [Dev.pageTranslate, hm, hk, hf, hw, hp, ht, hc, hx, ne_eq, not_true_eq_false, Bool.not_true, Bool.false_eq_true, or_self,
    if_false]

end

end Sys2Proof.Machine
end

section
/-!
PROOF. The statement about watches, requests, their data and page translations.
-/

namespace Sys2Proof.Machine

/-- Settles O24: each command by what the pump finds on its tile. -/
theorem pumpRequests : Obligations.PumpRequests := by
  intro s t
  refine ⟨fun c hc hf => ?grant, fun p ps win hr ha hp hw hd hi => ?issue, fun r q p d g hq hl he hp hr => ?data,
    fun r q hq hl he => ?error, fun c pg m hm hk hf hw hp ht => ⟨fun hc => ?unbound, fun h x hc => ⟨fun d hx => ?hole, fun d f b hx => ?frame⟩⟩⟩
  case grant => exact does_run (f := fun d => d.watchGrant t) rfl (Dev.watchGrant_claims (d := s.fresh) hc hf)
  case issue =>
    have h := Dev.pieceIssue_local (d := s.fresh) hr ha rfl rfl hp hw hd hi
    rw [Pick.sent, hp] at h
    exact does_run (f := fun d => d.pieceIssue t) rfl h
  case data => exact does_run (f := fun d => d.pieceArrive t r) rfl (Dev.pieceArrive_one (d := s.fresh) hq hl he hp hr)
  case error => exact does_run (f := fun d => d.pieceArrive t r) rfl (Dev.pieceArrive_err (d := s.fresh) hq hl he)
  case unbound =>
    exact does_run (f := fun d => d.pageTranslate t c pg) rfl (Dev.pageTranslate_unbound (d := s.fresh) hm hk hf hw hp ht hc)
  case hole =>
    exact does_run (f := fun d => d.pageTranslate t c pg) rfl (Dev.pageTranslate_hole (d := s.fresh) hm hk hf hw hp ht hc hx)
  case frame =>
    exact does_run (f := fun d => d.pageTranslate t c pg) rfl (Dev.pageTranslate_frame (d := s.fresh) hm hk hf hw hp ht hc hx)

end Sys2Proof.Machine
end

section
/-!
SUPPORT. Reductions into the home, and what a response or a timeout makes of a tag (R144, R145, R160).
-/

namespace Sys2Proof.Machine

variable {d e : Dev}

/-! ### Reductions -/

/-- A well-formed REDUCE_PUT joins its tile's queue, or stays in its receive pool while that is full. -/
theorem Dev.reducePut_queue {k t : Nat} {a : Arrival} {q : Pkt} (h : (d.homeReq k fun p => p.opc = 5) = some (a, q))
    (hk : d.takeIn k = some (a, e)) (hl : laneOk q = true) (hg : q.addr % 8192 + q.data.length ≤ 8192) (hn : q.data.length % 4 = 0)
    (ha : q.addr % 4 = 0) (ht : d.redTile q.addr q.data.length = some t) :
    d.reducePut k = if 64 ≤ (d.redQueue t).length then d
      else e.setRed (d.agx.red ++ [⟨a.ingress, q.src, q.addr, q.data, q.bytePoison, q.vl, t⟩]) := by
  have hok : ¬ (8192 < q.addr % 8192 + q.data.length ∨ q.data.length % 4 ≠ 0 ∨ q.addr % 4 ≠ 0) := by omega
  simp only [Dev.reducePut, h, hk, hl, if_neg hok, ht, Bool.not_true, Bool.false_eq_true, if_false]

/-- The oldest of a queue, in its turn, is added to what its target holds. -/
theorem Dev.reducePutAdd_oldest {t : Nat} {x : RedPut} {rest : List RedPut} {f : Dev} {g : Got} (hq : d.redQueue t = x :: rest)
    (hl : d.alive = true) (ht : d.redTurn x = true)
    (hr : (d.setRed (d.agx.red.erase x)).memRead (tileIngress t) x.addr x.data.length = (e, some g))
    (hw : e.memWrite (tileIngress t) x.addr ((redSums g x).1.flatMap (leBytes 4)) (fun i => (redSums g x).2.getD (i / 4) false) = (f, true)) :
    d.reducePutAdd t = ((f.count R.AGX_RP_BYTES_BYTES x.data.length).watchEvents
      (((redSums g x).1.zip (redSums g x).2).countP fun v => !v.2 && (f32IsInf v.1 || f32IsNaN v.1))).watchPoison
        ((redSums g x).2.countP fun b => b) := by
  simp only [Dev.reducePutAdd, hq, hl, ht, hr, hw, Bool.not_true, Bool.or_self, Bool.false_eq_true, if_false]

/-! ### Ends of tags -/

section
variable {g : TagEnt}

/-- The tag of a lost device's request is quarantined. -/
theorem Dev.endReq_lost : d.endReq g 7 = (d.quarantineTag g.tag).endFor g 7 := rfl

/-- Any other answer frees it. -/
theorem Dev.endReq_answered {st : Nat} (h : st ≠ 7) : d.endReq g st = (d.freeTagNow g.tag).endFor g st := by
  rw [Dev.endReq, if_neg h]

variable {i : Nat} {q : Pkt} (ht : d.tagOf q.tag = some g)
include ht

/-- The data that was still awaited ends the request. -/
theorem Dev.readDataIn_last (h : g.left ≤ ceilDiv q.data.length 64) :
    d.readDataIn i q = ((d.dataFor g i q).freeTagNow g.tag).endFor g 0 := by
  simp only [Dev.readDataIn, ht, Nat.sub_eq_zero_of_le h, if_true, Dev.endReq_answered (show 0 ≠ 7 by decide)]

/-- Less than that leaves the rest awaited. -/
theorem Dev.readDataIn_more (h : ceilDiv q.data.length 64 < g.left) :
    d.readDataIn i q = { d.dataFor g i q with agx := { (d.dataFor g i q).agx with
      tags := (d.dataFor g i q).agx.tags.map fun x => if x.tag = g.tag then { x with left := g.left - ceilDiv q.data.length 64 } else x } } := by
  simp only [Dev.readDataIn, ht, if_neg (Nat.sub_ne_zero_of_lt h)]

end

/-! ### The commands -/

section
variable {s : State} {k : Nat} {a : Arrival} {q : Pkt}

theorem does_reducePut {t : Nat} (hl : s.dev.alive = true) (ha : s.dev.agx.inbox[k]? = some a) (hi : a.item = .req q) (ho : q.opc = 5)
    (ht : s.fresh.homeTurn k a q = true) (hw : s.fresh.windowHeld q = false) (hk : s.fresh.takeIn k = some (a, d)) (hv : laneOk q = true)
    (hg : q.addr % 8192 + q.data.length ≤ 8192) (hn : q.data.length % 4 = 0) (hm : q.addr % 4 = 0)
    (hr : s.fresh.redTile q.addr q.data.length = some t) :
    Does (.reducePut k) s (if 64 ≤ (s.fresh.redQueue t).length then s.fresh
      else d.setRed (s.dev.agx.red ++ [⟨a.ingress, q.src, q.addr, q.data, q.bytePoison, q.vl, t⟩])) := by
  have h := Dev.homeReq_some (d := s.fresh) (want := fun p => p.opc = 5) hl ha hi ht hw (decide_eq_true ho)
  exact does_run (f := fun d => d.reducePut k) rfl (Dev.reducePut_queue h hk hv hg hn hm hr)

/-- A COMPLETION ends the request of a tag that is held. -/
theorem does_completion_ends {g : TagEnt} (h : s.fresh.takeRsp k 0x10 = some (a, q, d)) (ht : d.tagOf q.tag = some g) :
    Does (.completion k) s (d.endReq g q.status) := by
  refine does_run (show execCompletion k s = run s _ from rfl) ?_
  simp only [h, ht]

/-- One to no tag is counted. -/
theorem does_completion_late (h : s.fresh.takeRsp k 0x10 = some (a, q, d)) (ht : d.tagOf q.tag = none) :
    Does (.completion k) s (d.count R.AGX_LATE_CPL_COUNT 1) := by
  refine does_run (show execCompletion k s = run s _ from rfl) ?_
  simp only [h, ht, Dev.lateRsp]

theorem does_readData (h : s.fresh.takeRsp k 0x11 = some (a, q, d)) : Does (.readData k) s (d.readDataIn a.ingress q) := by
  refine does_run (show execReadData k s = run s _ from rfl) ?_
  simp only [h]

theorem does_npTimeout {tag : Nat} {g : TagEnt} (h : s.fresh.tagOf tag = some g) :
    Does (.npTimeout tag) s ((s.fresh.quarantineTag tag).endFor g 5) := by
  refine does_run (show execNpTimeout tag s = run s _ from rfl) ?_
  simp only [h]

theorem does_tagQuarantineEnd {tag : Nat} (h : s.dev.agx.quarantine.contains tag = true) : Does (.tagQuarantineEnd tag) s
    (({ s.fresh with agx := { s.dev.agx with quarantine := s.dev.agx.quarantine.filter fun t => t ≠ tag } } : Dev).freeTagNow tag) :=
  does_run rfl (if_pos h)

end

end Sys2Proof.Machine
end

section
/-!
PROOF. The statement about reductions into the home, responses and the ends of tags.
-/

namespace Sys2Proof.Machine

/-- Settles O29: each command by what stands in its queue, and each response by the tag that it names. -/
theorem tagsEnd : Obligations.TagsEnd := by
  refine ⟨fun s => ⟨fun k a q d t hl ha hi ho ht hw hk hv hg hn hm hr => ?put, fun t x rest d g e hq hl ht hr hw => ?add⟩,
    fun s k tag => ⟨fun a q d h => ⟨fun e ht hst => ?answered, fun e ht hst => ?lost, fun ht => ?late⟩,
      fun a q d e h ht => ⟨fun hle => ?last, fun hlt => ?more⟩, fun e h => does_npTimeout h, fun h => does_tagQuarantineEnd h⟩⟩
  case put =>
    have h := does_reducePut hl ha hi ho ht hw hk hv hg hn hm hr
    exact ⟨fun hlt => by rwa [if_neg (Nat.not_le.mpr hlt)] at h, fun hle => by rwa [if_pos hle] at h⟩
  case add => exact does_run (f := fun d => d.reducePutAdd t) rfl (Dev.reducePutAdd_oldest (d := s.fresh) hq hl ht hr hw)
  case answered => exact Dev.endReq_answered hst ▸ does_completion_ends h ht
  case lost => exact Dev.endReq_lost ▸ hst ▸ does_completion_ends h ht
  case late => exact does_completion_late h ht
  case last => exact Dev.readDataIn_last ht hle ▸ does_readData h
  case more => exact Dev.readDataIn_more ht hlt ▸ does_readData h

end Sys2Proof.Machine
end

section
/-!
SUPPORT. What a flit that leaves and a move of the link machine keep of the registers (R134, R155, Table 7.1).
-/

namespace Sys2Proof.Machine

@[simp] theorem State.fresh_link (s : State) (p : Nat) : s.fresh.link p = s.dev.link p := rfl

section
variable (d : Dev) (p : Nat) {o : Nat}

theorem Dev.reg_ite {d a b : Dev} {c : Prop} [Decidable c] (ha : a.reg o = d.reg o) (hb : b.reg o = d.reg o) :
    (if c then a else b).reg o = d.reg o := by
  split <;> assumption

theorem Dev.onLanes_reg (f : Flit) : (d.onLanes p f).reg o = d.reg o := by
  unfold Dev.onLanes
  dsimp only
  split <;> rfl

section
variable (ho : o ≠ R.AGX_PORT_INJECT p)
include ho

/-- A flit that leaves spends a planted CRC error, and changes no other register. -/
theorem Dev.wire_reg (f : Flit) (nak : Bool) : (d.wire p f nak).reg o = d.reg o := by
  unfold Dev.wire
  dsimp only
  exact Dev.reg_ite ((Dev.onLanes_reg _ p _).trans (Dev.reg_set_ne _ (R.AGX_PORT_INJECT_CRC_NEXT p) 0 ho)) (Dev.onLanes_reg _ p _)

theorem Dev.sendSeq_reg (f : Flit) : (d.sendSeq p f).reg o = d.reg o := Dev.wire_reg _ p ho _ _

theorem Dev.sendRaw_reg (ftype : Nat) (pl : List Byte) : (d.sendRaw p ftype pl).reg o = d.reg o := by
  unfold Dev.sendRaw
  split
  · exact d.wire_reg p ho _ _
  · rfl

theorem Dev.sendLinkId_reg : (d.sendLinkId p).reg o = d.reg o := d.sendRaw_reg p ho _ _

end

theorem Dev.setLink_reg (st : Nat) (ho : o ≠ R.AGX_PORT_STATUS p) (hl : logReg o = false) : (d.setLink p st).reg o = d.reg o :=
  ((LogOnly.event _ _ _ _ _).reg o hl).trans (d.reg_set_ne (R.AGX_PORT_STATUS_STATE p) st ho)

end

/-! ### The registers of a port stand apart -/

theorem portCtl_ne_inject (p : Nat) : R.AGX_PORT_CTL p ≠ R.AGX_PORT_INJECT p := by rw [R.AGX_PORT_CTL, R.AGX_PORT_INJECT]; omega

theorem portCtl_ne_status (p : Nat) : R.AGX_PORT_CTL p ≠ R.AGX_PORT_STATUS p := by rw [R.AGX_PORT_CTL, R.AGX_PORT_STATUS]; omega

theorem portStatus_ne_inject (p : Nat) : R.AGX_PORT_STATUS p ≠ R.AGX_PORT_INJECT p := by rw [R.AGX_PORT_STATUS, R.AGX_PORT_INJECT]; omega

theorem logReg_portCtl {p : Nat} (hp : p < 36) : logReg (R.AGX_PORT_CTL p) = false := by
  interval_cases p <;> rfl

/-- LINK_ID leaves the port's link as it was. -/
theorem Dev.sendLinkId_link (d : Dev) (p : Nat) : (d.sendLinkId p).link p = d.link p :=
  congrArg (wordGet · (R.AGX_PORT_STATUS_STATE p)) (d.sendLinkId_reg p (portStatus_ne_inject p))

end Sys2Proof.Machine
end

section
/-!
SUPPORT. AGX_PORT_CTL, AGX_PORT_INJECT and AGX_PORT_SPARE_TH: what a store to each makes of the device (R135, R154, R155, R321).
-/

namespace Sys2Proof.Machine

/-- The row of AGX_PORT_CTL. -/
abbrev portCtlRow : RegRow := rowsAgxPort[0]

/-- The row of AGX_PORT_INJECT. -/
abbrev portInjectRow : RegRow := rowsAgxPort[4]

/-- The row of AGX_PORT_SPARE_TH. -/
abbrev portSpareRow : RegRow := rowsAgxPort[5]

section
variable {p : Nat} (hp : p < 36)
include hp

theorem findRow_portCtl : findRow (R.AGX_PORT_CTL p) = some (portCtlRow, [p]) := by rw [findRow_AGX_PORT_CTL p hp]; rfl

theorem findRow_portInject : findRow (R.AGX_PORT_INJECT p) = some (portInjectRow, [p]) := by rw [findRow_AGX_PORT_INJECT p hp]; rfl

theorem findRow_portSpare : findRow (R.AGX_PORT_SPARE_TH p) = some (portSpareRow, [p]) := by rw [findRow_AGX_PORT_SPARE_TH p hp]; rfl

end

section
variable (d : Dev) (w : Who) (p v : Nat)

theorem Dev.store_portCtl : d.store w portCtlRow [p] (R.AGX_PORT_CTL p) v = d.portCtlWrite p v := rfl

theorem Dev.store_portInject : d.store w portInjectRow [p] (R.AGX_PORT_INJECT p) v = d.portInjectWrite p v := rfl

theorem Dev.store_portSpare : d.store w portSpareRow [p] (R.AGX_PORT_SPARE_TH p) v = d.portSpareWrite p v := rfl

/-- RETRY_MS, FORCE_X4 and PRBS as a store to AGX_PORT_CTL sets them first. -/
def Dev.portCtlSet : Dev :=
  ((d.set (R.AGX_PORT_CTL_RETRY_MS p) (bits v 31 16)).set (R.AGX_PORT_CTL_FORCE_X4 p) (bits v 6 6)).set (R.AGX_PORT_CTL_PRBS p) (bits v 5 4)

/-- A field of AGX_PORT_CTL below those three stays. -/
theorem Dev.portCtlSet_get_low {hi lo : Nat} (h : hi < 4) (hl : lo ≤ hi) :
    (d.portCtlSet p v).get ⟨R.AGX_PORT_CTL p, hi, lo⟩ = d.get ⟨R.AGX_PORT_CTL p, hi, lo⟩ := by
  have ok : (⟨R.AGX_PORT_CTL p, hi, lo⟩ : Fld).ok = true := by simp only [Fld.ok, Bool.and_eq_true, decide_eq_true_eq]; omega
  have stays (d : Dev) (a b x : Nat) (hb : b ≤ a) (ha : a < 64) (h4 : 4 ≤ b) :
      (d.set ⟨R.AGX_PORT_CTL p, a, b⟩ x).get ⟨R.AGX_PORT_CTL p, hi, lo⟩ = d.get ⟨R.AGX_PORT_CTL p, hi, lo⟩ := by
    refine Dev.get_set_ne d _ _ x ?_ ?_ ok
    · simp only [Fld.apart, Bool.or_eq_true, decide_eq_true_eq]; omega
    · simp only [Fld.ok, Bool.and_eq_true, decide_eq_true_eq]; omega
  rw [Dev.portCtlSet]
  exact (stays _ 5 4 _ (by decide) (by decide) (by decide)).trans
    ((stays _ 6 6 _ (by decide) (by decide) (by decide)).trans (stays _ 31 16 _ (by decide) (by decide) (by decide)))

theorem Dev.portCtlSet_link : (d.portCtlSet p v).link p = d.link p := by
  have h := (portCtl_ne_status p).symm
  rw [Dev.link, Dev.get, Dev.portCtlSet, Dev.reg_set_ne _ _ _ h, Dev.reg_set_ne _ _ _ h, Dev.reg_set_ne _ _ _ h]; rfl

end

/-! ### LOOP (R154, Tables 7.1 and 7.10) -/

/-- A port's link starts anew; what is queued on it stays. -/
def Dev.portRestart (d : Dev) (p : Nat) : Dev := d.setPort p { PortUnit.reset with txq := (d.port p).txq, vlOrder := (d.port p).vlOrder }

section
variable {d : Dev} {p l : Nat}

/-- LOOP written 0 in TEST: the loop-back ends, at the far end with LOOP_EXIT. -/
theorem Dev.loopWrite_ends (h0 : l = 0) (hs : d.link p = 8) : d.loopWrite p l =
    (((if d.get (R.AGX_PORT_CTL_LOOP p) = 4 then d.sendSeq p (d.ctlFlit p 4 (leBytes 1 7)) else d).portRestart p).set
      (R.AGX_PORT_CTL_LOOP p) 0).setLink p 1 :=
  if_pos ⟨h0, hs⟩

/-- LOOP written 0 in an idle port; one that is HELD trains again. -/
theorem Dev.loopWrite_clears (h0 : l = 0) (hi : d.link p = 0 ∨ d.link p = 5 ∨ d.link p = 6) : d.loopWrite p l =
    if d.link p = 6 then (d.set (R.AGX_PORT_CTL_LOOP p) 0).setLink p 1 else d.set (R.AGX_PORT_CTL_LOOP p) 0 := by
  rw [Dev.loopWrite, if_neg (by omega), if_pos ⟨h0, decide_eq_true hi⟩]

/-- A loop-back begins in an idle port, at the far end with LOOP_REQ. -/
theorem Dev.loopWrite_begins (h1 : 1 ≤ l) (h4 : l ≤ 4) (hi : d.link p = 0 ∨ d.link p = 5 ∨ d.link p = 6) : d.loopWrite p l =
    let e := ((d.set (R.AGX_PORT_CTL_LOOP p) l).setLink p 8).portRestart p
    if l = 4 then e.sendSeq p (e.ctlFlit p 4 (leBytes 1 6)) else e := by
  rw [Dev.loopWrite, if_neg (by omega), if_neg (by omega), if_pos ⟨h1, h4, decide_eq_true hi⟩]
  rfl

/-- Elsewhere LOOP stays: a store that would change it is refused. -/
theorem Dev.loopWrite_stays (h : (¬ (d.link p = 0 ∨ d.link p = 5 ∨ d.link p = 6) ∧ ¬ (l = 0 ∧ d.link p = 8)) ∨ 4 < l) : d.loopWrite p l =
    if l = d.get (R.AGX_PORT_CTL_LOOP p) then d else d.raise1 (R.AGX_PORT_ERR_LOOP_REJECT p) l := by
  have idle : ¬ (l = 0 ∧ decide (d.link p = 0 ∨ d.link p = 5 ∨ d.link p = 6) = true) := by rw [decide_eq_true_iff]; omega
  have begins : ¬ (1 ≤ l ∧ l ≤ 4 ∧ decide (d.link p = 0 ∨ d.link p = 5 ∨ d.link p = 6) = true) := by rw [decide_eq_true_iff]; omega
  rw [Dev.loopWrite, if_neg (by omega), if_neg idle, if_neg begins]

variable (d l) in
/-- A store to LOOP keeps ENABLE. -/
theorem Dev.loopWrite_get_enable (hp : p < 36) : (d.loopWrite p l).get (R.AGX_PORT_CTL_ENABLE p) = d.get (R.AGX_PORT_CTL_ENABLE p) := by
  have set (e : Dev) (x : Nat) : (e.set (R.AGX_PORT_CTL_LOOP p) x).get (R.AGX_PORT_CTL_ENABLE p) = e.get (R.AGX_PORT_CTL_ENABLE p) :=
    Dev.get_set_ne _ _ _ _ (by simp [Fld.apart, R.AGX_PORT_CTL_ENABLE, R.AGX_PORT_CTL_LOOP]) rfl rfl
  have link (e : Dev) (x : Nat) : (e.setLink p x).get (R.AGX_PORT_CTL_ENABLE p) = e.get (R.AGX_PORT_CTL_ENABLE p) :=
    congrArg (wordGet · (R.AGX_PORT_CTL_ENABLE p)) (e.setLink_reg p x (portCtl_ne_status p) (logReg_portCtl hp))
  have send (e : Dev) (f : Flit) : (e.sendSeq p f).get (R.AGX_PORT_CTL_ENABLE p) = e.get (R.AGX_PORT_CTL_ENABLE p) :=
    congrArg (wordGet · (R.AGX_PORT_CTL_ENABLE p)) (e.sendSeq_reg p (portCtl_ne_inject p) f)
  have stays : (if l = d.get (R.AGX_PORT_CTL_LOOP p) then d else d.raise1 (R.AGX_PORT_ERR_LOOP_REJECT p) l).get (R.AGX_PORT_CTL_ENABLE p) =
      d.get (R.AGX_PORT_CTL_ENABLE p) := by
    have apart : (R.AGX_PORT_ERR_LOOP_REJECT p).apart (R.AGX_PORT_CTL_ENABLE p) = true := by
      simp [Fld.apart, R.AGX_PORT_CTL_ENABLE, R.AGX_PORT_ERR_LOOP_REJECT, R.AGX_PORT_CTL, R.AGX_PORT_ERR]
    split
    · rfl
    · exact d.raise1_get_ne _ _ l apart rfl rfl (logReg_portCtl hp)
  have restart (e : Dev) : (e.portRestart p).get (R.AGX_PORT_CTL_ENABLE p) = e.get (R.AGX_PORT_CTL_ENABLE p) := rfl
  by_cases hi : d.link p = 0 ∨ d.link p = 5 ∨ d.link p = 6
  · obtain h0 | ⟨h1, h4⟩ | h4 : l = 0 ∨ (1 ≤ l ∧ l ≤ 4) ∨ 4 < l := by omega
    · rw [Dev.loopWrite_clears h0 hi]
      split
      · rw [link, set]
      · rw [set]
    · rw [Dev.loopWrite_begins h1 h4 hi]
      dsimp only
      split
      · rw [send, restart, link, set]
      · rw [restart, link, set]
    · rw [Dev.loopWrite_stays (.inr h4)]
      exact stays
  · by_cases he : l = 0 ∧ d.link p = 8
    · rw [Dev.loopWrite_ends he.1 he.2, link, set, restart]
      split
      · rw [send]
      · rfl
    · rw [Dev.loopWrite_stays (.inl ⟨hi, he⟩)]
      exact stays

end

/-! ### The stores -/

section
variable {d : Dev} {p v : Nat}

/-- The fields first, then LOOP, then a change of ENABLE. -/
theorem Dev.portCtlWrite_eq (hp : p < 36) : d.portCtlWrite p v =
    let g := (d.portCtlSet p v).loopWrite p (bits v 3 1)
    if d.get (R.AGX_PORT_CTL_ENABLE p) = bits v 0 0 then g
    else if v.testBit 0 then (g.set (R.AGX_PORT_CTL_ENABLE p) (bits v 0 0)).enableUnit (agxUnit p)
    else (g.set (R.AGX_PORT_CTL_ENABLE p) (bits v 0 0)).disableUnit (agxUnit p) := by
  have enable : ((d.portCtlSet p v).loopWrite p (bits v 3 1)).get (R.AGX_PORT_CTL_ENABLE p) = d.get (R.AGX_PORT_CTL_ENABLE p) :=
    ((d.portCtlSet p v).loopWrite_get_enable _ hp).trans (d.portCtlSet_get_low p v (by decide) (Nat.le_refl 0))
  rw [← enable]; rfl

/-- A value with the bits above ENABLE as `v` has them sets the same fields. -/
theorem Dev.portCtlSet_congr {u : Nat} (h : ∀ hi lo, 0 < lo → lo ≤ hi → bits u hi lo = bits v hi lo) : d.portCtlSet p u = d.portCtlSet p v := by
  simp only [Dev.portCtlSet, h 31 16 (by decide) (by decide), h 6 6 (by decide) (by decide), h 5 4 (by decide) (by decide)]

/-- A store of LANE_FAIL_NOW fails the lane of AGX_PORT_INJECT while test injection is enabled. -/
theorem Dev.portSpareWrite_failNow {u : Nat} (h : bits u 63 48 ≠ 0) : d.portSpareWrite p u =
    let e := (d.set (R.AGX_PORT_SPARE_TH_UNCORR_TH p) (bits u 47 32)).set (R.AGX_PORT_SPARE_TH_CORR_TH p) (bits u 31 0)
    if d.testEnable then e.failLane p (d.get (R.AGX_PORT_INJECT_LANE p)) else e := by
  have kept {f : Fld} (hf : f.reg ≠ R.AGX_PORT_SPARE_TH p) :
      ((d.set (R.AGX_PORT_SPARE_TH_UNCORR_TH p) (bits u 47 32)).set (R.AGX_PORT_SPARE_TH_CORR_TH p) (bits u 31 0)).get f = d.get f :=
    (Dev.get_set_otherReg _ _ hf).trans (Dev.get_set_otherReg _ _ hf)
  have test := kept (f := R.SEC_STATUS_TEST_ENABLE) (by simp only [R.SEC_STATUS_TEST_ENABLE, R.SEC_STATUS, R.AGX_PORT_SPARE_TH]; omega)
  have lane := kept (f := R.AGX_PORT_INJECT_LANE p) (by simp only [R.AGX_PORT_INJECT_LANE, R.AGX_PORT_INJECT, R.AGX_PORT_SPARE_TH]; omega)
  simp only [Dev.portSpareWrite, Dev.testEnable, Dev.flag, test, lane, h, ne_eq, not_false_eq_true, true_and]
  rfl

end

/-! ### The commands -/

section
variable {s : State} {c : Instr} {w : Who} {p u : Nat} {d : Dev}

/-- A store to a register of a port by a command; `o` gives the register's offset by port. -/
theorem does_portWrite {o : Nat → Nat} {row : RegRow} (h : exec c s = regWrite8 w (o (p % 36)) u s) (hp : p < 36)
    (ho : ∀ p, o p = o 0 + p * 0x10000) (h8 : o 0 % 8 = 0) (hs : o 0 + 36 * 0x10000 < R.SEC_CTL) (hu : u < 2 ^ 64) (hk : s.takes w (o p))
    (hf : findRow (o p) = some (row, [p])) (hd : s.fresh.store w row [p] (o p) u = d) : Does c s d := by
  rw [Nat.mod_eq_of_lt hp] at h
  have hop := ho p
  exact does_write h hk hf (by omega) (by omega) hu hd

theorem does_portCtlWrite (h : exec c s = regWrite8 w (R.AGX_PORT_CTL (p % 36)) u s) (hp : p < 36) (hu : u < 2 ^ 64)
    (hk : s.takes w (R.AGX_PORT_CTL p)) (hd : s.fresh.portCtlWrite p u = d) : Does c s d :=
  does_portWrite h hp (fun p => by unfold R.AGX_PORT_CTL; omega) (by decide) (by decide) hu hk (findRow_portCtl hp)
    ((s.fresh.store_portCtl w p u).trans hd)

variable {v : Nat} (hp : p < 36) (hv : v < 2 ^ 64)
include hp hv

/-- A store to AGX_PORT_CTL that leaves ENABLE as it was. -/
theorem does_portCtlWrite_same (h : exec c s = regWrite8 w (R.AGX_PORT_CTL (p % 36)) v s) (hk : s.takes w (R.AGX_PORT_CTL p))
    (he : s.dev.get (R.AGX_PORT_CTL_ENABLE p) = bits v 0 0) : Does c s ((s.fresh.portCtlSet p v).loopWrite p (bits v 3 1)) :=
  does_portCtlWrite h hp hv hk ((Dev.portCtlWrite_eq hp).trans (if_pos he))

/-- AGX_PORT_ENABLE in a disabled port enables its unit. -/
theorem does_agxPortEnable (hk : s.takes w (R.AGX_PORT_CTL p)) (he : s.dev.get (R.AGX_PORT_CTL_ENABLE p) = 0) :
    Does (.agxPortEnable w p v) s ((((s.fresh.portCtlSet p v).loopWrite p (bits v 3 1)).set (R.AGX_PORT_CTL_ENABLE p) 1).enableUnit (agxUnit p)) := by
  have above (hi lo : Nat) (hl : 0 < lo) (hh : lo ≤ hi) : bits ((R.AGX_PORT_CTL_ENABLE 0).on v) hi lo = bits v hi lo :=
    bits_on _ v hi lo (.inl hl) (Nat.le_refl 0) hh
  have bit0 : bits ((R.AGX_PORT_CTL_ENABLE 0).on v) 0 0 = 1 := Fld.of_on (R.AGX_PORT_CTL_ENABLE 0) v rfl
  have old : ¬ s.fresh.get (R.AGX_PORT_CTL_ENABLE p) = 1 := by rw [State.fresh_get, he]; exact Nat.zero_ne_one
  refine does_portCtlWrite rfl hp (Fld.on_lt _ v rfl hv) hk ((Dev.portCtlWrite_eq hp).trans ?_)
  rw [Dev.portCtlSet_congr above, above 3 1 (by decide) (by decide), bit0, testBit_zero_of_bits bit0]
  exact (if_neg old).trans (if_pos rfl)

/-- AGX_PORT_DISABLE in an enabled port disables it. -/
theorem does_agxPortDisable (hk : s.takes w (R.AGX_PORT_CTL p)) (he : s.dev.get (R.AGX_PORT_CTL_ENABLE p) = 1) :
    Does (.agxPortDisable w p v) s ((((s.fresh.portCtlSet p v).loopWrite p (bits v 3 1)).set (R.AGX_PORT_CTL_ENABLE p) 0).disableUnit (agxUnit p)) := by
  have above (hi lo : Nat) (hl : 0 < lo) (hh : lo ≤ hi) : bits ((R.AGX_PORT_CTL_ENABLE 0).off v) hi lo = bits v hi lo :=
    bits_off _ v hi lo hv (.inl hl) (Nat.le_refl 0) hh
  have bit0 : bits ((R.AGX_PORT_CTL_ENABLE 0).off v) 0 0 = 0 := Fld.of_off (R.AGX_PORT_CTL_ENABLE 0) v hv
  have clear : ((R.AGX_PORT_CTL_ENABLE 0).off v).testBit 0 = false := by rw [← bitAt_eq_testBit, bitAt, bit0]; rfl
  have old : ¬ s.fresh.get (R.AGX_PORT_CTL_ENABLE p) = 0 := by rw [State.fresh_get, he]; exact Nat.one_ne_zero
  refine does_portCtlWrite rfl hp (Fld.off_lt _ v hv) hk ((Dev.portCtlWrite_eq hp).trans ?_)
  rw [Dev.portCtlSet_congr above, above 3 1 (by decide) (by decide), bit0, clear]
  exact (if_neg old).trans (if_neg Bool.false_ne_true)

theorem does_agxPortInjectCrc (hk : s.takes w (R.AGX_PORT_INJECT p)) : Does (.agxPortInjectCrc w p v) s
    ((s.fresh.set (R.AGX_PORT_INJECT_LANE p) (bits v 4 1)).set (R.AGX_PORT_INJECT_CRC_NEXT p) 1) := by
  have lane : bits ((R.AGX_PORT_INJECT_CRC_NEXT 0).on v) 4 1 = bits v 4 1 := bits_on _ v 4 1 (by decide) (by decide) (by decide)
  have next : bits ((R.AGX_PORT_INJECT_CRC_NEXT 0).on v) 0 0 = 1 := Fld.of_on (R.AGX_PORT_INJECT_CRC_NEXT 0) v rfl
  refine does_portWrite rfl hp (fun p => by unfold R.AGX_PORT_INJECT; omega) (by decide) (by decide) (Fld.on_lt _ v rfl hv) hk
    (findRow_portInject hp) ((s.fresh.store_portInject w p _).trans ?_)
  rw [Dev.portInjectWrite, lane, next]

/-- LANE_FAIL_NOW stores a 1 in its field's lowest bit. -/
theorem does_laneFailNow (hk : s.takes w (R.AGX_PORT_SPARE_TH p)) :
    let d := (s.fresh.set (R.AGX_PORT_SPARE_TH_UNCORR_TH p) (bits v 47 32)).set (R.AGX_PORT_SPARE_TH_CORR_TH p) (bits v 31 0)
    Does (.laneFailNow w p v) s (if s.dev.testEnable then d.failLane p (s.dev.get (R.AGX_PORT_INJECT_LANE p)) else d) := by
  have bit : (⟨0, 48, 48⟩ : Fld).on v = v ||| 2 ^ 48 := rfl
  have below (hi lo : Nat) (hh : hi < 48) (hl : lo ≤ hi) : bits (v ||| 2 ^ 48) hi lo = bits v hi lo :=
    bit ▸ bits_on _ v hi lo (.inr hh) (Nat.le_refl 48) hl
  have now : bits (v ||| 2 ^ 48) 63 48 ≠ 0 := by
    have set : (bits (v ||| 2 ^ 48) 63 48).testBit 0 = true := by
      rw [testBit_bits, Nat.testBit_or, Nat.testBit_two_pow_self, Bool.or_true]; rfl
    intro zero
    rw [zero, Nat.zero_testBit] at set
    exact Bool.false_ne_true set
  refine does_portWrite rfl hp (fun p => by unfold R.AGX_PORT_SPARE_TH; omega) (by decide) (by decide) (bit ▸ Fld.on_lt _ v rfl hv) hk
    (findRow_portSpare hp) ((s.fresh.store_portSpare w p _).trans ((Dev.portSpareWrite_failNow now).trans ?_))
  rw [below 47 32 (by decide) (by decide), below 31 0 (by decide) (by decide)]
  rfl

end

end Sys2Proof.Machine
end

section
/-!
PROOF. The statement about stores that command a port.
-/

namespace Sys2Proof.Machine

/-- Settles O25: the loop-back by the value of LOOP and the state of the link, then ENABLE by what it was. -/
theorem portWrites : Obligations.PortWrites := by
  intro s w p v hv hp
  dsimp only
  have link : (s.fresh.portCtlSet p v).link p = s.dev.link p := s.fresh.portCtlSet_link p v
  have old : (s.fresh.portCtlSet p v).get (R.AGX_PORT_CTL_LOOP p) = s.dev.get (R.AGX_PORT_CTL_LOOP p) :=
    s.fresh.portCtlSet_get_low p v (by decide) (by decide)
  rw [← link, ← old]
  refine ⟨⟨(s.fresh.portCtlSet p v).loopWrite p (bits v 3 1), fun h0 hs => ?ends, fun h0 hs => ?held, fun h0 hs => ?clears, fun h1 h3 hi => ?inside,
    fun h4 hi => ?farEnd, fun hn h => ?refused, fun he hi hs => ?same, fun hk => ⟨does_agxPortEnable hp hv hk, does_agxPortDisable hp hv hk,
      fun he => ⟨does_portCtlWrite_same hp hv rfl hk he, does_portCtlWrite_same hp hv rfl hk he⟩⟩⟩,
    does_agxPortInjectCrc hp hv, does_laneFailNow hp hv⟩
  case ends => exact Dev.loopWrite_ends h0 hs
  case held => exact (Dev.loopWrite_clears h0 (.inr (.inr hs))).trans (if_pos hs)
  case clears => exact (Dev.loopWrite_clears h0 (by omega)).trans (if_neg (by omega))
  case inside => exact (Dev.loopWrite_begins h1 (by omega) hi).trans (if_neg (by omega))
  case farEnd =>
    have h := Dev.loopWrite_begins (d := s.fresh.portCtlSet p v) (p := p) (l := bits v 3 1) (by omega) (by omega) hi
    rw [h4] at h ⊢
    exact ⟨_, rfl, h⟩
  case refused => exact (Dev.loopWrite_stays h).trans (if_neg hn)
  case same => exact (Dev.loopWrite_stays (.inl ⟨hi, hs⟩)).trans (if_pos he)

end Sys2Proof.Machine
end

section
/-!
SUPPORT. The link machine: training, identification, retraining and its ends; lanes that fail and the switch to the spare (R134, R135,
R138, Table 7.1).
-/

namespace Sys2Proof.Machine

/-! ### Training (R134, R135) -/

section
variable {s : State} {p bad : Nat}

/-- A training that has ended: the port goes to IDENTIFY at the width that its good lanes allow, or DOWN. -/
def Dev.trainEnded (d : Dev) (p : Nat) (x4 : Bool) : Dev :=
  let n := (d.goodLanes p).length
  if n < 4 then d.trainFailed p else ((d.mapLanes p (if 8 ≤ n ∧ !x4 then 8 else 4)).setLink p 2).sendLinkId p

section
variable {d : Dev} {x4 : Bool}

theorem Dev.trainEnded_wide (h8 : 8 ≤ (d.goodLanes p).length) (hx : x4 = false) :
    d.trainEnded p x4 = ((d.mapLanes p 8).setLink p 2).sendLinkId p := by
  rw [Dev.trainEnded, if_neg (by omega), if_pos ⟨h8, by rw [hx]; rfl⟩]

theorem Dev.trainEnded_narrow (h4 : 4 ≤ (d.goodLanes p).length) (hx : (d.goodLanes p).length < 8 ∨ x4 = true) :
    d.trainEnded p x4 = ((d.mapLanes p 4).setLink p 2).sendLinkId p := by
  have narrow : ¬ (8 ≤ (d.goodLanes p).length ∧ (!x4) = true) := by
    rcases hx with h8 | rfl
    · omega
    · exact fun h => Bool.noConfusion h.2
  rw [Dev.trainEnded, if_neg (by omega), if_neg narrow]

theorem Dev.trainEnded_fails (h4 : (d.goodLanes p).length < 4) : d.trainEnded p x4 = d.trainFailed p := if_pos h4

end

/-- The lanes that did not train, or are too late, are marked bad first. -/
theorem does_trainDone {skew : List Nat} {d e : Dev} (hp : p < 36) (hs : s.dev.link p = 1)
    (hm : s.fresh.set (R.AGX_PORT_STATUS_LANE_BAD p) (s.dev.get (R.AGX_PORT_STATUS_LANE_BAD p) ||| bad % 512 ||| lateLanes skew) = d)
    (hd : d.trainEnded p (s.dev.flag (R.AGX_PORT_CTL_FORCE_X4 p)) = e) : Does (.trainDone p ⟨bad, skew⟩) s e := by
  have trains : ¬ (s.fresh.link p ≠ 1 ∨ 36 ≤ p) := by rw [State.fresh_link]; omega
  have x4 : d.flag (R.AGX_PORT_CTL_FORCE_X4 p) = s.dev.flag (R.AGX_PORT_CTL_FORCE_X4 p) :=
    hm ▸ congrArg (fun n => decide (n = 1)) (Dev.get_set_otherReg _ _ (portCtl_ne_status p))
  have he : exec (.trainDone p ⟨bad, skew⟩) s = execTrainDone p ⟨bad, skew⟩ s := rfl
  refine does_run (he.trans (by unfold execTrainDone; rfl)) ?_
  rw [← hd, ← x4, ← hm]
  exact if_neg trains

/-- Training that has not ended in time fails. -/
theorem does_trainTimeout (hs : s.dev.link p = 1) : Does (.trainTimeout p bad) s
    ((s.fresh.set (R.AGX_PORT_STATUS_LANE_BAD p) (s.dev.get (R.AGX_PORT_STATUS_LANE_BAD p) ||| bad % 512)).trainFailed p) := by
  have he : exec (.trainTimeout p bad) s = execTrainTimeout p bad s := rfl
  exact does_run (he.trans (by unfold execTrainTimeout; rfl)) (if_neg (not_not.mpr hs))

theorem does_downRetry (hs : s.dev.link p = 5) : Does (.downRetry p) s (s.fresh.setLink p 1) := does_run rfl (if_pos hs)

end

/-! ### A CONTROL flit that is taken from the inbox -/

/-- A command that takes a CONTROL flit and finds it. -/
theorem does_ctl {s : State} {c : Instr} {k t p : Nat} {pl : List Byte} {d e : Dev} {f : Nat → List Byte → Dev → Dev}
    (h : exec c s = run s fun d => match d.takeCtl k t with
      | none => d
      | some (p, pl, d) => f p pl d)
    (ht : s.fresh.takeCtl k t = some (p, pl, d)) (hd : f p pl d = e) : Does c s e :=
  does_run h (by simp only [ht, hd])

/-! ### Identification (R135) -/

/-- PEER_ID and PEER_PORT take what a LINK_ID names. -/
def Dev.peerNamed (d : Dev) (p : Nat) (pl : List Byte) : Dev :=
  (d.set (R.AGX_PORT_STATUS_PEER_ID p) (recNat pl 0 2 % 4096)).set (R.AGX_PORT_STATUS_PEER_PORT p) (recNat pl 2 1)

/-- The peer that a LINK_ID names is judged: NOT_IN_DOMAIN, then MISWIRE, then HASH. -/
def Dev.judgePeer (d : Dev) (p t : Nat) (pl : List Byte) : Dev :=
  match d.expectedPeer p with
  | none => d.holdPort p 2
  | some x =>
    if !d.present (recNat pl 0 2 % 4096) then d.holdPort p 2
    else if x ≠ (recNat pl 0 2 % 4096, recNat pl 2 1) then d.holdPort p 1
    else if (pl.drop 3).take 48 ≠ d.domainHash then d.holdPort p 3
    else d.portUp p t

/-- What a port makes of a LINK_ID: one in IDENTIFY or HELD answers it, and one in IDENTIFY judges it. -/
def Dev.linkIdIn (d : Dev) (p t : Nat) (pl : List Byte) : Dev :=
  if d.link p ≠ 2 ∧ d.link p ≠ 6 then d
  else if (d.sendLinkId p).link p = 6 then d.sendLinkId p
  else ((d.sendLinkId p).peerNamed p pl).judgePeer p t pl

section
variable {d : Dev} {p t : Nat} {pl : List Byte}

theorem Dev.linkIdIn_held (hs : d.link p = 6) : d.linkIdIn p t pl = d.sendLinkId p := by
  rw [Dev.linkIdIn, if_neg (by omega), if_pos ((d.sendLinkId_link p).trans hs)]

theorem Dev.linkIdIn_identify (hs : d.link p = 2) : d.linkIdIn p t pl = ((d.sendLinkId p).peerNamed p pl).judgePeer p t pl := by
  rw [Dev.linkIdIn, if_neg (by omega), if_neg (by rw [d.sendLinkId_link p]; omega)]

/-- No listed peer is expected, or the one named is not listed. -/
theorem Dev.judgePeer_unlisted (h : d.expectedPeer p = none ∨ d.present (recNat pl 0 2 % 4096) = false) : d.judgePeer p t pl = d.holdPort p 2 := by
  unfold Dev.judgePeer
  cases hx : d.expectedPeer p with
  | none => rfl
  | some x =>
    have unlisted : d.present (recNat pl 0 2 % 4096) = false := h.resolve_left (by rw [hx]; exact Option.some_ne_none x)
    exact if_pos (by rw [unlisted]; rfl)

variable {x : Nat × Nat} (hx : d.expectedPeer p = some x) (hl : d.present (recNat pl 0 2 % 4096) = true)
include hx hl

/-- A listed peer other than the expected one. -/
theorem Dev.judgePeer_miswired (hn : x ≠ (recNat pl 0 2 % 4096, recNat pl 2 1)) : d.judgePeer p t pl = d.holdPort p 1 := by
  simp only [Dev.judgePeer, hx, hl, Bool.not_true, Bool.false_eq_true, if_false, if_pos hn]

variable (he : x = (recNat pl 0 2 % 4096, recNat pl 2 1))
include he

/-- The expected peer, with another domain table. -/
theorem Dev.judgePeer_otherDomain (hh : (pl.drop 3).take 48 ≠ d.domainHash) : d.judgePeer p t pl = d.holdPort p 3 := by
  simp only [Dev.judgePeer, hx, hl, Bool.not_true, Bool.false_eq_true, if_false, if_neg (not_not.mpr he), if_pos hh]

theorem Dev.judgePeer_up (hh : (pl.drop 3).take 48 = d.domainHash) : d.judgePeer p t pl = d.portUp p t := by
  simp only [Dev.judgePeer, hx, hl, Bool.not_true, Bool.false_eq_true, if_false, if_neg (not_not.mpr he), if_neg (not_not.mpr hh)]

end

theorem does_linkId {s : State} {k p t : Nat} {pl : List Byte} {d e : Dev} (ht : s.fresh.takeCtl k 1 = some (p, pl, d))
    (hd : d.linkIdIn p t pl = e) : Does (.linkId ⟨k, t⟩) s e :=
  does_ctl (f := fun p pl d => d.linkIdIn p t pl) rfl ht hd

section
variable {s : State} {p : Nat}

theorem does_identifyTimeout (hs : s.dev.link p = 2) : Does (.identifyTimeout p) s (s.fresh.holdPort p 4) := does_run rfl (if_pos hs)

/-! ### Retraining, and the ends of a link -/

/-- A port in RETRAIN comes UP at width 4, its replay buffer is sent again and a round trip is measured. -/
theorem does_retrainDone (t : Nat) (hs : s.dev.link p = 4) :
    let d := (s.fresh.mapLanes p 4).setLink p 3
    let u := d.port p
    let e := (d.setPort p { u with sparing := none, spareNext := none }).count (R.AGX_PORT_LINK_REPLAYED p) u.replay.length
    Does (.retrainDone ⟨p, t⟩) s (((u.replay.foldl (fun (d : Dev) x => d.wire p x.flit false) e).flushCtl p).probe p t) := by
  intro d u e
  have he : exec (.retrainDone ⟨p, t⟩) s = execRetrainDone ⟨p, t⟩ s := rfl
  refine does_run (he.trans (by unfold execRetrainDone; rfl)) ?_
  exact if_neg (not_not.mpr hs)

theorem does_lockLost (hs : s.dev.link p = 3 ∨ s.dev.link p = 4 ∨ s.dev.link p = 7) : Does (.lockLost p) s (s.fresh.goDown p 1) :=
  does_run rfl (if_pos hs)

theorem does_portDrainDone (h : s.dev.get (R.AGX_PORT_STATUS_PWR p) = 2 ∨ s.dev.get (R.AGX_PORT_STATUS_PWR p) = 3) :
    Does (.portDrainDone p) s ((s.fresh.goDown p 0).unitOff (agxUnit p)) :=
  does_run rfl (if_pos h)

end

/-! ### Lanes that fail (R138) -/

section
variable {d e : Dev} {p lane : Nat}

/-- The active lane of a port that has no switch under way is marked, reported and recorded, and the spare looked for. -/
theorem Dev.failLane_active (hl : lane < 9) (hb : (d.get (R.AGX_PORT_STATUS_LANE_BAD p)).testBit lane = false)
    (ha : (d.get (R.AGX_PORT_STATUS_LANE_ACTIVE p)).testBit lane = true)
    (he : ((d.markLane p lane).raise1 (R.AGX_PORT_ERR_LANE_FAIL p) lane).rprAdd 2 2 (p * 16 + lane) 0 = e) (hn : (e.port p).sparing = none) :
    d.failLane p lane = e.spareOrRetrain p lane := by
  have fresh : ¬ (9 ≤ lane ∨ (d.get (R.AGX_PORT_STATUS_LANE_BAD p)).testBit lane = true) := by
    rw [hb]; exact not_or.mpr ⟨Nat.not_le.mpr hl, Bool.false_ne_true⟩
  rw [Dev.failLane, if_neg fresh]
  simp only [he, ha, hn, Bool.not_true, Option.isSome_none, Bool.false_eq_true, if_false]

/-- A port that is UP asks its peer for the switch to the spare. -/
theorem Dev.spareOrRetrain_spare {sp : Nat} (hs : d.link p = 3)
    (hf : ((d.goodLanes p).find? fun i => d.get (R.AGX_PORT_LANE_STATE p i) = 1) = some sp) :
    let n := ((d.port p).nextSeq + 64) % 4096
    d.spareOrRetrain p lane = (d.setPort p { d.port p with sparing := some ⟨lane, sp, n, none, false, false⟩ }).sendCtl p 4
      (leBytes 1 4 ++ leBytes 1 lane ++ leBytes 2 n) := by
  simp only [Dev.spareOrRetrain, hf, hs, ne_eq, not_true, false_and, if_false, if_true]

end

section
variable {s : State} {p lane k : Nat} {pl : List Byte} {d : Dev}

/-- A lane's counts of a millisecond: past a threshold it fails, but in TEST none does. -/
theorem does_laneFail (hp : p < 36) (hl : lane < 9) (corr unc : Nat) :
    let d := (s.fresh.count (R.AGX_PORT_LANE_CORR_SYM p lane) corr).count (R.AGX_PORT_LANE_UNCORR_CW p lane) unc
    Does (.laneFail p lane corr unc) s (if s.dev.link p ≠ 8 ∧
      (s.dev.get (R.AGX_PORT_SPARE_TH_CORR_TH p) ≤ corr ∨ s.dev.get (R.AGX_PORT_SPARE_TH_UNCORR_TH p) ≤ unc) then d.failLane p lane else d) := by
  have he : exec (.laneFail p lane corr unc) s = execLaneFail p lane corr unc s := rfl
  have inRange : ¬ (9 ≤ lane ∨ 36 ≤ p) := by omega
  exact does_run (he.trans (by unfold execLaneFail; rfl)) (if_neg inRange)

/-- The first SPARE_REQ is answered with this end's switch number, and names the peer's. -/
theorem does_spareReq_first (ht : s.fresh.takeCtl k 4 = some (p, pl, d)) (hl : recNat pl 0 1 = lane) (h9 : lane < 9)
    (hn : (d.port p).sparing = none) :
    let n := ((d.port p).nextSeq + 64) % 4096
    let sp := ((d.goodLanes p).find? fun i => d.get (R.AGX_PORT_LANE_STATE p i) = 1).getD 8
    let e := (d.markLane p lane).sendCtl p 4 (leBytes 1 5 ++ leBytes 1 lane ++ leBytes 2 n)
    Does (.spareReq k) s (e.setPort p
      { e.port p with sparing := some ⟨lane, sp, n, some (recNat pl 1 2 % 4096), false, false⟩, spareNext := none }) := by
  have he : exec (.spareReq k) s = execSpareReq k s := rfl
  refine does_run (he.trans (by unfold execSpareReq; rfl)) ?_
  simp only [ht, hl, hn, if_neg (Nat.not_le.mpr h9), Option.any_none, Option.bind_none, Bool.false_eq_true, if_false]

/-- One that crosses a switch of a lower lane waits for it. -/
theorem does_spareReq_crossed {x : Sparing} (ht : s.fresh.takeCtl k 4 = some (p, pl, d)) (hl : recNat pl 0 1 = lane) (h9 : lane < 9)
    (hx : (d.port p).sparing = some x) (hlt : x.lane < lane) :
    Does (.spareReq k) s ((d.markLane p lane).setPort p { d.port p with spareNext := some lane }) := by
  have he : exec (.spareReq k) s = execSpareReq k s := rfl
  refine does_run (he.trans (by unfold execSpareReq; rfl)) ?_
  simp only [ht, hl, hx, if_neg (Nat.not_le.mpr h9), Option.any_some, decide_eq_true hlt, if_true]

/-- SPARE_ACK tells the peer's switch number. -/
theorem does_spareAck {x : Sparing} (ht : s.fresh.takeCtl k 5 = some (p, pl, d)) (hx : (d.port p).sparing = some x) :
    Does (.spareAck k) s (d.setPort p { d.port p with sparing := some { x with peerSeq := some (recNat pl 1 2 % 4096) } }) := by
  have he : exec (.spareAck k) s = execSpareAck k s := rfl
  refine does_run (he.trans (by unfold execSpareAck; rfl)) ?_
  simp only [ht, hx, Option.map_some]

end

end Sys2Proof.Machine
end

section
/-!
PROOF. The statement about the link machine.
-/

namespace Sys2Proof.Machine

/-- Settles O26: the link by its state, a LINK_ID by the peer it names, a lane by its counts and the switch under way. -/
theorem linksTrain : Obligations.LinksTrain := by
  refine ⟨fun s p => ⟨fun bad skew hp hs => ?train, does_downRetry, fun k t pl d0 ht hs => does_linkId ht (Dev.linkIdIn_held hs),
      fun k t pl d0 ht hs => ?identify, does_identifyTimeout, does_retrainDone, does_lockLost, does_portDrainDone⟩,
    fun s p lane hp hl => ⟨fun corr unc => ?counts, fun corr unc sp => ?spare, fun k pl d ht hr => ?asked, fun k pl d x => does_spareAck⟩⟩
  case train =>
    intro old d x4
    have trained {e : Dev} := does_trainDone (bad := bad) (skew := skew) (e := e) hp hs rfl
    exact ⟨fun h8 hx => trained (Dev.trainEnded_wide h8 hx), fun h4 hx => trained (Dev.trainEnded_narrow h4 hx),
      fun h4 => trained (Dev.trainEnded_fails h4), does_trainTimeout hs⟩
  case identify =>
    have judged {e : Dev} (h : ((d0.sendLinkId p).peerNamed p pl).judgePeer p t pl = e) : Does (.linkId ⟨k, t⟩) s e :=
      does_linkId ht ((Dev.linkIdIn_identify hs).trans h)
    exact ⟨fun hx hl hh => judged (Dev.judgePeer_up hx hl rfl hh), fun hx hl hh => judged (Dev.judgePeer_otherDomain hx hl rfl hh),
      fun x hx hl hn => judged (Dev.judgePeer_miswired hx hl hn), fun h => judged (Dev.judgePeer_unlisted h)⟩
  case counts =>
    have counted := does_laneFail (s := s) hp hl corr unc
    dsimp only at counted
    exact ⟨fun hs h => by rwa [if_pos ⟨hs, h⟩] at counted, fun h => by rwa [if_neg (by omega)] at counted⟩
  case spare =>
    intro d e hs hc hb ha hn h3 hf n
    have counted := does_laneFail (s := s) hp hl corr unc
    dsimp only at counted
    have fails : s.dev.link p ≠ 8 ∧ (s.dev.get (R.AGX_PORT_SPARE_TH_CORR_TH p) ≤ corr ∨ s.dev.get (R.AGX_PORT_SPARE_TH_UNCORR_TH p) ≤ unc) :=
      ⟨by omega, .inl hc⟩
    rwa [if_pos fails, Dev.failLane_active (d := d) (e := e) hl hb ha rfl hn, Dev.spareOrRetrain_spare h3 hf] at counted
  case asked => exact ⟨does_spareReq_first ht hr hl, fun x => does_spareReq_crossed ht hr hl⟩

end Sys2Proof.Machine
end

section
/-!
SUPPORT. Flits that a port receives: the acknowledgement and the credits they bring, then the flit in its turn (R137, R140, R142).
-/

namespace Sys2Proof.Machine

/-- What the acknowledgement and the credit return of a flit make of a port. -/
def PortUnit.heard (u : PortUnit) (f : Flit) : PortUnit :=
  let u := if f.ackV then u.acked f.ackSeq else u
  if f.crCnt = 0 then u else u.credited f.crPool f.crCnt

section
variable {d : Dev} {p : Nat} {f : Flit}

/-- A port that is not in TEST receives what comes over its lanes. -/
theorem Dev.looped_of_ne_test (hs : d.link p ≠ 8) : d.looped p f = some (f, d) := if_neg fun h => hs h.1

section
variable (hp : p < 36) (hs : d.link p = 3) (ha : d.alive = true) (hf : (d.port p).farEnd = false)
include hp hs ha hf

/-- A port that is UP looks at the CRC first. -/
theorem Dev.flitReceive_up : d.flitReceive p f =
    let e := d.count (R.AGX_PORT_FLITS_RX p) 1
    if f.crc ≠ flitCrc f then
      (if sequencedFlit f then (e.count (R.AGX_PORT_LINK_CRC_ERR p) 1).nakOnce p else e.count (R.AGX_PORT_LINK_CRC_ERR p) 1)
    else e.goodFlit p f := by
  have far : ((d.count (R.AGX_PORT_FLITS_RX p) 1).port p).farEnd = false := hf
  have receives : ¬ (36 ≤ p ∨ d.link p = 0 ∨ d.link p = 1 ∨ (!d.alive) = true) := by
    simp only [ha, hs, Bool.not_true, Bool.false_eq_true, or_false]; omega
  have carries : ¬ ((3 : Nat) = 2 ∨ (3 : Nat) = 5 ∨ (3 : Nat) = 6) := by decide
  rw [Dev.flitReceive, if_neg receives]
  simp only [Dev.looped_of_ne_test (d := d) (p := p) (f := f) (by omega), far, hs, if_neg carries, Bool.false_eq_true, if_false, decide_true,
    Bool.true_or, Bool.and_true]

end

/-! ### The turn of a flit with a right CRC -/

/-- What a sequenced flit does once the acknowledgement and the credits it brought have been heard. -/
def Dev.inTurn (d : Dev) (p : Nat) (f : Flit) : Dev :=
  if (d.port p).seen f.seq then d.setPort p { d.port p with sinceAck := (d.port p).sinceAck + 1 }
  else if f.seq % 4096 ≠ (d.port p).expSeq then d.nakOnce p
  else
    let u := { d.port p with expSeq := ((d.port p).expSeq + 1) % 4096, nakSent := false, sinceAck := (d.port p).sinceAck + 1 }
    let g := (d.setPort p u).spareRx p f.seq
    (if 32 ≤ u.sinceAck then g.sendAck p false else g).acceptFlit p f

theorem ftype_ne_zero_of_sequenced (hq : sequencedFlit f = true) : f.ftype ≠ 0 := by
  intro h
  simp [sequencedFlit, h] at hq

theorem Dev.goodFlit_sequenced (hs : d.link p = 3) (hn : f.nak = false) (h5 : f.ftype < 5) (hq : sequencedFlit f = true) :
    d.goodFlit p f = ((d.setPort p ((d.port p).heard f)).flushCtl p).inTurn p f := by
  simp only [Dev.goodFlit, hs, hn, hq, if_neg (Nat.not_le.mpr h5), if_neg (ftype_ne_zero_of_sequenced hq), Bool.false_eq_true, if_false,
    Bool.not_true, if_neg (show ¬ (3 : Nat) = 8 by decide)]
  rfl

/-- A flit that was accepted before counts for the next acknowledgement. -/
theorem Dev.inTurn_seen (h : (d.port p).seen f.seq = true) : d.inTurn p f = d.setPort p { d.port p with sinceAck := (d.port p).sinceAck + 1 } :=
  if_pos h

/-- A gap is asked for again. -/
theorem Dev.inTurn_gap (hn : f.seq % 4096 ≠ (d.port p).expSeq) (h : (d.port p).seen f.seq = false) : d.inTurn p f = d.nakOnce p := by
  rw [Dev.inTurn, if_neg (by rw [h]; exact Bool.false_ne_true), if_pos hn]

/-- A flit in sequence is taken, after the acknowledgement that is due every 32 flits. -/
theorem Dev.inTurn_next {u : PortUnit} (hn : f.seq % 4096 = (d.port p).expSeq)
    (hu : { d.port p with expSeq := ((d.port p).expSeq + 1) % 4096, nakSent := false, sinceAck := (d.port p).sinceAck + 1 } = u) :
    d.inTurn p f = (if 32 ≤ u.sinceAck then ((d.setPort p u).spareRx p f.seq).sendAck p false else (d.setPort p u).spareRx p f.seq).acceptFlit p f := by
  have unseen : ¬ (d.port p).seen f.seq = true := by rw [PortUnit.seen, hn]; simp
  rw [Dev.inTurn, if_neg unseen, if_neg (not_not.mpr hn), hu]

end

/-- A sequenced flit with a right CRC that a port which is UP receives. -/
theorem does_flitReceive_inTurn {s : State} {p : Nat} {f : Flit} (hp : p < 36) (hs : s.dev.link p = 3) (ha : s.dev.alive = true)
    (hf : (s.dev.port p).farEnd = false) (hc : f.crc = flitCrc f) (hn : f.nak = false) (h5 : f.ftype < 5) (hq : sequencedFlit f = true) {d e : Dev}
    (hd : ((s.fresh.count (R.AGX_PORT_FLITS_RX p) 1).setPort p ((s.dev.port p).heard f)).flushCtl p = d) (he : d.inTurn p f = e) :
    Does (.flitReceive p f) s e := by
  have up := Dev.flitReceive_up (d := s.fresh) (f := f) hp hs ha hf
  have good := Dev.goodFlit_sequenced (d := s.fresh.count (R.AGX_PORT_FLITS_RX p) 1) hs hn h5 hq
  exact does_run (f := fun d => d.flitReceive p f) rfl (up.trans ((if_neg (not_not.mpr hc)).trans (good.trans (hd ▸ he))))

theorem does_flitReceive_badCrc {s : State} {p : Nat} {f : Flit} (hp : p < 36) (hs : s.dev.link p = 3) (ha : s.dev.alive = true)
    (hf : (s.dev.port p).farEnd = false) (hc : f.crc ≠ flitCrc f) (hq : sequencedFlit f = true) :
    Does (.flitReceive p f) s (((s.fresh.count (R.AGX_PORT_FLITS_RX p) 1).count (R.AGX_PORT_LINK_CRC_ERR p) 1).nakOnce p) := by
  have up := Dev.flitReceive_up (d := s.fresh) (f := f) hp hs ha hf
  exact does_run (f := fun d => d.flitReceive p f) rfl (up.trans ((if_pos hc).trans (if_pos hq)))

end Sys2Proof.Machine
end

section
/-!
SUPPORT. Flits that leave: replay and acknowledgement, packets in their window or by their lane, round trips, the end of the far-end
loop-back, and a slot of the beat (R137, R141, R152, R154, R158).
-/

namespace Sys2Proof.Machine

/-! ### Replay and acknowledgement (R137) -/

section
variable {s : State} {p : Nat} (hs : s.dev.link p = 3 ∨ s.dev.link p = 7 ∨ s.dev.link p = 8)
include hs

theorem does_replayTimeout {d : Dev} (hd : s.fresh.replayPort p = d) : Does (.replayTimeout p) s d :=
  does_run (f := fun d => if d.link p = 3 ∨ d.link p = 7 ∨ d.link p = 8 then d.replayPort p else d) rfl ((if_pos hs).trans hd)

theorem does_acknowledgementInterval (h : 0 < (s.dev.port p).sinceAck) : Does (.acknowledgementInterval p) s (s.fresh.sendAck p false) :=
  does_run rfl (if_pos ⟨h, hs⟩)

end

section
variable {d : Dev} {p : Nat} (hr : (d.port p).replay ≠ [])
include hr

/-- What is not acknowledged is sent again. -/
theorem Dev.replayPort_again (h8 : (d.port p).replays < 8) : d.replayPort p = (d.port p).replay.foldl (fun (d : Dev) x => d.wire p x.flit false)
    ((d.setPort p { d.port p with replays := (d.port p).replays + 1 }).count (R.AGX_PORT_LINK_REPLAYED p) (d.port p).replay.length) := by
  rw [Dev.replayPort, if_neg (by rwa [List.isEmpty_iff]), if_neg (Nat.not_le.mpr h8)]

/-- The ninth time, the link ends. -/
theorem Dev.replayPort_limit (h8 : 8 ≤ (d.port p).replays) : d.replayPort p = (d.raise1 (R.AGX_PORT_ERR_REPLAY_LIMIT p) p).goDown p 5 := by
  rw [Dev.replayPort, if_neg (by rwa [List.isEmpty_iff]), if_pos h8]

end

/-! ### Packets (R141, R158) -/

section
variable {d : Dev} {p left n : Nat} {q : QPkt} {u : PortUnit} (ha : d.alive = true) (hs : d.link p = 3 ∨ d.link p = 7)
  (hf : d.fencedOut (d.get (R.AGX_PORT_STATUS_PEER_ID p)) = false) (hc : d.capped p = false) (hn : 0 < n) (hm : d.maySend p q = some u)
include ha hs hf hc hn

theorem Dev.packetSend_sends : ¬ ((!d.alive) = true ∨ (d.link p ≠ 3 ∧ d.link p ≠ 7) ∨
    d.fencedOut (d.get (R.AGX_PORT_STATUS_PEER_ID p)) = true ∨ d.capped p = true ∨ n = 0) := by
  simp only [ha, hf, hc, Bool.not_true, Bool.false_eq_true, false_or]; omega

include hm

/-- The stream whose window is open goes first, where the flits left of its packet fit. -/
theorem Dev.packetSend_window (hq : (d.port p).laneHead 0 (d.inWindow p) = some q) (hw : d.inWindow p q = true)
    (hl : q.flits.length - q.sent ≤ left) : d.packetSend p left n = d.sendPkt p u q n := by
  rw [Dev.packetSend, if_neg (Dev.packetSend_sends ha hs hf hc hn)]
  simp only [hq, Option.bind_some, if_pos (And.intro hw hl), hm, Option.map_some]

/-- Else the first virtual lane in order sends, and goes behind the others. -/
theorem Dev.packetSend_lane {vl : Nat} (hw : (d.port p).laneHead 0 (d.inWindow p) = none) (hv : (d.port p).vlOrder.head? = some vl)
    (hq : (d.port p).laneHead vl (fun q => vl ≠ 0 || (q.plan.isNone && !d.inWindow p q)) = some q) :
    d.packetSend p left n = d.sendPkt p { u with vlOrder := (d.port p).vlOrder.erase vl ++ [vl] } q n := by
  obtain ⟨rest, ho⟩ := List.head?_eq_some_iff.mp hv
  rw [Dev.packetSend, if_neg (Dev.packetSend_sends ha hs hf hc hn)]
  simp only [hw, Option.bind_none, ho, List.findSome?_cons, hq, Option.bind_some, hm, Option.map_some]

end

theorem does_packetSend {s : State} {p left n : Nat} {d : Dev} (hs : s.dev.link p = 3 ∨ s.dev.link p = 7) (hd : s.fresh.packetSend p left n = d) :
    Does (.packetSend p ⟨left, n⟩) s d :=
  does_run (f := fun d => if d.link p = 8 then d.testSend p else d.packetSend p left n) rfl
    ((if_neg (show ¬ s.dev.link p = 8 by omega)).trans hd)

/-! ### Round trips and far-end loop-back (R152, R154) -/

section
variable {s : State} {k t p : Nat} {pl : List Byte} {d : Dev}

theorem does_rttProbeTimer (hs : s.dev.link p = 3 ∨ s.dev.link p = 7) : Does (.rttProbeTimer p t) s (s.fresh.probe p t) :=
  does_run rfl (if_pos hs)

theorem does_rttProbe (ht : s.fresh.takeCtl k 2 = some (p, pl, d)) : Does (.rttProbe k) s (d.sendRaw p 4 (leBytes 1 3)) :=
  does_ctl (f := fun p _ d => d.sendRaw p 4 (leBytes 1 3)) rfl ht rfl

/-- An echo ends the round trip that was begun. -/
theorem does_rttEcho {t0 : Nat} (ht : s.fresh.takeCtl k 3 = some (p, pl, d)) (hp : (d.port p).probeAt = some t0) :
    Does (.rttEcho k t) s ((d.set (R.AGX_PORT_RTT_TICKS p) (min (t - t0) (2 ^ 20 - 1))).setPort p { d.port p with probeAt := none }) := by
  have he : exec (.rttEcho k t) s = execRttEcho k t s := rfl
  refine does_run (he.trans (by unfold execRttEcho; rfl)) ?_
  simp only [ht, hp]

theorem does_loopReq (ht : s.fresh.takeCtl k 6 = some (p, pl, d)) :
    Does (.loopReq k) s (if d.testEnable then d.setPort p { d.port p with farEnd := true } else d) :=
  does_ctl (f := fun p _ d => if d.testEnable then d.setPort p { d.port p with farEnd := true } else d) rfl ht rfl

theorem does_loopExit (ht : s.fresh.takeCtl k 7 = some (p, pl, d)) : Does (.loopExit k) s (d.setPort p { d.port p with farEnd := false }) :=
  does_ctl (f := fun p _ d => d.setPort p { d.port p with farEnd := false }) rfl ht rfl

end

/-! ### Slots (R158) -/

/-- A slot begins, and no planned packet has run out of windows. -/
theorem does_vl0SlotStart {s : State} {n : Nat} (hn : n < 64) (hb : s.dev.beating = true) :
    let d : Dev := { s.fresh with beat := { s.dev.beat with slot := n } }
    (∀ q r, q ∈ (s.dev.port r).txq → d.windowGone r q = false) → Does (.vl0SlotStart n) s d := by
  intro d hw
  have none (p : Nat) : (d.port p).txq.filter (d.windowGone p) = [] :=
    List.filter_eq_nil_iff.mpr fun q hq => by rw [hw q p hq]; exact Bool.false_ne_true
  have begins : ¬ (64 ≤ n ∨ (!s.fresh.beating) = true) := by
    simp only [show s.fresh.beating = true from hb, Bool.not_true, Bool.false_eq_true, or_false]; omega
  have he : exec (.vl0SlotStart n) s = execVl0SlotStart n s := rfl
  refine does_run (he.trans (by unfold execVl0SlotStart; rfl)) ?_
  refine (if_neg begins).trans ?_
  exact List.foldl_fixed' (fun p => if_pos (congrArg (List.foldl (fun x (q : QPkt) => x + q.flits.length) 0) (none p))) _

end Sys2Proof.Machine
end

section
/-!
PROOF. The statement about flits in and out of a port.
-/

namespace Sys2Proof.Machine

/-- Settles O27: a flit by its CRC and its sequence number, a packet by its window or its lane, a CONTROL flit by its subtype. -/
theorem linksCarry : Obligations.LinksCarry := by
  intro s p
  refine ⟨fun f hp hs ha hf hc hn h5 hq => ?receives, fun f => does_flitReceive_badCrc, fun hs hr => ⟨fun h8 => ?replays, fun h8 => ?ends⟩,
    does_acknowledgementInterval, fun left n q u ha hs hf hc hn hm => ⟨fun hq hw hl => ?window, fun vl hw hv hq => ?lane⟩,
    fun t hs => ⟨fun hm => ?probes, fun hm => ?waits⟩, fun k pl d => does_rttProbe, fun k t t0 pl d => does_rttEcho,
    fun k pl d ht he => ?farEnd, fun k pl d ht he => ?noTest, fun k pl d => does_loopExit, fun n => does_vl0SlotStart⟩
  case receives =>
    intro d u v e x g
    have turn {r : Dev} := does_flitReceive_inTurn hp hs ha hf hc hn h5 hq (d := e) (e := r) rfl
    refine ⟨fun hx h32 => turn ?_, fun hx h32 => turn ?_, fun h => turn (Dev.inTurn_seen h), fun hx h => turn (Dev.inTurn_gap hx h)⟩
    · exact (Dev.inTurn_next (u := x) hx rfl).trans (by rw [if_neg (Nat.not_le.mpr h32)])
    · exact (Dev.inTurn_next (u := x) hx rfl).trans (by rw [if_pos h32])
  case replays => exact does_replayTimeout hs (Dev.replayPort_again (d := s.fresh) hr h8)
  case ends => exact does_replayTimeout hs (Dev.replayPort_limit (d := s.fresh) hr h8)
  case window => exact does_packetSend hs (Dev.packetSend_window (d := s.fresh) ha hs hf hc hn hm hq hw hl)
  case lane => exact does_packetSend hs (Dev.packetSend_lane (d := s.fresh) ha hs hf hc hn hm hw hv hq)
  case probes =>
    have h := does_rttProbeTimer (t := t) hs
    rwa [Dev.probe, if_pos hm] at h
  case waits =>
    have h := does_rttProbeTimer (t := t) hs
    rwa [Dev.probe, if_neg (by rw [hm]; exact Bool.false_ne_true)] at h
  case farEnd =>
    have h := does_loopReq ht
    rwa [if_pos he] at h
  case noTest =>
    have h := does_loopReq ht
    rwa [if_neg (by rw [he]; exact Bool.false_ne_true)] at h

end Sys2Proof.Machine
end

section
/-!
SUPPORT. Stores to the tree, route and fence tables, and a routing fence's timeout (R148, R150, R168, R172).
-/

namespace Sys2Proof.Machine

/-! ### Tree entries (R172) -/

section
variable {d : Dev} {n k v : Nat}

/-- The row of word 0 of a tree. -/
abbrev treeRow0 : RegRow := rowsAgx[28]

/-- The row of word 1. -/
abbrev treeRow1 : RegRow := rowsAgx[29]

/-- The row of word 2. -/
abbrev treeRow2 : RegRow := rowsAgx[30]

/-- The row of AGX_ROUTE_SWAP. -/
abbrev routeSwapRow : RegRow := rowsAgx[4]

/-- The row of AGX_FENCE_ARM. -/
abbrev fenceArmRow : RegRow := rowsAgx[15]

/-- Words 0 to 2 of a tree are listed, and a store to one is the store of a tree word. -/
theorem Dev.store_treeWord (d : Dev) (w : Who) (hn : n < 256) (hk : k < 3) (v : Nat) :
    ∃ row, findRow (R.AGX_MC_TREE_W0 n + 8 * k) = some (row, [n]) ∧
      d.store w row [n] (R.AGX_MC_TREE_W0 n + 8 * k) v = d.treeWrite n k v := by
  have w1 : R.AGX_MC_TREE_W0 n + 8 * 1 = R.AGX_MC_TREE_W1 n := by rw [R.AGX_MC_TREE_W0, R.AGX_MC_TREE_W1]; omega
  have w2 : R.AGX_MC_TREE_W0 n + 8 * 2 = R.AGX_MC_TREE_W2 n := by rw [R.AGX_MC_TREE_W0, R.AGX_MC_TREE_W2]; omega
  obtain rfl | rfl | rfl : k = 0 ∨ k = 1 ∨ k = 2 := by omega
  · exact ⟨treeRow0, (findRow_AGX_MC_TREE_W0 n hn).trans rfl, rfl⟩
  · exact ⟨treeRow1, w1 ▸ (findRow_AGX_MC_TREE_W1 n hn).trans rfl, rfl⟩
  · exact ⟨treeRow2, w2 ▸ (findRow_AGX_MC_TREE_W2 n hn).trans rfl, rfl⟩

/-- An entry that is not valid takes its words; PULL_DONE and PULL_DROP act in word 2. -/
theorem Dev.treeWrite_invalid (hk : k < 3) (hv : d.mcValid n = false) : d.treeWrite n k v =
    let o := R.AGX_MC_TREE_W0 n + 8 * k
    let e := d.setWord o (BitVec.ofNat 64 ((v &&& treeMask k) + ((d.reg o).toNat - ((d.reg o).toNat &&& treeMask k))))
    if k = 2 then e.pullBits n v else e := by
  rw [Dev.treeWrite, if_neg (Nat.not_le.mpr hk), if_neg (by rw [hv]; exact Bool.false_ne_true)]

section
variable (hv : d.mcValid n = true)
include hv

/-- A valid entry refuses word 1. -/
theorem Dev.treeWrite_valid_one : d.treeWrite n 1 v = d.raise1 R.AGX_COL_ERR_TREE_WRITE n := by
  have keeps : ¬ (decide (1 = 0) && !bitAt v 63) = true := Bool.false_ne_true
  have pulls : ¬ (decide (1 = 2) && (bitAt v 63 || bitAt v 62)) = true := Bool.false_ne_true
  rw [Dev.treeWrite, if_neg (by decide), if_pos hv, if_neg keeps, if_neg pulls]

/-- In word 2 of a valid entry the two pull bits act. -/
theorem Dev.treeWrite_valid_pulls (hb : bitAt v 63 = true ∨ bitAt v 62 = true) : d.treeWrite n 2 v = d.pullBits n v := by
  have keeps : ¬ (decide (2 = 0) && !bitAt v 63) = true := Bool.false_ne_true
  have pulls : (decide (2 = 2) && (bitAt v 63 || bitAt v 62)) = true := Bool.or_eq_true_iff.mpr hb
  rw [Dev.treeWrite, if_neg (by decide), if_pos hv, if_neg keeps, if_pos pulls]

end

/-- PULL_DONE alone, where the receiver is MISSED and pulls are not automatic: the receiver is whole. -/
theorem Dev.pullBits_done (h63 : bitAt v 63 = true) (h62 : bitAt v 62 = false) (hs : d.get (R.AGX_MC_TREE_W3_RX_STATE n) = 2)
    (ha : d.flag R.AGX_MC_CTL_AUTO_PULL = false) : d.pullBits n v = d.mcPulled n := by
  simp only [Dev.pullBits, h63, h62, hs, ha, decide_true, Bool.not_false, Bool.and_true, Bool.false_and, Bool.false_eq_true, if_true, if_false]

/-- PULL_DROP alone, at the source: one pull fewer. -/
theorem Dev.pullBits_drop (h63 : bitAt v 63 = false) (h62 : bitAt v 62 = true) (hs : d.mcSource n = true) : d.pullBits n v = d.pullLess n := by
  simp only [Dev.pullBits, h63, h62, Bool.false_and, Bool.true_and, Bool.false_eq_true, if_false, if_pos hs]

end

section
variable {s : State} {w : Who} {n k v u : Nat} {c : Instr} {d : Dev}

/-- A store to a tree word by a command. -/
theorem does_treeWrite {o : Nat} (h : exec c s = regWrite8 w o u s) (ho : o = R.AGX_MC_TREE_W0 n + 8 * k) (hn : n < 256) (hk : k < 3) (hu : u < 2 ^ 64)
    (ht : s.takes w o) (hd : s.fresh.treeWrite n k u = d) : Does c s d := by
  subst ho
  obtain ⟨row, hf, hs⟩ := s.fresh.store_treeWord w hn hk u
  refine does_write h ht hf ?_ ?_ hu (hs.trans hd)
  · rw [R.AGX_MC_TREE_W0]; omega
  · rw [R.AGX_MC_TREE_W0, R.SEC_CTL]; omega

theorem does_mcTreeWrite (hn : n < 256) (hk : k < 3) (hv : v < 2 ^ 64) (ht : s.takes w (R.AGX_MC_TREE_W0 n + 8 * k))
    (hd : s.fresh.treeWrite n k v = d) : Does (.mcTreeWrite w n k v) s d := by
  have h : exec (.mcTreeWrite w n k v) s = regWrite8 w (R.AGX_MC_TREE_W0 (n % 256) + 8 * (k % 4)) v s := rfl
  rw [Nat.mod_eq_of_lt hn, Nat.mod_eq_of_lt (by omega)] at h
  exact does_treeWrite h rfl hn hk hv ht hd

section
variable (hn : n < 256) (ht : s.takes w (R.AGX_MC_TREE_W2 n)) (hm : s.fresh.mcValid n = true)
include hn ht hm

/-- A store to word 2 of a valid entry with a pull bit set. -/
theorem does_treePull (h : exec c s = regWrite8 w (R.AGX_MC_TREE_W2 (n % 256)) u s) (hu : u < 2 ^ 64)
    (hb : bitAt u 63 = true ∨ bitAt u 62 = true) (hd : s.fresh.pullBits n u = d) : Does c s d := by
  rw [Nat.mod_eq_of_lt hn] at h
  exact does_treeWrite h (k := 2) (by rw [R.AGX_MC_TREE_W0, R.AGX_MC_TREE_W2]; omega) hn (by decide) hu ht ((Dev.treeWrite_valid_pulls hm hb).trans hd)

variable (hv : v < 2 ^ 64)
include hv

theorem does_pullDone (h62 : bitAt v 62 = false) (hs : s.dev.get (R.AGX_MC_TREE_W3_RX_STATE n) = 2)
    (ha : s.dev.flag R.AGX_MC_CTL_AUTO_PULL = false) : Does (.pullDone w n v) s (s.fresh.mcPulled n) := by
  have top : Topped v true (v.testBit 62) ((R.AGX_MC_TREE_W2_PULL_DONE 0).on v) := topped_on63 ⟨rfl, rfl⟩ hv
  have done : bitAt ((R.AGX_MC_TREE_W2_PULL_DONE 0).on v) 63 = true := (bitAt_eq_testBit _ _).trans top.bit63
  have noDrop : bitAt ((R.AGX_MC_TREE_W2_PULL_DONE 0).on v) 62 = false := by rw [bitAt_eq_testBit, top.bit62, ← bitAt_eq_testBit, h62]
  exact does_treePull hn ht hm rfl top.lt (.inl done) (Dev.pullBits_done (d := s.fresh) done noDrop hs ha)

theorem does_pullDrop (h63 : bitAt v 63 = false) (hs : s.fresh.mcSource n = true) : Does (.pullDrop w n v) s (s.fresh.pullLess n) := by
  have top : Topped v (v.testBit 63) (v.testBit 62) v := ⟨hv, rfl, rfl, fun _ _ _ _ => rfl⟩
  have top := top.on62 (f := R.AGX_MC_TREE_W2_PULL_DROP 0) ⟨rfl, rfl⟩
  have drop : bitAt ((R.AGX_MC_TREE_W2_PULL_DROP 0).on v) 62 = true := (bitAt_eq_testBit _ _).trans top.bit62
  have notDone : bitAt ((R.AGX_MC_TREE_W2_PULL_DROP 0).on v) 63 = false := by rw [bitAt_eq_testBit, top.bit63, ← bitAt_eq_testBit, h63]
  exact does_treePull hn ht hm rfl top.lt (.inr drop) (Dev.pullBits_drop (d := s.fresh) notDone drop hs)

end

end

/-! ### The route table and the fence table (R148, R168) -/

/-- A plain store to a register whose one field takes it sets that field. -/
theorem Dev.plainStore_oneField (d : Dev) (w : Who) {row : RegRow} {f : Fld} {v : Nat} (ht : takeMask row d.imageActive = f.mask)
    (hi : (rowMask row fun a => a = .rwi) = 0) (hc : (rowMask row fun a => a = .w1c) = 0) :
    d.plainStore w row f.reg v = d.set f (f.of v) := by
  rw [d.plainStore_eq w row f.reg v (.inr (by rw [hi, Nat.and_zero])), ht, hc, Nat.zero_and, Nat.or_zero]
  refine congrArg (d.setWord f.reg) (BitVec.eq_of_getLsbD_eq fun i h64 => ?_)
  have set := testBit_wordSet (d.reg f.reg) f (f.of v) i
  rw [BitVec.testBit_toNat] at set
  rw [set, Fld.of, testBit_bits]
  simp only [BitVec.getLsbD_or, BitVec.getLsbD_and, BitVec.getLsbD_not, BitVec.getLsbD_ofNat, h64, testBit_mask, decide_true, Bool.true_and,
    BitVec.testBit_toNat]
  by_cases hf : f.lo ≤ i ∧ i < f.lo + (f.hi + 1 - f.lo)
  · have hw : i - f.lo < f.hi + 1 - f.lo := by omega
    rw [if_pos hf, decide_eq_true hf.1, decide_eq_true hf.2, decide_eq_true hw, Nat.add_sub_cancel' hf.1]
    simp
  · have out : (decide (f.lo ≤ i) && decide (i < f.lo + (f.hi + 1 - f.lo))) = false := by rw [← Bool.decide_and]; exact decide_eq_false hf
    rw [if_neg hf, out]
    simp

section
variable {s : State} {w : Who} {v : Nat} (hv : v < 2 ^ 64)
include hv

theorem does_agxRouteSwap (ht : s.takes w R.AGX_ROUTE_SWAP) : Does (.agxRouteSwap w v) s (s.fresh.set R.AGX_ROUTE_SWAP_ARM 1) := by
  refine does_write (row := routeSwapRow) (ix := []) rfl ht rfl (by decide) (by decide) (Fld.on_lt _ v rfl hv) ?_
  have take : takeMask routeSwapRow s.fresh.imageActive = R.AGX_ROUTE_SWAP_ARM.mask := by cases s.fresh.imageActive <;> rfl
  have arm := s.fresh.plainStore_oneField w (f := R.AGX_ROUTE_SWAP_ARM) (v := R.AGX_ROUTE_SWAP_ARM.on v) take rfl rfl
  rwa [Fld.of_on _ v rfl] at arm

/-- AGX_FENCE_ARM stores ARM and AT_BEAT alone. -/
theorem does_agxFenceArm (ht : s.takes w R.AGX_FENCE_ARM) : ∃ d, s.fresh.storedAt R.AGX_FENCE_ARM d ∧ d.get R.AGX_FENCE_ARM_ARM = 1 ∧
    d.get R.AGX_FENCE_ARM_AT_BEAT = v % 2 ^ 48 ∧ Does (.agxFenceArm w v) s d := by
  have found : findRow R.AGX_FENCE_ARM = some (fenceArmRow, []) := rfl
  have top : Topped v true (v.testBit 62) (R.AGX_FENCE_ARM_ARM.on v) := topped_on63 ⟨rfl, rfl⟩ hv
  let d := s.fresh.plainStore w fenceArmRow R.AGX_FENCE_ARM (R.AGX_FENCE_ARM_ARM.on v)
  have arm : d.get R.AGX_FENCE_ARM_ARM = 1 :=
    (s.fresh.plainStore_get_takes w _ found (F := ⟨R.AGX_FENCE_ARM_ARM, .rw, 0⟩) (by decide) rfl).trans (Fld.of_on _ v rfl)
  have beat : d.get R.AGX_FENCE_ARM_AT_BEAT = v % 2 ^ 48 :=
    (s.fresh.plainStore_get_takes w _ found (F := ⟨R.AGX_FENCE_ARM_AT_BEAT, .rw, 0⟩) (by decide) rfl).trans top.mod_beat
  exact ⟨d, s.fresh.plainStore_storedAt_of_noRwi w _ _ rfl, arm, beat, does_write rfl ht found (by decide) (by decide) top.lt rfl⟩

end

/-! ### Routing fences (R150) -/

/-- A routing fence that times out lets what it held go. -/
theorem does_routeFenceTimeout {s : State} {dest began : Nat} {held : List QPkt}
    (hf : (s.dev.agx.fences.find? fun f => f.1 = dest) = some (dest, began, held))
    (hb : s.dev.get R.AGX_CTL_FENCE_TIMEOUT_BEATS ≤ beatSub s.dev.beatNow began) :
    let d : Dev := { s.fresh with agx := { s.dev.agx with fences := s.dev.agx.fences.filter fun f => f.1 ≠ dest } }
    Does (.routeFenceTimeout dest) s ((held.foldl (fun (d : Dev) q => d.launch q.pkt q.plan) d).raise1 R.AGX_ERR_FORCED_REORDER dest) := by
  intro d
  have hf : (s.fresh.agx.fences.find? fun f => f.1 = dest) = some (dest, began, held) := hf
  have he : exec (.routeFenceTimeout dest) s = execRouteFenceTimeout dest s := rfl
  refine does_run (he.trans (by unfold execRouteFenceTimeout; rfl)) ?_
  simp only [hf]
  exact if_neg (Nat.not_lt.mpr hb)

end Sys2Proof.Machine
end

section
/-!
PROOF. The statement about stores to the fabric's tables.
-/

namespace Sys2Proof.Machine

/-- Settles O31: a tree's entry by whether it is valid and by the word, then the route table, the fence table and a routing fence. -/
theorem fabricTables : Obligations.FabricTables := by
  intro s w v hv
  refine ⟨fun n k hn hk ht hm => ?invalid, fun n hn ht hm => ?refused, fun n hn ht hm => ⟨fun h62 hs ha => ?pulled, fun h63 hs => ?dropped⟩,
    does_agxRouteSwap hv, does_agxFenceArm hv, fun dest began held => does_routeFenceTimeout⟩
  case invalid => exact does_mcTreeWrite hn hk hv ht (Dev.treeWrite_invalid hk hm)
  case refused => exact does_mcTreeWrite hn (by decide) hv ht (Dev.treeWrite_valid_one hm)
  case pulled => exact does_pullDone hn ht hm hv h62 hs ha
  case dropped => exact does_pullDrop hn ht hm hv h63 hs

end Sys2Proof.Machine
end

section
/-!
SUPPORT. Multicast trees: a packet that comes in its turn, CONTROL flits along the tree, the end of a pull, a branch that lags (R162–R166).
-/

namespace Sys2Proof.Machine

/-! ### A packet from the uplink (R163) -/

section
variable {d e : Dev} {k n : Nat} {a : Arrival} {q : Pkt} (hn : q.dest = n) (h256 : n < 256) (hl : laneOk q = true) (hv : d.mcValid n = true)
  (hu : a.ingress = d.mcUp n) (he : bits q.mcInfo 23 16 = d.mcEpoch n)
  (hb : q.addr + q.data.length ≤ d.get (R.AGX_MC_TREE_W1_RX_SIZE_64K n) * 65536) (hs : d.mcDeliver n = true → bits q.mcInfo 15 0 = d.mcNext n)

include hs in
/-- SEQ is the next one where the tree delivers here; elsewhere any will do. -/
theorem Dev.mcInSeq : (!d.mcDeliver n || decide (bits q.mcInfo 15 0 = d.mcNext n)) = true := by
  cases hd : d.mcDeliver n with
  | false => rfl
  | true => simp only [decide_eq_true (hs hd), Bool.or_true]

include hn h256 hl hv hu he hb hs in
/-- A packet of the current epoch, in its turn, that has room and has not used up its hops is delivered, copied and acknowledged. -/
theorem Dev.multicastWrite_current (ha : d.agx.inbox[k]? = some a) (ht : d.takeIn k = some (a, e)) (hi : a.item = .mcast q)
    (hturn : d.laneTurn k a.ingress q.src q.vl true = true) (hw : d.mcWaits n q = false) (hh : q.hops < 3)
    (hr : d.branchRoom n q.flits.length = true) : d.multicastWrite k =
      (((e.mcDeliverPkt n a.ingress q).mcCopy n { q with hops := q.hops + 1 } none (some (a.ingress, a.mark))).mcWhole n).mcAck n := by
  have tree : q.dest % 256 = n := hn ▸ Nat.mod_eq_of_lt (hn ▸ h256)
  have listed : q.dest < 256 := hn ▸ h256
  have current : decide (bits q.mcInfo 23 16 ≠ d.mcEpoch n) = false := decide_eq_false (not_not.mpr he)
  have accepted : decide (bits q.mcInfo 23 16 = d.mcEpoch n ∨ bits q.mcInfo 23 16 = (d.mcEpoch n + 1) % 256) = true := decide_eq_true (.inl he)
  have fromUplink : decide (a.ingress = d.mcUp n) = true := decide_eq_true hu
  have inBounds : d.mcInBounds n q = true := decide_eq_true hb
  have hops : decide (q.hops = 3) = false := decide_eq_false (Nat.ne_of_lt hh)
  simp only [Dev.multicastWrite, ha, ht, hi, tree, listed, current, accepted, fromUplink, inBounds, hops, hturn, hl, hv, hw, hr, Dev.mcInSeq hs,
    decide_true, Bool.not_true, Bool.not_false, Bool.and_self, Bool.true_or, Bool.false_and, Bool.or_self, Bool.false_eq_true, if_false]

end

/-! ### CONTROL flits along the tree (R165) -/

/-- No epoch is the one after itself. -/
theorem ne_next_epoch (e : Nat) : e ≠ (e + 1) % 256 := by omega

section
variable {s : State} {k n e p : Nat} {r : List Byte} {d : Dev} (hv : d.mcValid n = true)
include hv

section
variable (hp : (d.mcDown n).contains p = true)
include hp

/-- A flit about a valid tree from one of its branches is heard. -/
theorem Dev.hears_branch : ¬ ((!d.mcValid n || !(d.mcDown n).contains p) = true) := by
  rw [hv, hp]; exact Bool.false_ne_true

/-- An acknowledgement of the current epoch becomes what its branch last sent. -/
theorem does_mcAck (ht : s.fresh.takeTree k 0x20 = some (n, e, r, p, d)) (he : e = d.mcEpoch n) : Does (.mcAck k) s
    ((d.setTree n { d.tree n with branches := ((d.tree n).branches.filter fun x => x.port ≠ p) ++
      [⟨p, e, recNat r 0 2, recNat r 2 2, bitAt (recNat r 4 1) 0⟩] }).mcAck n) := by
  refine does_run (show execMcAck k s = run s _ from rfl) ?_
  simp only [ht]
  exact if_neg (by rw [hv, hp, he]; simp)

/-- A prune below raises the source's pulls by the receivers it names; elsewhere it goes on upstream. -/
theorem does_mcPruned (ht : s.fresh.takeTree k 0x22 = some (n, e, r, p, d)) : Does (.mcPruned k) s
    (if d.mcSource n then
      (if e = d.mcEpoch n then (d.set (R.AGX_MC_TREE_W2_OUT_PULLS n) (d.get (R.AGX_MC_TREE_W2_OUT_PULLS n) + recNat r 0 2)).mcAck n else d)
    else d.mcSendUp n (leBytes 1 0x22 ++ leBytes 1 n ++ leBytes 1 e ++ r.take 2)) := by
  refine does_run (show execMcPruned k s = run s _ from rfl) ?_
  simp only [ht]
  exact if_neg (Dev.hears_branch hv hp)

/-- A pull that has ended below is one fewer at the source; elsewhere it goes on upstream. -/
theorem does_mcPulled (ht : s.fresh.takeTree k 0x23 = some (n, e, r, p, d)) : Does (.mcPulled k) s
    (if d.mcSource n then (if e = d.mcEpoch n then d.pullLess n else d)
    else d.mcSendUp n (leBytes 1 0x23 ++ leBytes 1 n ++ leBytes 1 e ++ r.take 2)) := by
  refine does_run (show execMcPulled k s = run s _ from rfl) ?_
  simp only [ht]
  exact if_neg (Dev.hears_branch hv hp)

end

section
variable (hp : p = d.mcUp n) (he : e = d.mcEpoch n)
include hp he

/-- A flit about a valid tree from its uplink, of the current epoch, begins no epoch and is heard. -/
theorem Dev.hears_uplink (f : Dev → Dev) : (if !d.mcValid n || p ≠ d.mcUp n then d
    else
      let d := if e = (d.mcEpoch n + 1) % 256 then d.mcBegin n e else d
      if e ≠ d.mcEpoch n then d else f d) = f d := by
  have heard : ¬ ((!d.mcValid n || p ≠ d.mcUp n) = true) := by
    rw [hv, hp]; simp
  have same : ¬ e = (d.mcEpoch n + 1) % 256 := by rw [← he]; exact ne_next_epoch e
  simp only [if_neg heard, if_neg same, if_neg (not_not.mpr he)]

/-- A prune makes the receivers below MISSED. -/
theorem does_mcPrune (ht : s.fresh.takeTree k 0x21 = some (n, e, r, p, d)) : Does (.mcPrune k) s
    ((d.mcMissed n).mcSendDown n (leBytes 1 0x21 ++ leBytes 1 n ++ leBytes 1 e ++ r.take 2)) := by
  refine does_run (show execMcPrune k s = run s _ from rfl) ?_
  simp only [ht]
  exact Dev.hears_uplink hv hp he fun d => (d.mcMissed n).mcSendDown n (leBytes 1 0x21 ++ leBytes 1 n ++ leBytes 1 e ++ r.take 2)

/-- The end of the epoch is told below; a receiver with all of it is whole, a MISSED one pulls. -/
theorem does_mcEnd (ht : s.fresh.takeTree k 0x24 = some (n, e, r, p, d)) : Does (.mcEnd k) s
    ((((d.setTree n { d.tree n with last := some (recNat r 0 2, recNat r 2 2) }).mcSendDown n
      (leBytes 1 0x24 ++ leBytes 1 n ++ leBytes 1 e ++ r.take 4)).mcWhole n).mcPull n) := by
  refine does_run (show execMcEnd k s = run s _ from rfl) ?_
  simp only [ht]
  exact Dev.hears_uplink hv hp he fun d => (((d.setTree n { d.tree n with last := some (recNat r 0 2, recNat r 2 2) }).mcSendDown n
    (leBytes 1 0x24 ++ leBytes 1 n ++ leBytes 1 e ++ r.take 4)).mcWhole n).mcPull n

end

end

/-! ### The end of a pull (R165) -/

/-- A pull with no READ open ends: whole, or, where one failed, with the receiver's state as it was. -/
theorem does_mcPullDone {s : State} {n : Nat} (hp : (s.fresh.tree n).pulling = true) (ht : s.dev.agx.tags = []) (hw : s.dev.agx.waiters = []) :
    Does (.mcPullDone n) s
      (if (s.fresh.tree n).pullBad then s.fresh.setTree n { s.fresh.tree n with pulling := false } else s.fresh.mcPulled n) := by
  have tags : s.fresh.agx.tags = [] := ht
  have waiters : s.fresh.agx.waiters = [] := hw
  refine does_run (show execMcPullDone n s = run s _ from rfl) ?_
  simp only [hp, tags, waiters, List.any_nil, Bool.not_true, Bool.or_self, Bool.false_eq_true, if_false]

/-! ### A branch that lags (R164) -/

/-- A live branch that may be pruned and is not put down yet is put down. -/
theorem does_branchPrune {s : State} {n p beats : Nat} (h0 : s.dev.get R.AGX_MC_CTL_PRUNE_BEATS ≠ 0)
    (hb : s.dev.get R.AGX_MC_CTL_PRUNE_BEATS ≤ beats) (hv : s.fresh.mcValid n = true) (hp : (s.fresh.mcLive n).contains p = true)
    (hl : (s.fresh.tree n).lag = [])
    (hh : ∀ b, b ∈ (s.fresh.tree n).branches → b.port = p → b.epoch = s.fresh.mcEpoch n → b.heldBelow = false) :
    Does (.branchPrune n ⟨p, beats⟩) s (s.fresh.setTree n { s.fresh.tree n with lag := [p] }) := by
  have notHeld : ((s.fresh.tree n).branches.any fun b => b.port = p ∧ b.epoch = s.fresh.mcEpoch n ∧ b.heldBelow) = false :=
    List.any_eq_false.mpr fun b hm => by
      rw [decide_eq_true_eq]
      exact fun ⟨hport, hepoch, held⟩ => Bool.false_ne_true ((hh b hm hport hepoch).symm.trans held)
  refine does_run (show execBranchPrune n ⟨p, beats⟩ s = run s _ from rfl) ?_
  simp only [State.fresh_get, notHeld, hv, hp, hl, Nat.not_lt.mpr hb, h0, List.contains_nil, Bool.not_true,
    Bool.false_eq_true, or_self, if_false, List.nil_append]

/-- A tree with something of its own is the only one listed where none was. -/
theorem Dev.setTree_trees_single {d : Dev} {u : TreeUnit} (n : Nat) (h : d.trees = []) (hu : u ≠ TreeUnit.reset) : (d.setTree n u).trees = [(n, u)] := by
  simp only [Dev.setTree, h, stSet, if_neg hu]

/-- One branch of one tree has lagged: the boundary clears the list and prunes it. -/
theorem Dev.pruneBoundary_single {d : Dev} {n p : Nat} {u : TreeUnit} (h : d.trees = [(n, u)]) (hl : u.lag = [p]) :
    d.pruneBoundary = (d.setTree n { d.tree n with lag := [] }).prune n p := by
  simp only [Dev.pruneBoundary, h, hl, List.filter_cons, List.filter_nil, List.isEmpty_cons, Bool.not_false, if_true, List.foldl_cons, List.foldl_nil]

end Sys2Proof.Machine
end

section
/-!
PROOF. The statement about multicast trees.
-/

namespace Sys2Proof.Machine

/-- Settles O30: a packet in its turn, each CONTROL flit by the direction it came from, the end of a pull by its READs, and a branch that
lags by the boundary. -/
theorem treesCarry : Obligations.TreesCarry := by
  intro s k n
  refine ⟨fun a q d ha ht hi hn h256 hv hu he hl hturn hs hw hb hh hr => ?packet, fun e r p d ht hv hp he => does_mcAck hv hp ht he,
    fun e r p d ht hv hp he => does_mcPrune hv hp he ht, fun e r p d ht hv hp => ⟨fun hs => ?prunedOn, fun hs he => ?prunedSource⟩,
    fun e r p d ht hv hp => ⟨fun hs => ?pulledOn, fun hs he => ?pulledSource⟩, fun e r p d ht hv hp he => does_mcEnd hv hp he ht,
    fun hp ht hw => ⟨fun hb => ?whole, fun hb => ?failed⟩, fun p beats h0 hb hv hp hl hh => ⟨does_branchPrune h0 hb hv hp hl hh, fun ht => ?boundary⟩⟩
  case packet =>
    exact does_run (f := fun d => d.multicastWrite k) rfl (Dev.multicastWrite_current (d := s.fresh) hn h256 hl hv hu he hb hs ha ht hi hturn hw hh hr)
  case prunedOn =>
    have h := does_mcPruned hv hp ht
    rwa [if_neg (by rw [hs]; exact Bool.false_ne_true)] at h
  case prunedSource =>
    have h := does_mcPruned hv hp ht
    rwa [if_pos hs, if_pos he] at h
  case pulledOn =>
    have h := does_mcPulled hv hp ht
    rwa [if_neg (by rw [hs]; exact Bool.false_ne_true)] at h
  case pulledSource =>
    have h := does_mcPulled hv hp ht
    rwa [if_pos hs, if_pos he] at h
  case whole =>
    have h := does_mcPullDone hp ht hw
    rwa [if_neg (by rw [hb]; exact Bool.false_ne_true)] at h
  case failed =>
    have h := does_mcPullDone hp ht hw
    rwa [if_pos hb] at h
  case boundary =>
    have lagging : { s.fresh.tree n with lag := [p] } ≠ TreeUnit.reset := fun h => List.cons_ne_nil p [] (congrArg TreeUnit.lag h)
    exact Dev.pruneBoundary_single (Dev.setTree_trees_single n ht lagging) rfl

end Sys2Proof.Machine
end

section
/-!
SUPPORT. The commands of the attention classes: a key block is computed or the engine's next phase done, and after the last block the
operation's results are complete (R179, R186, R195, R197).
-/

namespace Sys2Proof.Machine

/-- An operation whose engine has ended, and whose steps have all been computed, is done, unless it has halted: its results are complete. -/
def Dev.attnComplete (d : Dev) (t : Nat) (x : Exec) : Dev :=
  let u := d.tile t
  if u.attn.fin = true ∧ u.attn.ran = x.step ∧ x.halted = false then
    ((d.setTile t { u with exec := u.exec.map fun y => { y with done := true, planned := true, steps := y.step } }).set
      (R.TILE_STATUS_EXEC_STATE t) 3).refreshPump t
  else d

section
variable {d : Dev} {t cls : Nat} {x : Exec} (h : d.works t cls x)
include h

/-- A step that has issued and is not computed yet: its key block is computed, by the class's direction. -/
theorem Dev.attnRun_block {c : AttnCtx} {p : AttnStep} {r : LenRow} (hr : (d.tile t).attn.ran < x.step)
    (hf : d.attnFront t x.desc = some (c, p, r)) :
    d.attnRun t cls = (if cls = 0x11 then d.bwdStep t x c p r else d.fwdStep t x c p r).attnComplete t x := by
  simp only [Dev.attnRun, h.1, if_neg h.runs, if_pos hr, hf, Dev.attnComplete, Bool.not_eq_true']

/-- Every step that has issued is computed: the engine goes on with its next phase. -/
theorem Dev.attnRun_next {e : Dev} (hr : x.step ≤ (d.tile t).attn.ran) (hh : x.halted = false) (hn : d.attnNext t x = .go e) :
    d.attnRun t cls = e.attnComplete t x := by
  simp only [Dev.attnRun, h.1, if_neg h.runs, if_neg (Nat.not_lt.mpr hr), hh, Bool.false_eq_true, if_false, hn, Dev.attnComplete, Bool.not_false]

end

section
variable {s : State} {i : Instr} {t cls : Nat} {x : Exec} (h : s.fresh.works t cls x) (hi : exec i s = run s fun d => d.attnRun t cls)
include h hi

section
variable {c : AttnCtx} {p : AttnStep} {r : LenRow} (hr : (s.dev.tile t).attn.ran < x.step) (hf : s.fresh.attnFront t x.desc = some (c, p, r))
include hr hf

theorem does_attnRun_forward (hc : cls ≠ 0x11) : Does i s ((s.fresh.fwdStep t x c p r).attnComplete t x) :=
  does_run hi (by rw [Dev.attnRun_block h hr hf, if_neg hc])

theorem does_attnRun_backward (hc : cls = 0x11) : Does i s ((s.fresh.bwdStep t x c p r).attnComplete t x) :=
  does_run hi (by rw [Dev.attnRun_block h hr hf, if_pos hc])

end

theorem does_attnRun_next {d : Dev} (hr : x.step ≤ (s.dev.tile t).attn.ran) (hh : x.halted = false) (hn : s.fresh.attnNext t x = .go d) :
    Does i s (d.attnComplete t x) :=
  does_run hi (Dev.attnRun_next h hr hh hn)

end

end Sys2Proof.Machine
end

section
/-!
PROOF. The statement about attention's key blocks.
-/

namespace Sys2Proof.Machine

/-- Settles O21: by whether the step in front has issued, and by the class. -/
theorem attentionBlocks : Obligations.AttentionBlocks := by
  intro s t x hx hd ends
  have complete (d : Dev) : ends d = d.attnComplete t x := rfl
  have works {cls : Nat} (hc : odClass x.desc = cls) : s.fresh.works t cls x := ⟨hx, hc, hd⟩
  simp only [complete]
  refine ⟨fun c p r hr hf => ⟨fun hc => ?forward, fun hc => ?decode, fun hc => ?backward⟩,
    fun d hr hh hn => ⟨fun hc => ?forwardNext, fun hc => ?decodeNext, fun hc => ?backwardNext⟩⟩
  case forward => exact does_attnRun_forward (works hc) rfl hr hf (by decide)
  case decode => exact does_attnRun_forward (works hc) rfl hr hf (by decide)
  case backward => exact does_attnRun_backward (works hc) rfl hr hf rfl
  case forwardNext => exact does_attnRun_next (works hc) rfl hr hh hn
  case decodeNext => exact does_attnRun_next (works hc) rfl hr hh hn
  case backwardNext => exact does_attnRun_next (works hc) rfl hr hh hn

end Sys2Proof.Machine
end

section
/-!
SUPPORT. Page-manager commands that stand first: what each operation of Table 10.4 answers on a frame, on a page of a context and on the
index of chunks (Tables 10.5 and 10.6), and how its command completes (R208–R213, R218, R219).
-/

namespace Sys2Proof.Machine

/-! ### Commands on one frame (Table 10.6) -/

section
variable {d : Dev} {f e : Nat} (he : d.frameEntry f = some e)
include he

theorem Dev.pinFrame_pins (hs : feState e = 1 ∨ feState e = 3 ∨ feState e = 4) (hp : fePin e < 65535) : d.pinFrame f =
    .done ((d.setFrame f (feWith e (feFill e) (feState e) (fePin e + 1) (feRef e))).count R.KVP_PIN_PINS 1) 0 (feState e) := by
  have pinnable : [1, 3, 4].contains (feState e) = true := by simpa using hs
  simp only [Dev.pinFrame, he, pinnable, if_true, if_neg (Nat.ne_of_lt hp)]

theorem Dev.unpinFrame_unpins (hp : 0 < fePin e) (hs : feState e ≠ 5 ∨ fePin e ≠ 1) : d.unpinFrame f =
    .done ((d.count R.KVP_PIN_UNPINS 1).setFrame f (feWith e (feFill e) (feState e) (fePin e - 1) (feRef e))) 0 0 := by
  simp only [Dev.unpinFrame, he, if_neg (Nat.ne_of_gt hp), if_neg (not_and_or.mpr hs)]

/-- The last pin of a frame that has no reference left frees it. -/
theorem Dev.unpinFrame_frees (hs : feState e = 5) (hp : fePin e = 1) : d.unpinFrame f = .done ((d.count R.KVP_PIN_UNPINS 1).linkFrame f) 0 0 := by
  simp only [Dev.unpinFrame, he, if_neg (show fePin e ≠ 0 by omega), if_pos (And.intro hs hp)]

theorem Dev.sealFrame_full (hs : feState e = 1) (hf : feFill e = 64) : d.sealFrame f =
    .done ((d.setFrame f (feWith e 64 3 (fePin e) (feRef e))).queueWork (.sealing f)) 0 f := by
  simp only [Dev.sealFrame, he, hs, if_neg (show ¬ feFill e < 64 by omega)]

/-- FREE of an OPEN, COPYING or SEALED frame drops one reference. -/
theorem Dev.freeAny_drops (hs : feState e = 1 ∨ feState e = 2 ∨ feState e = 4) : d.freeAny f =
    if 1 < feRef e then .done (d.setFrame f (feWith e (feFill e) (feState e) (fePin e) (feRef e - 1))) 0 0
    else if fePin e = 0 then .done (d.linkFrame f) 0 0
    else .done (d.setFrame f (feWith e (feFill e) 5 (fePin e) 0)) 0 0 := by
  obtain hs | hs | hs := hs
  all_goals simp only [Dev.freeAny, Dev.freeRef, he, hs]; rfl

theorem Dev.shareRef_sealed (hs : feState e = 4) (hr : feRef e < 65535) : d.shareRef f =
    .done (d.setFrame f (feWith e (feFill e) 4 (fePin e) (feRef e + 1))) 0 f := by
  simp only [Dev.shareRef, he, hs, if_neg (Nat.ne_of_lt hr)]

end

/-! ### Commands on a page of a context -/

section
variable {d : Dev} {r h : Nat} {x : SeqRec} (hn : d.named (kvCtx r) = .ctx h x)
include hn

section
variable {a : Nat} (ha : d.l2At x (kvLayer r) (kvHead r) (kvPos r / 64) = some a)
include ha

/-- A command on a page that the tables hold works on its level-2 entry. -/
theorem Dev.onPage_at (g : Nat → SeqRec → Nat → Nat → KvRes) : d.onPage r g = g h x a (d.peekNat a 4) := by
  simp only [Dev.onPage, hn, ha]

section
variable (hf : d.peekNat a 4 = noFrame)
include hf

theorem Dev.kvAlloc_takes {f : Nat} {e : Dev} (hb : d.kv.rebuild = false) (ht : d.takeFrame = some (f, e)) : d.kvAlloc r =
    .done ((e.setFrame f (feMake 0 x.fmt x.dim 0 1 0 1)).setL2 h (kvLayer r) (kvHead r) (kvPos r / 64) a f) 0 f := by
  rw [Dev.kvAlloc, Dev.onPage_at hn ha, if_neg (not_not.mpr hf), hb]
  simp only [ht, Bool.false_eq_true, if_false]

theorem Dev.kvAlloc_none (hb : d.kv.rebuild = false) (ht : d.takeFrame = none) : d.kvAlloc r = .done (d.raise1 R.KVP_ERR_NO_FRAME h) 1 0 := by
  rw [Dev.kvAlloc, Dev.onPage_at hn ha, if_neg (not_not.mpr hf), hb]
  simp only [ht, Bool.false_eq_true, if_false, Dev.noFrames]

theorem Dev.kvShare_sealed {e : Nat} (he : d.frameEntry (kvArg r) = some e) (hs : feState e = 4) (hr : feRef e < 65535) : d.kvShare r =
    .done ((d.setFrame (kvArg r) (feWith e (feFill e) 4 (fePin e) (feRef e + 1))).setL2 h (kvLayer r) (kvHead r) (kvPos r / 64) a (kvArg r))
      0 (kvArg r) := by
  rw [Dev.kvShare, Dev.onPage_at hn ha, if_neg (not_not.mpr hf)]
  simp only [Dev.shareRef_sealed he hs hr]

end

section
variable {e : Nat} (hf : d.peekNat a 4 ≠ noFrame) (he : d.frameEntry (d.peekNat a 4) = some e)
include hf he

/-- COW of a SEALED page copies it into a new frame. -/
theorem Dev.kvCow_copies {f : Nat} {d' : Dev} (hs : feState e = 4) (hp : fePin e < 65535) (hb : d.kv.rebuild = false)
    (ht : d.takeFrame = some (f, d')) : d.kvCow r =
      .done ((d'.copyPage (d.peekNat a 4) e f (if feRef e ≤ 1 then 5 else 4) (feRef e - 1) (if kvKeep r = 0 then 64 else kvKeep r)).setL2
        h (kvLayer r) (kvHead r) (kvPos r / 64) a f) 0 f := by
  have ready : (d.kv.rebuild || decide (fePin e = 65535)) = false := by rw [hb, decide_eq_false (Nat.ne_of_lt hp)]; rfl
  rw [Dev.kvCow, Dev.onPage_at hn ha, if_neg hf]
  simp only [he, hs, ready, ht, Bool.false_eq_true, if_false]

/-- COW of an OPEN page leaves it. -/
theorem Dev.kvCow_open (hs : feState e = 1) : d.kvCow r = .done d 0 (d.peekNat a 4) := by
  rw [Dev.kvCow, Dev.onPage_at hn ha, if_neg hf]
  simp only [he, hs]

end

end

/-! ### APPEND to one page of one head (R212) -/

/-- Such an APPEND: one head, and some positions of one page. -/
structure OnePage (r : Nat) : Prop where
  head : kvHeadCnt r = 1
  written : 0 < kvArg r
  fits : kvPos r % 64 + kvArg r ≤ 64

omit hn in
theorem OnePage.appendPages_eq (h1 : OnePage r) : appendPages r = [kvPos r / 64] := by
  obtain ⟨_, h0, hf⟩ := h1
  have one : (kvPos r % 64 + kvArg r - 1) / 64 = 0 := by omega
  rw [appendPages, if_neg (Nat.ne_of_gt h0), one]
  simp

/-- POS is not where the tail is: BAD_POS. -/
theorem Dev.kvAppend_badPos {c : KvCmd} (hc : c.word = r) (h1 : OnePage r) (hp : (d.headPage x r 0 (kvPos r / 64)).isSome = true)
    (ha : d.appendPos x r 0 = some false) : d.kvAppend c = .done d 3 0 := by
  have page : (d.headPage x r 0 (kvPos r / 64)).isNone = false := by rw [← Option.not_isSome, hp]; rfl
  simp [Dev.kvAppend, hc, hn, h1.head, h1.appendPages_eq, page, ha]

omit hn in
/-- A head's page with a frame lies in the tables. -/
theorem Dev.headPage_isNone_of_appendPage {j page f : Nat} (h : d.appendPage x r j page = .inr (some f)) : (d.headPage x r j page).isNone = false := by
  cases hp : d.headPage x r j page with
  | some y => rfl
  | none => simp [Dev.appendPage, hp] at h

/-- Every check passes: the APPEND takes effect, and the engine goes on with it. -/
theorem Dev.kvAppend_takes {c : KvCmd} {f : Nat} (hc : c.word = r) (h1 : OnePage r) (ha : d.appendPos x r 0 = some true)
    (hp : d.appendPage x r 0 (kvPos r / 64) = .inr (some f)) (hb : d.kv.rebuild = false) :
    d.kvAppend c = .done (d.appendTake c h x [(0, kvPos r / 64, some f)]) 0xFF 0 := by
  simp [Dev.kvAppend, hc, hn, h1.head, h1.appendPages_eq, Dev.headPage_isNone_of_appendPage hp, ha, hp, hb]

omit hn in
/-- The frame's FILL grows by the positions, and a full page is SEALING. -/
theorem Dev.appendFill_grows {f e : Nat} (h1 : OnePage r) (he : d.frameEntry f = some e) : d.appendFill r (0, kvPos r / 64, f) =
    d.setFrame f (feWith e (kvPos r % 64 + kvArg r) (if kvPos r % 64 + kvArg r = 64 then 3 else 1) (fePin e) (feRef e)) := by
  obtain ⟨_, _, hf⟩ := h1
  have fill : min (kvPos r + kvArg r) (64 * (kvPos r / 64) + 64) - 64 * (kvPos r / 64) = kvPos r % 64 + kvArg r := by omega
  simp only [Dev.appendFill, he, fill]

omit hn in
/-- POS_HWM grows; the engine has the positions to write and, of a page that filled, the summary. -/
theorem Dev.appendTake_one {c : KvCmd} {f e : Nat} (hc : c.word = r) (h1 : OnePage r) (he : d.frameEntry f = some e) :
    d.appendTake c h x [(0, kvPos r / 64, some f)] =
      let fill := kvPos r % 64 + kvArg r
      let y := d.setFrame f (feWith e fill (if fill = 64 then 3 else 1) (fePin e) (feRef e))
      let z := (y.setCtx h (some { x with hwm := max x.hwm (kvPos r + kvArg r) })).queueWork (.append ⟨c, x.fmt, x.dim, [(0, kvPos r / 64, f)]⟩)
      if fill = 64 then z.queueWork (.sealing f) else z := by
  have fills : 64 * (kvPos r / 64) + 64 ≤ kvPos r + kvArg r ↔ kvPos r % 64 + kvArg r = 64 := by obtain ⟨_, _, hf⟩ := h1; omega
  subst hc
  simp only [Dev.appendTake, List.foldl_cons, List.foldl_nil, List.nil_append, Dev.appendFill_grows h1 he, if_neg (Nat.ne_of_gt h1.written),
    List.filter_cons, List.filter_nil, fills, decide_eq_true_eq]
  split <;> rfl

/-! ### The index of chunks (R218, R219) -/

theorem Dev.pfxMatch_on (hf : d.flag R.PFX_CTL_ENABLE = true) : d.pfxMatch r = d.matchFrom h x (kvAddr r) (kvArg r) (kvArg r) 0 noFrame 0 := by
  simp only [Dev.pfxMatch, hn, hf, if_true]

theorem Dev.pfxMatch_off (hf : d.flag R.PFX_CTL_ENABLE = false) : d.pfxMatch r = .done d 0 0 := by
  simp only [Dev.pfxMatch, hn, hf, Bool.false_eq_true, if_false]

section
variable (hf : d.flag R.PFX_CTL_ENABLE = true)
include hf

theorem Dev.pfxInsert_fits (hw : x.layers * x.heads ≤ (d.frameSize - 512) / 4) :
    d.pfxInsert r = d.insertFrom x (kvAddr r) (kvArg r) (kvArg r) 0 noFrame 0 := by
  simp only [Dev.pfxInsert, hn, hf, Bool.not_true, Bool.false_eq_true, if_false, if_neg (Nat.not_lt.mpr hw)]

/-- A context with more pages to a chunk than a group frame lists. -/
theorem Dev.pfxInsert_wide (hw : (d.frameSize - 512) / 4 < x.layers * x.heads) : d.pfxInsert r = .done d 5 0 := by
  simp only [Dev.pfxInsert, hn, hf, Bool.not_true, Bool.false_eq_true, if_false, if_pos hw]

end

end

theorem Dev.pfxEvict_found {d : Dev} {r k : Nat} {e : PfxEnt}
    (hk : (d.kv.pfx.find? fun e => e.2.elim false fun x => x.frame = kvArg r) = some (k, some e)) : d.pfxEvict r = .done (d.pfxRemove k e) 0 0 := by
  simp only [Dev.pfxEvict, hk]

/-! ### The command that stands first (R208, R209) -/

/-- A command leaves the arrivals. -/
def Dev.kvLeaves (d : Dev) (c : KvCmd) : Dev := { d with kv := { d.kv with arrivals := d.kv.arrivals.erase c } }

section
variable {d : Dev} {c : KvCmd} (hr : kvReserved c.word = false)
include hr

/-! What the operation of a command without reserved bits is. -/

theorem Dev.kvRun_alloc (ho : kvOp c.word = 1) : d.kvRun c = d.kvAlloc c.word := by simp only [Dev.kvRun, hr, ho, Bool.false_eq_true, if_false]
theorem Dev.kvRun_share (ho : kvOp c.word = 2) : d.kvRun c = d.kvShare c.word := by simp only [Dev.kvRun, hr, ho, Bool.false_eq_true, if_false]
theorem Dev.kvRun_cow (ho : kvOp c.word = 3) : d.kvRun c = d.kvCow c.word := by simp only [Dev.kvRun, hr, ho, Bool.false_eq_true, if_false]
theorem Dev.kvRun_pin (ho : kvOp c.word = 5) : d.kvRun c = d.pinFrame (kvArg c.word) := by simp only [Dev.kvRun, hr, ho, Bool.false_eq_true, if_false]
theorem Dev.kvRun_unpin (ho : kvOp c.word = 6) : d.kvRun c = d.unpinFrame (kvArg c.word) := by
  simp only [Dev.kvRun, hr, ho, Bool.false_eq_true, if_false]
theorem Dev.kvRun_append (ho : kvOp c.word = 0x10) : d.kvRun c = d.kvAppend c := by simp only [Dev.kvRun, hr, ho, Bool.false_eq_true, if_false]
theorem Dev.kvRun_match (ho : kvOp c.word = 0x20) : d.kvRun c = d.pfxMatch c.word := by simp only [Dev.kvRun, hr, ho, Bool.false_eq_true, if_false]
theorem Dev.kvRun_insert (ho : kvOp c.word = 0x21) : d.kvRun c = d.pfxInsert c.word := by simp only [Dev.kvRun, hr, ho, Bool.false_eq_true, if_false]
theorem Dev.kvRun_evict (ho : kvOp c.word = 0x22) : d.kvRun c = d.pfxEvict c.word := by simp only [Dev.kvRun, hr, ho, Bool.false_eq_true, if_false]

section
variable (hx : kvCtx c.word = 0xFF)
include hx

/-- FREE of a frame that no context names. -/
theorem Dev.kvRun_free (ho : kvOp c.word = 4) : d.kvRun c = d.freeAny (kvArg c.word) := by
  simp only [Dev.kvRun, hr, ho, Bool.false_eq_true, if_false, Dev.kvFree, if_pos hx]

/-- SEAL of a frame that no context names. -/
theorem Dev.kvRun_seal (ho : kvOp c.word = 7) : d.kvRun c = d.sealFrame (kvArg c.word) := by
  simp only [Dev.kvRun, hr, ho, Bool.false_eq_true, if_false, Dev.kvSeal, if_pos hx]

end

end

/-- A command stands first: it came first, and no earlier sequence command is on what it is on. -/
def State.kvFirst (s : State) (c : KvCmd) : Prop := (∃ rest, s.dev.kv.arrivals = c :: rest) ∧ s.fresh.kvBlocked [] c = false

section
variable {s : State} {c : KvCmd} (h : s.kvFirst c) {i : Instr} {ops : Nat → Bool} {op : Nat}
  (hi : exec i s = run s fun d => d.kvServe c.src ops) (ho : kvOp c.word = op) (hops : ops op = true) {d : Dev} {code arg : Nat}
  (hr : s.fresh.kvRun c = .done d code arg)

include h hr in
/-- A command that stands first and does not wait is the next to run. -/
theorem State.kvFirst.kvNext_eq : s.fresh.kvNext [] s.fresh.kv.arrivals = some c := by
  obtain ⟨⟨rest, ha⟩, hb⟩ := h
  have arrived : s.fresh.kv.arrivals = c :: rest := ha
  simp only [arrived, Dev.kvNext, hr, hb, Bool.or_self, Bool.false_eq_true, if_false]

include h hi ho hops hr

/-- Its row runs it: it leaves the arrivals, and completes unless the append engine goes on with it. -/
theorem does_kvServe_run : Does i s (if code = 0xFF then d.kvLeaves c else (d.kvLeaves c).kvFinish c code arg) := by
  subst ho
  refine does_run hi ?_
  simp only [Dev.kvServe, h.kvNext_eq hr, hops, hr, decide_true, Bool.and_self, if_true]
  rfl

theorem does_kvServe (hc : code ≠ 0xFF := by decide) : Does i s ((d.kvLeaves c).kvFinish c code arg) := by
  have does := does_kvServe_run h hi ho hops hr
  rwa [if_neg hc] at does

end

end Sys2Proof.Machine
end

section
/-!
PROOF. The statement about the page manager's commands.
-/

namespace Sys2Proof.Machine

/-- Settles O32: by the operation, and the state of the frame, of the page or of the index that it works on. -/
theorem frameCommands : Obligations.FrameCommands := by
  intro s n c rest ha hn hr hb r b ends
  subst hn
  have first : s.kvFirst c := ⟨⟨rest, ha⟩, hb⟩
  have completes (d : Dev) (code arg : Nat) : ends d code arg = (d.kvLeaves c).kvFinish c code arg := rfl
  simp only [completes]
  refine ⟨fun e he => ?frame, fun h x a hx hl => ?page, fun h x hx => ?index, fun k e ho hk => ?evict⟩
  case frame =>
    refine ⟨fun ho hs hp => ?pin, fun ho hp hs => ?unpin, fun ho hs hp => ?last, fun ho hx hs hf => ?closes, fun ho hx hs => ?free⟩
    case pin => exact does_kvServe first rfl ho rfl ((Dev.kvRun_pin hr ho).trans (Dev.pinFrame_pins he hs hp))
    case unpin => exact does_kvServe first rfl ho rfl ((Dev.kvRun_unpin hr ho).trans (Dev.unpinFrame_unpins he hp hs))
    case last => exact does_kvServe first rfl ho rfl ((Dev.kvRun_unpin hr ho).trans (Dev.unpinFrame_frees he hs hp))
    case closes => exact does_kvServe first rfl ho rfl ((Dev.kvRun_seal hr hx ho).trans (Dev.sealFrame_full he hs hf))
    case free =>
      have drops := (Dev.kvRun_free (d := b) hr hx ho).trans (Dev.freeAny_drops he hs)
      refine ⟨fun hm => ?shared, fun hm hp => ?unpinned, fun hm hp => ?pinned⟩
      case shared => exact does_kvServe first rfl ho rfl (drops.trans (if_pos hm))
      case unpinned => exact does_kvServe first rfl ho rfl (drops.trans ((if_neg (Nat.not_lt.mpr hm)).trans (if_pos hp)))
      case pinned => exact does_kvServe first rfl ho rfl (drops.trans ((if_neg (Nat.not_lt.mpr hm)).trans (if_neg hp)))
  case page =>
    refine ⟨fun f d ho hf hb ht => ?alloc, fun ho hf hb ht => ?noFrame, fun e ho hf he hs hm => ?share, fun e f d ho hf he hs hp hb ht => ?copy,
      fun e ho hf he hs => ?isOpen, fun f e ho h1 h0 h64 hpos hpage he hb => ?append, fun ho h1 h0 h64 hpage hpos => ?badPos⟩
    case alloc => exact does_kvServe first rfl ho rfl ((Dev.kvRun_alloc hr ho).trans (Dev.kvAlloc_takes hx hl hf hb ht))
    case noFrame => exact does_kvServe first rfl ho rfl ((Dev.kvRun_alloc hr ho).trans (Dev.kvAlloc_none hx hl hf hb ht))
    case share => exact does_kvServe first rfl ho rfl ((Dev.kvRun_share hr ho).trans (Dev.kvShare_sealed hx hl hf he hs hm))
    case copy => exact does_kvServe first rfl ho rfl ((Dev.kvRun_cow hr ho).trans (Dev.kvCow_copies hx hl hf he hs hp hb ht))
    case isOpen => exact does_kvServe first rfl ho rfl ((Dev.kvRun_cow hr ho).trans (Dev.kvCow_open hx hl hf he hs))
    case append =>
      have onePage : OnePage r := ⟨h1, h0, h64⟩
      have takes := (Dev.kvRun_append (d := b) hr ho).trans (Dev.kvAppend_takes hx rfl onePage hpos hpage hb)
      rw [Dev.appendTake_one rfl onePage he] at takes
      exact does_kvServe_run first rfl ho rfl takes
    case badPos =>
      exact does_kvServe first rfl ho rfl ((Dev.kvRun_append hr ho).trans (Dev.kvAppend_badPos hx rfl ⟨h1, h0, h64⟩ hpage hpos))
  case index =>
    refine ⟨fun d code k ho hf hm hc => ?found, fun ho hf => ?off, fun d code k ho hf hw hm hc => ?inserted, fun ho hf hw => ?wide⟩
    case found => exact does_kvServe first rfl ho rfl ((Dev.kvRun_match hr ho).trans ((Dev.pfxMatch_on hx hf).trans hm)) hc
    case off => exact does_kvServe first rfl ho rfl ((Dev.kvRun_match hr ho).trans (Dev.pfxMatch_off hx hf))
    case inserted => exact does_kvServe first rfl ho rfl ((Dev.kvRun_insert hr ho).trans ((Dev.pfxInsert_fits hx hf hw).trans hm)) hc
    case wide => exact does_kvServe first rfl ho rfl ((Dev.kvRun_insert hr ho).trans (Dev.pfxInsert_wide hx hf hw))
  case evict => exact does_kvServe first rfl ho rfl ((Dev.kvRun_evict hr ho).trans (Dev.pfxEvict_found hk))

end Sys2Proof.Machine
end

section
/-!
SUPPORT. What the page manager and its append engine end, and stores to their registers (R204, R207–R209, R211–R214).
-/

namespace Sys2Proof.Machine

/-! ### A queue's record (R208) -/

section
variable {d : Dev} {q : Nat}

/-- The next record of a queue may enter: it is enabled, and its channel is one of TOKENs that the page manager consumes, with a token. -/
structure Dev.QueueReady (d : Dev) (q : Nat) : Prop where
  listed : q < 8
  enabled : d.flag (R.KVP_CMDQ_CFG_ENABLE q) = true
  channel : d.chan (d.get (R.KVP_CMDQ_CFG_CHANNEL q)) ≠ 0
  kind : chanKind (d.chan (d.get (R.KVP_CMDQ_CFG_CHANNEL q))) = 0
  consumer : chanConsumer (d.chan (d.get (R.KVP_CMDQ_CFG_CHANNEL q))) / 4096 = 3
  token : 0 < d.tokens (d.get (R.KVP_CMDQ_CFG_CHANNEL q))

theorem Dev.kvAdmit_ready (h : d.QueueReady q) : d.kvAdmit q =
    let k := d.get (R.KVP_CMDQ_HEAD_ADMITTED q)
    let a := d.get (R.KVP_CMDQ_BASE_BASE q) + 32 * (k % 2 ^ min (max (d.get (R.KVP_CMDQ_CFG_SIZE_LOG2 q)) 4) 16)
    let e := (d.takeTokens (d.get (R.KVP_CMDQ_CFG_CHANNEL q)) 1).set (R.KVP_CMDQ_HEAD_ADMITTED q) (k + 1)
    e.kvArrive (16 + q) (e.peekNat a 32) a :=
  if_pos ⟨h.listed, h.enabled, h.channel, h.kind, h.consumer, h.token⟩

end

/-! ### The append engine's oldest work (R209) -/

section
variable {s : State} {i : Instr} {d : Dev} {w : KvWork} {rest : List KvWork} {p : KvWork → Bool}

/-- The engine ends the work at the head of its queue. -/
theorem Dev.engineEnds_first (hw : d.kv.work = w :: rest) (hp : p w = true) :
    d.engineEnds p = ({ d with kv := { d.kv with work := rest } } : Dev).workDone w := by
  simp only [Dev.engineEnds, hw, hp, if_true]

/-- The device without the oldest work of the append engine. -/
def State.workTaken (s : State) (rest : List KvWork) : Dev := { s.fresh with kv := { s.dev.kv with work := rest } }

theorem does_engineEnds (hi : exec i s = run s fun d => d.engineEnds p) (hw : s.dev.kv.work = w :: rest) (hp : p w = true)
    (hd : (s.workTaken rest).workDone w = d) : Does i s d :=
  does_run hi ((Dev.engineEnds_first (d := s.fresh) hw hp).trans hd)

end

/-- The summary of a page that is SEALING is written, and the page is SEALED (R187, R211). -/
theorem Dev.sealingDone_sealing {d : Dev} {f e : Nat} (he : d.frameEntry f = some e) (hs : feState e = 3) : d.sealingDone f =
    let dm := pageDim (bits e 71 71)
    let w := pageElem (bits e 73 72)
    let x := d.hbmRead (d.frameAddr f) (64 * dm * w)
    let keys := (List.range 64).map fun i => (List.range dm).map fun j => recNat x.2.bytes ((i * dm + j) * w) w
    let y := pageSummary (bits e 73 72) dm keys
    let z := x.1.hbmWrite (x.1.summaryAt f) (y.1.flatMap (leBytes 1) ++ leBytes (252 - dm) 0 ++ leBytes 4 y.2) fun _ => x.2.anyPoison
    (z.setFrame f (feWith e (feFill e) 4 (fePin e) (feRef e))).count R.KVP_COPY_SEALS 1 := by
  simp only [Dev.sealingDone, he, if_neg (not_not.mpr hs)]

/-- A copy's bytes reach its frame. -/
def Dev.copied (d : Dev) (c : KvCopy) (e : Nat) : Dev :=
  let x := d.hbmRead (d.frameAddr c.src) (128 * pageDim (bits e 71 71) * pageElem (bits e 73 72))
  x.1.hbmWrite (x.1.frameAddr c.dst) x.2.bytes fun i => x.2.poison.getD i false

/-- A copy ends: its frame is OPEN, and both of its pins are released (R213). -/
theorem Dev.copyDone_copying {d : Dev} {c : KvCopy} {e e' : Nat} (he : d.frameEntry c.dst = some e) (hc : (d.copied c e).frameEntry c.dst = some e')
    (hs : feState e' = 2) : d.copyDone c =
      let z := (d.copied c e).setFrame c.dst (feWith e' c.keep 1 (fePin e') (feRef e'))
      let z := (z.unpinFrame c.dst).dev z
      (z.unpinFrame c.src).dev z := by
  rw [Dev.copied] at hc
  simp only [Dev.copyDone, he, hc, if_pos hs, Dev.copied]

/-! ### Stores (R204, R207, R214) -/

/-- The row of KVP_CTL. -/
abbrev kvpCtlRow : RegRow := rowsKvp[1]

/-- The row of KVP_WALK_INV. -/
abbrev kvpWalkInvRow : RegRow := rowsKvp[4]

/-- The row of KVP_FRAME_RD. -/
abbrev kvpFrameRdRow : RegRow := rowsKvp[5]

/-- The row of PFX_CTL. -/
abbrev pfxCtlRow : RegRow := rowsPfx[0]

section
variable (d : Dev) {f : Fld} (x : Nat) (hi : R.IMG_STATUS ≠ f.reg) (hb : R.UPD_BANK ≠ f.reg)

include hi hb in
/-- Which bank is read depends on the image and the live bank alone. -/
theorem Dev.bankAddr_set (a : Nat) : (d.set f x).bankAddr a = d.bankAddr a := by
  have live : (d.set f x).flag R.UPD_BANK_LIVE_BANK = d.flag R.UPD_BANK_LIVE_BANK :=
    congrArg (fun k => decide (k = 1)) (d.get_set_otherReg x hb)
  simp only [Dev.bankAddr, d.imageActive_set x hi, live]
  rfl

include hi hb in
/-- A field that chooses neither the bank nor the frames' size leaves the frame entries. -/
theorem Dev.frameEntry_set (hk : R.KVP_CFG ≠ f.reg) (n : Nat) : (d.set f x).frameEntry n = d.frameEntry n := by
  have size : (d.set f x).frameSize = d.frameSize :=
    congrArg (fun k => if decide (k = 1) then 32768 else 16384) (d.get_set_otherReg x hk)
  have count : (d.set f x).frameCount = d.frameCount := by
    rw [Dev.frameCount, Dev.frameCount, size]; rfl
  have poison (a k : Nat) : (d.set f x).poisonedAt a k = d.poisonedAt a k := by
    rw [Dev.poisonedAt, Dev.poisonedAt, d.bankAddr_set x hi hb]; rfl
  have entry : (d.set f x).entryAt n = d.entryAt n := rfl
  simp only [Dev.frameEntry, count, entry, poison, Dev.peekNat, d.peek_set x hi hb, Dev.set_kv]

end

section
variable (d : Dev) {v : Nat}

/-- KVP_CTL.FLUSH empties the entry cache into HBM. -/
theorem Dev.kvpCtlWrite_flush (h : v.testBit 63 = true) : d.kvpCtlWrite v = d.flushFrames := if_pos h

/-- KVP_WALK_INV drops what the walkers hold of the context's handle. -/
theorem Dev.kvpWalkInvWrite_bound {h : Nat} (h63 : v.testBit 63 = true) (hb : d.bound (v % 128) = some h) : d.kvpWalkInvWrite v = d.dropHandle h := by
  simp only [Dev.kvpWalkInvWrite, if_pos h63, hb]

/-- KVP_FRAME_RD shows the entry of the frame that it names. -/
theorem Dev.kvpFrameRdWrite_reads {e : Nat} (h63 : v.testBit 63 = true) (he : d.frameEntry (v % 2 ^ 32) = some e) : d.kvpFrameRdWrite v =
    ((d.set R.KVP_FRAME_RD_FRAME (v % 2 ^ 32)).set (R.KVP_FRAME_DATA_ENTRY 0) (e % 2 ^ 64)).set (R.KVP_FRAME_DATA_ENTRY 1) (e / 2 ^ 64) := by
  have same := (d.frameEntry_set (f := R.KVP_FRAME_RD_FRAME) (v % 2 ^ 32) (by decide) (by decide) (by decide) (v % 2 ^ 32)).trans he
  simp only [Dev.kvpFrameRdWrite, h63, Bool.not_true, Bool.false_eq_true, if_false, same]

end

section
variable {s : State} {w : Who} {v : Nat} (hv : v < 2 ^ 64)
include hv

theorem does_kvpFlush (ht : s.takes w R.KVP_CTL) : Does (.kvpFlush w v) s s.fresh.flushFrames := by
  have top : Topped v true (v.testBit 62) (R.KVP_CTL_FLUSH.on v) := topped_on63 ⟨rfl, rfl⟩ hv
  exact does_write (row := kvpCtlRow) (ix := []) rfl ht rfl (by decide) (by decide) top.lt (s.fresh.kvpCtlWrite_flush top.bit63)

theorem does_kvpWalkInv {h : Nat} (ht : s.takes w R.KVP_WALK_INV) (hb : s.fresh.bound (v % 128) = some h) :
    Does (.kvpWalkInv w v) s (s.fresh.dropHandle h) := by
  have top : Topped v true (v.testBit 62) (R.KVP_WALK_INV_GO.on v) := topped_on63 ⟨rfl, rfl⟩ hv
  have low : R.KVP_WALK_INV_GO.on v % 128 = v % 128 := top.low 6 0 (by decide) (by decide)
  exact does_write (row := kvpWalkInvRow) (ix := []) rfl ht rfl (by decide) (by decide) top.lt
    (s.fresh.kvpWalkInvWrite_bound top.bit63 (low.symm ▸ hb))

theorem does_kvpFrameRd {e : Nat} (ht : s.takes w R.KVP_FRAME_RD) (he : s.fresh.frameEntry (v % 2 ^ 32) = some e) :
    Does (.kvpFrameRd w v) s (((s.fresh.set R.KVP_FRAME_RD_FRAME (v % 2 ^ 32)).set (R.KVP_FRAME_DATA_ENTRY 0) (e % 2 ^ 64)).set
      (R.KVP_FRAME_DATA_ENTRY 1) (e / 2 ^ 64)) := by
  have top : Topped v true (v.testBit 62) (R.KVP_FRAME_RD_GO.on v) := topped_on63 ⟨rfl, rfl⟩ hv
  have low : R.KVP_FRAME_RD_GO.on v % 2 ^ 32 = v % 2 ^ 32 := top.low 31 0 (by decide) (by decide)
  have reads := s.fresh.kvpFrameRdWrite_reads top.bit63 (low.symm ▸ he)
  rw [low] at reads
  exact does_write (row := kvpFrameRdRow) (ix := []) rfl ht rfl (by decide) (by decide) top.lt reads

/-- PFX_CTL stores ENABLE, and CLEAR empties the index. -/
theorem does_pfxClear (ht : s.takes w R.PFX_CTL) : ∃ d, s.fresh.storedAt R.PFX_CTL d ∧ d.get R.PFX_CTL_ENABLE = bits v 0 0 ∧
    Does (.pfxClear w v) s d.pfxClearAll := by
  have found : findRow R.PFX_CTL = some (pfxCtlRow, []) := rfl
  have top : Topped v true (v.testBit 62) (R.PFX_CTL_CLEAR.on v) := topped_on63 ⟨rfl, rfl⟩ hv
  let d := s.fresh.plainStore w pfxCtlRow R.PFX_CTL (R.PFX_CTL_CLEAR.on v)
  have enable : d.get R.PFX_CTL_ENABLE = bits v 0 0 :=
    (s.fresh.plainStore_get_takes w _ found (F := ⟨R.PFX_CTL_ENABLE, .rw, 1⟩) (by decide) rfl).trans (top.low 0 0 (by decide) (by decide))
  have clear : s.fresh.store w pfxCtlRow [] R.PFX_CTL (R.PFX_CTL_CLEAR.on v) = d.pfxClearAll := if_pos (Fld.of_on _ v rfl)
  exact ⟨d, s.fresh.plainStore_storedAt_of_noRwi w _ _ rfl, enable, does_write rfl ht found (by decide) (by decide) top.lt clear⟩

end

end Sys2Proof.Machine
end

section
/-!
PROOF. The statement about the page manager and its append engine.
-/

namespace Sys2Proof.Machine

/-- Settles O33: the queue's record, the three kinds of the engine's oldest work, the pass over the entries, and the store to each register. -/
theorem frameEngine : Obligations.FrameEngine := by
  intro s n f
  refine ⟨fun hn he hc hk hr ht => ?admission, fun e rest hw he hs => ?sealing, fun c rest e e' hw hf he hc hs => ?copy, fun a rest hw => ?append,
    fun hr => ?rebuild, fun w v hv => ⟨fun ht => does_kvpFlush hv ht, fun h ht hb => does_kvpWalkInv hv ht hb,
      fun e ht he => does_kvpFrameRd hv ht he, does_pfxClear hv⟩⟩
  case admission => exact does_run (f := (Dev.kvAdmit · n)) rfl (Dev.kvAdmit_ready (d := s.fresh) ⟨hn, he, hc, hk, hr, ht⟩)
  case sealing => exact does_engineEnds rfl hw (decide_eq_true rfl) (Dev.sealingDone_sealing he hs)
  case copy => exact does_engineEnds rfl hw (decide_eq_true hf) (Dev.copyDone_copying he hc hs)
  case append => exact does_engineEnds rfl hw (decide_eq_true rfl) rfl
  case rebuild => exact does_run rfl (if_pos hr)

end Sys2Proof.Machine
end

section
/-!
SUPPORT. Sequence commands: what the one that stands first answers, and a context restored (R220–R222, Table 10.10).
-/

namespace Sys2Proof.Machine

section
variable {d : Dev} {c : SeqCmd}

/-- The sequence command in front is the one that a row of its window and operation serves. -/
theorem Dev.seqFront_first {rest : List SeqCmd} (ha : d.kv.seqArrivals = c :: rest) (f : Dev → SeqCmd → Dev) :
    d.seqFront c.win c.op f = f { d with kv := { d.kv with seqArrivals := rest } } c := by
  simp only [Dev.seqFront, ha, and_self, if_true]

/-- The record that ADMIT's words give. -/
def SeqCmd.admitted (c : SeqCmd) : SeqRec :=
  ⟨1, bits c.a1 35 35, bits c.a1 33 32, bits c.a1 34 34, bits c.a1 15 0, bits c.a1 31 16, bits c.a0 44 0, 0, 0⟩

/-- ADMIT's words describe a context (R221). -/
structure Dev.Admits (d : Dev) (c : SeqCmd) : Prop where
  layers : 0 < bits c.a1 15 0 ∧ bits c.a1 15 0 ≤ 256
  heads : 0 < bits c.a1 31 16 ∧ bits c.a1 31 16 ≤ 256
  l1 : bits c.a0 44 0 % 64 = 0
  fmt : bits c.a1 33 32 ≠ 3
  page : 128 * pageDim (bits c.a1 34 34) * pageElem (bits c.a1 33 32) ≤ d.frameSize

section
variable (h : d.Admits c)
include h

/-- Such an ADMIT is not refused for its words. -/
theorem Dev.Admits.inRange : ¬ (bits c.a1 15 0 = 0 ∨ 256 < bits c.a1 15 0 ∨ bits c.a1 31 16 = 0 ∨ 256 < bits c.a1 31 16 ∨ bits c.a0 44 0 % 64 ≠ 0 ∨
    bits c.a1 33 32 = 3 ∨ d.frameSize < 128 * pageDim (bits c.a1 34 34) * pageElem (bits c.a1 33 32)) := by
  obtain ⟨⟨_, _⟩, ⟨_, _⟩, _, _, _⟩ := h
  omega

/-- It is answered with the handle that the record was admitted under. -/
theorem Dev.seqAdmit_handle {e : Dev} {g : Nat} (ha : d.admitRec c.admitted = some (g, e)) : d.seqAdmit c = e.seqFinish c 0 g := by
  rw [SeqCmd.admitted] at ha
  simp only [Dev.seqAdmit, if_neg h.inRange, ha]

/-- It is refused where no slot or no handle is free. -/
theorem Dev.seqAdmit_full (ha : d.admitRec c.admitted = none) : d.seqAdmit c = (d.count R.SEQ_REFUSE_FULL 1).seqFinish c 8 0 := by
  rw [SeqCmd.admitted] at ha
  simp only [Dev.seqAdmit, if_neg h.inRange, ha]

end

section
variable {r : SeqRec} (hr : d.seqCtx (scHandle c) = some r)
include hr

/-- PARK of an ACTIVE context. -/
theorem Dev.seqPark_active (hs : r.state = 1) : d.seqPark c =
    (d.setCtx (scHandle c) (some { r with state := 2, park := d.beatNow })).seqFinish c 0 0 := by
  simp only [Dev.seqPark, hr, if_pos hs]

/-- ACTIVATE of a PARKED context. -/
theorem Dev.seqActivate_parked (hs : r.state = 2) : d.seqActivate c =
    (d.setCtx (scHandle c) (some { r with state := 1 })).seqFinish c 0 0 := by
  simp only [Dev.seqActivate, hr, if_pos hs]

/-- ACTIVATE of a SPILLED context waits for it to be restored. -/
theorem Dev.seqActivate_spilled (hs : r.state = 3) : d.seqActivate c =
    let e := d.wantRestore (scHandle c)
    { e with kv := { e.kv with activates := e.kv.activates ++ [c] } } := by
  simp only [Dev.seqActivate, hr, if_neg (show ¬ r.state = 2 by omega), if_pos hs]

/-- No page of a context keeps its FORK waiting, nor does an earlier command of the page manager. -/
structure Dev.Forks (d0 d : Dev) (c : SeqCmd) (r : SeqRec) : Prop where
  resident : r.state ≠ 3
  aligned : bits c.a0 44 0 % 64 = 0
  listed : d.kv.rebuild = false
  noSealing : d.anyIn (d.pagesOf r) 3 = false
  noCopying : d.anyIn (d.pagesOf r) 2 = false
  unpinned : d.anyPinned (d.pagesOf r) = false
  first : d0.seqBlocked c = false

/-- A FORK that finds fewer frames than the context has heads is refused. -/
theorem Dev.seqFork_short {d0 : Dev} (h : d0.Forks d c r) (hf : d.get R.KVP_STATUS_FREE < r.layers * r.heads) :
    d0.seqFork d c = (d.raise1 R.KVP_ERR_NO_FRAME (scHandle c)).seqFinish c 1 0 := by
  simp only [Dev.seqFork, hr, h.resident, h.aligned, h.listed, h.noSealing, h.noCopying, h.unpinned, h.first, hf, ne_eq, not_true_eq_false,
    Bool.or_self, Bool.false_eq_true, if_false, if_true]

/-- A FORK of a context without pages admits the record anew, with its own level-1 table. -/
theorem Dev.seqFork_bare {d0 e : Dev} {g : Nat} (h : d0.Forks d c r) (hf : r.layers * r.heads ≤ d.get R.KVP_STATUS_FREE) (hp : d.pagesOf r = [])
    (ha : d.admitRec { r with state := 1, l1 := bits c.a0 44 0, park := 0 } = some (g, e)) : d0.seqFork d c = e.seqFinish c 0 g := by
  obtain ⟨hs, hl, hb, h3, h2, hn, hw⟩ := h
  rw [hp] at h3 h2 hn
  simp only [Dev.seqFork, hr, hs, hl, hb, h3, h2, hn, hw, hp, ha, Nat.not_lt.mpr hf, ne_eq, not_true_eq_false, Bool.or_self, Bool.false_eq_true,
    if_false, List.any_nil, List.foldl_nil]

end

/-- RELEASE frees the pages, the record and the walker's entries. -/
theorem Dev.seqRelease_frees {d0 : Dev} {r : SeqRec} (hr : d.fullRec (scHandle c) = some r) (hp : d.anyIn (d.pagesOf r) 3 = false)
    (hb : d0.seqBlocked c = false) : d0.seqRelease d c =
      let e := (d.pagesOf r).foldl (fun (d : Dev) x =>
        ((d.freeAny x.2.2.2.2).dev d).setL2 (scHandle c) x.1 x.2.1 x.2.2.1 x.2.2.2.1 noFrame) d
      let e : Dev := { e with kv := { e.kv with restores := e.kv.restores.erase (scHandle c) } }
      ((e.setCtx (scHandle c) none).dropHandle (scHandle c)).seqFinish c 0 0 := by
  simp only [Dev.seqRelease, hr, hp, hb, Bool.or_self, Bool.false_eq_true, if_false]

theorem Dev.setCtx_kv (d : Dev) (h : Nat) (r : Option SeqRec) :
    (d.setCtx h r).kv = { d.kv with ctxs := stSet (fun _ => none) d.kv.ctxs h r } := rfl

/-- A context enters the slot that was made for it: it is ACTIVE, and waits no more. -/
def Dev.restored (d : Dev) (h : Nat) (r : SeqRec) : Dev :=
  (({ d with kv := { d.kv with restores := d.kv.restores.tail } } : Dev).setCtx h (some { r with state := 1 })).count R.SEQ_SPILL_RESTORES 1

theorem Dev.restored_activates (d : Dev) (h : Nat) (r : SeqRec) : (d.restored h r).kv.activates = d.kv.activates := by
  rw [Dev.restored, Dev.count_kv, Dev.setCtx_kv]

/-- The ACTIVATE commands that waited for a context complete with it. -/
def Dev.activated (d : Dev) (h : Nat) : Dev :=
  let p := d.kv.activates.partition fun c => scHandle c = h
  p.1.foldl (fun (d : Dev) c => d.seqFinish c 0 0) { d with kv := { d.kv with activates := p.2 } }

theorem Dev.activated_none (h : Nat) (ha : d.kv.activates = []) : d.activated h = d := by
  have same : ({ d with kv := { d.kv with activates := [] } } : Dev) = d := by rw [← ha]
  rw [Dev.activated, ha]
  exact same

/-- The context that waits longest is restored into a slot, with the ACTIVATE commands that wait for it. -/
theorem Dev.restore_first {e : Dev} {h : Nat} {rest : List Nat} {r : SeqRec} (hq : d.kv.restores = h :: rest) (hr : d.fullRec h = some r)
    (hm : d.makeSlot = some e) : d.restore h = (e.restored h r).activated h := by
  simp only [Dev.restore, hq, hr, hm, List.head?_cons, if_true]
  rfl

end

/-- The meaning of the sequence command in front. -/
theorem does_seqFront {s : State} {i : Instr} {c : SeqCmd} {rest : List SeqCmd} {op : Nat} {d : Dev} (f : Dev → Dev → SeqCmd → Dev)
    (hi : exec i s = run s fun d => d.seqFront c.win op (f d)) (ho : c.op = op) (ha : s.dev.kv.seqArrivals = c :: rest)
    (hd : f s.fresh { s.fresh with kv := { s.dev.kv with seqArrivals := rest } } c = d) : Does i s d := by
  subst ho
  exact does_run hi ((Dev.seqFront_first (d := s.fresh) ha (f s.fresh)).trans hd)

/-- A restored context for which no ACTIVATE waits. -/
theorem does_contextRestore {s : State} {h : Nat} {rest : List Nat} {r : SeqRec} {d : Dev} (hq : s.dev.kv.restores = h :: rest)
    (hr : s.fresh.fullRec h = some r) (hm : s.fresh.makeSlot = some d) (ha : d.kv.activates = []) :
    Does (.contextRestore h) s (d.restored h r) :=
  does_run rfl ((Dev.restore_first (d := s.fresh) hq hr hm).trans (Dev.activated_none h ((d.restored_activates h r).trans ha)))

end Sys2Proof.Machine
end

section
/-!
PROOF. The statement about sequence commands.
-/

namespace Sys2Proof.Machine

/-- Settles O34: by the operation of the command in front and the state of the context that it names. -/
theorem sequenceCommands : Obligations.SequenceCommands := by
  intro s
  refine ⟨fun c rest ha => ?_, fun h rest r d hq hr hm hn => does_contextRestore hq hr hm hn⟩
  intro n b h
  refine ⟨fun ho hl0 hl hh0 hh h64 hf hp => ?admission, fun r ho hr hs => ?park, fun r ho hr hs => ?parked, fun r ho hr hs => ?spilled,
    fun r ho hr hp hw => ?release, fun r ho hr hs h64 hb h3 h2 hpin hw => ?fork⟩
  case admission =>
    have admits : b.Admits c := ⟨⟨hl0, hl⟩, ⟨hh0, hh⟩, h64, hf, hp⟩
    exact ⟨fun g d hg => does_seqFront (fun _ => Dev.seqAdmit) rfl ho ha (Dev.seqAdmit_handle admits hg),
      fun hg => does_seqFront (fun _ => Dev.seqAdmit) rfl ho ha (Dev.seqAdmit_full admits hg)⟩
  case park => exact does_seqFront (fun _ => Dev.seqPark) rfl ho ha (Dev.seqPark_active hr hs)
  case parked => exact does_seqFront (fun _ => Dev.seqActivate) rfl ho ha (Dev.seqActivate_parked hr hs)
  case spilled => exact does_seqFront (fun _ => Dev.seqActivate) rfl ho ha (Dev.seqActivate_spilled hr hs)
  case release => exact does_seqFront Dev.seqRelease rfl ho ha (Dev.seqRelease_frees hr hp hw)
  case fork =>
    have forks : s.fresh.Forks b c r := ⟨hs, h64, hb, h3, h2, hpin, hw⟩
    exact ⟨fun g d he hf hg => does_seqFront Dev.seqFork rfl ho ha (Dev.seqFork_bare hr forks hf he hg),
      fun hf => does_seqFront Dev.seqFork rfl ho ha (Dev.seqFork_short hr forks hf)⟩

end Sys2Proof.Machine
end

section
/-!
SUPPORT. What every command answers: a next state with the queue as it was, in which the fuses have only gained (R337, R338), or, at the test port,
the refusal of R353.
-/

namespace Sys2Proof.Machine

/-- From fuses within their banks a change leads to fuses within their banks, and only gains. -/
def Otp.Gains (a b : Otp) : Prop := a.wf → b.wf ∧ a.le b

/-- A next state with the queue as it was, in which the fuses have only gained. -/
def Answers (s : State) (r : Host.Outcome State Fault Refusal) : Prop := ∃ o d, r = .next ⟨o, d, s.pending⟩ ∧ s.otp.Gains o

namespace Otp.Gains

theorem refl (o : Otp) : o.Gains o := fun h => ⟨h, le_rfl, List.prefix_rfl⟩

theorem trans {a b c : Otp} (h : a.Gains b) (k : b.Gains c) : a.Gains c := fun ha =>
  have ⟨hb, hs, ho⟩ := h ha
  have ⟨hc, ks, ko⟩ := k hb
  ⟨hc, hs.trans ks, ho.trans ko⟩

theorem svn {o : Otp} {n : Nat} (h : o.svn ≤ n) (hn : n ≤ 64) : o.Gains { o with svn := n } := fun hw => ⟨⟨hn, hw.2⟩, h, List.prefix_rfl⟩

/-- The next owner bank is programmed. -/
theorem owner {o : Otp} (h : o.owner.length < 8) (b : List Byte) : o.Gains { o with owner := o.owner ++ [b] } := fun hw =>
  ⟨⟨hw.1, by simpa using h⟩, le_rfl, List.prefix_append _ _⟩

end Otp.Gains

/-! ### The fuses that SEC_CTL and a start burn (R337–R339) -/

theorem svnAdvance_gains (o : Otp) (d : Dev) : o.Gains (svnAdvance o d).1 := by
  unfold svnAdvance
  dsimp only
  split
  · intro hw
    exact Otp.Gains.svn (le_max_left _ _) (max_le hw.1 (min_le_left _ _)) hw
  · exact Otp.Gains.refl o

theorem secCtlWrite_gains (o : Otp) (d : Dev) (v : Nat) : o.Gains (secCtlWrite o d v).1 := by
  unfold secCtlWrite
  cases v.testBit 63
  · exact Otp.Gains.refl o
  · exact svnAdvance_gains o d

/-- An accepted copy enrols only where a bank is free (R338). -/
theorem owner_length_of_cfgAccepted {o : Otp} {d : Dev} {c : Nat} (h : cfgAccepted o d c = true) (hn : o.ownerHash.isSome = false) :
    o.owner.length < 8 := by
  rw [Option.isSome_eq_false_iff, Option.isNone_iff_eq_none] at hn
  simp only [cfgAccepted, cfgOwner, hn, enrollOk, Bool.and_eq_true, decide_eq_true_eq] at h
  obtain ⟨_, ⟨⟨_, hl⟩, _⟩, _⟩ := h
  exact hl

theorem bootConfig_gains (o : Otp) (d : Dev) : o.Gains (bootConfig o d).1 := by
  unfold bootConfig
  cases hf : d.cfgCopies.find? (cfgAccepted o d) with
  | none => exact Otp.Gains.refl o
  | some c =>
    have hc := List.find?_some hf
    have enrols : o.Gains (if o.ownerHash.isSome then o else { o with owner := o.owner ++ [cfgKeyHash (d.slotBody (cfgBase c))] }) := by
      cases hn : o.ownerHash.isSome
      · exact Otp.Gains.owner (owner_length_of_cfgAccepted hc hn) _
      · exact Otp.Gains.refl o
    dsimp only
    generalize (if o.ownerHash.isSome then o else { o with owner := o.owner ++ [cfgKeyHash (d.slotBody (cfgBase c))] } : Otp) = o' at enrols ⊢
    split
    · next hr => exact enrols.trans (Otp.Gains.owner hr.2 _)
    · exact enrols

theorem bootSteps_gains (o : Otp) (d : Dev) (rom : Bool) : o.Gains (bootSteps o d rom).1 := by
  unfold bootSteps
  dsimp only
  split
  · exact Otp.Gains.refl o
  · split
    · exact Otp.Gains.refl o
    · split
      · exact Otp.Gains.refl o
      · split <;> exact bootConfig_gains _ _

/-! ### Stores -/

theorem storeWord_gains (x : Otp × Dev) (w : Who) (o v : Nat) : x.1.Gains (storeWord x w o v).1 := by
  unfold storeWord
  split
  · exact Otp.Gains.refl _
  · split
    · exact secCtlWrite_gains _ _ _
    · exact Otp.Gains.refl _

theorem foldl_gains {α : Type} {f : Otp × Dev → α → Otp × Dev} (h : ∀ (x : Otp × Dev) a, x.1.Gains (f x a).1) (l : List α) (x : Otp × Dev) :
    x.1.Gains (l.foldl f x).1 := by
  induction l generalizing x with
  | nil => exact Otp.Gains.refl _
  | cons a r ih => exact (h x a).trans (ih (f x a))

theorem ctlWrite_gains (otp : Otp) (d : Dev) (w : Who) (o : Nat) (bs : List Byte) : otp.Gains (ctlWrite otp d w o bs).1.1 := by
  unfold ctlWrite
  dsimp only
  cases d.gate w o true with
  | uacc => exact Otp.Gains.refl _
  | addrErr => exact Otp.Gains.refl _
  | pass =>
    dsimp only
    split
    · exact Otp.Gains.refl _
    · split
      · exact storeWord_gains (otp, d) _ _ _
      · split
        · exact Otp.Gains.refl _
        · exact foldl_gains (fun x a => storeWord_gains x _ _ _) _ (otp, d)

theorem serveWrite_gains (otp : Otp) (d : Dev) (ingress : Nat) (p : Pkt) : otp.Gains (serveWrite otp d ingress p).1 := by
  unfold serveWrite
  dsimp only
  split
  · exact Otp.Gains.refl _
  · split
    · exact Otp.Gains.refl _
    · split
      · exact Otp.Gains.refl _
      · split
        · exact ctlWrite_gains _ _ _ _ _
        · split <;> exact Otp.Gains.refl _
        · exact Otp.Gains.refl _

/-! ### The shapes of a meaning -/

namespace Answers

variable {s : State}

/-- The device changes, the fuses stay. -/
theorem dev (d : Dev) : Answers s (.next { s with dev := d }) := ⟨s.otp, d, rfl, Otp.Gains.refl _⟩

/-- A command that is not taken while its requester stands still. -/
theorem ite_dev (stopped : Bool) (d' : Dev) {o : Otp} (d : Dev) (h : s.otp.Gains o) :
    Answers s (if stopped then .next { s with dev := d' } else .next ⟨o, d, s.pending⟩) := by
  cases stopped
  · exact ⟨o, d, rfl, h⟩
  · exact dev d'

theorem regWrite (w : Who) (o : Nat) (bs : List Byte) : Answers s (regWrite w o bs s) :=
  ite_dev _ s.fresh _ (ctlWrite_gains s.otp s.fresh w o bs)

/-- A store of a word. -/
theorem word (w : Who) (o v : Nat) : Answers s (regWrite8 w o v s) := regWrite w o _

theorem writeIn (opc k : Nat) : Answers s (writeIn opc k s) := by
  unfold Sys2Proof.Machine.writeIn
  dsimp only
  split
  · exact ⟨_, _, rfl, serveWrite_gains _ _ _ _⟩
  · exact dev _

theorem dawn (plim boot : Nat) (rom : Bool) : Answers s (execDawn plim boot rom s) := by
  unfold execDawn
  dsimp only
  split
  · exact ⟨_, _, rfl, bootSteps_gains _ _ _⟩
  · exact dev _

theorem morning (rom : Bool) : Answers s (execMorning rom s) := by
  unfold execMorning
  dsimp only
  split
  · exact ⟨_, _, rfl, bootSteps_gains _ _ _⟩
  · exact dev _

end Answers

/-- A test instruction that R353 keeps back: refused while TEST_ENABLE is 1, else the device alone changes. -/
theorem answers_scanDenied (s : State) (b : Nat) : Answers s (if s.dev.testEnable then .refused .testPort else run s fun d => d.jtagDenied b) ∨
    ((if s.dev.testEnable then .refused .testPort else run s fun d => d.jtagDenied b) = (.refused .testPort : Host.Outcome State Fault Refusal) ∧
      s.dev.testEnable = true) := by
  cases s.dev.testEnable
  · exact .inl (.dev _)
  · exact .inr ⟨rfl, rfl⟩

/-- Every command answers, but for the three test instructions that R353 keeps back. -/
theorem exec_answers (c : Instr) (s : State) : Answers s (exec c s) ∨
    (exec c s = .refused .testPort ∧ s.dev.testEnable = true ∧
      ((∃ b, c = .scanDebug b) ∨ (∃ b, c = .coreDebug b) ∨ ∃ n b, c = .ieee1500Access n b)) := by
  cases c
  case scanDebug b => exact (answers_scanDenied s b).imp_right fun h => ⟨h.1, h.2, .inl ⟨b, rfl⟩⟩
  case coreDebug b => exact (answers_scanDenied s b).imp_right fun h => ⟨h.1, h.2, .inr (.inl ⟨b, rfl⟩)⟩
  case ieee1500Access n b => exact (answers_scanDenied s b).imp_right fun h => ⟨h.1, h.2, .inr (.inr ⟨n, b, rfl⟩)⟩
  case dawn => exact .inl (.dawn _ _ _)
  case morning => exact .inl (.morning _)
  case writeReq | writePosted => exact .inl (.writeIn _ _)
  case registerWrite => exact .inl (.regWrite _ _ _)
  case getCert | verifyComplete | ethFrame => exact .inl (.dev _)
  case beatEnable | beatDisable | beatPeriodWrite | beatEntryWrite | beatPageBaseWrite | pageSwapArm | pageSwapWithdraw | imgLoadGo |
      imgLoadRestage | imgSwapArm | imgSwapWithdraw | imgUnload | imgSlotFree | imgPageCopy | imgRetile | tileFaultClear |
      tileInjectPoisonOut | tileInjectShadowParity | attnInjectMispredict | attnInjectForceRecover | pumpInjectAddrErr |
      pumpInjectStale | nearCacheInv | agxPortEnable | agxPortDisable | agxLoop | agxPortCtlWrite | agxPortInjectCrc | laneFailNow |
      agxRouteSwap | pullDone | pullDrop | mcTreeWrite | agxFenceArm | kvpFlush | kvpWalkInv | kvpFrameRd | pfxClear | expDirUpdArm |
      wgqDrain | vote | revote | abortNow | flipBack | setBank | scrubGo | eccSelftest | hbmCorr | hbmUncorr | cistRow | cistGroup |
      hbmPpr | dusk | wake | pwrRprGo | coreReset | c2mFull | m2cFull | svnAdvance | cfgApply | ethPortEnable | ethLoop | ptpStep =>
    exact .inl (.word _ _ _)
  all_goals exact .inl (.dev _)

/-- Settles O2: by what each command answers. -/
theorem onlyTestPortStops : Obligations.OnlyTestPortStops := fun c s =>
  (exec_answers c s).imp_left fun ⟨_, _, h, _⟩ => ⟨_, h, rfl⟩

/-- Settles O3: an idle step changes nothing, and a command that answers a next state has only gained fuses. -/
theorem fusesOneWay : Obligations.FusesOneWay := by
  intro s t hw h
  unfold step at h
  cases hp : s.pending with
  | nil =>
    rw [hp] at h
    obtain rfl : s = t := Host.Outcome.next.inj h
    exact Otp.Gains.refl _ hw
  | cons c q =>
    rw [hp] at h
    rcases exec_answers c { s with pending := q } with ⟨o, d, he, hg⟩ | ⟨he, _⟩
    · obtain rfl := Host.Outcome.next.inj (he.symm.trans h)
      exact hg hw
    · cases he.symm.trans h

/-- Settles O1: `step` is this case split on the queue. -/
theorem stepRunsFront : Obligations.StepRunsFront :=
  ⟨fun c q s h => by rw [step, h], fun s h => by rw [step, h]⟩

end Sys2Proof.Machine
end

section
/-!
SUPPORT. The codewords of a store to HBM: what each leaves of the poison, the errors and the bytes (R292, R294), and where granules lie (R287).
-/

namespace Sys2Proof.Machine

/-- What every step of a fold leaves, the fold leaves. -/
theorem foldl_keeps {σ α β : Type} (p : σ → β) {f : σ → α → σ} (h : ∀ x a, p (f x a) = p x) (l : List α) (x : σ) : p (l.foldl f x) = p x := by
  induction l generalizing x with
  | nil => rfl
  | cons a r ih => exact (ih (f x a)).trans (h x a)

theorem mem_codewords {a n c : Nat} : c ∈ codewords a n ↔ n ≠ 0 ∧ a / 128 ≤ c ∧ c ≤ (a + n - 1) / 128 := by
  unfold codewords
  split
  · next h => simp [h]
  · next h =>
    simp only [List.mem_map, List.mem_range, ne_eq, h, not_false_eq_true, true_and]
    exact ⟨by rintro ⟨i, hi, rfl⟩; omega, fun ⟨h1, h2⟩ => ⟨c - a / 128, by omega, by omega⟩⟩

theorem nodup_codewords (a n : Nat) : (codewords a n).Nodup := by
  unfold codewords
  split
  · exact List.nodup_nil
  · exact List.nodup_range.map fun _ _ h => Nat.add_right_cancel h

/-! ### A codeword marked poisoned (R293) -/

section
variable (h : HbmUnit) (k c : Nat) {j : Nat}

theorem HbmUnit.poisonWord_poison_ne (hj : j ≠ c) :
    stGet (fun _ => false) (h.poisonWord k c).poison j = stGet (fun _ => false) h.poison j := stGet_stSet_ne _ _ _ hj

theorem HbmUnit.poisonWord_bad_ne (hj : j ≠ c) : stGet (fun _ => 0) (h.poisonWord k c).bad j = stGet (fun _ => 0) h.bad j :=
  stGet_stSet_ne _ _ _ hj

/-- The bytes of the other codewords stay. -/
theorem HbmUnit.poisonWord_cells_ne {x : Nat} (hx : x / 128 ≠ c) :
    stGet (fun _ => (0 : Byte)) (h.poisonWord k c).cells x = stGet (fun _ => 0) h.cells x := by
  unfold HbmUnit.poisonWord
  dsimp only
  rw [stGet_stPut, dif_neg]
  rintro ⟨h1, h2⟩
  simp only [List.length_map, List.length_zip, List.length_range] at h2
  omega

end

/-! ### One codeword of a store (R292, R294) -/

/-- The write covers the whole codeword. -/
def wholeWord (st n c : Nat) : Prop := st ≤ 128 * c ∧ 128 * c + 128 ≤ st + n

section
variable (h : HbmUnit) (k st n : Nat) (pz : Nat → Bool) (c : Nat) {j x : Nat}

/-- A codeword that is written: poisoned by the bytes written, or, where it is written in part, by what it held. -/
theorem HbmUnit.storeWord_poison_same : stGet (fun _ => false) (h.storeWord k st n pz c).poison c =
    (((List.range 128).any fun i => decide (st ≤ 128 * c + i) && decide (128 * c + i < st + n) && pz (128 * c + i - st)) ||
      (!(decide (st ≤ 128 * c) && decide (128 * c + 128 ≤ st + n)) &&
        (stGet (fun _ => false) h.poison c || (!stGet (fun _ => false) h.poison c && decide (0 < stGet (fun _ => 0) h.bad c) &&
          !correctable (stGet (fun _ => 0) h.bad c) k)))) := stGet_stSet_same _ _ _ _

/-- A whole codeword is poisoned where a byte written is. -/
theorem HbmUnit.storeWord_poison_whole (hw : wholeWord st n c) : stGet (fun _ => false) (h.storeWord k st n pz c).poison c = true ↔
    ∃ i, i < 128 ∧ pz (128 * c + i - st) = true := by
  obtain ⟨h1, h2⟩ := hw
  rw [storeWord_poison_same, decide_eq_true h1, decide_eq_true h2, Bool.and_true, Bool.not_true, Bool.false_and, Bool.or_false, List.any_eq_true]
  refine exists_congr fun i => ?_
  rw [List.mem_range]
  refine and_congr_right fun hi => ?_
  rw [decide_eq_true (by omega : st ≤ 128 * c + i), decide_eq_true (by omega : 128 * c + i < st + n), Bool.true_and, Bool.true_and]

/-- One written in part stays poisoned. -/
theorem HbmUnit.storeWord_poison_part (hw : ¬ wholeWord st n c) (hp : stGet (fun _ => false) h.poison c = true) :
    stGet (fun _ => false) (h.storeWord k st n pz c).poison c = true := by
  have hw' : (decide (st ≤ 128 * c) && decide (128 * c + 128 ≤ st + n)) = false := by rw [← Bool.decide_and]; exact decide_eq_false hw
  rw [storeWord_poison_same, hw', hp, Bool.true_or, Bool.not_false, Bool.and_true, Bool.or_true]

theorem HbmUnit.storeWord_poison_ne (hj : j ≠ c) :
    stGet (fun _ => false) (h.storeWord k st n pz c).poison j = stGet (fun _ => false) h.poison j := by
  refine (stGet_stSet_ne _ _ _ hj).trans ?_
  split
  · exact h.poisonWord_poison_ne k c hj
  · rfl

theorem HbmUnit.storeWord_bad_ne (hj : j ≠ c) : stGet (fun _ => 0) (h.storeWord k st n pz c).bad j = stGet (fun _ => 0) h.bad j := by
  refine (stGet_stSet_ne _ _ _ hj).trans ?_
  split
  · exact h.poisonWord_bad_ne k c hj
  · rfl

/-- Only the bytes of the codeword change, and only where it had wrong symbols. -/
theorem HbmUnit.storeWord_cells (hx : x / 128 ≠ c ∨ stGet (fun _ => 0) h.bad c = 0) :
    stGet (fun _ => (0 : Byte)) (h.storeWord k st n pz c).cells x = stGet (fun _ => 0) h.cells x := by
  unfold HbmUnit.storeWord
  dsimp only
  split
  · next hc =>
    refine h.poisonWord_cells_ne k c (hx.resolve_right fun h0 => ?_)
    rw [h0, decide_eq_false (Nat.lt_irrefl 0), Bool.and_false, Bool.false_and, Bool.and_false] at hc
    cases hc
  · rfl

end

/-! ### The same on the device, with an error planted (R301) -/

section
variable (d : Dev) (k st n : Nat) (pz : Nat → Bool) (c : Nat) {j x : Nat}

theorem Dev.plant_poison : (d.plant k c).hbm.poison = d.hbm.poison := by
  unfold Dev.plant; dsimp only; split <;> rfl

theorem Dev.plant_cells : (d.plant k c).hbm.cells = d.hbm.cells := by
  unfold Dev.plant; dsimp only; split <;> rfl

theorem Dev.plant_bad_ne (hj : j ≠ c) : stGet (fun _ => 0) (d.plant k c).hbm.bad j = stGet (fun _ => 0) d.hbm.bad j := by
  unfold Dev.plant
  dsimp only
  split
  · exact stGet_stSet_ne _ _ _ hj
  · rfl

/-- HBM before the planted error. -/
theorem Dev.storeWord_hbm : ∃ e : Dev, e.hbm = d.hbm.storeWord k st n pz c ∧ d.storeWord k st n pz c = e.plant k c := by
  refine ⟨_, ?_, rfl⟩
  split <;> rfl

theorem Dev.storeWord_poison : (d.storeWord k st n pz c).hbm.poison = (d.hbm.storeWord k st n pz c).poison := by
  obtain ⟨e, he, hd⟩ := d.storeWord_hbm k st n pz c
  rw [hd, plant_poison, he]

theorem Dev.storeWord_bad_ne (hj : j ≠ c) :
    stGet (fun _ => 0) (d.storeWord k st n pz c).hbm.bad j = stGet (fun _ => 0) d.hbm.bad j := by
  obtain ⟨e, he, hd⟩ := d.storeWord_hbm k st n pz c
  rw [hd, e.plant_bad_ne k c hj, he, HbmUnit.storeWord_bad_ne _ _ _ _ _ _ hj]

theorem Dev.storeWord_hbmByte (hx : x / 128 ≠ c ∨ stGet (fun _ => 0) d.hbm.bad c = 0) :
    (d.storeWord k st n pz c).hbmByte x = d.hbmByte x := by
  obtain ⟨e, he, hd⟩ := d.storeWord_hbm k st n pz c
  rw [hd, Dev.hbmByte, plant_cells, he]
  exact d.hbm.storeWord_cells k st n pz c hx

end

/-! ### All codewords of a store -/

section
variable (k st n : Nat) (pz : Nat → Bool)

/-- The codewords of a store, one after the other. -/
def Dev.storeWords (d : Dev) (l : List Nat) : Dev := l.foldl (fun (d : Dev) c => d.storeWord k st n pz c) d

variable {l : List Nat} {c x : Nat}

theorem Dev.storeWords_poison_notMem (d : Dev) (hc : c ∉ l) :
    stGet (fun _ => false) (d.storeWords k st n pz l).hbm.poison c = stGet (fun _ => false) d.hbm.poison c := by
  induction l generalizing d with
  | nil => rfl
  | cons b r ih =>
    obtain ⟨hb, hr⟩ := not_or.mp (mt List.mem_cons.mpr hc)
    exact (ih _ hr).trans (by rw [storeWord_poison, HbmUnit.storeWord_poison_ne _ _ _ _ _ _ hb])

theorem Dev.storeWords_bad_notMem (d : Dev) (hc : c ∉ l) :
    stGet (fun _ => 0) (d.storeWords k st n pz l).hbm.bad c = stGet (fun _ => 0) d.hbm.bad c := by
  induction l generalizing d with
  | nil => rfl
  | cons b r ih =>
    obtain ⟨hb, hr⟩ := not_or.mp (mt List.mem_cons.mpr hc)
    exact (ih _ hr).trans (d.storeWord_bad_ne k st n pz b hb)

/-- A codeword is stored once, from the poison and the errors that it had before. -/
theorem Dev.storeWords_poison_mem (d : Dev) (hl : l.Nodup) (hc : c ∈ l) : ∃ h : HbmUnit,
    stGet (fun _ => false) h.poison c = stGet (fun _ => false) d.hbm.poison c ∧
    stGet (fun _ => false) (d.storeWords k st n pz l).hbm.poison c = stGet (fun _ => false) (h.storeWord k st n pz c).poison c := by
  obtain ⟨a, b, rfl⟩ := List.append_of_mem hc
  have hd := List.nodup_append.mp hl
  have ha : c ∉ a := fun h => hd.2.2 c h c List.mem_cons_self rfl
  have hb : c ∉ b := (List.nodup_cons.mp hd.2.1).1
  refine ⟨(d.storeWords k st n pz a).hbm, d.storeWords_poison_notMem k st n pz ha, ?_⟩
  rw [Dev.storeWords, List.foldl_append, List.foldl_cons]
  exact (Dev.storeWords_poison_notMem k st n pz _ hb).trans (by rw [storeWord_poison]; rfl)

/-- Bytes outside the codewords stay, and so do those of a codeword without wrong symbols. -/
theorem Dev.storeWords_hbmByte (d : Dev) (hl : l.Nodup) (hx : x / 128 ∉ l ∨ stGet (fun _ => 0) d.hbm.bad (x / 128) = 0) :
    (d.storeWords k st n pz l).hbmByte x = d.hbmByte x := by
  induction l generalizing d with
  | nil => rfl
  | cons b r ih =>
    obtain ⟨hbr, hr⟩ := List.nodup_cons.mp hl
    by_cases hb : x / 128 = b
    · subst hb
      have h0 := hx.resolve_left fun h => h List.mem_cons_self
      exact (ih _ hr (.inl hbr)).trans (d.storeWord_hbmByte k st n pz _ (.inr h0))
    · refine (ih _ hr ?_).trans (d.storeWord_hbmByte k st n pz b (.inl hb))
      rw [d.storeWord_bad_ne k st n pz b hb]
      exact hx.imp_left fun h hm => h (List.mem_cons_of_mem _ hm)

end

/-! ### A store -/

section
variable (d : Dev) (a : Nat) (bs : List Byte) (pz : Nat → Bool)

/-- What a store leaves in HBM: its codewords stored, then its bytes. -/
theorem Dev.hbmStore_hbm : (d.hbmStore a bs pz).1.hbm =
    let e := d.storeWords d.strength (d.bankAddr a) bs.length pz (codewords (d.bankAddr a) bs.length)
    { e.hbm with cells := stPut (fun _ => 0) e.hbm.cells (d.bankAddr a) bs } :=
  foldl_keeps Dev.hbm (f := Dev.countWrite) (fun _ _ => rfl) (granules a bs.length) _

/-- The bytes written read back. -/
theorem Dev.hbmStore_hbmByte_in {i : Nat} (h : i < bs.length) : (d.hbmStore a bs pz).1.hbmByte (d.bankAddr a + i) = bs[i] := by
  rw [Dev.hbmByte, d.hbmStore_hbm, stGet_stPut, dif_pos ⟨Nat.le_add_right _ _, by omega⟩]
  simp

theorem Dev.hbmStore_hbmByte_out {x : Nat} (h : x < d.bankAddr a ∨ d.bankAddr a + bs.length ≤ x) : (d.hbmStore a bs pz).1.hbmByte x =
    (d.storeWords d.strength (d.bankAddr a) bs.length pz (codewords (d.bankAddr a) bs.length)).hbmByte x := by
  rw [Dev.hbmByte, d.hbmStore_hbm, stGet_stPut, dif_neg (by omega)]
  rfl

theorem Dev.hbmStore_poison {c : Nat} (hc : c ∈ codewords (d.bankAddr a) bs.length) : ∃ h : HbmUnit,
    stGet (fun _ => false) h.poison c = stGet (fun _ => false) d.hbm.poison c ∧ stGet (fun _ => false) (d.hbmStore a bs pz).1.hbm.poison c =
      stGet (fun _ => false) (h.storeWord d.strength (d.bankAddr a) bs.length pz c).poison c := by
  obtain ⟨h, hp, he⟩ := d.storeWords_poison_mem d.strength (d.bankAddr a) bs.length pz (nodup_codewords _ _) hc
  exact ⟨h, hp, by rw [d.hbmStore_hbm]; exact he⟩

end

/-- Settles O57: by the codewords of the store, each stored once. -/
theorem memoryStores : Obligations.MemoryStores := by
  intro d a bs pz
  refine ⟨(KeepsMem.hbmStore d a bs pz).hbm, fun i h => d.hbmStore_hbmByte_in a bs pz h, fun x hx hc => ?others, fun c h1 h2 => ?whole,
    fun c h1 h2 hw hn hp => ?part⟩
  case others =>
    rw [d.hbmStore_hbmByte_out a bs pz hx]
    refine d.storeWords_hbmByte _ _ _ pz (nodup_codewords _ _) ?_
    rcases hc with hc | hc | hc
    · exact .inl fun h => by have := mem_codewords.mp h; omega
    · exact .inl fun h => by have := mem_codewords.mp h; omega
    · exact .inr hc
  case whole =>
    obtain ⟨h, _, he⟩ := d.hbmStore_poison a bs pz (c := c) (mem_codewords.mpr (by omega))
    rw [he]
    exact h.storeWord_poison_whole _ _ _ pz c ⟨h1, h2⟩
  case part =>
    have h0 : bs.length ≠ 0 := fun h => hn (List.length_eq_zero_iff.mp h)
    obtain ⟨h, hpo, he⟩ := d.hbmStore_poison a bs pz (c := c) (mem_codewords.mpr (by omega))
    rw [he]
    exact h.storeWord_poison_part _ _ _ pz c hw (hpo.trans hp)

/-! ### Granules (R287) -/

/-- Without PINNED regions a granule's number in base 64 × stacks gives its stack, channel and slot. -/
theorem storageOf_unpinned (sts : List Nat) (u : Nat) {regions : List Region} (a : Nat) (h : ∀ r, r ∈ regions → r.pinned = false) :
    storageOf sts u regions a =
      let n := sts.length
      let t := a / 2048 / (64 * n)
      let p := a / 2048 % (64 * n)
      (sts.getD ((p % n + t) % n) 0, (p / n) ^^^ (t % 64), t) := by
  have hp : regions.filter (·.pinned) = [] := List.filter_eq_nil_iff.mpr fun r hr => by rw [h r hr]; exact Bool.false_ne_true
  simp only [storageOf, hp]
  rfl

theorem getD_inj {l : List Nat} (hl : l.Nodup) {i j : Nat} (hi : i < l.length) (hj : j < l.length) (h : l.getD i 0 = l.getD j 0) : i = j := by
  rw [List.getD_eq_getElem _ _ hi, List.getD_eq_getElem _ _ hj] at h
  exact (hl.getElem_inj_iff).mp h

/-- A rotation of the stacks is one to one. -/
theorem rotate_inj {n t i j : Nat} (hi : i < n) (hj : j < n) (h : (i + t) % n = (j + t) % n) : i = j := by
  have := Nat.ModEq.add_right_cancel' t (show i + t ≡ j + t [MOD n] from h)
  exact Nat.ModEq.eq_of_lt_of_lt this hi hj

/-- Settles O58: the slot gives the quotient, the channel and the stack the remainder. -/
theorem granulesApart : Obligations.GranulesApart := by
  intro sts u regions a b hd hne hr h
  have hn : 0 < sts.length := List.length_pos_iff.mpr hne
  rw [storageOf_unpinned sts u a hr, storageOf_unpinned sts u b hr] at h
  obtain ⟨hs, h⟩ := Prod.mk.inj h
  obtain ⟨hc, ht⟩ := Prod.mk.inj h
  rw [ht] at hs hc
  have hq := (Nat.xor_left_inj).mp hc
  have hm := rotate_inj (Nat.mod_lt _ hn) (Nat.mod_lt _ hn) (getD_inj hd (Nat.mod_lt _ hn) (Nat.mod_lt _ hn) hs)
  rw [← Nat.div_add_mod (a / 2048) (64 * sts.length), ← Nat.div_add_mod (b / 2048) (64 * sts.length), ht,
    ← Nat.div_add_mod (a / 2048 % (64 * sts.length)) sts.length, ← Nat.div_add_mod (b / 2048 % (64 * sts.length)) sts.length, hq, hm]

end Sys2Proof.Machine
end

section
/-!
SUPPORT. A record and its ring (R331): what each of the four outcomes leaves in HBM and in the ring's registers.
-/

namespace Sys2Proof.Machine

section
variable (d : Dev)

theorem Dev.eccNote_hbm (cls source unit off : Nat) : (d.eccNote cls source unit off).hbm = d.hbm := by
  unfold Dev.eccNote
  dsimp only
  split <;> split <;> rfl

theorem Dev.markStale_hbm (a n : Nat) : (d.markStale a n).hbm = d.hbm := by
  unfold Dev.markStale
  refine foldl_keeps Dev.hbm (fun e x => ?_) _ _
  dsimp only
  split <;> rfl

theorem Dev.hbmPut_hbm (a : Nat) (bs : List Byte) (pz : Nat → Bool) : (d.hbmPut a bs pz).1.hbm = (d.hbmStore a bs pz).1.hbm :=
  Dev.markStale_hbm _ _ _

theorem Dev.ringInterrupt_hbm (n : Nat) : (d.ringInterrupt n).hbm = d.hbm := by unfold Dev.ringInterrupt; split <;> rfl

theorem Dev.ringInterrupt_get (n : Nat) (f : Fld) : (d.ringInterrupt n).get f = d.get f := by unfold Dev.ringInterrupt; split <;> rfl

/-- The registers that the first-error log and the class bits of an error may change (R296). -/
def eccLogReg (o : Nat) : Prop := o = R.ECC_ERR ∨ o = R.ECC_LOG_0 ∨ o = R.ECC_LOG_1

theorem Dev.eccNote_get {f : Fld} (cls source unit off : Nat) (h : ¬ eccLogReg f.reg) : (d.eccNote cls source unit off).get f = d.get f := by
  obtain ⟨h1, h2⟩ := not_or.mp h
  obtain ⟨h2, h3⟩ := not_or.mp h2
  have set (e : Dev) (g : Fld) (v : Nat) (hg : f.reg ≠ g.reg) : (e.set g v).get f = e.get f := e.get_set_otherReg v hg
  have count (e : Dev) (g : Fld) (v : Nat) : (e.count g v).get f = e.get f := rfl
  unfold Dev.eccNote
  dsimp only
  split <;> split <;> simp only [count, set _ R.ECC_ERR_CORRECTED _ h1, set _ R.ECC_ERR_DEFERRED _ h1, set _ R.ECC_ERR_CONTAINED _ h1, set _ R.ECC_ERR_FATAL _ h1,
    set _ R.ECC_LOG_0_CLASS _ h2, set _ R.ECC_LOG_0_SOURCE _ h2, set _ R.ECC_LOG_0_UNIT _ h2, set _ R.ECC_LOG_0_OFFSET _ h2, set _ R.ECC_LOG_1_BEAT _ h3]

theorem Dev.eccNote_contained (source unit off : Nat) : (d.eccNote 2 source unit off).get R.ECC_ERR_CONTAINED = 1 :=
  Dev.get_set_same _ R.ECC_ERR_CONTAINED 1 (by decide)

end

section
variable {d : Dev} {n : Nat} {body : Nat → List Byte}

theorem ringW1_ne_mgmtErr (hn : n < 16) : R.MGMT_RING_W1 n ≠ R.MGMT_ERR := by rw [R.MGMT_RING_W1, R.MGMT_ERR]; omega

theorem ringW2_ne_mgmtErr (hn : n < 16) : R.MGMT_RING_W2 n ≠ R.MGMT_ERR := by rw [R.MGMT_RING_W2, R.MGMT_ERR]; omega

theorem ringW1_ne_ringW2 (n : Nat) : R.MGMT_RING_W1 n ≠ R.MGMT_RING_W2 n := by rw [R.MGMT_RING_W1, R.MGMT_RING_W2]; omega

theorem not_eccLogReg_ring {o : Nat} (h : 0xE000000 ≤ o) : ¬ eccLogReg o := by
  rintro (rfl | rfl | rfl) <;> exact absurd h (by decide)

/-- The record is counted as dropped. -/
abbrev Dev.ringDrop (d : Dev) (n : Nat) : Dev := d.bump (R.MGMT_RING_W2_DROPPED n) 1

theorem Dev.ringDrop_prod (d : Dev) (n : Nat) : (d.ringDrop n).get (R.MGMT_RING_W1_PROD n) = d.get (R.MGMT_RING_W1_PROD n) :=
  d.get_set_otherReg _ (g := R.MGMT_RING_W1_PROD n) (ringW1_ne_ringW2 n)

theorem Dev.ringDrop_overflow (d : Dev) (n : Nat) : (d.ringDrop n).get (R.MGMT_RING_W2_OVERFLOW n) = d.get (R.MGMT_RING_W2_OVERFLOW n) :=
  d.get_set_ne _ _ _ (by simp [Fld.apart, R.MGMT_RING_W2_DROPPED, R.MGMT_RING_W2_OVERFLOW]) rfl rfl

theorem Dev.ringPut_disabled (he : d.flag (R.MGMT_RING_W0_ENABLE n) = false) :
    d.ringPut n body = (d.ringDrop n).set R.MGMT_ERR_RING_DISABLED 1 := by
  simp only [Dev.ringPut, he, Bool.not_false, if_true]

section
variable (he : d.flag (R.MGMT_RING_W0_ENABLE n) = true)
include he

theorem Dev.ringPut_full (hf : sub32 (d.get (R.MGMT_RING_W1_PROD n)) (d.get (R.MGMT_RING_W1_CONS n)) = d.ringSize n) :
    d.ringPut n body = ((d.ringDrop n).set (R.MGMT_RING_W2_OVERFLOW n) 1).set R.MGMT_ERR_RING_OVERFLOW 1 := by
  simp only [Dev.ringPut, he, hf, Bool.not_true, Bool.false_eq_true, if_false, if_true]

variable (hf : ¬ sub32 (d.get (R.MGMT_RING_W1_PROD n)) (d.get (R.MGMT_RING_W1_CONS n)) = d.ringSize n)
include hf

/-- A slot that may not be written: the record is dropped and the slot reported. -/
theorem Dev.ringPut_refused (hw : d.writeDenied (d.get (R.MGMT_RING_W0_BASE n) + 64 * (d.get (R.MGMT_RING_W1_PROD n) % d.ringSize n)) 64 ≠ none) :
    d.ringPut n body = ((d.ringDrop n).set R.MGMT_ERR_RING_FAULT 1).eccNote 2 5 63
      (d.get (R.MGMT_RING_W0_BASE n) + 64 * (d.get (R.MGMT_RING_W1_PROD n) % d.ringSize n)) := by
  rw [Dev.ringPut, he, Bool.not_true, if_neg Bool.false_ne_true]
  dsimp only
  rw [if_neg hf, if_pos (Option.isSome_iff_ne_none.mpr hw)]

/-- A record that is written: its bytes in HBM, and PROD one more. -/
theorem Dev.ringPut_written (hw : d.writeDenied (d.get (R.MGMT_RING_W0_BASE n) + 64 * (d.get (R.MGMT_RING_W1_PROD n) % d.ringSize n)) 64 = none) :
    ∃ e : Dev, e.hbm = (d.hbmStore (d.get (R.MGMT_RING_W0_BASE n) + 64 * (d.get (R.MGMT_RING_W1_PROD n) % d.ringSize n))
        (body (d.get (R.MGMT_RING_W1_PROD n))) fun _ => false).1.hbm ∧
      d.ringPut n body = (e.set (R.MGMT_RING_W1_PROD n) (d.get (R.MGMT_RING_W1_PROD n) + 1)).ringInterrupt n := by
  rw [Dev.ringPut, he, Bool.not_true, if_neg Bool.false_ne_true]
  dsimp only
  rw [if_neg hf, hw, Option.isSome_none, if_neg Bool.false_ne_true]
  exact ⟨_, (foldl_keeps Dev.hbm (fun e f => e.eccNote_hbm _ _ _ _) _ _).trans (d.hbmPut_hbm _ _ _), rfl⟩

end
end

/-- Settles O59: by the ring's ENABLE, whether it is full, and whether its slot may be written. -/
theorem recordsRing : Obligations.RecordsRing := by
  intro d n body hn hl
  refine ⟨fun he => ?disabled, fun he hf => ?full, fun he hf hw => ?refused, fun he hf hw => ?written⟩
  case disabled =>
    rw [Dev.ringPut_disabled he]
    exact ⟨rfl, (Dev.get_set_otherReg _ _ (ringW1_ne_mgmtErr hn)).trans (d.ringDrop_prod n), Dev.get_set_same _ _ _ (by decide)⟩
  case full =>
    rw [Dev.ringPut_full he hf]
    refine ⟨rfl, ?_, ?_⟩
    · exact (Dev.get_set_otherReg _ _ (ringW1_ne_mgmtErr hn)).trans
        ((Dev.get_set_otherReg _ _ (ringW1_ne_ringW2 n)).trans (d.ringDrop_prod n))
    · exact (Dev.get_set_otherReg _ _ (ringW2_ne_mgmtErr hn)).trans (Dev.get_set_same _ _ _ rfl)
  case refused =>
    rw [Dev.ringPut_refused he hf hw]
    have keeps (e : Dev) {f : Fld} (slot : Nat) (hf : 0xE000000 ≤ f.reg) : (e.eccNote 2 5 63 slot).get f = e.get f :=
      e.eccNote_get _ _ _ _ (not_eccLogReg_ring hf)
    refine ⟨Dev.eccNote_hbm _ _ _ _ _, ?_, ?_, Dev.eccNote_contained _ _ _ _, ?_⟩
    · exact (keeps _ _ (by rw [R.MGMT_RING_W1_PROD, R.MGMT_RING_W1]; dsimp only; omega)).trans
        ((Dev.get_set_otherReg _ _ (ringW1_ne_mgmtErr hn)).trans (d.ringDrop_prod n))
    · exact (keeps _ _ (by decide)).trans (Dev.get_set_same _ _ _ (by decide))
    · exact (keeps _ _ (by rw [R.MGMT_RING_W2_OVERFLOW, R.MGMT_RING_W2]; dsimp only; omega)).trans
        ((Dev.get_set_otherReg _ _ (ringW2_ne_mgmtErr hn)).trans (d.ringDrop_overflow n))
  case written =>
    obtain ⟨e, hm, hp⟩ := Dev.ringPut_written (body := body) he hf hw
    rw [hp]
    refine ⟨(Dev.ringInterrupt_get _ _ _).trans (Dev.get_set_same _ _ _ rfl), fun i hi => ?_⟩
    have hlen := hi.trans_eq (hl (d.get (R.MGMT_RING_W1_PROD n))).symm
    rw [List.getElem?_eq_getElem hlen, Dev.hbmByte, Dev.ringInterrupt_hbm, Dev.set_hbm, hm]
    exact congrArg some (d.hbmStore_hbmByte_in _ _ _ hlen)

end Sys2Proof.Machine
end

section
/-!
SUPPORT. HBM's controllers and the scrubber: what their events and the stores to their registers make of the device (R284, R285, R289, R290, R293,
R297, R302, R303).
-/

namespace Sys2Proof.Machine

/-! ### The controllers -/

theorem Dev.markRetry_hbm (d : Dev) (loc : Nat) : (d.markRetry loc).hbm = d.hbm := by
  unfold Dev.markRetry
  refine foldl_keeps Dev.hbm (fun e x => ?_) _ _
  dsimp only
  split <;> rfl

/-- The codeword of a second read, with the wrong symbols that it delivers counted and kept. -/
def Dev.rereadWord (d : Dev) (a wrong : Nat) : Dev :=
  let pc := d.pcOf (a / 128 * 128)
  let e := (d.markRetry (a / 128 * 128)).count (R.HBM_PC_W1_RETRIES (pc / 64) (pc % 64)) 1
  { e with hbm := { e.hbm with bad := stSet (fun _ => 0) e.hbm.bad (d.bankAddr a / 128) wrong } }

/-- A second read below the top of a codeword that is not poisoned yet. -/
theorem Dev.reread_eq {d : Dev} {a : Nat} (syms source : Nat) (ha : a < d.get R.ECC_TOP_TOP)
    (hp : stGet (fun _ => false) d.hbm.poison (d.bankAddr a / 128) = false) :
    let pc := d.pcOf (a / 128 * 128)
    let wrong := max syms (stGet (fun _ => 0) d.hbm.bad (d.bankAddr a / 128))
    let e := d.rereadWord a wrong
    d.reread a syms source =
      if correctable wrong d.strength then
        (e.count (R.HBM_PC_W1_CORRECTED (pc / 64) (pc % 64)) 1).logError 0 source pc (a / 128 * 128) 0xFFFF (2 ^ 32 - 1)
      else ({ e with hbm := e.hbm.poisonWord d.strength (d.bankAddr a / 128) } : Dev).logError 1 source pc (a / 128 * 128) 0xFFFF (2 ^ 32 - 1) := by
  have bad : ((d.markRetry (a / 128 * 128)).count (R.HBM_PC_W1_RETRIES (d.pcOf (a / 128 * 128) / 64) (d.pcOf (a / 128 * 128) % 64)) 1).hbm =
      d.hbm := d.markRetry_hbm _
  simp only [Dev.reread, Nat.not_le.mpr ha, if_false, hp, Bool.false_eq_true, bad, stGet_stSet_same]
  simp only [Dev.rereadWord, bad]

section
variable {s : State}

theorem does_hbmReread {a syms : Nat} (ha : a < s.dev.get R.ECC_TOP_TOP)
    (hp : stGet (fun _ => false) s.dev.hbm.poison (s.fresh.bankAddr a / 128) = false) :
    let pc := s.fresh.pcOf (a / 128 * 128)
    let wrong := max syms (stGet (fun _ => 0) s.dev.hbm.bad (s.fresh.bankAddr a / 128))
    let d := s.fresh.rereadWord a wrong
    (2 * wrong ≤ s.dev.strength →
      Does (.hbmReread a syms) s ((d.count (R.HBM_PC_W1_CORRECTED (pc / 64) (pc % 64)) 1).logError 0 0 pc (a / 128 * 128) 0xFFFF (2 ^ 32 - 1))) ∧
    (s.dev.strength < 2 * wrong →
      Does (.hbmReread a syms) s (({ d with hbm := d.hbm.poisonWord s.dev.strength (s.fresh.bankAddr a / 128) } : Dev).logError 1 0 pc
        (a / 128 * 128) 0xFFFF (2 ^ 32 - 1))) := by
  have h := Dev.reread_eq (d := s.fresh) syms 0 ha hp
  exact ⟨fun hk => does_run (f := fun d => d.reread a syms 0) rfl (h.trans (if_pos (decide_eq_true hk))),
    fun hk => does_run (f := fun d => d.reread a syms 0) rfl (h.trans (if_neg fun hc => Nat.not_le.mpr hk (of_decide_eq_true hc)))⟩

theorem does_ageCap {n : Nat} (hu : s.fresh.stackUp (n / 64) = true) :
    Does (.ageCap n) s (s.fresh.count (R.HBM_PC_W1_AGE_CAP (n / 64) (n % 64)) 1) := does_run rfl (if_pos hu)

theorem does_hbmRefresh {n : Nat} (hu : s.fresh.stackUp (n / 64) = true) :
    Does (.hbmRefresh n) s { s.dev with out := [.refresh n (decide (s.dev.get (R.HBM_CTL_REFRESH (n / 64)) = 1))] } :=
  does_run rfl (if_pos hu)

theorem does_stackFailure {n : Nat} (hn : n < 24) (hu : s.fresh.stackUp n = true) :
    Does (.stackFailure n) s ((s.fresh.fatal 0 (64 * n)).set (R.HBM_STATUS_STATE n) 4) := by
  have hm : n % 24 = n := Nat.mod_eq_of_lt hn
  have h : exec (.stackFailure n) s = run s fun d => if d.stackUp (n % 24) then (d.fatal 0 (64 * (n % 24))).set (R.HBM_STATUS_STATE (n % 24)) 4 else d :=
    rfl
  rw [hm] at h
  exact does_run h (if_pos hu)

end

/-! ### The scrubber -/

/-- The row of ECC_SCRUB_CTL. -/
abbrev scrubCtlRow : RegRow := rowsEcc[5]

section
variable {s : State} {w : Who} {v : Nat}

/-- The fields that a store to ECC_SCRUB_CTL sets. -/
def Dev.scrubCtlSet (d : Dev) (v : Nat) : Dev :=
  ((d.set R.ECC_SCRUB_CTL_CLEAR_POISON (bits v 61 61)).set R.ECC_SCRUB_CTL_CONTINUOUS (bits v 60 60)).set R.ECC_SCRUB_CTL_RATE_GBS (bits v 47 32)

/-- GO starts a pass over the range, or refuses it. -/
theorem Dev.scrubCtlWrite_go {d : Dev} {u : Nat} (top : Topped v true (v.testBit 62) u) : d.scrubCtlWrite u =
    let d := d.scrubCtlSet v
    let b := d.get R.ECC_SCRUB_BASE_BASE
    let l := d.get R.ECC_SCRUB_LEN_LEN
    if b % 2048 ≠ 0 ∨ l % 2048 ≠ 0 ∨ d.get R.ECC_TOP_TOP < b + l then d.raise1 R.ECC_ERR_SCRUB_REJECT b
    else
      let d := (d.set R.ECC_SCRUB_CTL_BUSY 1).set R.ECC_SCRUB_POS_POS b
      { d with hbm := { d.hbm with scrub := ⟨b, l, d.beatNow, 0, 0, 0, 0, none, [], 0⟩ } } := by
  have h61 := top.low 61 61 (by decide) (by decide)
  have h60 := top.low 60 60 (by decide) (by decide)
  have h47 := top.low 47 32 (by decide) (by decide)
  rw [Dev.scrubCtlWrite, top.bit63, h61, h60, h47]
  rfl

theorem does_scrubGo {d : Dev} (hv : v < 2 ^ 64) (ht : s.takes w R.ECC_SCRUB_CTL) (hd : s.fresh.scrubCtlWrite (R.ECC_SCRUB_CTL_GO.on v) = d) :
    Does (.scrubGo w v) s d :=
  does_write (row := scrubCtlRow) (ix := []) rfl ht rfl (by decide) (by decide) (Fld.on_lt _ v rfl hv) hd

/-- A clean codeword that begins no granule is left as it is. -/
theorem Dev.scrubWord_clean {d : Dev} {a : Nat} (hp : stGet (fun _ => false) d.hbm.poison (d.bankAddr a / 128) = false)
    (hb : stGet (fun _ => 0) d.hbm.bad (d.bankAddr a / 128) = 0) (hg : a % 2048 ≠ 0) : d.scrubWord a = d := by
  simp only [Dev.scrubWord, if_neg hg, hp, hb, Bool.false_eq_true, if_false, if_true]

theorem does_scrubCodeword (hs : s.fresh.scrubbing = true) (ha : s.dev.get R.ECC_SCRUB_POS_POS < s.dev.hbm.scrub.base + s.dev.hbm.scrub.len) :
    Does .scrubCodeword s ((s.fresh.scrubWord (s.dev.get R.ECC_SCRUB_POS_POS)).set R.ECC_SCRUB_POS_POS (s.dev.get R.ECC_SCRUB_POS_POS + 128)) :=
  does_run rfl (if_pos ⟨hs, ha⟩)

/-- The device once the record of a pass is written. -/
def Dev.scrubPassed (d : Dev) : Dev :=
  (d.memWrite 63 (d.get R.ECC_SCRUB_REC_REC / 64 * 64) (scrubRecord d.hbm.scrub d.beatNow) fun _ => false).1.scrubNote fun x =>
    { x with passes := x.passes + 1 }

/-- The position goes back to the start of the range, and the counts to zero. -/
def Dev.scrubAgain (d : Dev) (base : Nat) : Dev :=
  (d.set R.ECC_SCRUB_POS_POS base).scrubNote fun y =>
    { y with startBeat := d.beatNow, corrected := 0, newPoison := 0, oldPoison := 0, cleared := 0, firstBad := none, perPc := [] }

theorem does_scrubPassDone (hs : s.fresh.scrubbing = true) (ha : s.dev.hbm.scrub.base + s.dev.hbm.scrub.len ≤ s.dev.get R.ECC_SCRUB_POS_POS) :
    Does .scrubPassDone s ((if s.fresh.scrubPassed.flag R.ECC_SCRUB_CTL_CONTINUOUS then s.fresh.scrubPassed.scrubAgain s.dev.hbm.scrub.base
      else s.fresh.scrubPassed.set R.ECC_SCRUB_CTL_BUSY 0).event R.ECC_SCRUB_CTL_BUSY s.dev.hbm.scrub.base noArg noArg) :=
  does_run rfl (if_pos ⟨hs, ha⟩)

end

/-- Settles O39: the second read by the number of wrong symbols; the other events where the stack is up. -/
theorem controllersAct : Obligations.ControllersAct := by
  intro s n
  refine ⟨fun a syms ha hp => does_hbmReread ha hp, fun hu => ⟨does_ageCap hu, fun h1 => ?allBank, fun h1 => ?perBank⟩, fun st => rfl,
    does_stackFailure⟩
  case allBank =>
    have h := does_hbmRefresh hu
    rwa [decide_eq_true h1] at h
  case perBank =>
    have h := does_hbmRefresh hu
    rwa [decide_eq_false h1] at h

/-- Settles O40: GO by its range, a codeword below the end of it, and the end of a pass by CONTINUOUS. -/
theorem scrubbing : Obligations.Scrubbing := by
  intro s
  refine ⟨fun w v hv ht => ?go, fun hs ha => ⟨does_scrubCodeword hs ha, fun hp hb hg => ?clean⟩, fun hs ha => ?done⟩
  case go =>
    have write := Dev.scrubCtlWrite_go (d := s.fresh) (topped_on63 (f := R.ECC_SCRUB_CTL_GO) ⟨rfl, rfl⟩ hv)
    refine ⟨fun h1 h2 h3 => does_scrubGo hv ht (write.trans (if_neg ?_)), fun h => does_scrubGo hv ht (write.trans (if_pos h))⟩
    rintro (h | h | h)
    · exact h h1
    · exact h h2
    · exact Nat.not_lt.mpr h3 h
  case clean =>
    have h := does_scrubCodeword hs ha
    rwa [Dev.scrubWord_clean (d := s.fresh) hp hb hg] at h
  case done =>
    have h := does_scrubPassDone hs ha
    refine ⟨fun hc => ?once, fun hc => ?again⟩
    case once =>
      have once : s.fresh.scrubPassed.flag R.ECC_SCRUB_CTL_CONTINUOUS = false := hc
      rw [once] at h
      exact h
    case again =>
      have again : s.fresh.scrubPassed.flag R.ECC_SCRUB_CTL_CONTINUOUS = true := hc
      rw [again] at h
      exact h

end Sys2Proof.Machine
end

section
/-!
SUPPORT. Package repair, the checkers' self-test, planted errors, column sweeps and rebuilt rows: what the stores and the events make of the
device (R298, R300, R301, R304).
-/

namespace Sys2Proof.Machine

/-- A field set leaves a field of other bits, whichever registers the two stand in. -/
theorem Dev.get_set_otherBits (d : Dev) {f g : Fld} (v : Nat) (h : (decide (f.hi < g.lo) || decide (g.hi < f.lo)) = true) (hf : f.ok = true)
    (hg : g.ok = true) : (d.set f v).get g = d.get g :=
  d.get_set_ne f g v (by rw [Fld.apart, Bool.or_assoc, h, Bool.or_true]) hf hg

/-- The row of HBM_PPR. -/
abbrev hbmPprRow : RegRow := rowsHbm[3]

/-- The row of ECC_SELFTEST. -/
abbrev eccSelftestRow : RegRow := rowsEcc[10]

/-- The row of ECC_INJECT. -/
abbrev eccInjectRow : RegRow := rowsEcc[13]

theorem findRow_hbmPpr {n : Nat} (hn : n < 24) : findRow (R.HBM_PPR n) = some (hbmPprRow, [n]) := by
  rw [findRow_HBM_PPR n hn]; rfl

theorem Dev.store_hbmPpr (d : Dev) (w : Who) (n v : Nat) : d.store w hbmPprRow [n] (R.HBM_PPR n) v = d.pprWrite n v := rfl

/-! ### Package repair (R304) -/

section
variable {d : Dev} {n u v : Nat}

/-- The row to repair, as a store to HBM_PPR names it. -/
def Dev.pprSet (d : Dev) (n v : Nat) : Dev :=
  (((d.set (R.HBM_PPR_HARD n) (bits v 59 59)).set (R.HBM_PPR_PC n) (bits v 58 53)).set (R.HBM_PPR_BANK n) (bits v 52 47)).set
    (R.HBM_PPR_ROW n) (bits v 46 29)

theorem imgStatus_ne_hbmPpr (n : Nat) : R.IMG_STATUS ≠ R.HBM_PPR n := by rw [R.IMG_STATUS, R.HBM_PPR]; omega

theorem Dev.pprSet_imageActive : (d.pprSet n v).imageActive = d.imageActive := by
  have hs := imgStatus_ne_hbmPpr n
  rw [Dev.pprSet, Dev.imageActive_set _ _ hs, Dev.imageActive_set _ _ hs, Dev.imageActive_set _ _ hs, Dev.imageActive_set _ _ hs]

theorem Dev.pprSet_busy : (d.pprSet n v).get (R.HBM_PPR_BUSY n) = d.get (R.HBM_PPR_BUSY n) := by
  rw [Dev.pprSet, Dev.get_set_otherBits _ _ rfl rfl rfl, Dev.get_set_otherBits _ _ rfl rfl rfl, Dev.get_set_otherBits _ _ rfl rfl rfl,
    Dev.get_set_otherBits _ _ rfl rfl rfl]

/-- A repair that is asked for: refused while an image is active, else begun where none runs. -/
theorem Dev.pprWrite_go (top : Topped v true (v.testBit 62) u) : d.pprWrite n u =
    if d.imageActive then (d.pprSet n v).set (R.HBM_PPR_STATUS n) 2
    else if d.flag (R.HBM_PPR_BUSY n) then d.pprSet n v else (d.pprSet n v).set (R.HBM_PPR_BUSY n) 1 := by
  have sets : d.pprSet n u = d.pprSet n v := by
    rw [Dev.pprSet, Dev.pprSet, top.low 59 59 (by decide) (by decide), top.low 58 53 (by decide) (by decide), top.low 52 47 (by decide) (by decide),
      top.low 46 29 (by decide) (by decide)]
  have write : d.pprWrite n u = if !u.testBit 63 then d.pprSet n u else if (d.pprSet n u).imageActive then (d.pprSet n u).set (R.HBM_PPR_STATUS n) 2
      else if (d.pprSet n u).flag (R.HBM_PPR_BUSY n) then d.pprSet n u else (d.pprSet n u).set (R.HBM_PPR_BUSY n) 1 := rfl
  rw [write, top.bit63, Bool.not_true, if_neg Bool.false_ne_true, sets, Dev.pprSet_imageActive, Dev.flag, Dev.pprSet_busy]
  rfl

end

section
variable {s : State} {w : Who} {n v : Nat}

theorem does_hbmPpr {d : Dev} (hn : n < 24) (hv : v < 2 ^ 64) (ht : s.takes w (R.HBM_PPR n)) (hd : s.fresh.pprWrite n ((R.HBM_PPR_GO 0).on v) = d) :
    Does (.hbmPpr w n v) s d := by
  have h : exec (.hbmPpr w n v) s = regWrite8 w (R.HBM_PPR (n % 24)) ((R.HBM_PPR_GO 0).on v) s := rfl
  rw [Nat.mod_eq_of_lt hn] at h
  exact does_write h ht (findRow_hbmPpr hn) (by rw [R.HBM_PPR]; omega) (by rw [R.HBM_PPR, R.SEC_CTL]; omega) (Fld.on_lt _ v rfl hv) hd

/-- The end of a repair with status `st`: its device before what a success records. -/
def Dev.pprEnded (d : Dev) (n code : Nat) : Dev := (d.set (R.HBM_PPR_BUSY n) 0).set (R.HBM_PPR_STATUS n) code

/-- A repair done is noted, and a hard one goes into the record. -/
def Dev.pprRepaired (d : Dev) (n : Nat) (hard : Bool) : Dev :=
  let at_ := (64 * n + d.get (R.HBM_PPR_PC n), d.get (R.HBM_PPR_BANK n), d.get (R.HBM_PPR_ROW n))
  let e : Dev := { d with hbm := { d.hbm with repairs := d.hbm.repairs ++ [(at_.1, at_.2.1, at_.2.2, hard)] } }
  if hard then e.rprHard at_.1 (at_.2.1 * 2 ^ 18 + at_.2.2) else e

theorem does_hbmPprDone (hn : n < 24) (hb : s.dev.get (R.HBM_PPR_BUSY n) = 1) (st : Nat) :
    let d := s.fresh.pprEnded n (if st = 1 then 1 else if st = 0 then 0 else 3)
    Does (.hbmPprDone n st) s (if st ≠ 0 then d else d.pprRepaired n (d.flag (R.HBM_PPR_HARD n))) := by
  have busy : s.fresh.flag (R.HBM_PPR_BUSY n) = true := decide_eq_true hb
  have h : exec (.hbmPprDone n st) s = run s fun d => if !d.flag (R.HBM_PPR_BUSY (n % 24)) then d else
      let e := d.pprEnded (n % 24) (if st = 1 then 1 else if st = 0 then 0 else 3)
      if st ≠ 0 then e else e.pprRepaired (n % 24) (e.flag (R.HBM_PPR_HARD (n % 24))) := rfl
  rw [Nat.mod_eq_of_lt hn] at h
  exact does_run h (if_neg (by rw [busy]; exact Bool.false_ne_true))

/-! ### The checkers' self-test (R300) -/

theorem Dev.selftestWrite_go {d : Dev} {u : Nat} (h63 : u.testBit 63 = true) :
    d.selftestWrite u = if d.imageActive then d else d.set R.ECC_SELFTEST_BUSY 1 := by
  rw [Dev.selftestWrite, h63]
  cases d.imageActive <;> rfl

theorem does_eccSelftest (hv : v < 2 ^ 64) (ht : s.takes w R.ECC_SELFTEST) :
    Does (.eccSelftest w v) s (if s.dev.imageActive then s.fresh else s.fresh.set R.ECC_SELFTEST_BUSY 1) := by
  have top : Topped v true (v.testBit 62) (R.ECC_SELFTEST_GO.on v) := topped_on63 ⟨rfl, rfl⟩ hv
  exact does_write (row := eccSelftestRow) (ix := []) rfl ht rfl (by decide) (by decide) top.lt (s.fresh.selftestWrite_go top.bit63)

theorem does_eccSelftestDone {hbm tiles : Nat} (hb : s.dev.get R.ECC_SELFTEST_BUSY = 1) (hh : hbm < 2 ^ 24) (ht : tiles < 2 ^ 384) :
    Does (.eccSelftestDone hbm tiles) s (s.fresh.selftestResult hbm tiles) := by
  have h : exec (.eccSelftestDone hbm tiles) s =
      run s fun d => if d.flag R.ECC_SELFTEST_BUSY then d.selftestResult (hbm % 2 ^ 24) (tiles % 2 ^ 384) else d := rfl
  rw [Nat.mod_eq_of_lt hh, Nat.mod_eq_of_lt ht] at h
  exact does_run h (if_pos (decide_eq_true hb))

/-! ### Planted errors (R301) -/

theorem bits_eq_div_mod (w hi lo : Nat) : bits w hi lo = w / 2 ^ lo % 2 ^ (hi + 1 - lo) := by rw [bits, Nat.shiftRight_eq_div_pow]

/-- ARM and KIND above the low 61 bits of a value. -/
theorem injectWord (kind : Nat) (hv : v < 2 ^ 64) : R.ECC_INJECT_ARM.on (R.ECC_INJECT_KIND.off v) + kind * 2 ^ 61 = v % 2 ^ 61 + (4 + kind) * 2 ^ 61 := by
  have hoff := Fld.off_lt R.ECC_INJECT_KIND v hv
  have hon := Fld.on_lt R.ECC_INJECT_ARM (R.ECC_INJECT_KIND.off v) rfl hoff
  have low : bits (R.ECC_INJECT_ARM.on (R.ECC_INJECT_KIND.off v)) 60 0 = bits v 60 0 :=
    (bits_on _ _ 60 0 (.inr (by decide)) (by decide) (by decide)).trans (bits_off _ v 60 0 hv (.inr (by decide)) (by decide) (by decide))
  have mid : bits (R.ECC_INJECT_ARM.on (R.ECC_INJECT_KIND.off v)) 62 61 = 0 :=
    (bits_on _ _ 62 61 (.inr (by decide)) (by decide) (by decide)).trans (Fld.of_off _ v hv)
  have high : bits (R.ECC_INJECT_ARM.on (R.ECC_INJECT_KIND.off v)) 63 63 = 1 := Fld.of_on _ _ rfl
  generalize R.ECC_INJECT_ARM.on (R.ECC_INJECT_KIND.off v) = u at *
  simp only [bits_eq_div_mod] at low mid high
  omega

theorem Dev.injectWrite_planted (d : Dev) {kind : Nat} (hk : kind < 4) (hv : v < 2 ^ 64) :
    d.injectWrite (R.ECC_INJECT_ARM.on (R.ECC_INJECT_KIND.off v) + kind * 2 ^ 61) =
      (((d.set R.ECC_INJECT_ARM 1).set R.ECC_INJECT_KIND kind).set R.ECC_INJECT_TILE (bits v 60 52)).set R.ECC_INJECT_OFFSET (bits v 44 0) := by
  rw [injectWord kind hv, Dev.injectWrite]
  have arm : bits (v % 2 ^ 61 + (4 + kind) * 2 ^ 61) 63 63 = 1 := by rw [bits_eq_div_mod]; omega
  have kinds : bits (v % 2 ^ 61 + (4 + kind) * 2 ^ 61) 62 61 = kind := by rw [bits_eq_div_mod]; omega
  have tile : bits (v % 2 ^ 61 + (4 + kind) * 2 ^ 61) 60 52 = bits v 60 52 := by rw [bits_eq_div_mod, bits_eq_div_mod]; omega
  have offset : bits (v % 2 ^ 61 + (4 + kind) * 2 ^ 61) 44 0 = bits v 44 0 := by rw [bits_eq_div_mod, bits_eq_div_mod]; omega
  rw [arm, kinds, tile, offset]

/-- ECC_INJECT arms the error that a command names. -/
theorem does_injectStore {c : Instr} {kind : Nat} (h : exec c s = injectStore w kind v s) (hk : kind < 4) (hv : v < 2 ^ 64) (ht : s.takes w R.ECC_INJECT) :
    Does c s ((((s.fresh.set R.ECC_INJECT_ARM 1).set R.ECC_INJECT_KIND kind).set R.ECC_INJECT_TILE (bits v 60 52)).set R.ECC_INJECT_OFFSET
      (bits v 44 0)) :=
  does_write (row := eccInjectRow) (ix := []) h ht rfl (by decide) (by decide) (by rw [injectWord kind hv]; omega) (s.fresh.injectWrite_planted hk hv)

/-! ### Column sweeps and rebuilt rows (R298) -/

section
variable {t g line : Nat}

theorem exec_columnSweep (bad near : Bool) : exec (.columnSweep t g bad near) s = run s fun d =>
    if t < 384 ∧ d.powered t ∧ bad then
      if near then (d.setTile t { d.tile t with nc := (d.tile t).nc.filter fun l => l.line % 512 / 8 ≠ g % 64 }).logError 0 2 t 0 0xFFFF (2 ^ 32 - 1)
      else d.cistLost (t * 65536 + g / 32 % 32 * 64 * 32 + g % 32)
    else d := rfl

theorem does_columnSweep_bad (ht : t < 384) (hp : s.dev.get (R.TILE_STATUS_PWR t) ≠ 0) (near : Bool) : Does (.columnSweep t g true near) s
    (if near then (s.fresh.setTile t { s.dev.tile t with nc := (s.dev.tile t).nc.filter fun l => l.line % 512 / 8 ≠ g % 64 }).logError 0 2 t 0
        0xFFFF (2 ^ 32 - 1)
      else s.fresh.cistLost (t * 65536 + g / 32 % 32 * 64 * 32 + g % 32)) :=
  does_run (exec_columnSweep true near) (if_pos ⟨ht, decide_eq_true hp, rfl⟩)

theorem does_columnSweep_good (near : Bool) : Does (.columnSweep t g false near) s s.fresh :=
  does_run (exec_columnSweep false near) (if_neg fun h => Bool.false_ne_true h.2.2)

theorem does_rowRebuildDone (ht : t < 384) (hl : line < 65536) (hb : stGet (fun _ => 0) s.dev.cist.bad (t * 65536 + line) ≠ 0) :
    Does (.rowRebuildDone t line) s (s.fresh.cistRebuild (t * 65536 + line)) := by
  have h : exec (.rowRebuildDone t line) s = run s fun d =>
      if t < 384 ∧ stGet (fun _ => 0) d.cist.bad (t * 65536 + line % 65536) ≠ 0 then d.cistRebuild (t * 65536 + line % 65536) else d := rfl
  rw [Nat.mod_eq_of_lt hl] at h
  exact does_run h (if_pos ⟨ht, hb⟩)

end
end

/-- Settles O41: each register's store and each unit's event by the lemma that says what it makes of the device. -/
theorem protectionActs : Obligations.ProtectionActs := by
  intro s
  refine ⟨fun w n v hv hn ht => ?repair, fun n hn hb => ⟨does_hbmPprDone hn hb 1, fun hh => ?soft, fun hh => ?hard⟩, fun w v hv ht => ?selftest,
    fun hbm tiles => does_eccSelftestDone, fun w v hv ht => ⟨does_injectStore rfl (by decide) hv ht, does_injectStore rfl (by decide) hv ht,
      does_injectStore rfl (by decide) hv ht, does_injectStore rfl (by decide) hv ht⟩,
    fun t g ht hp => ⟨does_columnSweep_bad ht hp false, does_columnSweep_bad ht hp true, does_columnSweep_good false⟩,
    fun t line => does_rowRebuildDone⟩
  case repair =>
    have write := Dev.pprWrite_go (d := s.fresh) (n := n) (topped_on63 (f := R.HBM_PPR_GO 0) ⟨rfl, rfl⟩ hv)
    refine ⟨fun hi => does_hbmPpr hn hv ht (write.trans (if_pos hi)), fun hi hb => does_hbmPpr hn hv ht (write.trans ?_)⟩
    have idle : ¬ s.fresh.flag (R.HBM_PPR_BUSY n) = true := fun h => absurd (hb.symm.trans (of_decide_eq_true h)) (by decide)
    exact (if_neg (ne_true_of_eq_false hi)).trans (if_neg idle)
  case soft =>
    have h := does_hbmPprDone hn hb 0
    have soft : (s.fresh.pprEnded n 0).flag (R.HBM_PPR_HARD n) = false := hh
    simp only [ne_eq, not_true_eq_false, if_false, if_true, Nat.zero_ne_one, soft] at h
    exact h
  case hard =>
    have h := does_hbmPprDone hn hb 0
    have hard : (s.fresh.pprEnded n 0).flag (R.HBM_PPR_HARD n) = true := hh
    simp only [ne_eq, not_true_eq_false, if_false, if_true, Nat.zero_ne_one, hard] at h
    exact h
  case selftest =>
    have h := does_eccSelftest hv ht
    exact ⟨fun hi => by rwa [hi] at h, fun hi => by rwa [hi] at h⟩

end Sys2Proof.Machine
end

section
/-!
SUPPORT. The security engine's requests, control cores, mailboxes and the test port (R328, R330, R331, R337, R339, R340, R353).
-/

namespace Sys2Proof.Machine

theorem topped_self {v : Nat} (hv : v < 2 ^ 64) : Topped v (v.testBit 63) (v.testBit 62) v := ⟨hv, rfl, rfl, fun _ _ _ _ => rfl⟩

/-! ### SEC_CTL (R337, R340) -/

section
variable {s : State} {w : Who} {u v : Nat}

/-- A store to SEC_CTL that takes: it reaches the fuses too. -/
theorem regWrite8_SEC_CTL (ht : s.takes w R.SEC_CTL) (hu : u < 2 ^ 64) : regWrite8 w R.SEC_CTL u s =
    .next { s with otp := (secCtlWrite s.otp s.fresh u).1, dev := (secCtlWrite s.otp s.fresh u).2 } := by
  obtain ⟨hr, hg⟩ := ht
  rw [regWrite8, regWrite_of_runs hr, ctlWrite_word_pass hg (by decide) hu]
  rfl

/-- SVN_ADVANCE burns, and CFG_APPLY goes on with what that leaves. -/
theorem secCtlWrite_svn (o : Otp) (d : Dev) (h63 : u.testBit 63 = true) : secCtlWrite o d u =
    ((svnAdvance o d).1, if u.testBit 62 then (svnAdvance o d).2.cfgApply (svnAdvance o d).1 else (svnAdvance o d).2) := by
  rw [secCtlWrite, h63]; rfl

theorem secCtlWrite_cfg (o : Otp) (d : Dev) (h63 : u.testBit 63 = false) (h62 : u.testBit 62 = true) : secCtlWrite o d u = (o, d.cfgApply o) := by
  rw [secCtlWrite, h63, h62]; rfl

theorem svnAdvance_ready {o : Otp} {d : Dev} (h : d.get R.PWR_STATE_DEV_STATE = 2 ∨ d.get R.PWR_STATE_DEV_STATE = 3) :
    let n := max o.svn (min 64 (d.get R.SEC_STATUS_FW_SVN))
    svnAdvance o d = ({ o with svn := n }, (d.set R.SEC_STATUS_FUSE_SVN n).set R.SEC_RESULT_SVN_RESULT 0) := if_pos h

theorem svnAdvance_notReady {o : Otp} {d : Dev} (h2 : d.get R.PWR_STATE_DEV_STATE ≠ 2) (h3 : d.get R.PWR_STATE_DEV_STATE ≠ 3) :
    svnAdvance o d = (o, d.set R.SEC_RESULT_SVN_RESULT 1) := if_neg (not_or.mpr ⟨h2, h3⟩)

/-- The store of SVN_ADVANCE: what it burns, and CFG_APPLY after it where its bit is set too. -/
theorem exec_svnAdvance (hv : v < 2 ^ 64) (ht : s.takes w R.SEC_CTL) {o : Otp} {d : Dev} (h : svnAdvance s.otp s.fresh = (o, d)) :
    exec (.svnAdvance w v) s = .next { s with otp := o, dev := if bitAt v 62 then d.cfgApply o else d } := by
  have top : Topped v true (v.testBit 62) (R.SEC_CTL_SVN_ADVANCE.on v) := topped_on63 ⟨rfl, rfl⟩ hv
  have he : exec (.svnAdvance w v) s = regWrite8 w R.SEC_CTL (R.SEC_CTL_SVN_ADVANCE.on v) s := rfl
  rw [he, regWrite8_SEC_CTL ht top.lt, secCtlWrite_svn _ _ top.bit63, h, top.bit62, bitAt_eq_testBit]

theorem does_cfgApply {d : Dev} (hv : v < 2 ^ 64) (h63 : bitAt v 63 = false) (ht : s.takes w R.SEC_CTL) (hd : s.fresh.cfgApply s.otp = d) :
    Does (.cfgApply w v) s d := by
  have he : exec (.cfgApply w v) s = regWrite8 w R.SEC_CTL (R.SEC_CTL_CFG_APPLY.on v) s := rfl
  have top : Topped v (v.testBit 63) true (R.SEC_CTL_CFG_APPLY.on v) := (topped_self hv).on62 ⟨rfl, rfl⟩
  rw [Does, he, regWrite8_SEC_CTL ht top.lt, secCtlWrite_cfg _ _ (top.bit63.trans ((bitAt_eq_testBit v 63).symm.trans h63)) top.bit62, hd]

end

section
variable {d : Dev} {o : Otp}

/-- The copy not in use. -/
abbrev Dev.cfgOther (d : Dev) : Nat := 1 - d.get R.SEC_STATUS_CFG_SLOT

/-- CFG_APPLY refused with a result. -/
def Dev.cfgRefused (d : Dev) (r : Nat) : Dev := (d.set R.SEC_RESULT_CFG_RESULT r).raise1 R.SEC_ERR_CFG_REJECT 0

theorem Dev.cfgApply_busy (h : ∃ x, x ∈ d.trust.pldm ∧ x.comp = 2) : d.cfgApply o = d.cfgRefused 4 := by
  obtain ⟨x, hx, hc⟩ := h
  have hany : (d.trust.pldm.any fun x => decide (x.comp = 2)) = true := by
    rw [Option.mem_def.mp hx]; exact decide_eq_true hc
  exact if_pos hany

section
variable (hp : d.trust.pldm = none)
include hp

theorem Dev.cfgApply_invalid (hv : d.copyValid (cfgBase d.cfgOther) cfgSize cfgMagic = false) : d.cfgApply o = d.cfgRefused 1 := by
  simp only [Dev.cfgApply, hp, Option.any_none, Bool.false_eq_true, if_false, hv, Bool.not_false, if_true]
  rfl

variable (hv : d.copyValid (cfgBase d.cfgOther) cfgSize cfgMagic = true) (hl : (d.slotBody (cfgBase d.cfgOther)).length = 0x18AC0)
  (hu : d.copyValid (cfgBase (1 - d.cfgOther)) cfgSize cfgMagic = true)
include hv hl hu

theorem Dev.cfgApply_valid : d.cfgApply o =
    if d.hdrSeq (cfgBase d.cfgOther) = d.hdrSeq (cfgBase (1 - d.cfgOther)) ∨
        !seqNewer (d.hdrSeq (cfgBase d.cfgOther)) (d.hdrSeq (cfgBase (1 - d.cfgOther))) then d.cfgRefused 3
    else if !cfgSigned (d.slotBody (cfgBase d.cfgOther)) then d.cfgRefused 2
    else if !cfgOwner o d (d.slotBody (cfgBase d.cfgOther)) then d.cfgRefused 5
    else { d.set R.SEC_RESULT_CFG_RESULT 0 with trust := { d.trust with apply := some d.cfgOther } } := by
  simp only [Dev.cfgApply, hp, Option.any_none, Bool.false_eq_true, if_false, hv, Bool.not_true, hl, ne_eq, not_true_eq_false, hu, true_and]
  rfl

theorem Dev.cfgApply_sameSeq (hs : d.hdrSeq (cfgBase d.cfgOther) = d.hdrSeq (cfgBase (1 - d.cfgOther))) : d.cfgApply o = d.cfgRefused 3 :=
  (d.cfgApply_valid hp hv hl hu).trans (if_pos (.inl hs))

variable (hs : d.hdrSeq (cfgBase d.cfgOther) ≠ d.hdrSeq (cfgBase (1 - d.cfgOther)))
  (hn : seqNewer (d.hdrSeq (cfgBase d.cfgOther)) (d.hdrSeq (cfgBase (1 - d.cfgOther))) = true)
include hs hn

/-- A valid and newer copy: by its signatures and its owner. -/
theorem Dev.cfgApply_newer : d.cfgApply o =
    if !cfgSigned (d.slotBody (cfgBase d.cfgOther)) then d.cfgRefused 2
    else if !cfgOwner o d (d.slotBody (cfgBase d.cfgOther)) then d.cfgRefused 5
    else { d.set R.SEC_RESULT_CFG_RESULT 0 with trust := { d.trust with apply := some d.cfgOther } } := by
  refine (d.cfgApply_valid hp hv hl hu).trans (if_neg ?_)
  rw [hn]
  simpa using hs

theorem Dev.cfgApply_unsigned (hg : cfgSigned (d.slotBody (cfgBase d.cfgOther)) = false) : d.cfgApply o = d.cfgRefused 2 := by
  rw [d.cfgApply_newer hp hv hl hu hs hn, hg, Bool.not_false, if_pos rfl]

theorem Dev.cfgApply_otherOwner (hg : cfgSigned (d.slotBody (cfgBase d.cfgOther)) = true)
    (ho : cfgOwner o d (d.slotBody (cfgBase d.cfgOther)) = false) : d.cfgApply o = d.cfgRefused 5 := by
  rw [d.cfgApply_newer hp hv hl hu hs hn, hg, ho, Bool.not_true, if_neg Bool.false_ne_true, Bool.not_false, if_pos rfl]

theorem Dev.cfgApply_taken (hg : cfgSigned (d.slotBody (cfgBase d.cfgOther)) = true)
    (ho : cfgOwner o d (d.slotBody (cfgBase d.cfgOther)) = true) :
    d.cfgApply o = { d.set R.SEC_RESULT_CFG_RESULT 0 with trust := { d.trust with apply := some d.cfgOther } } := by
  rw [d.cfgApply_newer hp hv hl hu hs hn, hg, ho, Bool.not_true, if_neg Bool.false_ne_true, if_neg Bool.false_ne_true]

end
end

/-- Settles O47: by the state of the device; a store that sets CFG_APPLY too goes on with it. -/
theorem fusesBurn : Obligations.FusesBurn := by
  intro s w v hv ht
  exact ⟨fun h => exec_svnAdvance hv ht (svnAdvance_ready (d := s.fresh) h),
    fun h2 h3 => exec_svnAdvance hv ht (svnAdvance_notReady (d := s.fresh) h2 h3)⟩

/-- Settles O48: by the first of the checks that fails. -/
theorem configApplies : Obligations.ConfigApplies := by
  intro s w v hv h63 ht
  have applies {d : Dev} (h : s.fresh.cfgApply s.otp = d) : Does (.cfgApply w v) s d := does_cfgApply hv h63 ht h
  exact ⟨fun h => applies (Dev.cfgApply_busy (d := s.fresh) h), fun hp => ⟨fun hc => applies (Dev.cfgApply_invalid (d := s.fresh) hp hc),
    fun hc hl hu => ⟨fun hs => applies (Dev.cfgApply_sameSeq (d := s.fresh) hp hc hl hu hs), fun hs hn =>
      ⟨fun hg => applies (Dev.cfgApply_unsigned (d := s.fresh) hp hc hl hu hs hn hg),
        fun hg ho => applies (Dev.cfgApply_otherOwner (d := s.fresh) hp hc hl hu hs hn hg ho),
        fun hg ho => applies (Dev.cfgApply_taken (d := s.fresh) hp hc hl hu hs hn hg ho)⟩⟩⟩⟩

/-! ### Cores, mailboxes and rings (R328, R330, R331) -/

/-- The row of MGMT_CORE. -/
abbrev mgmtCoreRow : RegRow := rowsMgmt[0]

section
variable {s : State} {w : Who} {n v : Nat}

theorem does_coreReset {d : Dev} (hn : n < 16) (hv : v < 2 ^ 64) (ht : s.takes w (R.MGMT_CORE n))
    (hd : s.fresh.coreWrite n ((R.MGMT_CORE_RESET 0).on v) (machineMode w) = d) : Does (.coreReset w n v) s d := by
  have h : exec (.coreReset w n v) s = regWrite8 w (R.MGMT_CORE (n % 16)) ((R.MGMT_CORE_RESET 0).on v) s := rfl
  have found : findRow (R.MGMT_CORE n) = some (mgmtCoreRow, [n]) := by rw [findRow_MGMT_CORE n hn]; rfl
  rw [Nat.mod_eq_of_lt hn] at h
  exact does_write h ht found (by rw [R.MGMT_CORE]; omega) (by rw [R.MGMT_CORE, R.SEC_CTL]; omega) (Fld.on_lt _ v rfl hv) hd

theorem Dev.coreWrite_restarts {d : Dev} {u : Nat} (h8 : u.testBit 8 = true) (h0 : d.get (R.MGMT_CORE_STATE n) ≠ 0)
    (h4 : d.get (R.MGMT_CORE_STATE n) ≠ 4) : d.coreWrite n u true = d.set (R.MGMT_CORE_STATE n) 1 := if_pos ⟨h8, rfl, h0, h4⟩

theorem Dev.coreWrite_user (d : Dev) (u : Nat) : d.coreWrite n u false = d := if_neg fun h => Bool.false_ne_true h.2.1

theorem does_ringAgeInterrupt (hn : n < 16) (hi : s.dev.flag (R.MGMT_RING_W0_INT_EN n) = true)
    (hp : s.dev.get (R.MGMT_RING_W1_PROD n) ≠ s.dev.get (R.MGMT_RING_W1_CONS n)) :
    Does (.ringAgeInterrupt n) s { s.dev with out := [.coreInt (s.dev.get (R.MGMT_RING_W0_TARGET n)) (16 + n)] } :=
  does_run rfl (if_pos ⟨hn, hi, hp⟩)

end

/-- The row of MGMT_MBOX_CTL. -/
abbrev mboxCtlRow : RegRow := rowsMgmt[5]

/-- One side of a mailbox: FULL set interrupts the receiver, set again it is an overrun; a 0 clears it. -/
def Dev.mboxSide (d : Dev) (full : Bool) (f : Fld) (o : Out) : Dev :=
  if full then (if d.flag f then d.raise1 R.MGMT_ERR_MBOX_OVERRUN 0 else (d.set f 1).emit o) else d.set f 0

section
variable {d : Dev} {f : Fld} {o : Out}

theorem Dev.mboxSide_fills (h : d.get f = 0) : d.mboxSide true f o = (d.set f 1).emit o :=
  (if_pos rfl).trans (if_neg (by rw [Dev.flag, h]; decide))

theorem Dev.mboxSide_overrun (h : d.get f = 1) : d.mboxSide true f o = d.raise1 R.MGMT_ERR_MBOX_OVERRUN 0 :=
  (if_pos rfl).trans (if_pos (decide_eq_true h))

theorem Dev.mboxSide_clears : d.mboxSide false f o = d.set f 0 := rfl

/-- A store to MGMT_MBOX_CTL: the target, then the control cores' side, then the management core's. -/
theorem Dev.mboxWrite_topped {u v : Nat} {c2m m2c : Bool} (top : Topped v c2m m2c u) : d.mboxWrite u =
    ((d.set R.MGMT_MBOX_CTL_M2C_TARGET (v % 16)).mboxSide c2m R.MGMT_MBOX_CTL_C2M_FULL .mgmtInt).mboxSide m2c R.MGMT_MBOX_CTL_M2C_FULL
      (.mboxInt (v % 16)) := by
  have write : d.mboxWrite u = ((d.set R.MGMT_MBOX_CTL_M2C_TARGET (bits u 3 0)).mboxSide (u.testBit 63) R.MGMT_MBOX_CTL_C2M_FULL .mgmtInt).mboxSide
      (u.testBit 62) R.MGMT_MBOX_CTL_M2C_FULL (.mboxInt (bits u 3 0)) := rfl
  have low : bits u 3 0 = v % 16 := top.low 3 0 (by decide) (by decide)
  rw [write, top.bit63, top.bit62, low]

end

section
variable {s : State} {w : Who} {v : Nat}

theorem does_mbox {c : Instr} {u : Nat} {c2m m2c : Bool} (h : exec c s = regWrite8 w R.MGMT_MBOX_CTL u s) (ht : s.takes w R.MGMT_MBOX_CTL)
    (top : Topped v c2m m2c u) : Does c s
      (((s.fresh.set R.MGMT_MBOX_CTL_M2C_TARGET (v % 16)).mboxSide c2m R.MGMT_MBOX_CTL_C2M_FULL .mgmtInt).mboxSide m2c R.MGMT_MBOX_CTL_M2C_FULL
        (.mboxInt (v % 16))) :=
  does_write (row := mboxCtlRow) (ix := []) h ht rfl (by decide) (by decide) top.lt (Dev.mboxWrite_topped top)

end

/-- Settles O46: RESET by the mode, a mailbox's sides by FULL, and the age interrupt. -/
theorem coresServe : Obligations.CoresServe := by
  intro s w n v hv hn
  have targets (f : Fld) (h : decide (3 < f.lo) = true) (hf : f.ok = true) : (s.fresh.set R.MGMT_MBOX_CTL_M2C_TARGET (v % 16)).get f = s.dev.get f :=
    s.fresh.get_set_otherBits _ (by rw [show R.MGMT_MBOX_CTL_M2C_TARGET.hi = 3 from rfl, h]; rfl) rfl hf
  refine ⟨fun ht hm h0 h4 => ?machine, fun ht hm => ?user, fun ht => ⟨fun h62 h0 => ?fills, fun h62 h1 => ?overrun, fun h63 h0 => ?answers⟩,
    does_ringAgeInterrupt hn⟩
  case machine =>
    have h8 : ((R.MGMT_CORE_RESET 0).on v).testBit 8 = true := by rw [Fld.IsBit.testBit_on (i := 8) ⟨rfl, rfl⟩]; exact Bool.or_true _
    exact does_coreReset hn hv ht (by rw [hm]; exact Dev.coreWrite_restarts h8 h0 h4)
  case user => exact does_coreReset hn hv ht (by rw [hm]; exact s.fresh.coreWrite_user _)
  case fills =>
    have h := does_mbox (c := .c2mFull w v) rfl ht (topped_on63 (f := R.MGMT_MBOX_CTL_C2M_FULL) ⟨rfl, rfl⟩ hv)
    rw [← bitAt_eq_testBit, h62, Dev.mboxSide_fills ((targets R.MGMT_MBOX_CTL_C2M_FULL rfl rfl).trans h0)] at h
    exact h
  case overrun =>
    have h := does_mbox (c := .c2mFull w v) rfl ht (topped_on63 (f := R.MGMT_MBOX_CTL_C2M_FULL) ⟨rfl, rfl⟩ hv)
    rw [← bitAt_eq_testBit, h62, Dev.mboxSide_overrun ((targets R.MGMT_MBOX_CTL_C2M_FULL rfl rfl).trans h1)] at h
    exact h
  case answers =>
    have h := does_mbox (c := .m2cFull w v) rfl ht ((topped_self hv).on62 (f := R.MGMT_MBOX_CTL_M2C_FULL) ⟨rfl, rfl⟩)
    have free : ((s.fresh.set R.MGMT_MBOX_CTL_M2C_TARGET (v % 16)).set R.MGMT_MBOX_CTL_C2M_FULL 0).get R.MGMT_MBOX_CTL_M2C_FULL = 0 :=
      (Dev.get_set_otherBits _ _ rfl rfl rfl).trans ((targets R.MGMT_MBOX_CTL_M2C_FULL rfl rfl).trans h0)
    rw [← bitAt_eq_testBit, h63, Dev.mboxSide_clears, Dev.mboxSide_fills free] at h
    exact h

/-! ### The test port (R353) -/

section
variable {s : State} {c : Instr} {b : Nat}

/-- A test instruction that R353 keeps back acts, while TEST_ENABLE is 0, as BYPASS and is reported. -/
theorem does_scanDenied (h : exec c s = if s.dev.testEnable then .refused .testPort else run s fun d => d.jtagDenied b)
    (ht : s.dev.testEnable = false) : Does c s ((s.fresh.bypassScan b).raise1 R.SEC_ERR_JTAG_DENIED 0) :=
  does_run (h.trans (if_neg (ne_true_of_eq_false ht))) rfl

end

/-- Settles O54: by the instruction, and the three that R353 keeps back by TEST_ENABLE. -/
theorem testPort : Obligations.TestPort := fun _ b _ =>
  ⟨rfl, rfl, ⟨_, _, rfl, rfl, rfl, rfl⟩, fun ht => ⟨does_scanDenied (b := b) rfl ht, does_scanDenied (b := b) rfl ht, does_scanDenied (b := b) rfl ht⟩,
    fun ht => ⟨if_pos ht, if_pos ht, if_pos ht⟩⟩

end Sys2Proof.Machine
end

section
/-!
SUPPORT. Management messages, component transfers and attestation (R342, R343, R351, R352).
-/

namespace Sys2Proof.Machine

/-! ### MCTP and PLDM messages -/

section
variable {d : Dev} {m : List Byte}

theorem Dev.mctpControl_setEid (h : recNat m 1 1 = 1) : ∃ r, d.mctpControl m = (d.set R.MGMT_MCTP_EID (recNat m 3 1)).reply r := by
  rw [Dev.mctpControl, h]; exact ⟨_, rfl⟩

theorem Dev.mctpControl_types (h : recNat m 1 1 = 5) : ∃ r, d.mctpControl m = d.reply (r ++ [0x00, 0x01, 0x7F]) := by
  rw [Dev.mctpControl, h]; exact ⟨_, rfl⟩

theorem Dev.pldmBase_setTid (h : recNat m 2 1 = 1) :
    d.pldmBase m = ({ d with trust := { d.trust with tid := recNat m 3 1 } } : Dev).reply (m.take 3 ++ leBytes 1 0) := by
  rw [Dev.pldmBase, h]; rfl

theorem Dev.pldmBase_getTid (h : recNat m 2 1 = 2) : d.pldmBase m = d.reply (m.take 3 ++ leBytes 1 0 ++ leBytes 1 d.trust.tid) := by
  rw [Dev.pldmBase, h]; rfl

end

/-! ### A component's transfer -/

section
variable {d : Dev} {x : PldmXfer} {o : Nat} {bs : List Byte}

/-- A transfer after a chunk at offset `o` of which its first `keep` bytes are held back, answered with success. -/
def Dev.chunkHeld (d : Dev) (x : PldmXfer) (o : Nat) (bs : List Byte) (keep : Nat) : Dev :=
  ({ d with trust := { d.trust with pldm := some { x with got := o + bs.length, held := x.held ++ bs.take keep } } } : Dev).reply (leBytes 1 0)

section
variable (hx : d.trust.pldm = some x) (hg : x.got = o) (ho : o ≠ 0) (hl : bs.length ≤ 1024)
include hx hg ho hl

/-- A later chunk of an image: its bytes go to the flash, but for what the header keeps back. -/
theorem Dev.pldmData_image {comp : Nat} (h3 : comp ≠ 3) (hc : x.comp = comp) (hs : o + bs.length ≤ (d.pldmBase? comp).2.1) :
    let keep := min bs.length (64 - o)
    d.pldmData comp o bs = (d.flashPut ((d.pldmBase? comp).1 + o + keep) (bs.drop keep)).chunkHeld x o bs keep := by
  subst hc hg
  simp only [Dev.pldmData, if_neg (Nat.not_lt.mpr hl), if_pos ho, hx, if_neg h3, ne_eq, not_true_eq_false, false_or,
    if_neg (Nat.not_lt.mpr hs)]
  rfl

/-- A later chunk of a repair record is held back whole. -/
theorem Dev.pldmData_record (hc : x.comp = 3) (hs : o + bs.length ≤ rprSize) : d.pldmData 3 o bs = d.chunkHeld x o bs bs.length := by
  obtain ⟨comp, got, ok, held⟩ := x
  subst hc hg
  simp only [Dev.pldmData, if_neg (Nat.not_lt.mpr hl), if_pos ho, hx, ne_eq, not_true_eq_false, false_or,
    if_neg (Nat.not_lt.mpr hs), if_true]
  rfl

end

/-- A repair record is verified by its CRC. -/
theorem pldmVerify_record {o : Otp} (hx : d.trust.pldm = some x) (hc : x.comp = 3) : pldmVerify o d =
    ({ d with trust := { d.trust with pldm := some { x with ok := some (rprWhole x.held) } } } : Dev).reply (leBytes 1 (b2n (!rprWhole x.held))) := by
  simp only [pldmVerify, hx, hc, if_true]

/-- A verified repair record goes in as the operator's. -/
theorem Dev.pldmApply_record (hx : d.trust.pldm = some x) (hc : x.comp = 3) (hok : x.ok = some true) : d.pldmApply =
    (({ d with trust := { d.trust with pldm := none } } : Dev).rprWrite
      ((List.range (recNat x.held 0x0A 2)).map fun i => { RprEntry.ofBytes ((x.held.drop (64 + 16 * i)).take 16) with source := 3 })).reply (leBytes 1 0) := by
  obtain ⟨comp, got, ok, held⟩ := x
  subst hc hok
  rw [Dev.pldmApply, hx]
  rfl

/-- A component that is not verified is not applied. -/
theorem Dev.pldmApply_unverified (hx : d.trust.pldm = some x) (hok : x.ok ≠ some true) :
    d.pldmApply = ({ d with trust := { d.trust with pldm := none } } : Dev).reply (leBytes 1 0x80) := by
  obtain ⟨comp, got, ok, held⟩ := x
  rw [Dev.pldmApply, hx]
  match ok, hok with
  | none, _ => rfl
  | some false, _ => rfl
  | some true, hok => exact absurd rfl hok

end

/-- Settles O49: each message's function on the branch its words name. -/
theorem managementTalks : Obligations.ManagementTalks := by
  unfold Obligations.ManagementTalks
  intro s
  refine ⟨fun _ => rfl, fun m h => ?_, fun m h => ?_, fun m h => does_run (f := fun d => d.pldmBase m) rfl (Dev.pldmBase_setTid h),
    fun m h => does_run (f := fun d => d.pldmBase m) rfl (Dev.pldmBase_getTid h), fun m v h => ?_, fun x o bs hx hg ho hl => ?_,
    fun x hx hc => ?_, fun x hx hc hok => does_run (f := Dev.pldmApply) rfl (Dev.pldmApply_record (d := s.fresh) hx hc hok),
    fun x hx hok => does_run (f := Dev.pldmApply) rfl (Dev.pldmApply_unverified (d := s.fresh) hx hok)⟩
  · obtain ⟨r, hr⟩ := Dev.mctpControl_setEid (d := s.fresh) h
    exact ⟨r, does_run (f := fun d => d.mctpControl m) rfl hr⟩
  · obtain ⟨r, hr⟩ := Dev.mctpControl_types (d := s.fresh) h
    exact ⟨r, does_run (f := fun d => d.mctpControl m) rfl hr⟩
  · refine does_run (f := fun d => match d.sensor (recNat m 3 2) with
      | some v => d.reply (m.take 3 ++ leBytes 1 0 ++ v)
      | none => d.reply (m.take 3 ++ leBytes 1 0x80)) rfl ?_
    simp only [h]
  · refine ⟨fun hc hs => does_run (f := fun d => d.pldmData 1 o bs) rfl ?_, fun hc hs => does_run (f := fun d => d.pldmData 2 o bs) rfl ?_,
      fun hc hs => does_run (f := fun d => d.pldmData 3 o bs) rfl ?_⟩
    · exact Dev.pldmData_image (d := s.fresh) hx hg ho hl (by decide) hc hs
    · exact Dev.pldmData_image (d := s.fresh) hx hg ho hl (by decide) hc hs
    · exact Dev.pldmData_record (d := s.fresh) hx hg ho hl hc hs
  · exact congrArg (fun d => Host.Outcome.next { s with dev := d }) (pldmVerify_record (d := s.fresh) hx hc)

/-! ### Reports (R342, R343) -/

/-- The numbers of 0–255 that no handle of `used` has. -/
abbrev freeHandles (used : List Nat) : List Nat := (List.range 256).filter fun h => !used.contains h

/-- Fewer than 256 handles leave one free. -/
theorem freeHandles_ne_nil {used : List Nat} (h : used.length < 256) : freeHandles used ≠ [] := fun hn => by
  have hall : List.range 256 ⊆ used := fun a ha => by
    by_contra hu
    have : a ∈ freeHandles used := List.mem_filter.mpr ⟨ha, by simpa using hu⟩
    rw [hn] at this
    cases this
  have hle := (List.nodup_range.subperm hall).length_le
  rw [List.length_range] at hle
  omega

/-- The handle that is picked is free. -/
theorem freeHandles_pick {used : List Nat} (h : used.length < 256) (k : Nat) :
    (freeHandles used).getD (k % (freeHandles used).length) 0 ∉ used := by
  have hlt := Nat.mod_lt k (List.length_pos_iff.mpr (freeHandles_ne_nil h))
  rw [← List.getElem_eq_getD (h := hlt)]
  have hm := List.getElem_mem hlt
  simpa using (List.mem_filter.mp hm).2

section
variable {d : Dev} {m : List Byte}

/-- A report is begun: its handle, free before, joins the list. -/
theorem Dev.getReport_begun (hm : m.length = 32) (hr : d.attRequest.trust.reports.length < 4) :
    ∃ h, (d.getReport m).trust.reports = d.attRequest.trust.reports ++ [⟨h, m, none⟩] ∧
      ∀ r, r ∈ d.attRequest.trust.reports → r.handle ≠ h := by
  have hu : (d.attRequest.trust.reports.map (·.handle)).length < 256 := by rw [List.length_map]; omega
  refine ⟨(freeHandles (d.attRequest.trust.reports.map (·.handle))).getD
    (Config.pickHandle d.attRequest.draw.1 % (freeHandles (d.attRequest.trust.reports.map (·.handle))).length) 0, ?_, fun r hr he => ?_⟩
  · rw [Dev.getReport, if_neg (not_not.mpr hm), if_neg (Nat.not_le.mpr hr)]
    rfl
  · exact freeHandles_pick hu _ (List.mem_map.mpr ⟨r, hr, he⟩)

theorem Dev.getReport_busy (hm : m.length = 32) (hr : 4 ≤ d.attRequest.trust.reports.length) :
    d.getReport m = (d.attRequest.raise1 R.SEC_ERR_ATT_BUSY 0).reply (leBytes 1 1) := by
  rw [Dev.getReport, if_neg (not_not.mpr hm), if_pos hr]

theorem Dev.getChunk_signed {r : Report} {b : List Byte} (hf : (d.attRequest.trust.reports.find? fun r => r.handle = recNat m 0 1) = some r)
    (hb : r.bytes = some b) (hm : m.length = 5) (ho : recNat m 1 4 ≤ b.length) :
    d.getChunk m = d.attRequest.reply (leBytes 1 0 ++ (b.drop (recNat m 1 4)).take 1024) := by
  have hn : ¬ (m.length ≠ 5 ∨ b.length < recNat m 1 4) := by omega
  simp only [Dev.getChunk, hf, hb, if_neg hn]

end

/-- Settles O50: a report is begun under one of the handles that fewer than four reports leave free. -/
theorem reportsHeld : Obligations.ReportsHeld := by
  unfold Obligations.ReportsHeld
  intro s
  refine ⟨fun _ => rfl, fun m hm hr => ?_, fun m hm hr => does_run (f := fun d => d.getReport m) rfl (Dev.getReport_busy hm hr),
    fun m r b hf hb hm ho => does_run (f := fun d => d.getChunk m) rfl (Dev.getChunk_signed hf hb hm ho), fun h r hr he hb => ?_, fun _ => rfl⟩
  · obtain ⟨h, hh, hne⟩ := Dev.getReport_begun hm hr
    exact ⟨h, s.fresh.getReport m, rfl, hh, hne⟩
  · have hany : (s.dev.trust.reports.any fun r => decide (r.handle = h ∧ r.bytes.isNone)) = true :=
      List.any_eq_true.mpr ⟨r, hr, decide_eq_true ⟨he, by rw [hb]; rfl⟩⟩
    have he : exec (.reportSigned h) s = execReportSigned h s := rfl
    rw [Does, he, execReportSigned, run]
    exact congrArg (fun d => Host.Outcome.next { s with dev := d }) (if_pos hany)

end Sys2Proof.Machine
end

section
/-!
SUPPORT. Starts, the clock, and what sleeps and wakes (R308, R309, R315, R316, R318–R325).
-/

namespace Sys2Proof.Machine

/-! ### Dawn and Morning -/

section
variable {s : State}

theorem exec_dawn (plim boot : Nat) (rom : Bool) (ha : s.dev.pins.aux = true) (hc : s.dev.pins.cycle = false) (hw : s.dev.pins.warm = false)
    (hs : s.dev.get R.PWR_STATE_DEV_STATE = 0) (hb : s.dev.get R.PWR_STATE_BOOT_STEP = 0) :
    let d : Dev := { s.fresh with pins := { s.dev.pins with on := true, undervoltage := false, bootSrc := boot % 2, refLost := false } }
    let d := (d.set R.PWR_PLIM_PLIM (plim % 8)).set R.PWR_PLIM_LIMIT_W (plimWatts plim)
    exec (.dawn plim boot rom) s = .next { s with otp := (bootSteps s.otp d rom).1, dev := (bootSteps s.otp d rom).2 } := by
  have h : s.fresh.pins.aux ∧ !s.fresh.pins.cycle ∧ !s.fresh.pins.warm ∧ s.fresh.get R.PWR_STATE_DEV_STATE = 0 ∧
      s.fresh.get R.PWR_STATE_BOOT_STEP = 0 := ⟨ha, congrArg not hc, congrArg not hw, hs, hb⟩
  have he : exec (.dawn plim boot rom) s = execDawn plim boot rom s := rfl
  rw [he, execDawn]
  generalize bootSteps = boots
  exact if_pos h

theorem exec_morning (rom : Bool) (hw : s.dev.pins.warm = true) (ho : s.dev.pins.on = true) :
    let d := ({ s.fresh with pins := { s.dev.pins with warm := false, refLost := false } } : Dev).devTo 1
    exec (.morning rom) s = .next { s with otp := (bootSteps s.otp d rom).1, dev := (bootSteps s.otp d rom).2 } := by
  have h : s.fresh.pins.warm ∧ s.fresh.pins.on := ⟨hw, ho⟩
  have he : exec (.morning rom) s = execMorning rom s := rfl
  rw [he, execMorning]
  generalize bootSteps = boots
  exact if_pos h

/-- A boot ROM that fails its test stops the start. -/
theorem bootSteps_noRom (o : Otp) (d : Dev) :
    bootSteps o d false = (o, (((d.loadFixed o).ceilReset).set R.PWR_STATE_BOOT_STEP 2).fatal 5 63) := by
  rw [bootSteps, if_pos Bool.not_false]

end

/-- Settles O42: the boot steps are a function of their own, which a failed boot ROM leaves at once. -/
theorem startsRun : Obligations.StartsRun := by
  unfold Obligations.StartsRun
  intro s rom
  refine ⟨fun plim boot ha hc hw hs hb => ⟨exec_dawn plim boot rom ha hc hw hs hb, ?_⟩, fun hw ho => exec_morning rom hw ho,
    fun ms bad trained ho h6 => ⟨fun hs => does_run rfl (if_pos ⟨ho, hs, h6⟩), fun hs => does_run rfl (if_pos ⟨ho, hs, h6⟩)⟩⟩
  rw [Does, exec_dawn plim boot false ha hc hw hs hb, bootSteps_noRom]

/-! ### Power samples, the clock and temperature -/

/-- A sample is counted and averaged. -/
def Dev.powerSampled (d : Dev) (mw : Nat) : Dev :=
  let d : Dev := { d with pwr := { d.pwr with samples := (mw :: d.pwr.samples).take 8 } }
  let d := (d.count R.PWR_ENERGY_UJ (mw / 1000)).countMax R.PWR_ENERGY_PEAK_W (d.meanPower / 1000)
  { d with pwr := { d.pwr with peak := max d.pwr.peak d.meanPower } }

section
variable {d : Dev}

/-- Above the floor the clock falls by one step. -/
theorem Dev.stepDown_one (cause : Nat) (h : d.get R.PWR_CLK_STEPS_DOWN < 24) :
    d.stepDown 1 cause = ((d.clockTo (d.get R.PWR_CLK_STEPS_DOWN + 1) cause).count R.PWR_THROTTLE_STEPS 1).holdIssue 32 := by
  have hm : min 1 (24 - d.get R.PWR_CLK_STEPS_DOWN) = 1 := by omega
  rw [Dev.stepDown]
  simp only [hm, Nat.one_ne_zero, if_false]

theorem Dev.clockTo_below (n cause : Nat) (h : n ≠ 0) : d.clockTo n cause =
    let e := ((d.set R.PWR_CLK_STEPS_DOWN n).set R.PWR_CLK_MHZ (1200 - 25 * n)).set R.PWR_CLK_CAUSE cause
    { e with beat := { e.beat with throttled := true } } := if_neg h

end

section
variable {s : State} (ho : s.dev.pins.on = true)
include ho

/-- A meaning that a device which is on has. -/
theorem does_whileOn {c : Instr} {f : Dev → Dev} {d : Dev} (h : exec c s = run s fun d => if !d.pins.on then d else f d) (hd : f s.fresh = d) : Does c s d :=
  does_run h ((if_neg (by rw [Bool.not_eq_true', Bool.not_eq_false]; exact ho)).trans hd)

theorem does_thermalStep {tj die : Nat} (ht : tj < 256) (hd : die < 10) : Does (.thermalStep tj die) s
    (if (s.fresh.sensed tj die).get R.PWR_THERM_THROTTLE_C ≤ (s.fresh.sensed tj die).get R.PWR_THERM_TJ_C then
      ((s.fresh.sensed tj die).raise1 R.PWR_ERR_THERM_THROTTLE die).stepDown 1 2 else s.fresh.sensed tj die) := by
  have h : exec (.thermalStep tj die) s = run s fun d => if !d.pins.on then d else
      let d := d.sensed (tj % 256) (die % 10)
      if d.get R.PWR_THERM_THROTTLE_C ≤ d.get R.PWR_THERM_TJ_C then (d.raise1 R.PWR_ERR_THERM_THROTTLE (die % 10)).stepDown 1 2 else d := rfl
  rw [Nat.mod_eq_of_lt ht, Nat.mod_eq_of_lt hd] at h
  exact does_whileOn ho h rfl

theorem does_therm95 {tj die : Nat} (ht : tj < 256) (hd : die < 10) (h95 : 95 ≤ tj) :
    let e := ((s.fresh.sensed tj die).raise1 R.PWR_ERR_THERM_95 die).stepDown 24 2
    Does (.therm95 tj die) s { e with pins := { e.pins with alert := true } } := by
  have h : exec (.therm95 tj die) s = run s fun d => if !d.pins.on then d else
      let d := d.sensed (tj % 256) (die % 10)
      if 95 ≤ tj then
        let d := (d.raise1 R.PWR_ERR_THERM_95 (die % 10)).stepDown 24 2
        { d with pins := { d.pins with alert := true } }
      else d := rfl
  rw [Nat.mod_eq_of_lt ht, Nat.mod_eq_of_lt hd] at h
  exact does_whileOn ho h (if_pos h95)

end

/-- Settles O44: above the floor one step is 1 of the 24 that are left, so the clock falls by it. -/
theorem clockFollows : Obligations.ClockFollows := by
  unfold Obligations.ClockFollows
  intro s ho
  refine ⟨fun mw => does_whileOn ho (f := fun d => d.powerSampled mw) rfl rfl, fun hc hs => does_run rfl ((if_pos ⟨ho, hc⟩).trans ?_),
    fun hc hs => does_run rfl (if_pos ⟨ho, hc, hs⟩),
    fun tj die ht hd => ⟨fun hot => ?_, fun cool => ?_, fun h95 => does_therm95 ho ht hd h95⟩⟩
  · exact (Dev.stepDown_one (d := s.fresh) 1 hs).trans (by rw [Dev.clockTo_below _ _ (Nat.succ_ne_zero _)]; rfl)
  · have h := does_thermalStep ho ht hd
    rwa [if_pos hot] at h
  · have h := does_thermalStep ho ht hd
    rwa [if_neg (Nat.not_le.mpr cool)] at h

end Sys2Proof.Machine
end

section
/-!
SUPPORT. Dusk, Night and waking, and units that drain, rest and rise (R309, R315, R319–R322).
-/

namespace Sys2Proof.Machine

/-! ### Stores to PWR_CTL and PWR_RPR_GO -/

/-- The rows of PWR_CTL and PWR_RPR_GO. -/
abbrev pwrCtlRow : RegRow := rowsPwr[1]
abbrev pwrRprGoRow : RegRow := rowsPwr[12]

section
variable {d : Dev} {u v : Nat}

/-- DUSK_AT_BEAT, the first effect of a store to PWR_CTL. -/
abbrev Dev.duskAt (d : Dev) (v : Nat) : Dev := d.set R.PWR_CTL_DUSK_AT_BEAT (v % 2 ^ 48)

theorem Dev.duskAt_state (d : Dev) (v : Nat) : (d.duskAt v).get R.PWR_STATE_DEV_STATE = d.get R.PWR_STATE_DEV_STATE :=
  Dev.get_set_otherReg _ _ (by decide)

/-- A store with DUSK arms it, in READY_NO_IMAGE and in READY. -/
theorem Dev.pwrCtlWrite_dusk (top : Topped v true false u) (hs : d.get R.PWR_STATE_DEV_STATE = 2 ∨ d.get R.PWR_STATE_DEV_STATE = 3) :
    d.pwrCtlWrite u = { d.duskAt v with pwr := { d.pwr with duskArmed := true } } := by
  have at_ : bits u 47 0 = v % 2 ^ 48 := top.low 47 0 (by decide) (by decide)
  have h : (d.duskAt v).get R.PWR_STATE_DEV_STATE = 2 ∨ (d.duskAt v).get R.PWR_STATE_DEV_STATE = 3 := by rwa [Dev.duskAt_state]
  simp only [Dev.pwrCtlWrite, top.bit63, top.bit62, at_, Bool.false_eq_true, if_false, true_and, if_pos h]
  rfl

/-- A store with WAKE in NIGHT begins the waking. -/
theorem Dev.pwrCtlWrite_wake {dusk : Bool} (top : Topped v dusk true u) (hs : d.get R.PWR_STATE_DEV_STATE = 5) :
    d.pwrCtlWrite u = (d.duskAt v).wakeStart := by
  have at_ : bits u 47 0 = v % 2 ^ 48 := top.low 47 0 (by decide) (by decide)
  have st : (d.duskAt v).get R.PWR_STATE_DEV_STATE = 5 := (d.duskAt_state v).trans hs
  have h : ¬(dusk = true ∧ ((d.duskAt v).get R.PWR_STATE_DEV_STATE = 2 ∨ (d.duskAt v).get R.PWR_STATE_DEV_STATE = 3)) := by omega
  simp only [Dev.pwrCtlWrite, top.bit63, top.bit62, at_, if_neg h, if_true, if_pos st]

/-- A store with GO adds an entry to the batch. -/
theorem Dev.rprGoWrite_go {b : Bool} (top : Topped v true b u) : d.rprGoWrite u =
    (d.set R.PWR_RPR_GO_KIND (v % 256)).rprAdd (v % 256) 2 (d.get R.PWR_RPR_ADD_UNIT) (d.get R.PWR_RPR_ADD_DETAIL) := by
  have kind : bits u 7 0 = v % 256 := top.low 7 0 (by decide) (by decide)
  have unit_ : (d.set R.PWR_RPR_GO_KIND (v % 256)).get R.PWR_RPR_ADD_UNIT = d.get R.PWR_RPR_ADD_UNIT := Dev.get_set_otherReg _ _ (by decide)
  have detail : (d.set R.PWR_RPR_GO_KIND (v % 256)).get R.PWR_RPR_ADD_DETAIL = d.get R.PWR_RPR_ADD_DETAIL :=
    Dev.get_set_otherReg _ _ (by decide)
  simp only [Dev.rprGoWrite, top.bit63, kind, if_true, unit_, detail]

end

section
variable {s : State} {w : Who} {v : Nat} (hv : v < 2 ^ 64)
include hv

theorem does_dusk (ht : s.takes w R.PWR_CTL) (hs : s.dev.get R.PWR_STATE_DEV_STATE = 2 ∨ s.dev.get R.PWR_STATE_DEV_STATE = 3) (h62 : bitAt v 62 = false) :
    Does (.dusk w v) s { s.fresh.duskAt v with pwr := { s.dev.pwr with duskArmed := true } } := by
  rw [bitAt_eq_testBit] at h62
  have top : Topped v true false (R.PWR_CTL_DUSK.on v) := h62 ▸ topped_on63 ⟨rfl, rfl⟩ hv
  exact does_write (row := pwrCtlRow) (ix := []) rfl ht rfl (by decide) (by decide) top.lt (Dev.pwrCtlWrite_dusk (d := s.fresh) top hs)

theorem does_wake (ht : s.takes w R.PWR_CTL) (hs : s.dev.get R.PWR_STATE_DEV_STATE = 5) : Does (.wake w v) s (s.fresh.duskAt v).wakeStart := by
  have top : Topped v (v.testBit 63) true (R.PWR_CTL_WAKE.on v) := (topped_self hv).on62 ⟨rfl, rfl⟩
  exact does_write (row := pwrCtlRow) (ix := []) rfl ht rfl (by decide) (by decide) top.lt (Dev.pwrCtlWrite_wake (d := s.fresh) top hs)

theorem does_pwrRprGo (ht : s.takes w R.PWR_RPR_GO) : Does (.pwrRprGo w v) s ((s.fresh.set R.PWR_RPR_GO_KIND (v % 256)).rprAdd (v % 256) 2
    (s.dev.get R.PWR_RPR_ADD_UNIT) (s.dev.get R.PWR_RPR_ADD_DETAIL)) := by
  have top : Topped v true (v.testBit 62) (R.PWR_RPR_GO_GO.on v) := topped_on63 ⟨rfl, rfl⟩ hv
  exact does_write (row := pwrRprGoRow) (ix := []) rfl ht rfl (by decide) (by decide) top.lt (Dev.rprGoWrite_go (d := s.fresh) top)

end

/-! ### The entry into NIGHT -/

/-- `d'` has the register at `o`, the rights of the AGX links and the power unit as `d` has them. -/
structure KeepsAt (o : Nat) (d d' : Dev) : Prop where
  reg : d'.reg o = d.reg o
  agx : d'.agx = d.agx
  pwr : d'.pwr = d.pwr

namespace KeepsAt

section
variable {o : Nat} {d e f : Dev}

theorem refl (d : Dev) : KeepsAt o d d := ⟨rfl, rfl, rfl⟩

theorem trans (h : KeepsAt o d e) (k : KeepsAt o e f) : KeepsAt o d f := ⟨k.reg.trans h.reg, k.agx.trans h.agx, k.pwr.trans h.pwr⟩

theorem set (d : Dev) (g : Fld) (v : Nat) (h : o ≠ g.reg) : KeepsAt o d (d.set g v) := ⟨d.reg_set_ne g v h, rfl, rfl⟩

theorem logOnly (h : LogOnly d e) (ho : logReg o = false) : KeepsAt o d e := ⟨h.reg o ho, h.agx, h.pwr⟩

theorem ite {c : Prop} [Decidable c] (h : KeepsAt o d e) (k : KeepsAt o d f) : KeepsAt o d (if c then e else f) := by
  split <;> assumption

theorem foldl {l : List Nat} {step : Dev → Nat → Dev} (h : ∀ e, ∀ n ∈ l, KeepsAt o e (step e n)) (d : Dev) : KeepsAt o d (l.foldl step d) :=
  List.foldlRecOn l step (refl d) fun e k n hn => k.trans (h e n hn)

theorem get (h : KeepsAt o d e) (g : Fld) (hg : g.reg = o) : e.get g = d.get g := by rw [Dev.get, Dev.get, hg, h.reg]

end

end KeepsAt

section
variable {o p : Nat} (d : Dev)

theorem Dev.onLanes_keeps (f : Flit) : KeepsAt o d (d.onLanes p f) := by
  unfold Dev.onLanes
  exact KeepsAt.ite ⟨rfl, rfl, rfl⟩ ⟨rfl, rfl, rfl⟩

section
variable (ho : o ≠ R.AGX_PORT_INJECT p)
include ho

theorem Dev.wire_keeps (f : Flit) (nak : Bool) : KeepsAt o d (d.wire p f nak) := by
  unfold Dev.wire
  dsimp only
  refine KeepsAt.ite (KeepsAt.trans ?_ (Dev.onLanes_keeps _ _)) (KeepsAt.trans ?_ (Dev.onLanes_keeps _ _))
  · exact KeepsAt.trans (e := (d.setPort p _).count _ 1 |>.draw.2) ⟨rfl, rfl, rfl⟩ (KeepsAt.set _ (R.AGX_PORT_INJECT_CRC_NEXT p) 0 ho)
  · exact ⟨rfl, rfl, rfl⟩

/-- A port that measures its round trip. -/
theorem Dev.probe_keeps (t : Nat) : KeepsAt o d (d.probe p t) := by
  unfold Dev.probe Dev.sendRaw
  refine KeepsAt.ite (KeepsAt.trans (e := d.setPort p { d.port p with probeAt := some t }) ⟨rfl, rfl, rfl⟩ ?_) (KeepsAt.refl d)
  exact KeepsAt.ite (Dev.wire_keeps _ ho _ _) (KeepsAt.refl _)

end

/-- A port's lanes mapped anew. -/
theorem Dev.mapLanes_keeps (width : Nat) (hl : ∀ i, i < 9 → o ≠ R.AGX_PORT_LANE p i) (hs : o ≠ R.AGX_PORT_STATUS p) :
    KeepsAt o d (d.mapLanes p width) := by
  unfold Dev.mapLanes
  refine ((KeepsAt.foldl (fun e i hi => ?_) d).trans (KeepsAt.set _ _ _ hs)).trans (KeepsAt.set _ _ _ hs)
  have h := hl i (List.mem_range.mp hi)
  exact (KeepsAt.set _ (R.AGX_PORT_LANE_STATE p i) _ h).trans (KeepsAt.set _ (R.AGX_PORT_LANE_LOGICAL p i) _ h)

end

/-- A stack's register is none of a port's. -/
theorem hbmStatus_ne_port (n p : Nat) : R.HBM_STATUS n ≠ R.AGX_PORT_STATUS p ∧ R.HBM_STATUS n ≠ R.AGX_PORT_INJECT p ∧
    ∀ i, i < 9 → R.HBM_STATUS n ≠ R.AGX_PORT_LANE p i := by
  simp only [R.HBM_STATUS, R.AGX_PORT_STATUS, R.AGX_PORT_INJECT, R.AGX_PORT_LANE]
  exact ⟨by omega, by omega, fun i hi => by omega⟩

section
variable {n : Nat} (hn : n < 24)
include hn

theorem logReg_hbmStatus : logReg (R.HBM_STATUS n) = false := by
  interval_cases n <;> rfl

/-- A port that enters NIGHT leaves the stacks. -/
theorem Dev.portNight_keeps (d : Dev) (t p : Nat) : KeepsAt (R.HBM_STATUS n) d (d.portNight t p) := by
  obtain ⟨status, inject, lane⟩ := hbmStatus_ne_port n p
  unfold Dev.portNight
  refine KeepsAt.ite (((d.mapLanes_keeps 1 lane status).trans ?_).trans (Dev.probe_keeps _ inject t)) (KeepsAt.refl d)
  exact (KeepsAt.set _ (R.AGX_PORT_STATUS_STATE p) 7 status).trans (KeepsAt.logOnly (LogOnly.event _ _ _ _ _) (logReg_hbmStatus hn))

theorem Dev.devTo_keeps (d : Dev) (st : Nat) : KeepsAt (R.HBM_STATUS n) d (d.devTo st) := by
  unfold Dev.devTo
  refine KeepsAt.ite (KeepsAt.refl d) (KeepsAt.trans (KeepsAt.set d _ st ?_) (KeepsAt.logOnly (LogOnly.event _ _ _ _ _) (logReg_hbmStatus hn)))
  simp only [R.HBM_STATUS, R.PWR_STATE_DEV_STATE, R.PWR_STATE]
  omega

end

/-- The device is in the state it moves to. -/
theorem Dev.devTo_state (d : Dev) {st : Nat} (h : st < 16) : (d.devTo st).get R.PWR_STATE_DEV_STATE = st := by
  unfold Dev.devTo
  split
  · assumption
  · rw [(LogOnly.event _ _ _ _ _).get _ rfl, Dev.get_set_same _ _ _ rfl]
    exact Nat.mod_eq_of_lt h

theorem Dev.devTo_pstate (d : Dev) (st : Nat) : (d.devTo st).get R.PWR_STATE_PSTATE = d.get R.PWR_STATE_PSTATE := by
  unfold Dev.devTo
  split
  · rfl
  · rw [(LogOnly.event _ _ _ _ _).get _ rfl, Dev.get_set_otherBits _ _ rfl rfl rfl]

/-- A stack that is trained enters self-refresh. -/
def Dev.stackRests (d : Dev) (n : Nat) : Dev := if d.get (R.HBM_STATUS_STATE n) = 2 then d.set (R.HBM_STATUS_STATE n) 3 else d

theorem Dev.stackRests_get (d : Dev) (n k : Nat) :
    (d.stackRests n).get (R.HBM_STATUS_STATE k) = if n = k ∧ d.get (R.HBM_STATUS_STATE k) = 2 then 3 else d.get (R.HBM_STATUS_STATE k) := by
  by_cases hnk : n = k
  · subst hnk
    by_cases h : d.get (R.HBM_STATUS_STATE n) = 2
    · rw [Dev.stackRests, if_pos h, if_pos ⟨rfl, h⟩, Dev.get_set_same _ _ _ rfl]
      rfl
    · rw [Dev.stackRests, if_neg h, if_neg fun hh => h hh.2]
  · rw [if_neg fun hh => hnk hh.1, Dev.stackRests]
    split
    · exact Dev.get_set_otherReg _ _ (by simp only [R.HBM_STATUS_STATE, R.HBM_STATUS]; omega)
    · rfl

/-- Once every stack of a list has rested, one of them that was trained is in self-refresh. -/
theorem Dev.stacksRest_get (k : Nat) (l : List Nat) (d : Dev) (h : d.get (R.HBM_STATUS_STATE k) = 3 ∨ k ∈ l ∧ d.get (R.HBM_STATUS_STATE k) = 2) :
    (l.foldl Dev.stackRests d).get (R.HBM_STATUS_STATE k) = 3 := by
  induction l generalizing d with
  | nil => exact h.resolve_right fun hn => absurd hn.1 List.not_mem_nil
  | cons n r ih =>
    refine ih (d.stackRests n) ?_
    rw [Dev.stackRests_get]
    rcases h with h | ⟨hm, h⟩
    · left; rw [h]; exact if_neg fun hh => absurd hh.2 (by decide)
    · by_cases hnk : n = k
      · left; rw [if_pos ⟨hnk, h⟩]
      · right; rw [if_neg fun hh => hnk hh.1]
        exact ⟨(List.mem_cons.mp hm).resolve_left fun e => hnk e.symm, h⟩

/-- The stacks' rest leaves the links' rights and the power unit. -/
theorem Dev.stacksRest_units (l : List Nat) (d : Dev) : (l.foldl Dev.stackRests d).agx = d.agx ∧ (l.foldl Dev.stackRests d).pwr = d.pwr :=
  ⟨foldl_keeps Dev.agx (fun e n => by unfold Dev.stackRests; split <;> rfl) l d,
    foldl_keeps Dev.pwr (fun e n => by unfold Dev.stackRests; split <;> rfl) l d⟩

/-- FENCED ends and the ports that are UP enter NIGHT, measured from tick `t`. -/
def Dev.portsNight (d : Dev) (t : Nat) : Dev :=
  (List.range 36).foldl (fun (d : Dev) p => d.portNight t p) { d with agx := { d.agx with fenced := false } }

theorem Dev.portsNight_keeps (d : Dev) (t : Nat) {n : Nat} (hn : n < 24) :
    KeepsAt (R.HBM_STATUS n) { d with agx := { d.agx with fenced := false } } (d.portsNight t) :=
  KeepsAt.foldl (fun e p _ => e.portNight_keeps hn t p) _

/-- All stacks rest. -/
def Dev.stacksRest (d : Dev) : Dev := (List.range 24).foldl Dev.stackRests d

/-- What NIGHT's entry marks. -/
def Dev.nightMarked (d : Dev) : Dev :=
  let d := (d.set R.PWR_STATE_PSTATE 2).set R.IMG_STATUS_IMAGE_STATE (if d.imageActive then 2 else 0)
  { d with pwr := { d.pwr with duskDone := false } }

/-- The stacks rest and the device is in NIGHT. -/
def Dev.nightRest (d : Dev) : Dev := d.stacksRest.nightMarked.devTo 5

section
variable (d : Dev)

theorem Dev.nightMarked_agx : d.nightMarked.agx = d.agx := rfl

theorem Dev.nightMarked_wakeHeld : d.nightMarked.pwr.wakeHeld = d.pwr.wakeHeld := rfl

theorem Dev.nightMarked_pstate : d.nightMarked.get R.PWR_STATE_PSTATE = 2 :=
  (Dev.get_set_otherReg _ _ (by decide)).trans (Dev.get_set_same d R.PWR_STATE_PSTATE 2 rfl)

theorem Dev.nightMarked_stack {k : Nat} (hk : k < 24) : d.nightMarked.get (R.HBM_STATUS_STATE k) = d.get (R.HBM_STATUS_STATE k) := by
  refine (Dev.get_set_otherReg (g := R.HBM_STATUS_STATE k) _ _ ?_).trans (Dev.get_set_otherReg _ _ ?_)
  · simp only [R.HBM_STATUS_STATE, R.HBM_STATUS, R.IMG_STATUS_IMAGE_STATE, R.IMG_STATUS]; omega
  · simp only [R.HBM_STATUS_STATE, R.HBM_STATUS, R.PWR_STATE_PSTATE, R.PWR_STATE]; omega

theorem Dev.nightRest_state : d.nightRest.get R.PWR_STATE_DEV_STATE = 5 := Dev.devTo_state _ (by decide)

theorem Dev.nightRest_pstate : d.nightRest.get R.PWR_STATE_PSTATE = 2 := by
  rw [Dev.nightRest, Dev.devTo_pstate, Dev.nightMarked_pstate]

theorem Dev.nightRest_agx : d.nightRest.agx = d.agx := by
  rw [Dev.nightRest, (Dev.devTo_keeps (n := 0) (by decide) _ 5).agx, Dev.nightMarked_agx]
  exact (Dev.stacksRest_units _ d).1

theorem Dev.nightRest_wakeHeld : d.nightRest.pwr.wakeHeld = d.pwr.wakeHeld := by
  rw [Dev.nightRest, (Dev.devTo_keeps (n := 0) (by decide) _ 5).pwr, Dev.nightMarked_wakeHeld]
  exact congrArg PwrUnit.wakeHeld (Dev.stacksRest_units _ d).2

theorem Dev.nightRest_stack {k : Nat} (hk : k < 24) (h : d.get (R.HBM_STATUS_STATE k) = 2) : d.nightRest.get (R.HBM_STATUS_STATE k) = 3 := by
  rw [Dev.nightRest, (Dev.devTo_keeps hk _ 5).get (R.HBM_STATUS_STATE k) rfl, Dev.nightMarked_stack _ hk]
  exact Dev.stacksRest_get k _ d (.inr ⟨List.mem_range.mpr hk, h⟩)

end

section
variable {s : State}

theorem execNightEnter_run : exec .nightEnter s = run s fun d =>
    if d.get R.PWR_STATE_DEV_STATE = 4 ∧ d.pwr.duskDone ∧ (List.range 36).all d.portQuiet then
      if ((d.draw.2.portsNight (Config.freeWord d.draw.1 0)).nightRest).pwr.wakeHeld then
        ((d.draw.2.portsNight (Config.freeWord d.draw.1 0)).nightRest).wakeStart
      else (d.draw.2.portsNight (Config.freeWord d.draw.1 0)).nightRest
    else d := by
  have h : exec .nightEnter s = execNightEnter s := rfl
  rw [h]
  unfold execNightEnter Dev.nightRest Dev.nightMarked Dev.stacksRest Dev.stackRests Dev.portsNight
  generalize List.range 36 = ports, List.range 24 = stackNos
  rfl

/-- NIGHT_ENTER with no wake latched. -/
theorem does_nightEnter (hs : s.dev.get R.PWR_STATE_DEV_STATE = 4) (hd : s.dev.pwr.duskDone = true) (hq : ∀ p, p < 36 → s.fresh.portQuiet p = true)
    (hw : s.dev.pwr.wakeHeld = false) : ∃ t, Does .nightEnter s (s.fresh.draw.2.portsNight t).nightRest := by
  have quiet : (List.range 36).all s.fresh.portQuiet = true := List.all_eq_true.mpr fun p hp => hq p (List.mem_range.mp hp)
  refine ⟨Config.freeWord s.fresh.draw.1 0, does_run execNightEnter_run ((if_pos ⟨hs, hd, quiet⟩).trans ?_)⟩
  have held : (s.fresh.draw.2.portsNight (Config.freeWord s.fresh.draw.1 0)).nightRest.pwr.wakeHeld = false := by
    rw [Dev.nightRest_wakeHeld, (Dev.portsNight_keeps _ _ (n := 0) (by decide)).pwr]
    exact hw
  exact if_neg (by rw [held]; exact Bool.false_ne_true)

theorem nightEnter_ends (hs : s.dev.get R.PWR_STATE_DEV_STATE = 4) (hd : s.dev.pwr.duskDone = true) (hq : ∀ p, p < 36 → s.fresh.portQuiet p = true)
    (hw : s.dev.pwr.wakeHeld = false) : ∃ d, Does .nightEnter s d ∧ d.get R.PWR_STATE_DEV_STATE = 5 ∧ d.get R.PWR_STATE_PSTATE = 2 ∧
      d.agx.fenced = false ∧ ∀ k, k < 24 → s.dev.get (R.HBM_STATUS_STATE k) = 2 → d.get (R.HBM_STATUS_STATE k) = 3 := by
  obtain ⟨t, h⟩ := does_nightEnter hs hd hq hw
  refine ⟨_, h, Dev.nightRest_state _, Dev.nightRest_pstate _, ?_, fun k hk h2 => Dev.nightRest_stack _ hk ?_⟩
  · rw [Dev.nightRest_agx, (Dev.portsNight_keeps _ t (n := 0) (by decide)).agx]
  · rw [(Dev.portsNight_keeps _ t hk).get (R.HBM_STATUS_STATE k) rfl]
    exact h2

end

/-! ### Units, and what is left of Dusk -/

theorem unitPwr_tile {n : Nat} (hn : n < 384) : unitPwr n = R.TILE_STATUS_PWR n := if_pos hn

/-- A site that was powering up is ready or has failed; the next wave follows. -/
theorem Dev.siteReady_rising {d : Dev} {n : Nat} (h : d.pwr.rising.contains n = true) (ok : Bool) :
    let e : Dev := { d with pwr := { d.pwr with rising := d.pwr.rising.erase n } }
    d.siteReady n ok = (if ok then e.powerEvent n true else e.siteFailed n).nextWave.wavesDone.reconfigDone := by
  rw [Dev.siteReady, h, Bool.not_true, if_neg Bool.false_ne_true]

/-- `does_run` for a command whose function is named. -/
theorem does_runs {s : State} {c : Instr} {f : Dev → Dev} {d : Dev} (m : Host.Outcome State Fault Refusal) (he : exec c s = m) (h : m = run s f)
    (hd : f s.fresh = d) : Does c s d := does_run (he.trans h) hd

section
variable {s : State} {n : Nat}

theorem duskDrainDone_ends (hs : s.dev.get R.PWR_STATE_DEV_STATE = 4) (hd : s.dev.pwr.duskDone = false) (ho : s.dev.ops = [])
    (hq : s.fresh.wgqUsed = []) (hc : s.fresh.commitState = 0) :
    ∃ d, Does .duskDrainDone s d ∧ d.pwr.duskDone = true ∧ d.pwr.wave = [] ∧ d.pwr.rising = [] := by
  have h : s.fresh.get R.PWR_STATE_DEV_STATE = 4 ∧ !s.fresh.pwr.duskDone ∧ s.fresh.ops.isEmpty ∧ s.fresh.wgqUsed.isEmpty ∧ s.fresh.commitState = 0 :=
    ⟨hs, by rw [Bool.not_eq_true']; exact hd, List.isEmpty_iff.mpr ho, List.isEmpty_iff.mpr hq, hc⟩
  exact ⟨_, does_run rfl (if_pos h), rfl, rfl, rfl⟩

theorem does_drainComplete (hn : n < 384) (hs : s.dev.get (R.TILE_STATUS_PWR n) = 2 ∨ s.dev.get (R.TILE_STATUS_PWR n) = 3)
    (he : (s.dev.tile n).exec = none) : Does (.drainComplete n) s (s.fresh.siteOff n) := by
  have drains : ¬(s.fresh.get (unitPwr n) ≠ 2 ∧ s.fresh.get (unitPwr n) ≠ 3) := by
    rw [unitPwr_tile hn]; exact fun h => hs.elim h.1 h.2
  have idle : ¬(s.fresh.tile n).exec.isSome = true := by
    rw [show (s.fresh.tile n).exec = none from he]; exact Bool.false_ne_true
  refine does_runs (execDrainComplete n s) rfl rfl ?_
  exact (if_neg (by omega)).trans ((if_neg drains).trans ((if_pos hn).trans (if_neg idle)))

/-- A unit whose minimum off time has passed. -/
theorem does_offTimeMet {e : Dev} (h : s.dev.pwr.offHold.contains n = true)
    (he : let d : Dev := { s.fresh with pwr := { s.dev.pwr with offHold := s.dev.pwr.offHold.erase n, held := s.dev.pwr.held.erase n } }
      (if s.dev.pwr.held.contains n then d.enableUnit n else d) = e) : Does (.offTimeMet n) s e := by
  refine does_runs (execOffTimeMet n s) rfl rfl ?_
  exact (if_neg (by rw [Bool.not_eq_true', Bool.not_eq_false]; exact h)).trans he

theorem does_tilePowerReady {ok : Bool} {e : Dev} (hr : s.dev.pwr.rising.contains n = true) (hs : 1 < s.dev.get R.PWR_STATE_DEV_STATE)
    (he : let d : Dev := { s.fresh with pwr := { s.dev.pwr with rising := s.dev.pwr.rising.erase n } }
      (if ok then d.powerEvent n true else d.siteFailed n) = e) : Does (.tilePowerReady n ok) s e.nextWave.wavesDone.reconfigDone := by
  have started : ¬(s.fresh.pins.on ∧ s.fresh.get R.PWR_STATE_DEV_STATE ≤ 1 ∧ s.fresh.get R.PWR_STATE_BOOT_STEP = 6) :=
    fun h => Nat.not_le.mpr hs h.2.1
  refine does_runs (execTilePowerReady n ok s) rfl rfl ?_
  rw [← he]
  exact (congrArg (fun d => Dev.siteReady d n ok) (if_neg started)).trans (Dev.siteReady_rising (d := s.fresh) hr ok)

theorem does_tilePowerReady_start (ho : s.dev.pins.on = true) (hs : s.dev.get R.PWR_STATE_DEV_STATE ≤ 1)
    (hb : s.dev.get R.PWR_STATE_BOOT_STEP = 6) (ok : Bool) : Does (.tilePowerReady n ok) s (s.fresh.powerSites.siteReady n ok) := by
  refine does_runs (execTilePowerReady n ok s) rfl rfl ?_
  exact congrArg (fun d => Dev.siteReady d n ok) (if_pos ⟨ho, hs, hb⟩)

theorem does_tileClockGate (hn : n < 384) (hr : s.fresh.tileReady n = true) (he : (s.dev.tile n).exec = none)
    (hg : s.dev.pwr.gated.contains n = false) (ho : s.dev.ops ≠ []) :
    Does (.tileClockGate n) s { s.fresh with pwr := { s.dev.pwr with gated := s.dev.pwr.gated ++ [n] } } := by
  have gates : ¬(384 ≤ n ∨ !s.fresh.tileReady n ∨ (s.fresh.tile n).exec.isSome ∨ s.fresh.pwr.gated.contains n) := by
    rw [show (s.fresh.tile n).exec = none from he, show s.fresh.pwr.gated.contains n = false from hg, hr]
    simpa using hn
  refine does_runs (execTileClockGate n s) rfl rfl ?_
  exact (if_neg gates).trans (if_neg fun h => ho (List.isEmpty_iff.mp h.1))

theorem does_wakeDone (hs : s.dev.get R.PWR_STATE_DEV_STATE = 6) (hp : s.fresh.powerSettled = true) :
    let d := (List.range 36).foldl (fun (d : Dev) p => if d.link p = 7 then d.goDown p 1 else d) s.fresh
    let e := ([0, 1] : List Nat).foldl (fun (d : Dev) p => if d.flag (R.ETH_PORT_CTL_ENABLE p) then d.enableUnit (ethUnit p) else d) d
    e.imageActive = false → Does .wakeDone s (e.devTo 2) :=
  fun hi => by
    refine does_run rfl ((if_pos ⟨hs, hp⟩).trans ?_)
    exact if_neg (Bool.eq_false_iff.mp hi)

theorem does_repairRecordWrite {ok : Bool} {e : Dev} (hb : s.dev.pwr.batch ≠ [])
    (he : (if ok then s.fresh.rprFlush else s.fresh.raise1 R.PWR_ERR_RECORD_WRITE_FAIL 0) = e) : Does (.repairRecordWrite ok) s e := by
  refine does_runs (execRepairRecordWrite ok s) rfl rfl ?_
  exact (if_neg fun h => hb (List.isEmpty_iff.mp h)).trans he

end

/-- Settles O45: each event on the branch its words name; NIGHT's entry by what its steps keep of a stack's state. -/
theorem unitsSleep : Obligations.UnitsSleep := by
  unfold Obligations.UnitsSleep
  intro s w v n hv
  refine ⟨does_dusk hv, does_wake hv, nightEnter_ends, duskDrainDone_ends, fun hs hp _ => does_wakeDone hs hp, does_drainComplete,
    fun hc => ⟨fun hh => does_offTimeMet hc (if_pos hh), fun hh => does_offTimeMet hc (if_neg (Bool.eq_false_iff.mp hh))⟩,
    fun hr hs => ⟨does_tilePowerReady hr hs (if_pos rfl), does_tilePowerReady hr hs (if_neg Bool.false_ne_true)⟩,
    fun ok ho hs hb => does_tilePowerReady_start ho hs hb ok, does_tileClockGate, does_pwrRprGo hv,
    fun hb => ⟨does_repairRecordWrite hb (if_pos rfl), does_repairRecordWrite hb (if_neg Bool.false_ne_true)⟩⟩

end Sys2Proof.Machine
end

section
/-!
SUPPORT. Slices, entries of the weight buffer, and the coordinator of a commit (R231, R241, R252–R254, R256, R279).
-/

namespace Sys2Proof.Machine

/-! ### Slices (R252–R254) -/

section
variable {d : Dev} {n left : Nat}

theorem Dev.sliceStart_urgent (hu : wqUrgent (d.wgqEntry n) = true) (hs : wqState (d.wgqEntry n) = 1 ∨ wqState (d.wgqEntry n) = 3)
    (hf : d.wgqFirst n = true) (hg : d.groupFree (wqGroup (d.wgqEntry n)) = true) (ha : d.alive = true) : d.sliceStart n left = d.sliceRun n := by
  have h : ((decide (wqState (d.wgqEntry n) = 1) || decide (wqState (d.wgqEntry n) = 3)) && d.wgqFirst n && d.groupFree (wqGroup (d.wgqEntry n)) &&
      d.alive) = true := by
    rw [hf, hg, ha, ← Bool.decide_or, decide_eq_true hs]; rfl
  rw [Dev.sliceStart, if_pos hu, if_pos h]

/-- An entry that is not urgent starts where its tiles are open and no filler that goes first wants them. -/
theorem Dev.sliceStart_open (hu : wqUrgent (d.wgqEntry n) = false) (ho : d.sliceOpen n left = true)
    (hp : d.get R.WGQ_CTL_PRIORITY = 0 ∨ d.fillerWants (wqGroup (d.wgqEntry n)) left = false) : d.sliceStart n left = d.sliceRun n := by
  have h : (d.sliceOpen n left && (decide (d.get R.WGQ_CTL_PRIORITY = 0) || !d.fillerWants (wqGroup (d.wgqEntry n)) left)) = true := by
    rw [ho, Bool.true_and, Bool.or_eq_true, decide_eq_true_iff, Bool.not_eq_true']
    exact hp
  rw [Dev.sliceStart, if_neg (Bool.eq_false_iff.mp hu), if_pos h]

end

/-- Settles O12: the urgent branch by its four conditions, the other by the open tiles and PRIORITY. -/
theorem slicesStart : Obligations.SlicesStart := by
  unfold Obligations.SlicesStart
  intro s n left
  exact ⟨fun hu hs hf hg ha => does_run (f := fun d => d.sliceStart n left) rfl (Dev.sliceStart_urgent hu hs hf hg ha),
    fun hu ho hp => does_run (f := fun d => d.sliceStart n left) rfl (Dev.sliceStart_open hu ho (.inl hp)),
    fun hu ho _ hw => does_run (f := fun d => d.sliceStart n left) rfl (Dev.sliceStart_open hu ho (.inr hw))⟩

/-! ### Entries of the weight buffer and the deferred queue's drain -/

/-- The rows of EXP_DIR_UPD_ARM and WGQ_CTL. -/
abbrev dirUpdArmRow : RegRow := rowsExp[3]
abbrev wgqCtlRow : RegRow := rowsUpd[21]

section
variable {d : Dev} {r : Nat} {b : FetchBuf} (hb : (d.exp.fetch.find? fun b => b.res = r) = some b) (hl : b.left = 0)
include hb hl

/-- All reads have come without an error: the travel tiles take the copy. -/
theorem Dev.widenDone_ready (hg : b.bad = false) :
    let wide := d.force (R.EXP_LAYER_WIDE_FMT (d.get (R.EXP_RES_W0_LAYER r)))
    let sites := d.travelSites
    let e := (((List.range sites.length).zip sites).foldl (fun (d : Dev) x => d.widenTile b wide sites.length x.1 x.2) d).set (R.EXP_RES_W0_STATE r) 2
    d.widenDone r = ({ e with exp := { e.exp with fetch := e.exp.fetch.filter fun x => x.res ≠ r } } : Dev).refreshExp := by
  simp only [Dev.widenDone, hb, hl, hg, ne_eq, not_true_eq_false, if_false, Bool.false_eq_true]
  rfl

/-- A read has failed. -/
theorem Dev.widenDone_fails (hg : b.bad = true) : d.widenDone r = d.failEntry r R.EXP_ERR_FETCH_FAIL := by
  simp only [Dev.widenDone, hb, hl, hg, ne_eq, not_true_eq_false, if_false, if_true]

end

section
variable {s : State} {w : Who} {v : Nat} (hv : v < 2 ^ 64)
include hv

theorem does_expDirUpdArm (ht : s.takes w R.EXP_DIR_UPD_ARM) : Does (.expDirUpdArm w v) s (s.fresh.set R.EXP_DIR_UPD_ARM_ARM 1) := by
  refine does_write (row := dirUpdArmRow) (ix := []) rfl ht rfl (by decide) (by decide) (Fld.on_lt _ v rfl hv) ?_
  have take : takeMask dirUpdArmRow s.fresh.imageActive = R.EXP_DIR_UPD_ARM_ARM.mask := by cases s.fresh.imageActive <;> rfl
  have arm := s.fresh.plainStore_oneField w (f := R.EXP_DIR_UPD_ARM_ARM) (v := R.EXP_DIR_UPD_ARM_ARM.on v) take rfl rfl
  rwa [Fld.of_on _ v rfl] at arm

/-- While no image is active WGQ_CTL stores PRIORITY and ORDER, and DRAIN makes the queue urgent. -/
theorem does_wgqDrain (ht : s.takes w R.WGQ_CTL) (hi : s.dev.imageActive = false) : ∃ d, s.fresh.storedAt R.WGQ_CTL d ∧
    d.get R.WGQ_CTL_PRIORITY = bits v 3 3 ∧ d.get R.WGQ_CTL_ORDER = bits v 1 0 ∧ Does (.wgqDrain w v) s d.urgentAll := by
  have found : findRow R.WGQ_CTL = some (wgqCtlRow, []) := rfl
  have bit : R.WGQ_CTL_DRAIN.IsBit 7 := ⟨rfl, rfl⟩
  have active : s.fresh.imageActive = false := hi
  let d := s.fresh.plainStore w wgqCtlRow R.WGQ_CTL (R.WGQ_CTL_DRAIN.on v)
  have priority : d.get R.WGQ_CTL_PRIORITY = bits v 3 3 :=
    (s.fresh.plainStore_get_takes w _ found (F := ⟨R.WGQ_CTL_PRIORITY, .rw, 0⟩) (by decide) rfl).trans (bit.bits_on v (by decide) (by decide))
  have order : d.get R.WGQ_CTL_ORDER = bits v 1 0 :=
    (s.fresh.plainStore_get_takes w _ found (F := ⟨R.WGQ_CTL_ORDER, .rwi, 0⟩) (by decide) (by rw [active]; rfl)).trans
      (bit.bits_on v (by decide) (by decide))
  have drain : (R.WGQ_CTL_DRAIN.on v).testBit 7 = true := by rw [bit.testBit_on]; exact Bool.or_true _
  exact ⟨d, s.fresh.plainStore_storedAt w _ hi, priority, order,
    does_write rfl ht found (by decide) (by decide) (bit.on_lt hv (by decide)) (if_pos drain)⟩

end

/-- Settles O35: the end of a fetch by its error, and the two stores. -/
theorem entriesChange : Obligations.EntriesChange := by
  unfold Obligations.EntriesChange
  intro s
  exact ⟨fun r b hb hl hg => does_run (f := fun d => d.widenDone r) rfl (Dev.widenDone_ready (d := s.fresh) hb hl hg),
    fun r b hb hl hg => does_run (f := fun d => d.widenDone r) rfl (Dev.widenDone_fails (d := s.fresh) hb hl hg),
    fun w v hv ht => does_expDirUpdArm hv ht, fun w v hv ht hi => does_wgqDrain hv ht hi⟩

/-! ### The coordinator (R279) -/

/-- Sending leaves the commit unit. -/
theorem Dev.noRouteSrc_upd (d : Dev) (p : Pkt) (port : Nat) : (d.noRouteSrc p port).upd = d.upd := by
  have noted : ((d.raise1 R.AGX_ERR_NO_ROUTE p.dest).count R.AGX_NOROUTE_COUNT 1).upd = d.upd := (LogOnly.raise1 _ _ _).upd
  unfold Dev.noRouteSrc
  dsimp only
  split
  · exact noted
  · exact noted

theorem Dev.launch_upd (d : Dev) (p : Pkt) (plan : Option (Nat × Nat)) : (d.launch p plan).upd = d.upd := by
  have denied : ((d.raise1 R.AGX_ERR_DENIED_EGRESS p.dest).count R.AGX_FLT_DENIED_EGRESS 1).upd = d.upd := (LogOnly.raise1 _ _ _).upd
  have choice {a b : Dev} {c : Prop} [Decidable c] (ha : a.upd = d.upd) (hb : b.upd = d.upd) : (if c then a else b).upd = d.upd := by
    split <;> assumption
  unfold Dev.launch
  refine choice rfl (choice rfl (choice (choice rfl rfl) (choice (choice denied denied) (choice rfl ?_))))
  dsimp only
  split
  · rfl
  · rfl
  · exact choice rfl (d.noRouteSrc_upd p _)
  · exact (LogOnly.raise1 _ _ _).upd

theorem Dev.request_upd (d : Dev) (p : Pkt) (w : Waiter) (left : Nat) (plan : Option (Nat × Nat)) : (d.request p w left plan).upd = d.upd := by
  unfold Dev.request
  split
  · exact d.launch_upd p plan
  · split
    · exact Dev.launch_upd _ _ plan
    · rfl

theorem Dev.sendCommit_upd (d : Dev) (dest kind flags step beat scale : Nat) : (d.sendCommit dest kind flags step beat scale).upd = d.upd :=
  d.request_upd _ _ _ _

theorem Dev.sendAll_upd (d : Dev) (dests : List Nat) (kind flags step beat : Nat) : (d.sendAll dests kind flags step beat).upd = d.upd :=
  foldl_keeps (f := fun (d : Dev) x => d.sendCommit x kind flags step beat (d.get R.UPD_SCALE_S)) Dev.upd
    (fun e x => e.sendCommit_upd x kind flags step beat (e.get R.UPD_SCALE_S)) dests d

theorem Dev.clearVotes_upd (d : Dev) : d.clearVotes.upd = d.upd := by
  rw [Dev.clearVotes, foldl_keeps Dev.upd fun e n => e.set_upd (R.UPD_VOTED_BITS n) 0, Dev.set_upd]

section
variable {d : Dev}

/-- A vote is missing. -/
theorem Dev.decide1_missing (h : ∃ x, x ∈ d.commitSet ∧ d.voted x = false) : d.decide1 = d := by
  obtain ⟨x, hx, hv⟩ := h
  have hany : (d.commitSet.any fun x => !d.voted x) = true := List.any_eq_true.mpr ⟨x, hx, by rw [hv]; rfl⟩
  rw [Dev.decide1]
  exact if_pos (by rw [hany]; exact Bool.or_true _)

section
variable (hs : d.coordState = 1) (hne : d.commitSet ≠ []) (hall : ∀ x, x ∈ d.commitSet → d.voted x = true)
include hs hne hall

/-- The condition for a decision. -/
theorem Dev.decide1_complete : ¬(decide (d.coordState ≠ 1) || d.commitSet.isEmpty || d.commitSet.any fun x => !d.voted x) = true := by
  have hany : (d.commitSet.any fun x => !d.voted x) = false := List.any_eq_false.mpr fun x hx => by rw [hall x hx]; exact Bool.false_ne_true
  rw [hany, List.isEmpty_eq_false_iff.mpr hne, hs]
  exact Bool.false_ne_true

theorem Dev.decide1_poison (hp : d.upd.poison = true) :
    d.decide1 = (d.sendAll d.commitLive 3 0 d.roundStep d.beatNow).set R.UPD_COORD_STATUS_STATE 0 := by
  rw [Dev.decide1]
  exact (if_neg (Dev.decide1_complete hs hne hall)).trans (if_pos hp)

/-- MIDNIGHT is sent, `lead` beats ahead, and with it the skip of an overflow. -/
theorem Dev.decide1_midnight (hp : d.upd.poison = false) :
    let m := beatAdd d.beatNow (max 1 (d.force R.UPD_COMMIT_CFG_LEAD_BEATS))
    let e := d.sendAll d.commitLive 2 (b2n d.upd.ovf) d.roundStep m
    d.decide1 = if d.upd.ovf then e.set R.UPD_COORD_STATUS_STATE 0
      else { (e.set R.UPD_COORD_STATUS_STATE 2).clearVotes with upd := { d.upd with members := d.commitSet } } := by
  intro m e
  have kept : e.upd = d.upd := d.sendAll_upd _ _ _ _ _
  rw [← kept, Dev.decide1]
  exact (if_neg (Dev.decide1_complete hs hne hall)).trans (if_neg (Bool.eq_false_iff.mp hp))

end

/-- A vote of the round that runs. -/
theorem Dev.onStaged_vote {m : CommitMsg} (hi : d.id = d.coord) (hs : d.coordState = 1) (hm : m.step = d.roundStep) : d.onStaged m =
    (({ d with upd := { d.upd with ovf := d.upd.ovf || m.flags.testBit 0, poison := d.upd.poison || m.flags.testBit 1 } } : Dev).noteVote m.src).decide1 := by
  have open_ : d.coordState ≠ 0 := by rw [hs]; decide
  simp only [Dev.onStaged, if_neg (not_not.mpr hi), if_pos open_, if_pos (And.intro hm hs)]

theorem Dev.onFlipped_member {m : CommitMsg} (hs : d.coordState = 2) (hm : m.step = d.roundStep) (hc : d.upd.members.contains m.src = true) :
    d.onFlipped m = (d.noteVote m.src).tryRelease := if_pos ⟨hs, hm, hc⟩

theorem Dev.abortRound_open (hs : d.coordState = 1) : d.abortRound =
    ((d.sendAll d.commitLive 3 0 d.roundStep d.beatNow).set R.UPD_COORD_STATUS_STATE 0).takeHeld := if_neg (not_not.mpr hs)

end

section
variable {s : State}

theorem does_voteDeadline (hs : s.fresh.coordState = 1) (hb : beatGt s.dev.beatNow (s.dev.get R.UPD_DEADLINE_BEAT) = true)
    (hm : ∃ x, x ∈ s.fresh.commitSet ∧ s.fresh.voted x = false) : Does .voteDeadline s s.fresh.abortRound := by
  obtain ⟨x, hx, hv⟩ := hm
  have hany : (s.fresh.commitSet.any fun x => !s.fresh.voted x) = true := List.any_eq_true.mpr ⟨x, hx, by rw [hv]; rfl⟩
  exact does_run rfl (if_pos ⟨hs, hb, hany⟩)

theorem does_abortNow {w : Who} {v : Nat} (hv : v < 2 ^ 64) (ht : s.takes w R.UPD_COORD_CTL) : Does (.abortNow w v) s s.fresh.abortRound := by
  have top : Topped v true (v.testBit 62) (R.UPD_COORD_CTL_ABORT_NOW.on v) := topped_on63 ⟨rfl, rfl⟩ hv
  exact does_write (row := rowsUpd[10]) (ix := []) rfl ht rfl (by decide) (by decide) top.lt (if_pos top.bit63)

end

/-- Settles O37: a complete round by its flags, and the two ends of a round that stays open. -/
theorem coordinatorDecides : Obligations.CoordinatorDecides := by
  unfold Obligations.CoordinatorDecides
  intro s
  refine ⟨fun m rest hb hs hc => ⟨fun hk hi h1 hm => does_takeMsg rfl hb hs hc hk (Dev.onStaged_vote hi h1 hm),
      fun hk h2 hm hx => does_takeMsg rfl hb hs hc hk (Dev.onFlipped_member h2 hm hx)⟩,
    fun d h1 hne hall => ⟨Dev.decide1_poison h1 hne hall, fun hp ho => ?skips, fun hp ho => ?commits⟩, fun d _ hm => Dev.decide1_missing hm,
    fun h1 hb hm => ?deadline, fun w v hv ht h1 => ?abortNow⟩
  case skips =>
    have h := Dev.decide1_midnight h1 hne hall hp
    rw [ho] at h
    exact h
  case commits =>
    have h := Dev.decide1_midnight h1 hne hall hp
    rw [Dev.clearVotes_upd, Dev.set_upd, Dev.sendAll_upd]
    rw [ho] at h
    exact h
  case deadline =>
    have h := does_voteDeadline h1 hb hm
    rwa [Dev.abortRound_open h1] at h
  case abortNow =>
    have h := does_abortNow hv ht
    rwa [Dev.abortRound_open h1] at h

end Sys2Proof.Machine
end

section
/-!
SUPPORT. Queue pairs of the Ethernet ports: requests that begin, complete and retry, packets, and the congestion interval (R347–R350).
-/

namespace Sys2Proof.Machine

/-! ### A request begins (R347, R348) -/

/-- What a queue pair makes of a request that begins, once its packets or its failure are known. -/
def Dev.wqeBegun (d : Dev) (q : Nat) (u : QpUnit) (i : Nat) (x : Wqe) (st : Nat) (pkts : List (List Byte)) : Dev :=
  if st ≠ 0 then d.setQp q { u with sq := u.sq.set i { x with done := some st } }
  else pkts.foldl (fun (d : Dev) b => d.qpEmit q b)
    (d.setQp q { u with sq := u.sq.set i { x with psn := some (u.nextPsn, psnsOf x.len) }, nextPsn := add24 u.nextPsn (psnsOf x.len) })

section
variable {d e : Dev} {q i : Nat} {x : Wqe} {st : Nat} {pkts : List (List Byte)}
  (hf : (d.qp q).sq.findIdx? (fun w => w.psn.isNone && w.done.isNone) = some i) (hx : (d.qp q).sq[i]? = some x)
  (hr : d.qpReady q = true) (hu : d.ethUp (d.qpPort q) = true)
  (hn : (((d.qp q).sq.take i).countP fun (y : Wqe) => y.opc = 5 && y.done.isNone) < 16)
  (hfence : bitAt x.flags 1 = true → (((d.qp q).sq.take i).countP fun (y : Wqe) => y.opc = 5 && y.done.isNone) = 0)
  (hw : d.wqeWaits x = false) (hp : d.wqePackets q x (d.qp q).nextPsn 0 = (e, st, pkts))
include hf hx hr hu hn hfence hw hp

/-- The first request that has not begun, of the command's operation, under its limits. -/
theorem Dev.wqeStart_begins : d.wqeStart q x.opc = e.wqeBegun q (d.qp q) i x st pkts := by
  have may : ¬(x.opc ≠ x.opc ∨ !d.qpReady q ∨ !d.ethUp (d.qpPort q) ∨
      (x.flags.testBit 1 ∧ (((d.qp q).sq.take i).countP fun (y : Wqe) => y.opc = 5 && y.done.isNone) ≠ 0) ∨
      (x.opc = 5 ∧ 16 ≤ ((d.qp q).sq.take i).countP fun (y : Wqe) => y.opc = 5 && y.done.isNone) ∨ d.wqeWaits x) := by
    rw [bitAt_eq_testBit] at hfence
    rw [hr, hu, hw]
    rintro (h | h | h | ⟨h1, h2⟩ | ⟨-, h⟩ | h)
    · exact h rfl
    · exact Bool.false_ne_true h
    · exact Bool.false_ne_true h
    · exact h2 (hfence h1)
    · omega
    · exact Bool.false_ne_true h
  simp only [Dev.wqeStart, hf, hx, if_neg may, hp]
  rfl

end

/-- Settles O52: one function for the five operations, which differ in the code they look for. -/
theorem workBegins : Obligations.WorkBegins := by
  unfold Obligations.WorkBegins
  intro s q i x d st pkts u hf hx hr hu hn hfence hw hp
  have h := Dev.wqeStart_begins (d := s.fresh) hf hx hr hu hn hfence hw hp
  exact ⟨fun ho => does_run (f := fun d => d.wqeStart q 1) rfl (ho ▸ h), fun ho => does_run (f := fun d => d.wqeStart q 2) rfl (ho ▸ h),
    fun ho => does_run (f := fun d => d.wqeStart q 3) rfl (ho ▸ h), fun ho => does_run (f := fun d => d.wqeStart q 4) rfl (ho ▸ h),
    fun ho => does_run (f := fun d => d.wqeStart q 5) rfl (ho ▸ h)⟩

/-! ### Lists, completions and retries -/

section
variable {s : State} {k q : Nat}

theorem does_xferRelease {d : Dev} {ok : Bool} (hk : k < 32) (he : s.dev.flag (R.ETH_XFER_W0_ENABLE k) = true)
    (hc : s.dev.get (R.ETH_XFER_W1_COUNT k) ≠ 0) (ht : s.fresh.tokens (s.dev.get (R.ETH_XFER_W1_CHANNEL k)) ≠ 0)
    (hkind : chanKind (s.fresh.chan (s.dev.get (R.ETH_XFER_W1_CHANNEL k))) = 0)
    (hcons : chanConsumer (s.fresh.chan (s.dev.get (R.ETH_XFER_W1_CHANNEL k))) = 0x7000 + s.dev.get (R.ETH_XFER_W0_PORT k))
    (ha : s.dev.alive = true)
    (hw : s.fresh.takeWork (s.dev.get (R.ETH_XFER_W0_PORT k)) (s.dev.get (R.ETH_XFER_W0_BASE k) +
      64 * (s.dev.get (R.ETH_XFER_W2_ISSUED k) % s.dev.get (R.ETH_XFER_W1_COUNT k))) = (d, ok)) :
    Does (.xferRelease k) s (if ok then (d.takeTokens (s.dev.get (R.ETH_XFER_W1_CHANNEL k)) 1).set (R.ETH_XFER_W2_ISSUED k)
      ((s.dev.get (R.ETH_XFER_W2_ISSUED k) + 1) % 2 ^ 32) else d) := by
  have may : ¬(32 ≤ k ∨ !s.fresh.flag (R.ETH_XFER_W0_ENABLE k) ∨ s.fresh.get (R.ETH_XFER_W1_COUNT k) = 0 ∨
      s.fresh.tokens (s.fresh.get (R.ETH_XFER_W1_CHANNEL k)) = 0 ∨ chanKind (s.fresh.chan (s.fresh.get (R.ETH_XFER_W1_CHANNEL k))) ≠ 0 ∨
      chanConsumer (s.fresh.chan (s.fresh.get (R.ETH_XFER_W1_CHANNEL k))) ≠ 0x7000 + s.fresh.get (R.ETH_XFER_W0_PORT k) ∨ !s.fresh.alive) := by
    rw [show s.fresh.flag (R.ETH_XFER_W0_ENABLE k) = true from he, show s.fresh.alive = true from ha]
    rintro (h | h | h | h | h | h | h)
    · omega
    · exact Bool.false_ne_true h
    · exact hc h
    · exact ht h
    · exact h hkind
    · exact h hcons
    · exact Bool.false_ne_true h
  refine does_runs (execXferRelease k s) rfl rfl ((if_neg may).trans ?_)
  have hw' : s.fresh.takeWork (s.fresh.get (R.ETH_XFER_W0_PORT k)) (s.fresh.get (R.ETH_XFER_W0_BASE k) +
    64 * (s.fresh.get (R.ETH_XFER_W2_ISSUED k) % s.fresh.get (R.ETH_XFER_W1_COUNT k))) = (d, ok) := hw
  dsimp only
  rw [hw']
  rfl

/-- A request done at the head of its queue leaves it with its record, its signal and what waits for room. -/
theorem does_wrComplete {x : Wqe} {rest : List Wqe} {st : Nat} (hq : (s.fresh.qp q).sq = x :: rest) (hx : x.done = some st)
    (ha : s.dev.alive = true) {e : Dev}
    (he : (let d := s.fresh.setQp q { s.fresh.qp q with sq := rest }
      if bitAt x.flags 0 then d.cqPut (d.qpPort q) x.cq x.user q x.opc st x.len x.imm else d) = e) :
    Does (.wrComplete q) s (e.postSig x.sig).postLists := by
  have alive : s.fresh.alive = true := ha
  obtain ⟨opc, flags, imm, laddr, len, rkey, raddr, sig, cq, user, psn, got, done⟩ := x
  subst hx he
  refine does_runs (execWrComplete q s) rfl rfl ?_
  simp only [hq, alive, Bool.not_true, Bool.false_eq_true, if_false, List.head?_cons, List.tail_cons, bitAt_eq_testBit]

theorem does_retransmitTimeout (hr : s.fresh.qpReady q = true) (hp : (s.fresh.qp q).ackPsn ≠ (s.fresh.qp q).nextPsn) (ha : s.dev.alive = true)
    {d : Dev} (hd : s.fresh.retry q 3 = d) : Does (.roceRetransmitTimeout q) s d := by
  refine does_runs (execRoceRetransmitTimeout q s) rfl rfl ?_
  exact (if_pos ⟨hr, hp, ha⟩).trans hd

end

/-! ### Packets and CNPs -/

/-- What becomes of packet k of those that have arrived, which came to port p and is no CNP. -/
def Dev.rocePacket (d : Dev) (k p : Nat) (m : List Byte) (ce free gap : Bool) (rtt : Nat) : Dev :=
  let q := beAt m 5 3
  if beAt m 0 1 = 0x81 ∨ !d.alive ∨ d.roceWaits q m then d
  else
    let d := d.ethTake k
    if !d.qpReady q ∨ d.qpPort q ≠ p ∨ m.length < 12 then d
    else
      let d := if ce && gap then
          (d.qpEmit q (bth 0x81 0 0 (d.get (R.ETH_QP_W0_DEST_QPN q)) 0 ++ List.replicate 16 0)).count (R.ETH_PORT_ECN_CNP_TX p) 1
        else d
      d.roceIn q m free rtt

section
variable {s : State} {k p : Nat} {m : List Byte} {ce : Bool} (hk : s.dev.eth.inbox[k]? = some (p, m, ce)) (ha : s.dev.alive = true)
include hk

theorem does_rocePacket {free gap : Bool} {rtt : Nat} {d : Dev} (hd : s.fresh.rocePacket k p m ce free gap rtt = d) :
    Does (.rocePacket k free gap rtt) s d := by
  have h : exec (.rocePacket k free gap rtt) s = execRocePacket k free gap rtt s := rfl
  rw [Does, h, execRocePacket, run]
  dsimp only
  rw [hk]
  exact congrArg (fun d => Host.Outcome.next { s with dev := d }) hd

theorem does_rocePacket_waits (free gap : Bool) (rtt : Nat) (hw : s.fresh.roceWaits (beAt m 5 3) m = true) :
    Does (.rocePacket k free gap rtt) s s.fresh := does_rocePacket hk (if_pos (.inr (.inr hw)))

section
variable (hop : beAt m 0 1 ≠ 0x81)
include hop

include ha
omit hk in
/-- One whose access does not wait is taken. -/
theorem may_rocePacket (hw : s.fresh.roceWaits (beAt m 5 3) m = false) :
    ¬(beAt m 0 1 = 0x81 ∨ !s.fresh.alive ∨ s.fresh.roceWaits (beAt m 5 3) m) := by
  rw [hw, show s.fresh.alive = true from ha]
  rintro (h | h | h)
  · exact hop h
  · exact Bool.false_ne_true h
  · exact Bool.false_ne_true h

theorem does_rocePacket_dropped (free gap : Bool) (rtt : Nat) (hw : s.fresh.roceWaits (beAt m 5 3) m = false)
    (hr : (s.fresh.ethTake k).qpReady (beAt m 5 3) = false) : Does (.rocePacket k free gap rtt) s (s.fresh.ethTake k) := by
  refine does_rocePacket hk ((if_neg (may_rocePacket ha hop hw)).trans ?_)
  exact if_pos (.inl (by rw [hr]; rfl))

theorem does_rocePacket_taken (free : Bool) (rtt : Nat) (hw : s.fresh.roceWaits (beAt m 5 3) m = false)
    (hr : (s.fresh.ethTake k).qpReady (beAt m 5 3) = true) (hp : (s.fresh.ethTake k).qpPort (beAt m 5 3) = p) (hl : 12 ≤ m.length) :
    Does (.rocePacket k free false rtt) s ((s.fresh.ethTake k).roceIn (beAt m 5 3) m free rtt) := by
  have known : ¬(!(s.fresh.ethTake k).qpReady (beAt m 5 3) ∨ (s.fresh.ethTake k).qpPort (beAt m 5 3) ≠ p ∨ m.length < 12) := by
    rw [hr]
    rintro (h | h | h)
    · exact Bool.false_ne_true h
    · exact h hp
    · omega
  have quiet : ¬(ce && false) = true := by rw [Bool.and_false]; exact Bool.false_ne_true
  refine does_rocePacket hk ((if_neg (may_rocePacket ha hop hw)).trans ((if_neg known).trans ?_))
  exact congrArg (fun d => Dev.roceIn d (beAt m 5 3) m free rtt) (if_neg quiet)

end

include ha

theorem does_cnp (hop : beAt m 0 1 = 0x81)
    (hr : ((s.fresh.ethTake k).count (R.ETH_PORT_ROCE_CNP_RX p) 1).qpReady (beAt m 5 3) = true) :
    let e := (s.fresh.ethTake k).count (R.ETH_PORT_ROCE_CNP_RX p) 1
    Does (.cnp k) s (e.setQp (beAt m 5 3) { e.qp (beAt m 5 3) with cnp := true }) := by
  have alive : s.fresh.alive = true := ha
  have isCnp : ¬(beAt m 0 1 ≠ 0x81 ∨ !s.fresh.alive) := by
    rw [alive]; exact not_or.mpr ⟨not_not.mpr hop, Bool.false_ne_true⟩
  have h : exec (.cnp k) s = execCnp k s := rfl
  rw [Does, h, execCnp, run]
  dsimp only
  rw [hk]
  exact congrArg (fun d => Host.Outcome.next { s with dev := d }) ((if_neg isCnp).trans (if_pos hr))

end

/-! ### The congestion interval (R350) -/

/-- A queue pair at an interval's end. -/
def Dev.ccStep (d : Dev) (q : Nat) : Dev :=
  if !d.qpReady q then d
  else
    let u := d.qp q
    let r := ccRate (d.get (R.ETH_QP_W4_RATE_MBPS q)) u.clean (d.get (R.ETH_QP_W7_BASE_RTT_NS q)) (d.get R.ETH_CC2_RMIN_MBPS)
      (d.get (R.ETH_QP_W4_RMAX_MBPS q)) (d.get R.ETH_CC2_STEP_MBPS) (d.get R.ETH_CC_BETA_SHIFT) (d.get R.ETH_CC_DELAY_TH_NS) u.cnp u.rttMax
    (d.set (R.ETH_QP_W4_RATE_MBPS q) r.1).setQp q { u with cnp := false, clean := r.2, rttMax := 0 }

theorem does_ccInterval (s : State) : Does .ccInterval s ((List.range 256).foldl Dev.ccStep s.fresh) := by
  have h : exec .ccInterval s = execCcInterval s := rfl
  rw [Does, h, execCcInterval, run]
  unfold Dev.ccStep
  generalize List.range 256 = qs, ccRate = rate
  rfl

/-- A rate stays between its bounds. -/
theorem ccRate_bounds {r c base rmin rmax step shift th : Nat} {cnp : Bool} {rtt : Nat} (hm : rmin ≤ rmax) (h1 : rmin ≤ r) (h2 : r ≤ rmax) :
    rmin ≤ (ccRate r c base rmin rmax step shift th cnp rtt).1 ∧ (ccRate r c base rmin rmax step shift th cnp rtt).1 ≤ rmax := by
  unfold ccRate
  split
  · exact ⟨Nat.le_max_left _ _, Nat.max_le.mpr ⟨hm, (Nat.sub_le _ _).trans h2⟩⟩
  · split
    · exact ⟨Nat.le_max_left _ _, Nat.max_le.mpr ⟨hm, (Nat.sub_le _ _).trans h2⟩⟩
    · exact ⟨Nat.le_min.mpr ⟨hm, h1.trans (Nat.le_add_right _ _)⟩, Nat.min_le_left _ _⟩

/-- On a CNP it does not rise. -/
theorem ccRate_cnp {r c base rmin rmax step shift th rtt : Nat} (h1 : rmin ≤ r) : (ccRate r c base rmin rmax step shift th true rtt).1 ≤ r :=
  Nat.max_le.mpr ⟨h1, Nat.sub_le _ _⟩

/-- Settles O53: each event on the branch its words name, and the bounds by the three cases of a rate. -/
theorem queuesServe : Obligations.QueuesServe := by
  unfold Obligations.QueuesServe
  intro s k q
  refine ⟨fun hk he hc ht hkind hcons ha d ok hw => does_xferRelease hk he hc ht hkind hcons ha hw,
    fun x rest st hq hx ha => ⟨fun h0 => does_wrComplete hq hx ha (if_pos h0), fun h0 => does_wrComplete hq hx ha (if_neg (Bool.eq_false_iff.mp h0))⟩,
    fun hr hp ha => ⟨fun hm => does_retransmitTimeout hr hp ha (if_neg (Nat.not_le.mpr hm)),
      fun hm => does_retransmitTimeout hr hp ha (if_pos hm)⟩,
    fun p m ce hk hq ha => ?packets, does_ccInterval s, rfl,
    fun r c base rmin rmax step shift th cnp rtt hm h1 h2 => ?bounds⟩
  case packets =>
    subst hq
    exact ⟨fun free rtt hop hw hr hp hl => does_rocePacket_taken hk ha hop free rtt hw hr hp hl,
      fun free gap rtt hop hw hr => does_rocePacket_dropped hk ha hop free gap rtt hw hr,
      fun free gap rtt _ hw => does_rocePacket_waits hk free gap rtt hw, fun hop _ hr => does_cnp hk ha hop hr⟩
  case bounds =>
    obtain ⟨low, high⟩ := ccRate_bounds (c := c) (base := base) (step := step) (shift := shift) (th := th) (cnp := cnp) (rtt := rtt) hm h1 h2
    exact ⟨low, high, fun hc => hc ▸ ccRate_cnp h1⟩

end Sys2Proof.Machine
end

section
/-!
SUPPORT. The words of a program: what one word makes of the device, by the range of its opcode (R265–R270, Table 13.4).
-/

namespace Sys2Proof.Machine

/-! ### The next word -/

/-- The fetch of a program leaves the operations. -/
theorem Dev.wordDev_opOf (d : Dev) (t : Nat) (x : Exec) (y : Work) (i : Nat) : (d.wordDev t x y).opOf i = d.opOf i := by
  have fetch (a n : Nat) : (d.ncFetch t a n).ops = d.ops := by
    unfold Dev.ncFetch
    exact foldl_keeps Dev.ops (fun e line => by dsimp only; split <;> rfl) _ _
  have program (p : Nat) : (d.fetchProgram t p).ops = d.ops := by
    unfold Dev.fetchProgram
    cases d.sec 11 with
    | none => rfl
    | some a => rw [Option.elim_some, fetch]
  have ops : (d.wordDev t x y).ops = d.ops := by
    unfold Dev.wordDev
    split
    · rfl
    · exact program _
  rw [Dev.opOf, Dev.opOf, ops]

section
variable {d : Dev} {t o : Nat} {x : Exec} {y : Work} {npos : Nat} {prog : List Nat} {c : VecCtx} {w : Nat}

/-- The row of an instruction runs the word when it is the next one. -/
theorem Dev.instr_wordAt (h : d.wordAt t o x y npos prog c w) : d.instr t o = (d.wordDev t x y).runWord t x y npos prog c := by
  obtain ⟨hv, hw, ho, -⟩ := h
  simp only [Dev.instr, Dev.wordStep, hv, Option.elim_some, hw, ho, decide_true, if_true, Option.getD_some]
  rfl

theorem does_word {s : State} {i : Instr} {r : Dev} (h : s.fresh.wordAt t o x y npos prog c w) (hi : exec i s = run s fun d => d.instr t o)
    (hr : (s.fresh.wordDev t x y).runWord t x y npos prog c = r) : Does i s r :=
  does_run hi ((Dev.instr_wordAt h).trans hr)

end

/-! ### Opcodes by their ranges -/

section
variable {o : Nat}

theorem opcVector_iff : opcVector o = true ↔ 1 ≤ o ∧ o ≤ 0x2A := by simp [opcVector]

theorem opcReduce_iff : opcReduce o = true ↔ 0x28 ≤ o ∧ o ≤ 0x2A := by simp [opcReduce]

theorem opcScalar_iff : opcScalar o = true ↔ 0x30 ≤ o ∧ o ≤ 0x3A := by simp [opcScalar]

theorem opcMatrix_iff : opcMatrix o = true ↔ o = 0x41 ∨ o = 0x42 := by simp [opcMatrix]

theorem opcPhaseEnd_iff : opcPhaseEnd o = true ↔ o = 0 ∨ 0x40 ≤ o ∧ o ≤ 0x42 := by simp [opcPhaseEnd, opcMatrix]; omega

end

/-! ### One word -/

/-- The word `w` of opcode `o` stands at the pc, and the phase has a position or the pc is not at the start of its body. -/
structure AtWord (npos : Nat) (prog : List Nat) (c : VecCtx) (w o : Nat) : Prop where
  word : prog.getD c.pc 0 = w
  opc : iwOpc w = o
  pos : 0 < npos ∨ c.pc ≠ bodyStart prog c.phase

theorem Dev.wordAt.atWord {d : Dev} {t o npos : Nat} {x : Exec} {y : Work} {prog : List Nat} {c : VecCtx} {w : Nat}
    (h : d.wordAt t o x y npos prog c w) : AtWord npos prog c w o := ⟨h.2.1, h.2.2.1, h.2.2.2⟩

section
variable {d : Dev} {t o : Nat} {x : Exec} {y : Work} {npos : Nat} {prog : List Nat} {c : VecCtx} {w : Nat} (h : AtWord npos prog c w o)
include h

/-- Such a word is not skipped. -/
theorem AtWord.runs : ¬(c.pc = bodyStart prog c.phase ∧ npos = 0 ∧ !opcPhaseEnd o ∧ o ≠ 0x48) := fun hs =>
  h.pos.elim (fun hp => absurd hs.2.1 (Nat.pos_iff_ne_zero.mp hp)) fun hp => hp hs.1

/-- Lane words that are no special functions. -/
theorem Dev.runWord_lanes (h1 : 0xA < o) (h2 : o < 0x28) (hs : o < 0x20 ∨ 0x23 < o) :
    d.runWord t x y npos prog c = (d.count (R.TILE_VEC_VEC_INSTR t) 1).vecNext t (c.vecWord w) := by
  have runs := h.runs
  simp (disch := omega) only [Dev.runWord, h.word, h.opc, if_neg runs, opcVector_iff, opcMatrix_iff, opcPhaseEnd_iff, opcScalar_iff, opcReduce_iff,
    if_pos, if_neg]
  rfl

/-- A special function gives 512 results. -/
theorem Dev.runWord_sfu (h1 : 0x20 ≤ o) (h2 : o ≤ 0x23) : d.runWord t x y npos prog c = 
    ((d.count (R.TILE_VEC_VEC_INSTR t) 1).count (R.TILE_VEC_SFU_RESULTS t) 512).vecNext t (c.vecWord w) := by
  have runs := h.runs
  simp (disch := omega) only [Dev.runWord, h.word, h.opc, if_neg runs, opcVector_iff, opcMatrix_iff, opcPhaseEnd_iff, opcScalar_iff, opcReduce_iff,
    if_pos, if_neg]
  rfl

/-- A reduction gathers over the active lanes. -/
theorem Dev.runWord_reduce (h1 : 0x28 ≤ o) (h2 : o ≤ 0x2A) {big : Bool} {lanes : List Nat} (hb : decide (o = 0x2A) = big)
    (hl : (if o = 0x28 then (c.vr (iwA w)).map fun v => f32Mul v v else if o = 0x29 then c.vr (iwA w) else (c.vr (iwA w)).map f32Abs) = lanes) :
    d.runWord t x y npos prog c = (d.count (R.TILE_VEC_VEC_INSTR t) 1).vecNext t (c.reduce (iwD w) big lanes (c.vpz (iwA w)) y.act) := by
  subst hb hl
  have runs := h.runs
  simp (disch := omega) only [Dev.runWord, h.word, h.opc, if_neg runs, opcVector_iff, opcMatrix_iff, opcPhaseEnd_iff, opcScalar_iff, opcReduce_iff,
    if_pos, if_neg]
  rfl

section
variable (hobs : (d.opOf x.op).elim false (·.obs) = false)
include hobs

/-- A load of a run that is not observed; poison that arrives is noted. -/
theorem Dev.runWord_load (h1 : 1 ≤ o) (h2 : o ≤ 5) : d.runWord t x y npos prog c = 
    let l := (d.count (R.TILE_VEC_VEC_INSTR t) 1).progLoad t x y w
    let e := if (laneVals l.2).2 = 0 then l.1 else l.1.poisonRead t x
    e.vecNext t (c.setV (iwD w) (laneVals l.2).1 (laneVals l.2).2) := by
  have runs := h.runs
  have obs : ((d.count (R.TILE_VEC_VEC_INSTR t) 1).opOf x.op).elim false (·.obs) = false := hobs
  simp (disch := omega) only [Dev.runWord, h.word, h.opc, if_neg runs, opcVector_iff, opcMatrix_iff, opcPhaseEnd_iff, opcScalar_iff, opcReduce_iff,
    if_pos, if_neg, obs, Bool.false_and, Bool.false_eq_true, if_false, ite_not]
  rfl

/-- A store of such a run. -/
theorem Dev.runWord_store (h1 : 8 ≤ o) (h2 : o ≤ 0xA) : d.runWord t x y npos prog c = 
    ((d.count (R.TILE_VEC_VEC_INSTR t) 1).progStore t x y c w).vecNext t c := by
  have runs := h.runs
  have obs : ((d.count (R.TILE_VEC_VEC_INSTR t) 1).opOf x.op).elim false (·.obs) = false := hobs
  simp (disch := omega) only [Dev.runWord, h.word, h.opc, if_neg runs, opcVector_iff, opcMatrix_iff, opcPhaseEnd_iff, opcScalar_iff, opcReduce_iff,
    if_pos, if_neg, obs, Bool.false_and, Bool.false_eq_true, if_false]
  rfl

end

/-- A scalar word that is no special function. -/
theorem Dev.runWord_scalar (h1 : 0x30 ≤ o) (h2 : o ≤ 0x34) : d.runWord t x y npos prog c = 
    d.vecNext t (c.setS (iwD w) (scalOp o (c.sr (iwA w)) (c.sr (iwB w)) (iwImm w)) (c.spz (iwA w) || c.spz (iwB w))) := by
  have runs := h.runs
  have second : decide (o ≤ 0x34) = true := decide_eq_true h2
  simp (disch := omega) only [Dev.runWord, h.word, h.opc, if_neg runs, opcVector_iff, opcMatrix_iff, opcPhaseEnd_iff, opcScalar_iff, opcReduce_iff,
    if_pos, if_neg, second, Bool.true_and]
  rfl

/-- A scalar special function gives one result and reads one register. -/
theorem Dev.runWord_scalarSfu (h1 : 0x35 ≤ o) (h2 : o ≤ 0x38) : d.runWord t x y npos prog c = 
    (d.count (R.TILE_VEC_SFU_RESULTS t) 1).vecNext t (c.setS (iwD w) (scalOp o (c.sr (iwA w)) (c.sr (iwB w)) (iwImm w)) (c.spz (iwA w))) := by
  have runs := h.runs
  have second : decide (o ≤ 0x34) = false := decide_eq_false (by omega)
  simp (disch := omega) only [Dev.runWord, h.word, h.opc, if_neg runs, opcVector_iff, opcMatrix_iff, opcPhaseEnd_iff, opcScalar_iff, opcReduce_iff,
    if_pos, if_neg, second, Bool.false_and, Bool.or_false]
  rfl

/-- SIMM. -/
theorem Dev.runWord_imm (ho : o = 0x39) : d.runWord t x y npos prog c = d.vecNext t (c.setS (iwD w) (iwImm w) false) := by
  have runs := h.runs
  simp (disch := omega) only [Dev.runWord, h.word, h.opc, if_neg runs, opcVector_iff, opcMatrix_iff, opcPhaseEnd_iff, opcScalar_iff, opcReduce_iff,
    if_pos, if_neg]
  rfl

/-- SCHED. -/
theorem Dev.runWord_sched (ho : o = 0x3A) : d.runWord t x y npos prog c = d.vecNext t (c.setS (iwD w) (d.schedVal (trPgroup y.r) (iwN w)) false) := by
  have runs := h.runs
  simp (disch := omega) only [Dev.runWord, h.word, h.opc, if_neg runs, opcVector_iff, opcMatrix_iff, opcPhaseEnd_iff, opcScalar_iff, opcReduce_iff,
    if_pos, if_neg]
  rfl

/-- A matrix phase is one word. -/
theorem Dev.runWord_matrix (ho : o = 0x41 ∨ o = 0x42) : d.runWord t x y npos prog c = 
    (d.progMatrix t x y w).setTile t { (d.progMatrix t x y w).tile t with vec :=
      { c with pc := c.pc + 1, phase := c.pc + 1, pos := 0, used := c.used + trPasses y.r } } := by
  have runs := h.runs
  simp (disch := omega) only [Dev.runWord, h.word, h.opc, if_neg runs, opcVector_iff, opcMatrix_iff, opcPhaseEnd_iff, opcScalar_iff, opcReduce_iff,
    if_pos, if_neg]

/-- END and PASS end a pass through their body. -/
theorem Dev.runWord_phaseEnd (ho : o = 0 ∨ o = 0x40) : d.runWord t x y npos prog c = d.phaseStep t x y npos prog c := by
  have runs := h.runs
  simp (disch := omega) only [Dev.runWord, h.word, h.opc, if_neg runs, opcVector_iff, opcMatrix_iff, opcPhaseEnd_iff, opcScalar_iff, opcReduce_iff,
    if_pos, if_neg]

/-- LOOP goes back while its count is not spent. -/
theorem Dev.runWord_loop (ho : o = 0x48) : d.runWord t x y npos prog c = 
    let left := if c.loops = 0 then iwImm w - 1 else c.loops - 1
    if left = 0 then d.setTile t { d.tile t with vec := { c with pc := c.pc + 1, phase := c.pc + 1, loops := 0, pos := 0 } }
    else d.setTile t { d.tile t with vec := { c with pc := iwN w, phase := iwN w, loops := left, pos := 0 } } := by
  have runs := h.runs
  simp (disch := omega) only [Dev.runWord, h.word, h.opc, if_neg runs, opcVector_iff, opcMatrix_iff, opcPhaseEnd_iff, opcScalar_iff, opcReduce_iff,
    if_pos, if_neg]

end

/-! ### The end of a body (R266–R268) -/

theorem VecCtx.finish_pc (c : VecCtx) (prog : List Nat) : (c.finish prog).pc = c.pc := by
  refine foldl_keeps VecCtx.pc (fun e i => ?_) (List.range (phaseEnd prog c.phase - bodyStart prog c.phase)) c
  dsimp only
  split
  · split <;> rfl
  · rfl

section
variable {d : Dev} {t : Nat} {x : Exec} {y : Work} {npos : Nat} {prog : List Nat} {c : VecCtx}

/-- A body has ended at one of its positions. -/
def VecCtx.passed (c : VecCtx) : VecCtx := { c with used := c.used + 1, firstP := none, firstG := none }

variable (hb : bodyStart prog c.phase < c.pc)
include hb

/-- Before the last position the body begins again at the next one. -/
theorem Dev.phaseStep_next (hp : c.pos + 1 < npos) : d.phaseStep t x y npos prog c =
    d.setTile t { d.tile t with vec := { c.passed with pc := bodyStart prog c.phase, pos := c.pos + 1 } } := by
  have own : (decide (bodyStart prog c.phase < c.pc) && decide (0 < npos)) = true := by
    rw [decide_eq_true hb, decide_eq_true (by omega : 0 < npos)]; rfl
  simp only [Dev.phaseStep, own, if_true, true_and, if_pos hp]
  rfl

/-- After the last position the tensor ends at END, and the next phase begins. -/
theorem Dev.phaseStep_last (hp : npos = c.pos + 1) : d.phaseStep t x y npos prog c =
    let e := c.passed.finish prog
    if iwOpc (prog.getD c.passed.pc 0) = 0 then d.tensorEnd t x y e
    else d.setTile t { d.tile t with vec := { e with pc := e.pc + 1, phase := e.pc + 1, pos := 0 } } := by
  have own : (decide (bodyStart prog c.phase < c.pc) && decide (0 < npos)) = true := by
    rw [decide_eq_true hb, decide_eq_true (by omega : 0 < npos)]; rfl
  have last : ¬c.pos + 1 < npos := by omega
  rw [← c.passed.finish_pc prog, Dev.phaseStep]
  simp only [own, if_true, true_and, if_neg last]
  rfl

end

end Sys2Proof.Machine
end

section
/-!
PROOF. The statements about the words of a program.
-/

namespace Sys2Proof.Machine

/-! ### The rows of words that share a meaning -/

/-- The words of a list are run by their rows, and their opcodes satisfy `P`. -/
abbrev WordRows (t : Nat) (s : State) (P : Nat → Prop) (l : List (Nat × Instr)) : Prop :=
  ∀ op i, (op, i) ∈ l → P op ∧ exec i s = run s fun d => d.instr t op

theorem WordRows.nil {t : Nat} {s : State} {P : Nat → Prop} : WordRows t s P [] := fun _ _ h => absurd h List.not_mem_nil

theorem WordRows.cons {t : Nat} {s : State} {P : Nat → Prop} {op : Nat} {i : Instr} {l : List (Nat × Instr)} (hp : P op)
    (he : exec i s = run s fun d => d.instr t op) (h : WordRows t s P l) : WordRows t s P ((op, i) :: l) := fun o j hm => by
  rcases List.mem_cons.mp hm with e | hm
  · cases e; exact ⟨hp, he⟩
  · exact h o j hm

section
variable (t : Nat) (s : State)

theorem laneRows : WordRows t s (fun o => 0xA < o ∧ o < 0x28 ∧ (o < 0x20 ∨ 0x23 < o)) [(0x10, .addV t), (0x11, .subV t), (0x12, .mulV t),
    (0x13, .fma t), (0x14, .maxV t), (0x15, .minV t), (0x16, .absV t), (0x18, .adds t), (0x19, .muls t), (0x1A, .fmas t), (0x1B, .bcast t)] :=
  .cons (by decide) rfl <| .cons (by decide) rfl <| .cons (by decide) rfl <| .cons (by decide) rfl <| .cons (by decide) rfl <|
    .cons (by decide) rfl <| .cons (by decide) rfl <| .cons (by decide) rfl <| .cons (by decide) rfl <| .cons (by decide) rfl <|
    .cons (by decide) rfl .nil

theorem sfuRows : WordRows t s (fun o => 0x20 ≤ o ∧ o ≤ 0x23) [(0x20, .exp2 t), (0x21, .log2 t), (0x22, .rsqrt t), (0x23, .rcp t)] :=
  .cons (by decide) rfl <| .cons (by decide) rfl <| .cons (by decide) rfl <| .cons (by decide) rfl .nil

theorem loadRows : WordRows t s (fun o => 1 ≤ o ∧ o ≤ 5) [(1, .ldp t), (2, .ldg t), (3, .lds t), (4, .ldw t), (5, .rstep t)] :=
  .cons (by decide) rfl <| .cons (by decide) rfl <| .cons (by decide) rfl <| .cons (by decide) rfl <| .cons (by decide) rfl .nil

theorem storeRows : WordRows t s (fun o => 8 ≤ o ∧ o ≤ 0xA) [(8, .stp t), (9, .sts t), (0xA, .stw t)] :=
  .cons (by decide) rfl <| .cons (by decide) rfl <| .cons (by decide) rfl .nil

theorem phaseEndRows : WordRows t s (fun o => o = 0 ∨ o = 0x40) [(0, .endProg t), (0x40, .passPhase t)] :=
  .cons (by decide) rfl <| .cons (by decide) rfl .nil

theorem matrixRows : WordRows t s (fun o => o = 0x41 ∨ o = 0x42) [(0x41, .mgram t), (0x42, .mmul t)] :=
  .cons (by decide) rfl <| .cons (by decide) rfl .nil

end

/-- Settles O18: by the opcode's range a word runs lane by lane, gathers, loads or stores. -/
theorem vectorWords : Obligations.VectorWords := by
  unfold Obligations.VectorWords
  intro s t x y npos prog c w
  refine ⟨fun op i hm h => ?lanes, fun op i hm h => ?sfu, fun h => ?sumsq, fun h => ?sum, fun h => ?maxabs, fun op i hm hobs h => ?load,
    fun op i hm hobs h => ?store⟩
  case lanes =>
    obtain ⟨⟨h1, h2, hs⟩, he⟩ := laneRows t s op i hm
    exact does_word h he (Dev.runWord_lanes h.atWord h1 h2 hs)
  case sfu =>
    obtain ⟨⟨h1, h2⟩, he⟩ := sfuRows t s op i hm
    exact does_word h he (Dev.runWord_sfu h.atWord h1 h2)
  case sumsq => exact does_word h rfl (Dev.runWord_reduce h.atWord (by decide) (by decide) rfl (if_pos rfl))
  case sum => exact does_word h rfl (Dev.runWord_reduce h.atWord (by decide) (by decide) rfl ((if_neg (by decide)).trans (if_pos rfl)))
  case maxabs =>
    exact does_word h rfl (Dev.runWord_reduce h.atWord (by decide) (by decide) rfl ((if_neg (by decide)).trans (if_neg (by decide))))
  case load =>
    obtain ⟨⟨h1, h2⟩, he⟩ := loadRows t s op i hm
    exact does_word h he (Dev.runWord_load h.atWord ((congrArg (Option.elim · false Op.obs) (Dev.wordDev_opOf _ t x y x.op)).trans hobs) h1 h2)
  case store =>
    obtain ⟨⟨h1, h2⟩, he⟩ := storeRows t s op i hm
    exact does_word h he (Dev.runWord_store h.atWord ((congrArg (Option.elim · false Op.obs) (Dev.wordDev_opOf _ t x y x.op)).trans hobs) h1 h2)

/-- Settles O19: a scalar word by its opcode's range. -/
theorem scalarWords : Obligations.ScalarWords := by
  unfold Obligations.ScalarWords
  intro s t x y npos prog c w
  refine ⟨fun h => ?_, fun h => ?_, fun h => ?_, fun h => ?_, fun h => ?_, fun h => ?_, fun h => ?_, fun h => ?_, fun h => ?_,
    fun h => does_word h rfl (Dev.runWord_imm h.atWord rfl), fun h => does_word h rfl (Dev.runWord_sched h.atWord rfl)⟩
  iterate 5 exact does_word h rfl (Dev.runWord_scalar h.atWord (by decide) (by decide))
  iterate 4 exact does_word h rfl (Dev.runWord_scalarSfu h.atWord (by decide) (by decide))

/-- Settles O20: END and PASS by the position that they leave, a matrix word alone, LOOP by its count. -/
theorem controlWords : Obligations.ControlWords := by
  unfold Obligations.ControlWords
  intro s t x y npos prog c w
  refine ⟨fun op i hm h hb hp => ?next, fun h hb hp => ?pass, fun h hb hp => ?finish, fun op i hm h => ?matrix, fun h hl => ?spent, fun n h hl => ?again⟩
  case next =>
    obtain ⟨ho, he⟩ := phaseEndRows t s op i hm
    exact does_word h he ((Dev.runWord_phaseEnd h.atWord ho).trans (Dev.phaseStep_next hb hp))
  case pass =>
    have opc : ¬iwOpc (prog.getD c.passed.pc 0) = 0 := by
      rw [show prog.getD c.passed.pc 0 = w from h.atWord.word, h.atWord.opc]; decide
    exact does_word h rfl ((Dev.runWord_phaseEnd h.atWord (.inr rfl)).trans ((Dev.phaseStep_last hb hp).trans (if_neg opc)))
  case finish =>
    have opc : iwOpc (prog.getD c.passed.pc 0) = 0 := by
      rw [show prog.getD c.passed.pc 0 = w from h.atWord.word, h.atWord.opc]
    exact does_word h rfl ((Dev.runWord_phaseEnd h.atWord (.inl rfl)).trans ((Dev.phaseStep_last hb hp).trans (if_pos opc)))
  case matrix =>
    obtain ⟨ho, he⟩ := matrixRows t s op i hm
    exact does_word h he (Dev.runWord_matrix h.atWord ho)
  case spent => exact does_word h rfl ((Dev.runWord_loop h.atWord rfl).trans (if_pos hl))
  case again =>
    have loop := (Dev.runWord_loop (d := s.fresh.wordDev t x y) (t := t) (x := x) (y := y) h.atWord rfl).trans
      (if_neg (by rw [hl]; exact Nat.succ_ne_zero n))
    rw [hl] at loop
    exact does_word h rfl loop

end Sys2Proof.Machine
end
